-- ==== Sys2Proof/Word.lean ====
section
/-!
DEFINITION. The word types of the model and their plainest arithmetic.
Byte order and field layouts are in Machine/Bytes.lean.
-/

namespace Sys2Proof

/-- One byte, as the spec's records and memory hold it. -/
abbrev Byte := BitVec 8

/-- A string of bytes, the first byte at the lowest address. -/
abbrev Bytes := List Byte

/-- The value of bit `n` of a number. -/
def bitOf (w n : Nat) : Bool := (w >>> n) % 2 == 1

/-- The field of `width` bits of a number that starts at bit `lo`. -/
def fieldOf (w lo width : Nat) : Nat := (w >>> lo) % 2 ^ width

/-- A truth value as a bit. -/
def ofBool (b : Bool) : Nat := if b then 1 else 0

/-- A counter of `width` bits that stops at its maximum (a saturating counter). -/
def satAdd (width n k : Nat) : Nat := min (n + k) (2 ^ width - 1)

end Sys2Proof
end

