-- ==== Sys2Proof/Syntax.lean ====
section
/-!
DEFINITION. The commands of the block: one constructor per row of spec/opcode_table.json, in its order.
The first operand `t` of every command is the GCNT tick at which it reaches the T-domain (R409; log 2).
What a port reads from host memory stands in the command that takes the data (log 3), and so do the facts
that only the outside knows (a self-test's result, entropy, the place of an error; log 6).
-/

namespace Sys2Proof

/-- R502: the instructions of the engine's TAP segment. -/
inductive TapInstr where
  | bypass | idcode | sample | extest | clamp | highz | hyReg | hyMem | hyTrace
deriving DecidableEq, Repr

/-- R103, R502: what a debug access of HY_MEM names: a tile's SRAM, a cell of a region's pool or of enclave memory, the frame
memory of a V-core, the unsealer buffers, a key slot. -/
inductive DebugUnit where
  | tileSram (id : BitVec 8)
  | poolCell (r : BitVec 3) (cell : Nat)
  | enclaveCell (cell : Nat)
  | frameMemory (core : BitVec 4)
  | unsealer
  | keySlot (label : BitVec 10)
deriving DecidableEq, Repr

/-- R502: the access that the segment makes under the instruction that then stands in it: of a register (HY_REG), or of
memory (HY_MEM). -/
inductive DebugAccess where
  | nothing
  | regRead (offset : BitVec 19) (width : Nat)
  | regWrite (offset : BitVec 19) (width : Nat) (value : BitVec 64)
  | memRead (unit_ : DebugUnit) (length : Nat)
  | memWrite (unit_ : DebugUnit) (data : Bytes)
deriving DecidableEq, Repr

/-- R57: what the grade certificate of this start says, and whether it verifies: the disabled slots are in
the layout of SIL_DISABLED. -/
structure CertFacts where
  ok : Bool
  grade : Nat
  stepLetter : Nat
  stepDigit : Nat
  disabled : BitVec 64
deriving DecidableEq, Repr

/-- What the Zoxon system and the die's root of trust deliver to the engine at start (R50, R57, R82, R481):
the grade certificate and the public keys, 97 bytes each, by SIGNER_ID. -/
structure StartFacts where
  cert : CertFacts
  imageKeys : List (Nat × Bytes)
  manifestKeys : List (Nat × Bytes)
  tokenKeys : List (Nat × Bytes)
deriving DecidableEq, Repr

/-- R433: the result of a region's self-test. -/
structure TestResult where
  m : BitVec 9
  s : BitVec 9
  vc : BitVec 2
  switchOk : Bool
  poolOk : Bool
  /-- R329: the M-group's generator gives the test vector. -/
  genOk : Bool
deriving DecidableEq, Repr

/-- R329, R433: the region passes: a failure of its switch, its spine link, its pool or its M-group's generator fails it. -/
def TestResult.ok (x : TestResult) : Bool := x.switchOk && x.poolOk && x.genOk

/-- R430: what resets the engine. -/
inductive ResetSource where
  | die
  | rails (mask : BitVec 4)
deriving DecidableEq, Repr

/-- R371: what a working buffer holds: the coefficients of a progressive image (R188), a picture of a video sample (R225), the
record of a completed sample (R262), a sample that waits at PACK (R262), a Spawn of a PACK job (R253), the encoded rows
of a Spawn in the seal fabric (R284, R299), or what a unit needs beside these. -/
inductive CellUse where
  | coefficients (job sample : Nat)
  | picture (job sample number : Nat)
  | record (job sample : Nat)
  | waiting (job sample : Nat)
  | spawn (job number : Nat)
  | encoded (spawn : Nat)
  | other
deriving DecidableEq, Repr

/-- R371: a request of a stage for cells: the region (none: the enclave pool, in cells of 64 KiB), the number of cells, the
label and generation they are for, the entry that they serve, and what they hold. -/
structure WorkRequest where
  region : Option (BitVec 3)
  cells : Nat
  label : BitVec 10
  gen : BitVec 8
  run : Nat
  use : CellUse
deriving DecidableEq, Repr

/-- R294: a residue mismatch of a pass: the row whose limb-row it meets, and whether its repeat mismatches too. -/
structure ResidueFault where
  row : Nat
  again : Bool
deriving DecidableEq, Repr

/-- R447: what an SRAM error is. -/
inductive SramError where
  | single | double
deriving DecidableEq, Repr

/-- R329: where a generator's parity error stands. -/
inductive GenUnit where
  | sTile (tile : BitVec 8)
  | mGroup (region : BitVec 3)
deriving DecidableEq, Repr

/-- R447, R449: an error of a tile, and whether the Moult succeeds if it marks the tile (R450). -/
structure TileFault where
  tile : BitVec 8
  moultOk : Bool
deriving DecidableEq, Repr

/-- R329: a generator's parity error, and whether the Moult of the tile it marks succeeds (R450). -/
structure GenFault where
  unit_ : GenUnit
  moultOk : Bool
deriving DecidableEq, Repr

/-- R298: a pass of a region's Seal, with the residue mismatches met in it (R294) and whether the Moult of a tile that it
marks succeeds (R450). -/
structure SealStep where
  region : BitVec 3
  residues : List ResidueFault
  moultOk : Bool
deriving DecidableEq, Repr

/-- R93, R98: the label whose erasure ends, and the tiles whose Moult failed in it. -/
structure ErasureResult where
  label : BitVec 10
  failed : List (BitVec 8)
deriving DecidableEq, Repr

/-- R398: how many runs of a PK job failed, and how many single-bit errors its memory corrected (R404). -/
structure PkRuns where
  failed : BitVec 2
  corrected : BitVec 16
deriving DecidableEq, Repr

/-- R502: the instruction shifted into the segment, and the access made under it. -/
structure TapScan where
  ins : TapInstr
  access : DebugAccess
deriving DecidableEq, Repr

/-- R454: a transfer that failed its CRC: resent with success after some failures, or failed for good. -/
structure LinkFailure where
  link : BitVec 8
  failures : Nat
deriving DecidableEq, Repr

/-- R455: what one pass of the auditor finds: how many bits it corrected, or a cell it cannot correct. -/
inductive AuditResult where
  | fixed (bits : Nat)
  | bad (cell : BitVec 12)
deriving DecidableEq, Repr

/-- R381: an error that a pseudo-channel returns. -/
inductive EccError where
  | corrected | uncorrectable
deriving DecidableEq, Repr

/-- R490: the transaction that the fabric answers with an error response: the read of a submission entry, of an admin
command's record, of the list of the entry at a queue's front or of what its checks read, of data of a running entry, of
a chunk (`sample` is its place in the job), the writes (`pkResult`: of what the PK engine's job posts, a SAVE_CONTEXT's context
image with it), and the message writes. -/
inductive PortTxn where
  | submission (q : BitVec 12)
  | adminRead
  | listFetch (q : BitVec 12)
  | listRead (serial : Nat)
  | chunk (job sample : Nat)
  | output (serial : Nat)
  | manifest (number : Nat)
  | pkResult
  | completion (q : BitVec 12)
  | flushBuffer
  | queueMessage (q : BitVec 12)
  | engineMessage
deriving DecidableEq, Repr

/-- Host memory as a command's reads find it: strings by address. -/
abbrev HostMem := List (Nat × Bytes)

/-- The commands and events of the block (spec/opcode_table.json). -/
inductive Instr where
  /-- CREATE_QUEUE (R128): Admin command that checks its operands and creates a work queue bound to a label, generation and class. -/
  | createQueue (t : Nat)
  /-- DESTROY_QUEUE (R130): Admin command that makes a DISABLED queue ABSENT, releasing its claims, seeds and buffers. -/
  | destroyQueue (t : Nat)
  /-- DISABLE_QUEUE (R129): Admin command that moves a queue to DISABLING; its untaken entries then complete with QUEUE_DISABLED. -/
  | disableQueue (t : Nat)
  /-- QUEUE_INVALIDATE (R113): Admin command that drops a queue's cached untaken entries and returns SQ head. -/
  | queueInvalidate (t : Nat)
  /-- LOAD_IMAGE (R51): Admin command that reads a structure image, runs the refusal checks in order and fills STAGED. -/
  | loadImage (t : Nat) (data : Bytes)
  /-- ACTIVATE_IMAGE (R53): Admin command that repeats the checks against the die and prepares the staged image for the switch, waiting for self-test if needed. -/
  | activateImage (t : Nat)
  /-- IMAGE_SWITCH (R54): All banks and shadows switch in one T-cycle: the staged image becomes ACTIVE, claims change and RWL fields lock. -/
  | imageSwitch (t : Nat)
  /-- RELOAD_MICROCODE (R58): Admin command that verifies a signed microcode record and writes it into the inactive bank of a role. -/
  | reloadMicrocode (t : Nat) (data : Bytes)
  /-- OPEN_MATTER (R84): Admin command that verifies a manifest, consumes an offer, unwraps the root secret, derives the keys and sends COUNTER. -/
  | openMatter (t : Nat) (manifest : Bytes)
  /-- CLOSE_MATTER (R96): Admin command that moves an OPEN label to CLOSING so that fetched entries drain before erasure. -/
  | closeMatter (t : Nat)
  /-- REVOKE_MATTER (R95): Admin command, accepted on being taken, that fences a matter and erases it at once. -/
  | revokeMatter (t : Nat)
  /-- LOAD_RING_PROFILE (R272): Admin command that checks a ring profile record and replaces a profile slot, computing the derived constants. -/
  | loadRingProfile (t : Nat) (data : Bytes)
  /-- LOAD_PUBLIC_KEY (R297): Admin command that checks an FHE public key against the profile and the manifest fingerprint and caches it. -/
  | loadPublicKey (t : Nat) (data : Bytes)
  /-- LOAD_DICTIONARY (R170): Admin command that checks a dictionary record and builds a new trie version in a dictionary slot. -/
  | loadDictionary (t : Nat) (data : Bytes)
  /-- PAUSE (R340): Admin command that stops a queue from taking entries once it reaches a step boundary. -/
  | pause (t : Nat)
  /-- PAUSE_BOUNDARY_REACHED (R336): A queue with a pending PAUSE reaches a step boundary; PAUSED sets and PAUSE completes. -/
  | pauseBoundaryReached (t : Nat) (q : BitVec 12)
  /-- SAVE_CONTEXT (R342): Admin command that writes the signed context of a paused queue. -/
  | saveContext (t : Nat)
  /-- RESTORE_CONTEXT (R343): Admin command that verifies a saved context and loads its seeds, counters and reference counts into a paused queue. -/
  | restoreContext (t : Nat) (data : Bytes)
  /-- ARM_LAUNCH (R337): Admin command that arms a GCNT comparator with a launch count. -/
  | armLaunch (t : Nat)
  /-- LAUNCH (R338): An armed comparator fires at GCNT ≥ T; launch-held queues leave their hold and ARM_LAUNCH completes. -/
  | launch (t : Nat) (n : BitVec 2)
  /-- CHORUS_CONFIG (R350): Admin command that attaches a Sync lane to a queue for Chorus with a partner die, or detaches it. -/
  | chorusConfig (t : Nat)
  /-- REPLAY_DIGEST (R349): Admin command that regenerates one stage output of a sample from a ledger record and writes only its digest. -/
  | replayDigest (t : Nat) (mem : HostMem)
  /-- PK_JOB (R394): Admin command that reads a PK job descriptor and its operands, checks them and queues the job. -/
  | pkJob (t : Nat) (desc operands : Bytes)
  /-- SIGN (R395): A PK job starts an ECDSA signature with deterministic k. -/
  | sign (t : Nat)
  /-- VERIFY (R395): A PK job starts an ECDSA verification. -/
  | verify (t : Nat)
  /-- KEYPAIR (R395): A PK job starts generating a key pair from root-of-trust entropy. -/
  | keypair (t : Nat) (entropy : Nat)
  /-- ECDH (R395): A PK job starts computing the x-coordinate of d·Q. -/
  | ecdh (t : Nat)
  /-- CURVE (R390): A PK job starts checking a curve record and loading it into a curve slot. -/
  | curve (t : Nat)
  /-- PK_JOB_END (R398): A PK job ends at start + D, or at start + 2·E after a rerun; job memory is moulted and the result and status are posted. `failedRuns`: the runs that fail (R400); `corrected`: the corrected errors of the engine's memory (R403). -/
  | pkJobEnd (t : Nat) (runs : PkRuns)
  /-- CLAIM (R526): Admin command that grants a shared resource to a queue. -/
  | claim (t : Nat)
  /-- RELEASE_CLAIM (R526): Admin command that releases a queue's claim on a shared resource. -/
  | releaseClaim (t : Nat)
  /-- RECORDER_CLEAR (R481): Admin command that checks a panel grant or a signed token and clears a clearable recorder channel. -/
  | recorderClear (t : Nat) (token : Bytes)
  /-- RECORDER_FLUSH (R478): Admin command that starts a recorder flush, or joins the running one. -/
  | recorderFlush (t : Nat)
  /-- REGION_OFFLINE (R466): Admin command that folds a named region. -/
  | regionOffline (t : Nat)
  /-- REGION_ONLINE (R467): Admin command that retests an out-of-service region and binds the active image's entries in it. -/
  | regionOnline (t : Nat) (result : TestResult)
  /-- TILE_RETIRE (R465): Admin command that retires a tile, by Leapfrog when the tile is bound. -/
  | tileRetire (t : Nat)
  /-- POOL_CONFIG (R382): Admin command that sets the pool class split, region watermarks and role watermarks. -/
  | poolConfig (t : Nat) (data : Bytes)
  /-- RUN_LIST (R118): Work entry, taken and checked, that reads and checks a command list and then runs it over a span of samples. -/
  | runList (t : Nat) (q : BitVec 12) (list : Bytes) (mem : HostMem)
  /-- FENCE (R118): Work entry that holds its queue until every earlier entry has completed. -/
  | fence (t : Nat) (q : BitVec 12)
  /-- NOP (R118): Work entry that completes with SUCCESS and does nothing else. -/
  | nop (t : Nat) (q : BitVec 12)
  /-- DESC (R136): List command that writes tensor descriptors into the list's slots. -/
  | desc (t : Nat) (e : Nat)
  /-- LOAD_SCB (R136): List command that writes an SCB into the list's context of a stage. -/
  | loadScb (t : Nat) (e : Nat)
  /-- WRITE_REG (R136): List command that writes one stage context word. -/
  | writeReg (t : Nat) (e : Nat)
  /-- START (R141): List command that snapshots a stage context and its descriptors and hands the job to the stage queue. -/
  | start (t : Nat) (e : Nat)
  /-- WAIT (R141): List command that blocks the list until the tagged job, or every job, has ended. -/
  | wait (t : Nat) (e : Nat)
  /-- END (R141): List command that ends the list once every job of the list has ended. -/
  | listEnd (t : Nat) (e : Nat)
  /-- STAGE_JOB_START (R143): A stage takes the next job from its queue, subject to the hazard order of R144, and deals it over its tiles. -/
  | stageJobStart (t : Nat) (job : Nat) (mem : HostMem)
  /-- JOB_END (R141): A stage job ends on all its tiles; a waiting list may resume. -/
  | jobEnd (t : Nat) (job : Nat)
  /-- SQ_TAIL_DOORBELL (R114): Write of TAIL to a queue's submission doorbell sets SQ tail and starts the entry fetch. -/
  | sqTailDoorbell (t : Nat) (q : BitVec 12) (value : BitVec 32)
  /-- REFETCH (R112): Doorbell write with REFETCH set drops the queue's untaken cached entries so they are read again. -/
  | refetch (t : Nat) (q : BitVec 12) (value : BitVec 32)
  /-- CQ_HEAD_DOORBELL (R132): Write of CQ_HEAD frees completion slots and re-arms the queue's interrupt vector. -/
  | cqHeadDoorbell (t : Nat) (q : BitVec 12) (value : BitVec 32)
  /-- ENTRY_FETCH (R111): Read data of posted submission entries returns from the Ingress port into the entry cache. -/
  | entryFetch (t : Nat) (q : BitVec 12) (data : Bytes)
  /-- COMPLETION_WRITE (R119): A completion is written to the completion ring once ring space exists and its outputs are acknowledged; CQ_TAIL advances. -/
  | completionWrite (t : Nat) (q : BitVec 12)
  /-- ADMIN_EN_WRITE (R124): Write of QG_CTL.ADMIN_EN enables the admin queue, or resets its indices when the queue is idle. -/
  | adminEnWrite (t : Nat) (value : BitVec 32)
  /-- SEED_COMMIT (R333): DET_SEED_CTL.COMMIT copies the staging buffer into the selected seed slot of a queue. -/
  | seedCommit (t : Nat) (value : BitVec 32)
  /-- SEED_CLEAR (R333): DET_SEED_CTL.CLEAR empties the selected seed slot. -/
  | seedClear (t : Nat) (value : BitVec 32)
  /-- RESUME (R341): Write of DET_Q_CTL.RESUME clears PAUSED so the queue takes entries again. -/
  | resume (t : Nat) (value : BitVec 32)
  /-- ALLOC (R370): Pool request that allocates a buffer in a region pool or in the enclave pool. -/
  | alloc (t : Nat) (value : BitVec 32)
  /-- SHARE (R372): Pool request that appends owners to a buffer and moves the free right. -/
  | share (t : Nat) (value : BitVec 32)
  /-- RELEASE (R373): Pool request that removes an owner from a buffer. -/
  | release (t : Nat) (value : BitVec 32)
  /-- FREE (R373): Pool request by the free right holder that returns or parks a buffer. -/
  | free (t : Nat) (value : BitVec 32)
  /-- POOL_CELL_GRANT (R371): A stage request waiting for cells is served once cells are freed. -/
  | poolCellGrant (t : Nat) (req : WorkRequest)
  /-- RETIRE (R381): Write of EMC_PC_CTL.RETIRE starts the retirement of a pseudo-channel. -/
  | retire (t : Nat) (value : BitVec 32)
  /-- PC_RETIRE_DONE (R381): The held cells of a retiring pseudo-channel have moved; it enters RETIRED. -/
  | pcRetireDone (t : Nat) (pc : BitVec 9) (lost : List Nat)
  /-- ENCLAVE_ECC_ERROR (R381): A corrected or uncorrectable error returned by a pseudo-channel is counted and may retire it. -/
  | enclaveEccError (t : Nat) (pc : BitVec 9) (err : EccError) (cell : Nat)
  /-- KEY_SLOT_CLEAR (R391): Write of PKE_KEY_CTL.CLEAR empties a host key slot, once any running job has ended. -/
  | keySlotClear (t : Nat) (value : BitVec 32)
  /-- ARM_RECORDER_CLEAR (R101): CUS_DC_REQ kind 0b01 arms a recorder-clear request for dual control. -/
  | armRecorderClear (t : Nat) (value : BitVec 32)
  /-- ARM_DEBUG_UNLOCK (R101): CUS_DC_REQ kind 0b10 arms a debug-unlock request for dual control. -/
  | armDebugUnlock (t : Nat) (value : BitVec 32)
  /-- RELOCK (R102): CUS_DC_REQ kind 0b11 relocks debug at once. -/
  | relock (t : Nat) (value : BitVec 32)
  /-- IDENT (R427): Mailbox query that returns the firmware version and restart count. -/
  | ident (t : Nat) (value : BitVec 32)
  /-- SELFTEST (R427): Mailbox query that returns a region's self-test results. -/
  | selftest (t : Nat) (value : BitVec 32)
  /-- STATS (R427): Mailbox query that returns the latest statistics snapshot. -/
  | stats (t : Nat) (value : BitVec 32)
  /-- HOST_VALUES_COMMIT (R435): Write of PWR_HOST_CTL.COMMIT applies the host's OPTIME and power-cycle count once per start. -/
  | hostValuesCommit (t : Nat) (value : BitVec 32)
  /-- FLUSH_ACK (R477): Write of ACK0 or ACK1 tells the engine that the host has copied a flush buffer. -/
  | flushAck (t : Nat) (value : BitVec 32)
  /-- WINDOW_LOAD (R479): Write of ERW_WIN_CTL.LOAD takes a snapshot of a recorder record at the cursor. -/
  | windowLoad (t : Nat) (value : BitVec 32)
  /-- REARM (R517): Write of INT_CTL.REARM re-arms the engine vector and sends a message at once if a source is pending. -/
  | rearm (t : Nat) (value : BitVec 32)
  /-- REGISTER_WRITE (R12): A write to a register that has no row of its own, following its access code, range rule and RWL lock. -/
  | registerWrite (t : Nat) (offset : BitVec 19) (width : Nat) (value : BitVec 64)
  /-- RC_READ (R16): A read of a register with RC fields returns them and clears them. -/
  | rcRead (t : Nat) (offset : BitVec 19) (width : Nat)
  /-- LOW_HALF_READ (R508): A 4-byte read of the low half of a 64-bit register latches its high half. -/
  | lowHalfRead (t : Nat) (offset : BitVec 19)
  /-- PRESENCE_ABSENT (R88): A filtered presence line reads absent; the slot's matters are fenced and a debounce window opens. -/
  | presenceAbsent (t : Nat) (slot : BitVec 3)
  /-- PRESENCE_PRESENT (R92): A filtered presence line reads present inside a window, and PROBE is sent. -/
  | presencePresent (t : Nat) (slot : BitVec 3)
  /-- DEBOUNCE_WINDOW_END (R91): A presence debounce window ends, and the slot's fenced matters enter ERASING. -/
  | debounceWindowEnd (t : Nat) (slot : BitVec 3)
  /-- ERASURE_END (R93): A matter's Moults finish; the label enters SCRUBBING, ERASED rises and waiting revoke or close commands complete. `failed`: the tiles whose SRAM Moult failed (R98). -/
  | erasureEnd (t : Nat) (result : ErasureResult)
  /-- BUTTON_CHANGE (R101): A dual-control button's filtered level changes. -/
  | buttonChange (t : Nat) (b pressed : Bool)
  /-- DUAL_CONTROL_ACT (R101): Both buttons have been held for 1 s, which serves or refuses the armed request. -/
  | dualControlAct (t : Nat)
  /-- DEBUG_UNLOCK_EXPIRY (R102): The debug unlock time runs out, and DBG_UNLOCKED clears. -/
  | debugUnlockExpiry (t : Nat)
  /-- PWR_FAIL_ASSERT (R443): Filtered PWR_FAIL_n asserts: all matters are fenced and erased, a flush begins and PF_LATCHED sets. -/
  | pwrFailAssert (t : Nat)
  /-- V_WARN_ENTRY (R442): The engine-wide supply level enters V_WARN, and a recorder flush begins. -/
  | vWarnEntry (t : Nat) (rail : BitVec 2)
  /-- V_INHIBIT_ENTRY (R442): The supply level enters V_INHIBIT, and non-volatile write commands are withheld. -/
  | vInhibitEntry (t : Nat) (rail : BitVec 2)
  /-- V_INHIBIT_EXIT (R478): The supply level leaves V_INHIBIT, and a waiting flush is issued. -/
  | vInhibitExit (t : Nat) (rail : BitVec 2)
  /-- RESET (R430): The die reset or a rail at V_RESET resets and holds the engine. -/
  | reset (t : Nat) (source : ResetSource)
  /-- RESET_RELEASE (R430): No reset source has held for 1 ms; reset is released and phase MOULT begins. -/
  | resetRelease (t : Nat)
  /-- START_MOULT_DONE (R431): All SRAM has been moulted after release; phase ROM begins. -/
  | startMoultDone (t : Nat) (facts : StartFacts)
  /-- K_CTL_DERIVED (R357): The EMC derives K_ctl from root-of-trust entropy, and CTL_KEY_OK sets. -/
  | kCtlDerived (t : Nat) (entropy : Bytes)
  /-- LOCK_WAIT_EXPIRY (R431): The 100 ms wait for GCNT lock in phase ROM runs out, and the start continues in holdover. -/
  | lockWaitExpiry (t : Nat)
  /-- ENCLAVE_TEST_END (R434): The enclave test ends; free cells and pseudo-channels in service are counted. -/
  | enclaveTestEnd (t : Nat) (failed : List Nat)
  /-- REGION_SELFTEST_END (R433): A region's self-test ends, passing or failing; the first region that binds becomes Basking's region. -/
  | regionSelftestEnd (t : Nat) (r : BitVec 3) (result : TestResult)
  /-- DIE_NUMBER_WORD (R491): The Sync port delivers this die's number. -/
  | dieNumberWord (t : Nat) (die : BitVec 32)
  /-- COUNT_WORD (R491): A Sync count word arrives and is compared with GCNT, which can lock it. -/
  | countWord (t : Nat) (count : BitVec 64)
  /-- TIMING_LOST (R408): System timing is lost; GCNT enters holdover on the local reference. -/
  | timingLost (t : Nat)
  /-- TIMING_RELOCK (R408): System timing returns; GCNT steps forward or holds, and then relocks. -/
  | timingRelock (t : Nat) (count : BitVec 64)
  /-- TIMER_TICK (R411): A claimed timer ticks at a multiple of its period. -/
  | timerTick (t : Nat) (i : BitVec 4)
  /-- FRAME_CLOCK_TICK (R230): A live frame clock ticks, re-reading the table entries of its live samples. -/
  | frameClockTick (t : Nat) (clock : BitVec 3) (mem : HostMem)
  /-- LIVE_TABLE_READ (R231): The 100 µs re-read of a live sample's table entry makes newly covered chunks available. -/
  | liveTableRead (t : Nat) (job sample : Nat) (mem : HostMem)
  /-- LIVE_WINDOW_END (R232): A live picture's window ends, and its late parts are concealed and counted. -/
  | liveWindowEnd (t : Nat) (job sample : Nat)
  /-- LIVE_PREEMPT (R234): A live job takes a core at the recorded job's next slice boundary. -/
  | livePreempt (t : Nat) (job : Nat)
  /-- LIVE_SLICE_OUT (R233): A live slice's decoded rows leave on the route. -/
  | liveSliceOut (t : Nat) (job sample : Nat)
  /-- CHUNK_READ (R87): A sealed chunk returns and is unsealed; a failed authentication voids the sample. -/
  | chunkRead (t : Nat) (job sample : Nat) (chunk : Bytes)
  /-- SAMPLE_START (R261): A lane takes its next sample and reads the first chunk, which opens its budget window. -/
  | sampleStart (t : Nat) (job : Nat) (chunk : Bytes)
  /-- SAMPLE_RETIRE (R262): A completed or voided sample retires from its job in global-index order through the reorder buffer. -/
  | sampleRetire (t : Nat) (job : Nat)
  /-- BUDGET_WINDOW_END (R261): A class S or F sample's budget window ends while its lane works; it is voided and counted. -/
  | budgetWindowEnd (t : Nat) (job sample : Nat)
  /-- WIN_DEADLINE_END (R258): A window deadline ends; the window packs and unretired samples move on. -/
  | winDeadlineEnd (t : Nat) (job : Nat)
  /-- ENCODE_SPAWN (R284): ENCODE takes a Spawn record whole and emits an encoded record with row digests. -/
  | encodeSpawn (t : Nat) (job : Nat)
  /-- SEAL_PASS (R298): An S-tile starts a limb pass over a batch, loading the key limb pair unless it is held. -/
  | sealPass (t : Nat) (pass : SealStep)
  /-- CIPHERTEXT_HEADER_WRITE (R306): Once all limbs are accepted, the sequencer writes the header and the row is sealed. -/
  | ciphertextHeaderWrite (t : Nat) (region : BitVec 3)
  /-- TADPOLE_LIMIT (R99): A Tadpole reaches its limit and Tail-drops its entry. -/
  | tadpoleLimit (t : Nat) (e sample : Nat)
  /-- BACKLOG_RESUME (R378): A consumer backlog falls below AMBER, and stalled producers resume. -/
  | backlogResume (t : Nat) (unit_ : Nat)
  /-- SEQUENCER_WATCHDOG_EXPIRY (R449): A tile sequencer watchdog expires, and the unit of work is retried or the tile marked. -/
  | sequencerWatchdogExpiry (t : Nat) (fault : TileFault)
  /-- MICROCODE_ECC_ERROR (R449): A microcode word with a double-bit error is refetched, and the unit retried. -/
  | microcodeEccError (t : Nat) (fault : TileFault)
  /-- SRAM_ERROR (R447): A tile SRAM error is corrected, or marks the tile when uncorrectable. -/
  | sramError (t : Nat) (tile : BitVec 8) (err : SramError) (moultOk : Bool)
  /-- LANE_PARITY_ERROR (R447): A lane parity error marks the tile. -/
  | laneParityError (t : Nat) (tile : BitVec 8) (moultOk : Bool)
  /-- GENERATOR_PARITY_ERROR (R329): A generator parity error marks an S-tile or folds the region. -/
  | generatorParityError (t : Nat) (fault : GenFault)
  /-- LEAPFROG_DONE (R451): The spare has redone the outstanding units; the region is in service. -/
  | leapfrogDone (t : Nat) (r : BitVec 3)
  /-- LINK_CRC_FAIL (R454): A switch or spine transfer fails its CRC and is resent, or causes a region fault. -/
  | linkCrcFail (t : Nat) (r : BitVec 3) (failure : LinkFailure)
  /-- AUDIT_PASS (R455): The pool auditor compares a region's bitmap with its buffer table. -/
  | auditPass (t : Nat) (r : BitVec 3) (result : AuditResult)
  /-- FOLD_DONE (R456): A Fold ends; the region is out of service. -/
  | foldDone (t : Nat) (r : BitVec 3)
  /-- SPINE_UNIT_FAULT (R459): A fault in a spine unit puts the engine into Halt-safe. -/
  | spineUnitFault (t : Nat)
  /-- STEWARD_WATCHDOG_EXPIRY (R423): The Steward watchdog expires, and the Steward restarts or the engine enters Halt-safe. -/
  | stewardWatchdogExpiry (t : Nat)
  /-- STEWARD_MEMORY_ERROR (R423): An uncorrectable Steward ROM or RAM error restarts the Steward. -/
  | stewardMemoryError (t : Nat) (rom : Bool)
  /-- STEWARD_RESTART_END (R424): The Steward runs again and settles the interrupted command and waiting repairs. -/
  | stewardRestartEnd (t : Nat)
  /-- LOAD_WINDOW_END (R421): A load-meter window ends, and shedding may begin or end. -/
  | loadWindowEnd (t : Nat) (busy : Nat)
  /-- STATS_SWEEP (R422): The periodic statistics sweep of counters runs. -/
  | statsSweep (t : Nat)
  /-- SCRUB_OVERWRITE (R375): The scrub engine overwrites a dirty enclave cell and frees it. -/
  | scrubOverwrite (t : Nat) (cell : Nat)
  /-- PATROL_SCRUB_READ (R377): The patrol scrub reads a cell and corrects single-bit errors. -/
  | patrolScrubRead (t : Nat) (cell : Nat) (corrected : Bool)
  /-- STACK_TEMPERATURE_REPORT (R494): A stack reports a temperature that shortens its refresh interval. -/
  | stackTemperatureReport (t : Nat) (stack : BitVec 3) (hot : Bool)
  /-- HELLO (R76): A HELLO frame from the panel is answered and followed by SESSION. -/
  | hello (t : Nat) (seq : Byte) (payload : Bytes)
  /-- OFFER (R528): An OFFER frame is judged and held pending, or refused with a NAK. -/
  | offer (t : Nat) (seq : Byte) (payload : Bytes)
  /-- PROBE_ACK (R92): A PROBE_ACK inside a window lifts the fence when its TOKEN_ID matches. -/
  | probeAck (t : Nat) (seq : Byte) (payload : Bytes)
  /-- COUNTER_ACK (R81): A COUNTER_ACK echoing the new counter lets the open reach OPEN. -/
  | counterAck (t : Nat) (seq : Byte) (payload : Bytes)
  /-- COUNTER_ACK_TIMEOUT (R81): No COUNTER_ACK arrives within 10 ms, and the open fails. -/
  | counterAckTimeout (t : Nat)
  /-- WINDOW_READ (R479): A WINDOW_READ frame is answered with WINDOW_DATA records from the cursor. -/
  | windowRead (t : Nat) (seq : Byte) (payload : Bytes)
  /-- ACK (R76): An ACK frame ends a wait for an answer and may set the link UP. -/
  | ack (t : Nat) (seq : Byte) (payload : Bytes)
  /-- NAK (R76): A NAK frame ends a wait for an answer, or triggers a resend for reason CRC. -/
  | nak (t : Nat) (seq : Byte) (payload : Bytes)
  /-- CUSTODY_FRAME_CRC_ERROR (R74): A received frame fails its CRC and is answered with NAK reason CRC. -/
  | custodyFrameCrcError (t : Nat) (type seq : Byte)
  /-- FRAME_RESEND (R76): An answer wait ends without an answer; the frame is resent, or the link goes down after three resends. -/
  | frameResend (t : Nat) (seq : Byte)
  /-- CHORUS_MESSAGE (R351): A Sync-lane frame carrying a Chorus point arrives and is matched and compared. -/
  | chorusMessage (t : Nat) (lane : Bool) (frame : Bytes)
  /-- CHORUS_MISSING_TIMEOUT (R352): No partner point arrives within 100 ms, giving a MISSING divergence. -/
  | chorusMissingTimeout (t : Nat) (lane : Bool)
  /-- PORT_ERROR_RESPONSE (R490): The fabric answers a port transaction with an error response. -/
  | portErrorResponse (t : Nat) (txn : PortTxn)
  /-- TAP_INSTRUCTION (R502): An instruction loads into the engine's TAP segment and is allowed or replaced by BYPASS; then the segment makes its access. -/
  | tapInstruction (t : Nat) (scan : TapScan)
  /-- FLUSH_END (R477): A flush has written its records and header; FLUSH_DONE sets and a pending flush may start. -/
  | flushEnd (t : Nat)
  /-- FRAME_LEN_EXCEEDED (R74): A custody frame whose LEN exceeds 1,024 is not answered, and the receiver returns to hunting for SYNC. -/
  | frameLenExceeded (t : Nat)
  /-- DUAL_CONTROL_WINDOW_END (R101): The 10 s window of an armed dual-control request ends; the request lapses and an unused clear grant is withdrawn. -/
  | dualControlWindowEnd (t : Nat)
  /-- V_WARN_EXIT (R441): Every rail stays at or above V_WARN plus 1 % for 10 µs, and the engine-wide level leaves V_WARN. -/
  | vWarnExit (t : Nat) (rails : BitVec 4)
  /-- PWR_FAIL_DEASSERT (R504): Filtered PWR_FAIL_n deasserts in service; PWR_STAT.PF clears and the engine runs on with PF_LATCHED still set. -/
  | pwrFailDeassert (t : Nat)
  /-- CE_WINDOW_END (R381): A corrected-error window of 3.6×10^12 GCNT ticks ends and each pseudo-channel's CE_WINDOW count starts again. -/
  | ceWindowEnd (t : Nat)
  /-- CRC_WINDOW_END (R454): A one-second CRC window of a switch or spine link ends and its failure count starts again. -/
  | crcWindowEnd (t : Nat) (r : BitVec 3)
deriving DecidableEq, Repr

end Sys2Proof
end

