-- ==== Sys2Proof/Config.lean ====
section
/-!
DEFINITION. The free values of the model: what the spec leaves open or takes from a standard that it does
not repeat. Each is an opaque constant with no body, so that no proof can see a value of it. The assumption
log names each of them.
-/

namespace Sys2Proof.Config

/-- R390: the base of a Miller–Rabin round, drawn from the record's digest (log 15). -/
opaque mrBase : (digest n round : Nat) → Nat

/-- R490: the argument of the OPS record that names a queue and the number of completions discarded; the
spec gives the record one four-byte argument and not how it names both (log 21). -/
opaque discardArg : (queue number : Nat) → Nat

/-- R482: the highest SEQ discarded by a clear that discards no record (log 22). -/
opaque highestOfNone : (channel : Nat) → Nat

/-- R484: ERW_WIN_SEQ while the snapshot holds no record (log 22). -/
opaque emptyWinSeq : (cursor : Nat) → Nat

/-- R45, R62: what an instruction of microcode does to loops: a loop start or its end names a level, and a move writes a count
register; the rest do nothing to them. -/
inductive SeqOp where
  | start (level : Nat)
  | stop (level : Nat)
  | move (level count : Nat)
  | other
deriving DecidableEq, Repr

/-- R45: the loader's decoding of microcode, none where it does not decode. The spec gives no instruction encoding (log 23). -/
opaque microcode : (code : Bytes) → Option (List SeqOp)

/-- R62: the instructions that a tile's sequencer runs in a unit of work that is done at a tick (log 59). -/
opaque seqSteps : (tile tick : Nat) → Nat

/-- R436: the Basking image of region `b`: its digest, the code of each role, and its routes as (SRC, DST,
STREAM, live, RATE); the ROM's contents are not in the spec (log 24). -/
opaque baskingDigest : (b : Nat) → Bytes
opaque baskingCode : (role : Nat) → Bytes
opaque baskingRoutes : (b : Nat) → List (Nat × Nat × Nat × Bool × Nat)

/-- R440, R470: HALT_CAUSE when region b folds and no other region takes the Basking image; the table of causes
names none for it (log 25). -/
opaque haltCauseNoBask : Nat → Nat

/-- R408, R473: the two counts in the record of a timing loss, where no counts are compared, and the kind in the
record of a relock at which the counts are equal (log 27). -/
opaque lostCounts : (tick : Nat) → Nat × Nat
opaque equalKind : (tick : Nat) → Nat

/-- R416, R427: the digest of the Steward's ROM and its firmware version (log 28). -/
opaque romDigest : Nat → Byte
opaque firmwareVersion : Nat → Nat

/-- R75, R78: the certificate of the session key that the root of trust makes, at most 768 bytes; its format is
not in the spec (log 29). -/
opaque sessionCert : (pub : Bytes) → Bytes

/-- R343: whether a session key's certificate verifies to the die's root of trust (log 29). -/
opaque certValid : (pub cert : Bytes) → Bool

/-- R427: the pseudo-channels of a region's stacks among the retired ones; the spec does not say which stacks
are a region's (log 30). -/
opaque regionRetired : (region : Nat) → (retired : List Nat) → Nat

/-- R367, R148: a byte of a buffer, and a byte of a tile's scratch, that nothing has written; the spec gives no
contents (log 31). -/
opaque bufferByte : (serial offset : Nat) → Byte
opaque scratchByte : (entry stage offset : Nat) → Byte

/-- R166: the character data of Unicode 15.1.0 by code point: the canonical combining class, the full canonical (or, with
`compat`, compatibility) decomposition of a code point other than a Hangul syllable, the primary composite of a pair, and the full case
folding of status C and F. The standard's tables are not in the spec (log 32). -/
opaque combiningClass : Nat → Nat
opaque decomposition : (compat : Bool) → Nat → List Nat
opaque primaryComposite : Nat → Nat → Option Nat
opaque foldCase : Nat → List Nat

/-- R189: a sample of the entry of a palette index beyond PLTE, for which ISO/IEC 15948 names no colour (log 34). -/
opaque paletteHole : (index channel : Nat) → Nat

/-- R188: the chroma filter for a subsampling other than 2; the rule gives its weights for 2 alone (log 35). -/
opaque chromaOther : (h hmax pos : Nat) → (line : List Int) → Int

/-- R198: DETAIL of a sample whose shape disagrees with its pre-pass and that meets no condition of R199 (log 36). -/
opaque disagreeDetail : (entry sample : Nat) → Nat

/-- The sample arrays of a picture, in raster order. -/
structure Planes where
  y : Array Nat
  cb : Array Nat
  cr : Array Nat
deriving Inhabited

/-- A CTU or macroblock that a slice codes (log 34): its raster address; its CABAC bins or CAVLC bits; whether it decodes, and
whether it ends the slice; the reference entries it names, as (list, index); its samples before the in-loop filters;
per 4 by 4 luma sub-block the motion vectors used and whether it is intra coded; and its luma transform blocks within
the picture as (x, y, size, sum of coefficient levels). -/
structure CodedUnit where
  addr : Nat
  bins : Nat
  good : Bool
  last : Bool
  refs : List (Nat × Nat)
  y : List Nat
  cb : List Nat
  cr : List Nat
  motion : List (List (Int × Int))
  intra : List Bool
  levels : List (Nat × Nat × Nat × Nat)
deriving Inhabited

/-- R215, R226: the slice data of H.264 (`codec` 0) and HEVC (1), decoded unit by unit in decoding order, which the spec takes
from those standards: from the parameter sets, the NAL unit, the pictures and motion of lists 0 and 1, and the units of
the picture decoded before it. -/
opaque sliceUnits : (codec : Nat) → (sps pps nal : List Byte) → (list0 list1 : List (Planes × List CodedUnit)) →
  (before : List CodedUnit) → List CodedUnit

/-- R215: the in-loop filters of the two standards over the decoded units of a picture. -/
opaque inLoop : (codec : Nat) → (sps pps : List Byte) → List CodedUnit → Planes → Planes

/-- R235, R236: a sample that VENC codes beyond the edges of a picture whose size is no multiple of 8 (log 76). -/
opaque encPad : (x y : Nat) → Nat

/-- R236, R237: HEVC's intra prediction of a square of luma, and its reconstruction: the samples of a CU after residual coding,
and the picture after deblocking, which the spec takes from the standard (log 76). `choice`: its kind, mode or vector. -/
opaque intraPred : (mode x y size : Nat) → (recon : Planes) → List Nat
opaque encRecon : (qp x y size : Nat) → (choice : List Int) → (source ref recon : Planes) → List Nat × List Nat × List Nat
opaque encDeblock : (qp width height : Nat) → (choices : List (List Int)) → Planes → Planes

/-- R235: the access unit of a picture from the choices of its CUs (log 76). `params` are QP_I, QP_P, GOP, SLICES, the picture's
number in its sample, its width and height. -/
opaque accessUnit : (params : List Nat) → (choices : List (List Int)) → (source ref : Planes) → List Byte

/-- R490 and other rules that add an OPS record under code 0x02FF: its argument, where the rule names none (log 42). -/
opaque ruleArg : (rule tick : Nat) → Nat

/-- R351, R352: the local tile that produced a point; the rules deal samples and rows over tiles without saying
which goes where (log 43). -/
opaque pointTile : (entry stage index : Nat) → Nat

/-- R207, R222: Cb and Cr of a native picture without chroma where PYRAMID passes three channels on (log 38). -/
opaque absentChroma : (channel : Nat) → Nat

/-- R213: how many bands of a picture the tiles had summed when a Fold changed their number (log 75). -/
opaque bandsBefore : (entry sample : Nat) → Nat

/-- R143, R378: the unit among those of a stage to which a record of a job is dealt (log 43). -/
opaque dealtTo : (job record : Nat) → Nat

/-- R195, R235: the bytes of an image record whose values are of a plane dtype, and of the record of a voided VENC
sample; the spec gives them no form (log 44). -/
opaque planeRecord : (index depth : Nat) → (values : List Nat) → List Byte
opaque vencVoidRecord : (index reason detail : Nat) → List Byte

/-- R158: what a COPY job takes from a stream, and what it sends on one; the spec gives the records no form (log 44). -/
opaque copyIn : (entry place position : Nat) → Nat
opaque copyOut : (entry place sample : Nat) → List Nat

/-- R160, R448: block `block` of a COPY job is written when its entry is Tail dropped (log 72). -/
opaque copyDone : (entry place block : Nat) → Bool

/-- R253: FIRST_ROW of a Spawn without plan rows (log 52). -/
opaque emptyFirstRow : (entry place : Nat) → Nat

/-- R56: the section type and the entry of a refusal for which the rules name none (log 45). -/
opaque openSection : (reason : Nat) → BitVec 8
opaque openEntry : (reason : Nat) → BitVec 16

/-- R369: how long a buffer request stays busy; the rule bounds it by 2 µs plus 1 ns per cell (log 8). -/
opaque poolTime : (tick cells : Nat) → Nat

/-- R75: whether a STATUS frame is sent at a moment at which it may be (log 67). -/
opaque statusSent : Nat → Bool

/-- R81: the new counter of an offer whose token counter is 2^64 − 1 (log 67). -/
opaque counterPastMax : Nat → BitVec 64

/-- R19, R359: the unit that issued a discarded access, and the bytes that a stage finds where the EMC returned none (log 69). -/
opaque unitOf : (label handle : Nat) → Nat
opaque noData : (handle offset : Nat) → Byte

/-- R103: what an HY_MEM read finds in memory that holds no label (log 68). -/
opaque debugBytes : (draw length : Nat) → List Byte

end Sys2Proof.Config
end

