-- ==== Sys2Proof/Machine/Bytes.lean ====
section
/-!
DEFINITION. Byte strings: byte order, fields of records, padding, slices.
R-numbers in this model are the rules of spec/. Byte order in memory is little-endian unless a
field states otherwise (00_scope.md, Table of notation).
-/

namespace Sys2Proof.Machine

/-- The number a little-endian byte string spells. -/
def leNat : Bytes → Nat
  | [] => 0
  | b :: bs => b.toNat + 256 * leNat bs

/-- The big-endian reading, most significant byte first, on top of what was read before. -/
def beNatFrom (acc : Nat) : Bytes → Nat
  | [] => acc
  | b :: bs => beNatFrom (acc * 256 + b.toNat) bs

/-- The number a big-endian byte string spells. -/
def beNat (bs : Bytes) : Nat := beNatFrom 0 bs

/-- `n` bytes of a number, least significant first. -/
def leBytes : Nat → Nat → Bytes
  | 0, _ => []
  | n + 1, v => BitVec.ofNat 8 v :: leBytes n (v / 256)

/-- `n` bytes of a number, most significant first. -/
def beBytes (n v : Nat) : Bytes := (leBytes n v).reverse

/-- `len` bytes from offset `off`; bytes past the end are missing. -/
def slice (bs : Bytes) (off len : Nat) : Bytes := (bs.drop off).take len

/-- The little-endian field of `len` bytes at offset `off`. -/
def leAt (bs : Bytes) (off len : Nat) : Nat := leNat (slice bs off len)

/-- The big-endian field of `len` bytes at offset `off`. -/
def beAt (bs : Bytes) (off len : Nat) : Nat := beNat (slice bs off len)

/-- `n` zero bytes. -/
def zeroBytes (n : Nat) : Bytes := List.replicate n 0

/-- A byte string cut or filled with zeros at its end to `n` bytes. -/
def padTo (n : Nat) (bs : Bytes) : Bytes := bs.take n ++ zeroBytes (n - bs.length)

/-- All bytes are zero. -/
def allZero : Bytes → Bool
  | [] => true
  | b :: bs => b == 0 && allZero bs

/-- The exclusive or of two strings, as long as the shorter. -/
def xorBytes (a b : Bytes) : Bytes := List.zipWith (· ^^^ ·) a b

/-- A string cut into pieces of `n` bytes; `fuel` bounds the number of pieces. -/
def chunksFuel (n : Nat) : Nat → Bytes → List Bytes
  | 0, _ => []
  | fuel + 1, bs => if bs.isEmpty then [] else bs.take n :: chunksFuel n fuel (bs.drop n)

/-- A string cut into pieces of `n` bytes, the last as long as what is left. -/
def chunks (n : Nat) (bs : Bytes) : List Bytes := chunksFuel n (bs.length / (max n 1) + 1) bs

/-- The little-endian words of `n` bytes each of a string. -/
def leWords (n : Nat) (bs : Bytes) : List Nat := (chunks n bs).map leNat

/-- The big-endian words of `n` bytes each of a string. -/
def beWords (n : Nat) (bs : Bytes) : List Nat := (chunks n bs).map beNat

/-- A two's complement reading of a `width`-bit number. -/
def signedOf (width w : Nat) : Int :=
  if w % 2 ^ width < 2 ^ (width - 1) then (w % 2 ^ width : Nat) else (w % 2 ^ width : Nat) - (2 ^ width : Nat)

/-- The `width`-bit two's complement word of an integer. -/
def wordOf (width : Nat) (i : Int) : Nat := (i % (2 ^ width : Nat)).toNat

/-- Bytes of an ASCII string (used for the constant labels that the spec spells in text). -/
def asciiBytes (s : String) : Bytes := s.toList.map fun c => BitVec.ofNat 8 c.toNat

/-- A length rounded up to 64. -/
def up64 (n : Nat) : Nat := (n + 63) / 64 * 64

end Sys2Proof.Machine
end

