-- ==== Sys2Proof/Machine/Hash.lean ====
section
/-!
DEFINITION. SHA-256, SHA-384 and SHA-512, HMAC and HKDF, written from FIPS 180-4, RFC 2104 and
RFC 5869, which the spec names (00_scope.md, Table of standards; R85, R78).
PRESUMED (log 14): the functions are taken from those standards, which the spec cites and does not repeat.
-/

namespace Sys2Proof.Machine

/-- The shape of one SHA-2 hash: word width in bits, block length in bytes, round constants, start
value, output length in bytes, and the six rotation amounts with the two shifts. -/
structure Sha where
  width : Nat
  block : Nat
  consts : List Nat
  start : List Nat
  out : Nat
  /-- (S0, S1, s0, s1): three amounts each; the third of s0 and s1 is a shift. -/
  rots : List Nat
deriving DecidableEq, Repr

/-- The greatest `x` with `x ^ k ≤ n`, its bits found from bit `b - 1` down. -/
def rootFrom (k n : Nat) : Nat → Nat → Nat
  | 0, x => x
  | b + 1, x => rootFrom k n b (if (x + 2 ^ b) ^ k ≤ n then x + 2 ^ b else x)

/-- FIPS 180-4: the first `w` bits of the fractional part of the `k`-th root of `p`. -/
def rootBits (w k p : Nat) : Nat := rootFrom k (p * 2 ^ (k * w)) (w + 5) 0 % 2 ^ w

/-- The first `n` primes from `p` on, for primes below 441 (`fuel` bounds the numbers tried). -/
def primesFrom : Nat → Nat → Nat → List Nat
  | 0, _, _ => []
  | _, 0, _ => []
  | fuel + 1, n + 1, p =>
    if (List.range 19).all (fun d => decide (p ≤ d + 2) || p % (d + 2) != 0) then p :: primesFrom fuel n (p + 1)
    else primesFrom fuel (n + 1) (p + 1)

/-- FIPS 180-4 section 4.2: a hash's round constants are the cube roots of the first `n` primes. -/
def shaConsts (w n : Nat) : List Nat := (primesFrom 420 n 2).map (rootBits w 3)

/-- FIPS 180-4 section 5.3: its start value is the square roots of eight of the first sixteen primes. -/
def shaStart (w skip : Nat) : List Nat := ((primesFrom 60 16 2).drop skip |>.take 8).map (rootBits w 2)

/-- SHA-256. -/
def sha256Shape : Sha :=
  .mk 32 64 (shaConsts 32 64) (shaStart 32 0) 32 [2, 13, 22, 6, 11, 25, 7, 18, 3, 17, 19, 10]

/-- SHA-512. -/
def sha512Shape : Sha :=
  .mk 64 128 (shaConsts 64 80) (shaStart 64 0) 64 [28, 34, 39, 14, 18, 41, 1, 8, 7, 19, 61, 6]

/-- SHA-384: the machine of SHA-512 from the ninth prime's roots on, cut to 48 bytes. -/
def sha384Shape : Sha := { sha512Shape with start := shaStart 64 8, out := 48 }

/-- Rotation right of a `w`-bit word. -/
def rotr (w x n : Nat) : Nat := (x >>> n) ||| ((x <<< (w - n)) % 2 ^ w)

/-- The sum of three rotations, selected from the amounts at `i`. -/
def shaBig (h : Sha) (i x : Nat) : Nat :=
  rotr h.width x (h.rots.getD i 0) ^^^ rotr h.width x (h.rots.getD (i + 1) 0) ^^^
    rotr h.width x (h.rots.getD (i + 2) 0)

/-- Two rotations and a shift, selected from the amounts at `i`. -/
def shaSmall (h : Sha) (i x : Nat) : Nat :=
  rotr h.width x (h.rots.getD i 0) ^^^ rotr h.width x (h.rots.getD (i + 1) 0) ^^^
    (x >>> h.rots.getD (i + 2) 0)

/-- The working words as two histories, newest first: those of the variable that the standard calls a (a, b, c, d) and
of the one that it calls e (e, f, g, h); and the sixteen words of the schedule ahead. -/
structure ShaWork where
  upper : List Nat
  lower : List Nat
  ahead : List Nat
deriving DecidableEq, Repr

/-- One round: each history and the schedule gains a word and loses its oldest. -/
def ShaWork.next (h : Sha) (s : ShaWork) (k : Nat) : ShaWork :=
  let x (i : Nat) := s.upper.getD i 0
  let y (i : Nat) := s.lower.getD i 0
  let w (i : Nat) := s.ahead.getD i 0
  let choose := (y 0 &&& (y 1 ^^^ y 2)) ^^^ y 2
  let most := (x 0 &&& x 1) ||| (x 2 &&& (x 0 ||| x 1))
  let gain := y 3 + shaBig h 3 (y 0) + choose + k + w 0
  let word := w 0 + shaSmall h 6 (w 1) + w 9 + shaSmall h 9 (w 14)
  { upper := (gain + shaBig h 0 (x 0) + most) % 2 ^ h.width :: s.upper.take 3,
    lower := (x 3 + gain) % 2 ^ h.width :: s.lower.take 3,
    ahead := s.ahead.drop 1 ++ [word % 2 ^ h.width] }

/-- The compression of one block. -/
def shaBlock (h : Sha) (v : List Nat) (block : Bytes) : List Nat :=
  let s := h.consts.foldl (ShaWork.next h) ⟨v.take 4, v.drop 4, beWords (h.width / 8) block⟩
  List.zipWith (fun a b => (a + b) % 2 ^ h.width) v (s.upper ++ s.lower)

/-- The padding of a message of `n` bytes. -/
def shaPad (h : Sha) (n : Nat) : Bytes :=
  let lenBytes := h.block / 8
  0x80 :: zeroBytes ((h.block - (n + 1 + lenBytes) % h.block) % h.block) ++ beBytes lenBytes (8 * n)

/-- The hash of a message. -/
def shaHash (h : Sha) (msg : Bytes) : Bytes :=
  (((chunks h.block (msg ++ shaPad h msg.length)).foldl (shaBlock h) h.start).flatMap
    (beBytes (h.width / 8))).take h.out

/-- SHA-256 of a message, 32 bytes. -/
def sha256 (msg : Bytes) : Bytes := shaHash sha256Shape msg
/-- SHA-384 of a message, 48 bytes. -/
def sha384 (msg : Bytes) : Bytes := shaHash sha384Shape msg

/-- HMAC (RFC 2104) over one of the hashes. -/
def hmac (h : Sha) (key msg : Bytes) : Bytes :=
  let k := padTo h.block (if h.block < key.length then shaHash h key else key)
  let ipad := k.map (· ^^^ 0x36)
  let opad := k.map (· ^^^ 0x5c)
  shaHash h (opad ++ shaHash h (ipad ++ msg))

/-- The blocks T(i), T(i+1), … of HKDF-Expand. -/
def hkdfBlocks (h : Sha) (prk info : Bytes) : Nat → Nat → Bytes → Bytes
  | 0, _, _ => []
  | n + 1, i, prev =>
    let t := hmac h prk (prev ++ info ++ [BitVec.ofNat 8 i])
    t ++ hkdfBlocks h prk info n (i + 1) t

/-- HKDF (RFC 5869): Extract with `salt` and then Expand to `len` bytes. -/
def hkdf (h : Sha) (salt ikm info : Bytes) (len : Nat) : Bytes :=
  let prk := hmac h (if salt.isEmpty then zeroBytes h.out else salt) ikm
  (hkdfBlocks h prk info ((len + h.out - 1) / h.out) 1 []).take len

/-- HKDF-SHA-384. -/
def hkdf384 (salt ikm info : Bytes) (len : Nat) : Bytes := hkdf sha384Shape salt ikm info len

end Sys2Proof.Machine
end

