-- ==== Sys2Proof/Machine/Curve.lean ====
section
/-!
DEFINITION. Elliptic curves over prime fields and the PK operations (15_pk_engine.md, R388 to R397):
curve records and their checks, ECDSA with the deterministic k of RFC 6979, ECDH, key pairs.
PRESUMED (log 14): the algorithms are those of FIPS 186-5 and RFC 6979, which the spec names.
-/

namespace Sys2Proof.Machine

/-- A short Weierstrass curve y² = x³ + a·x + b over GF(p) with its generator, order and cofactor (R389). -/
structure Curve where
  fbits : Nat
  h : Nat
  p : Nat
  a : Nat
  b : Nat
  gx : Nat
  gy : Nat
  n : Nat
deriving DecidableEq, Repr

/-- A point: none is the point at infinity O. -/
abbrev Point := Option (Nat × Nat)

/-- Jacobian coordinates; z = 0 is O. -/
structure Jac where
  x : Nat
  y : Nat
  z : Nat
deriving DecidableEq, Repr

/-- The power by the bits of `e`, from bit `n - 1` down. -/
def powModGo (m b e : Nat) : Nat → Nat → Nat
  | 0, acc => acc
  | n + 1, acc => powModGo m b e n (if bitOf e n then acc * acc % m * b % m else acc * acc % m)

/-- The bit length of a number. -/
def bitLen (n : Nat) : Nat := if n == 0 then 0 else Nat.log2 n + 1

/-- b^e mod m. -/
def powMod (m b e : Nat) : Nat := powModGo m (b % m) e (bitLen e) (1 % m)

/-- The inverse modulo a prime, by Fermat. -/
def invMod (p a : Nat) : Nat := powMod p a (p - 2)

/-- Subtraction modulo p of numbers below p. -/
def subMod (p a b : Nat) : Nat := (a + (p - b % p)) % p

/-- Doubling. -/
def jacDouble (c : Curve) (P : Jac) : Jac :=
  let p := c.p
  let yy := P.y * P.y % p
  let s := 4 * P.x * yy % p
  let zz := P.z * P.z % p
  let m := (3 * P.x * P.x + c.a * (zz * zz % p)) % p
  let x' := subMod p (m * m) (2 * s)
  .mk x' (subMod p (m * subMod p s x') (8 * (yy * yy % p))) (2 * P.y * P.z % p)

/-- Addition, complete for every pair of points. -/
def jacAdd (c : Curve) (P Q : Jac) : Jac :=
  let p := c.p
  if P.z % p == 0 then Q else if Q.z % p == 0 then P else
  let z1 := P.z * P.z % p
  let z2 := Q.z * Q.z % p
  let u1 := P.x * z2 % p
  let u2 := Q.x * z1 % p
  let s1 := P.y * Q.z % p * z2 % p
  let s2 := Q.y * P.z % p * z1 % p
  if u1 == u2 then
    if s1 == s2 then jacDouble c P else .mk 1 1 0
  else
    let h := subMod p u2 u1
    let r := subMod p s2 s1
    let h2 := h * h % p
    let h3 := h * h2 % p
    let v := u1 * h2 % p
    let x3 := subMod p (subMod p (r * r) h3) (2 * v)
    .mk x3 (subMod p (r * subMod p v x3) (s1 * h3)) (h * P.z % p * Q.z % p)

/-- Multiplication by the bits of `k`, from bit `n - 1` down. -/
def jacMulGo (c : Curve) (k : Nat) (P : Jac) : Nat → Jac → Jac
  | 0, acc => acc
  | n + 1, acc =>
    jacMulGo c k P n (if bitOf k n then jacAdd c (jacDouble c acc) P else jacDouble c acc)

/-- A point in Jacobian coordinates. -/
def toJac : Point → Jac
  | none => .mk 1 1 0
  | some (x, y) => .mk x y 1

/-- A point in affine coordinates. -/
def toAffine (c : Curve) (P : Jac) : Point :=
  if P.z % c.p == 0 then none
  else
    let zi := invMod c.p P.z
    let zi2 := zi * zi % c.p
    some (P.x * zi2 % c.p, P.y * zi2 % c.p * zi % c.p)

/-- k·P. -/
def pointMul (c : Curve) (k : Nat) (P : Point) : Point :=
  toAffine c (jacMulGo c k (toJac P) (bitLen k) (.mk 1 1 0))

/-- The generator. -/
def Curve.gen (c : Curve) : Point := some (c.gx, c.gy)

/-- u1·G + u2·Q. -/
def pointMul2 (c : Curve) (u1 u2 : Nat) (Q : Point) : Point :=
  toAffine c (jacAdd c (jacMulGo c u1 (toJac c.gen) (bitLen u1) (.mk 1 1 0))
    (jacMulGo c u2 (toJac Q) (bitLen u2) (.mk 1 1 0)))

/-- The curve equation. -/
def onCurve (c : Curve) (x y : Nat) : Bool :=
  y * y % c.p == (x * x % c.p * x + c.a * x + c.b) % c.p

/-- A public point that R397 accepts: finite, coordinates below p, on the curve, and of order n when h > 1. -/
def pointValid (c : Curve) : Point → Bool
  | none => false
  | some (x, y) =>
    decide (x < c.p) && decide (y < c.p) && onCurve c x y &&
      (decide (c.h ≤ 1) || (pointMul c c.n (some (x, y))).isNone)

/-! ### The ROM curves (R388), from FIPS 186-5 -/

/-- P-256, curve slot 0. -/
def curveP256 : Curve :=
  .mk 256 1 0xffffffff00000001000000000000000000000000ffffffffffffffffffffffff
    0xffffffff00000001000000000000000000000000fffffffffffffffffffffffc
    0x5ac635d8aa3a93e7b3ebbd55769886bc651d06b0cc53b0f63bce3c3e27d2604b
    0x6b17d1f2e12c4247f8bce6e563a440f277037d812deb33a0f4a13945d898c296
    0x4fe342e2fe1a7f9b8ee7eb4a7c0f9e162bce33576b315ececbb6406837bf51f5
    0xffffffff00000000ffffffffffffffffbce6faada7179e84f3b9cac2fc632551

/-- P-384, curve slot 1. -/
def curveP384 : Curve :=
  .mk 384 1
    0xfffffffffffffffffffffffffffffffffffffffffffffffffffffffffffffffeffffffff0000000000000000ffffffff
    0xfffffffffffffffffffffffffffffffffffffffffffffffffffffffffffffffeffffffff0000000000000000fffffffc
    0xb3312fa7e23ee7e4988e056be3f82d19181d9c6efe8141120314088f5013875ac656398d8a2ed19d2a85c8edd3ec2aef
    0xaa87ca22be8b05378eb1c71ef320ad746e1d3b628ba79b9859f741e082542a385502f25dbf55296c3a545e3872760ab7
    0x3617de4a96262c6f5d9e98bf9292dc29f8f41dbd289a147ce9da3113b5f0b8c00a60b1ce1d7e819d7a431d7c90ea0e5f
    0xffffffffffffffffffffffffffffffffffffffffffffffffc7634d81f4372ddf581a0db248b0a77aecec196accc52973

/-- P-521, curve slot 2. -/
def curveP521 : Curve :=
  .mk 521 1 (2 ^ 521 - 1) (2 ^ 521 - 4)
    0x0051953eb9618e1c9a1f929a21a0b68540eea2da725b99b315f3b8b489918ef109e156193951ec7e937b1652c0bd3bb1bf073573df883d2c34f1ef451fd46b503f00
    0x00c6858e06b70404e9cd9e3ecb662395b4429c648139053fb521f828af606b4d3dbaa14b5e77efe75928fe1dc127a2ffa8de3348b3c1856a429bf97e7e31c2e5bd66
    0x011839296a789a3bc0045c8a5fb42c7d1bd998f54449579b446817afbd17273e662c97ee72995ef42640c550b9013fad0761353c7086a272c24088be94769fd16650
    0x01fffffffffffffffffffffffffffffffffffffffffffffffffffffffffffffffffa51868783bf2f966b7fcc0148f709a5d03bb5c9b8899c47aebb6fb71e91386409

/-! ### Primality (R390) -/

/-- The odd part and the power of two of a number (`fuel` bounds the halvings). -/
def splitTwo : Nat → Nat → Nat → Nat × Nat
  | 0, d, s => (d, s)
  | f + 1, d, s => if d % 2 == 0 && d != 0 then splitTwo f (d / 2) (s + 1) else (d, s)

/-- Squaring up to `r` times until n − 1 appears. -/
def mrSquares (n : Nat) : Nat → Nat → Bool
  | 0, _ => false
  | r + 1, x => x == n - 1 || mrSquares n r (x * x % n)

/-- One strong probable prime round to the base `b`, for odd n > 2. -/
def mrRound (n b : Nat) : Bool :=
  let ds := splitTwo (bitLen n) (n - 1) 0
  let x := powMod n b ds.1
  b % n == 0 || x == 1 || mrSquares n ds.2 x

/-- The integer square root, bit by bit from bit `k - 1`. -/
def isqrtGo (n : Nat) : Nat → Nat → Nat
  | 0, r => r
  | k + 1, r => isqrtGo n k (if (r + 2 ^ k) * (r + 2 ^ k) ≤ n then r + 2 ^ k else r)

/-- The integer square root. -/
def isqrt (n : Nat) : Nat := isqrtGo n (bitLen n / 2 + 1) 0

/-- The Jacobi symbol (a/n) for odd n, as 0, 1 or 2 for −1 (`fuel` bounds the steps). -/
def jacobiGo : Nat → Nat → Nat → Bool → Nat
  | 0, _, _, _ => 0
  | f + 1, a, n, neg =>
    if a == 0 then (if n == 1 then (if neg then 2 else 1) else 0)
    else if a % 2 == 0 then jacobiGo f (a / 2) n (neg != (n % 8 == 3 || n % 8 == 5))
    else jacobiGo f (n % a) a (neg != (a % 4 == 3 && n % 4 == 3))

/-- The Jacobi symbol of a residue. -/
def jacobi (a n : Nat) : Nat := jacobiGo (3 * bitLen n + 3) (a % n) n false

/-- Selfridge's parameter: the first D of 5, −7, 9, … with (D/n) = −1, as (absolute value, negative). -/
def selfridge (n : Nat) : Nat → Nat → Bool → Option (Nat × Bool)
  | 0, _, _ => none
  | f + 1, d, neg =>
    if jacobi (if neg then (n - d % n) % n else d) n == 2 then some (d, neg)
    else selfridge n f (d + 2) (!neg)

/-- The Lucas sequences U, V, Q^k modulo n over the bits of k, from bit `m - 1` down (P = 1). -/
def lucasGo (n d q k : Nat) : Nat → Nat × Nat × Nat → Nat × Nat × Nat
  | 0, t => t
  | m + 1, (u, v, qk) =>
    let u2 := u * v % n
    let v2 := subMod n (v * v) (2 * qk)
    let q2 := qk * qk % n
    if bitOf k m then
      let half := fun x => if x % 2 == 0 then x / 2 % n else (x + n) / 2 % n
      lucasGo n d q k m (half (u2 + v2), half ((d * u2) % n + v2), q2 * q % n)
    else lucasGo n d q k m (u2, v2, q2)

/-- V reaches zero within `r` doublings. -/
def lucasZeros (n : Nat) : Nat → Nat → Nat → Bool
  | 0, _, _ => false
  | r + 1, v, qk => v == 0 || lucasZeros n r (subMod n (v * v) (2 * qk)) (qk * qk % n)

/-- The strong Lucas probable prime test with Selfridge's parameters. -/
def strongLucas (n : Nat) : Bool :=
  if isqrt n * isqrt n == n then false
  else match selfridge n 200 5 false with
  | none => false
  | some (d, neg) =>
    let dm := if neg then (n - d % n) % n else d % n
    -- Q = (1 − D) / 4, an integer for every D of the sequence
    let q := if neg then (1 + d) / 4 % n else (n - (d - 1) / 4 % n) % n
    let ks := splitTwo (bitLen n + 1) (n + 1) 0
    let t := lucasGo n dm q ks.1 (bitLen ks.1) (0, 2 % n, 1 % n)
    t.1 == 0 || lucasZeros n ks.2 t.2.1 t.2.2

/-- The thirty-two Miller–Rabin rounds with bases drawn from the record's digest. The draw is not stated:
Config.mrBase is a free value (log 15). -/
def mrRounds (digest : Bytes) (n : Nat) : Nat → Bool
  | 0 => true
  | r + 1 => mrRound n (2 + Config.mrBase (beNat digest) n r % (n - 3)) && mrRounds digest n r

/-- R390: Baillie–PSW and then thirty-two Miller–Rabin rounds. -/
def isPrime (digest : Bytes) (n : Nat) : Bool :=
  if n < 5 then n == 2 || n == 3
  else n % 2 == 1 && mrRound n 2 && strongLucas n && mrRounds digest n 32

/-! ### Curve records -/

/-- A field element of a curve record: 66 bytes, big-endian, right-aligned (R389). -/
def curveField (rec : Bytes) (off : Nat) : Nat := beAt rec off 66

/-- The fields of a curve record. -/
def curveOfRecord (rec : Bytes) : Curve :=
  .mk (leAt rec 10 2) (leAt rec 12 1) (curveField rec 16) (curveField rec 82) (curveField rec 148)
    (curveField rec 214) (curveField rec 280) (curveField rec 346)

/-- The layout rules of R389's table: MAGIC, FORMAT_VER, FBITS, H, the reserved bytes, N below 2^FBITS. -/
def curveLayoutOk (rec : Bytes) : Bool :=
  let c := curveOfRecord rec
  rec.length == 448 && slice rec 0 8 == asciiBytes "HYNUSCRV" && leAt rec 8 2 == 1 &&
    decide (192 ≤ c.fbits) && decide (c.fbits ≤ 521) && decide (1 ≤ c.h) && decide (c.h ≤ 4) &&
    allZero (slice rec 13 3) && allZero (slice rec 412 36) && decide (c.n < 2 ^ c.fbits)

/-- R390's seven checks; true when the record passes them all. -/
def curveChecks (rec : Bytes) : Bool :=
  let c := curveOfRecord rec
  let dig := sha384 rec
  let sq := fun (x : Nat) => (x - (c.p + 1)) * (x - (c.p + 1))
  let hn := c.h * c.n
  -- 1
  bitLen c.p == c.fbits && decide (3 < c.p) && isPrime dig c.p &&
  -- 2
  decide (c.a < c.p) && decide (c.b < c.p) && decide (c.gx < c.p) && decide (c.gy < c.p) &&
  -- 3
  (4 * c.a * c.a * c.a + 27 * c.b * c.b) % c.p != 0 &&
  -- 4: n > 4·√p
  isPrime dig c.n && decide (16 * c.p < c.n * c.n) && c.n != c.p &&
  -- 5, 6
  onCurve c c.gx c.gy && (pointMul c c.n c.gen).isNone &&
  -- 7: h·n in [p + 1 − 2√p, p + 1 + 2√p] and h = ⌊(√p + 1)² / n⌋
  (if hn ≤ c.p + 1 then decide ((c.p + 1 - hn) * (c.p + 1 - hn) ≤ 4 * c.p) else decide (sq hn ≤ 4 * c.p)) &&
  decide (c.p + 1 < hn + c.n) && decide (4 * c.p < sq (hn + c.n))

/-- R390: the curve that a record gives a slot, or none when it is rejected. -/
def curveLoad (rec : Bytes) : Option Curve :=
  if curveLayoutOk rec && curveChecks rec then some (curveOfRecord rec) else none

/-- The record of a curve (R389): the digest of a ROM curve is that of its record. -/
def curveRecord (c : Curve) : Bytes :=
  asciiBytes "HYNUSCRV" ++ leBytes 2 1 ++ leBytes 2 c.fbits ++ leBytes 1 c.h ++ zeroBytes 3 ++
    beBytes 66 c.p ++ beBytes 66 c.a ++ beBytes 66 c.b ++ beBytes 66 c.gx ++ beBytes 66 c.gy ++
    beBytes 66 c.n ++ zeroBytes 36

/-! ### Encodings (R393) -/

/-- W, the operand width in bytes. -/
def Curve.w (c : Curve) : Nat := (c.fbits + 7) / 8

/-- A point's encoding: 0x04 and the coordinates, or zeros for O. -/
def encodePoint (c : Curve) : Point → Bytes
  | none => zeroBytes (1 + 2 * c.w)
  | some (x, y) => 4 :: beBytes c.w x ++ beBytes c.w y

/-- The point that an encoding names (its first byte was checked by R394). -/
def decodePoint (c : Curve) (bs : Bytes) : Point :=
  if bs.head? == some 4 then some (beAt bs 1 c.w, beAt bs (1 + c.w) c.w) else none

/-- R394 check 1 for a point: first byte 0x04, or 0x00 with the rest zero. -/
def pointLayoutOk (bs : Bytes) : Bool := bs.head? == some 4 || allZero bs

/-! ### ECDSA, ECDH and key pairs (R395) -/

/-- bits2int of FIPS 186-5: the leftmost bit-length-of-n bits of a digest. -/
def bits2int (n : Nat) (digest : Bytes) : Nat :=
  beNat digest >>> (8 * digest.length - bitLen n)

/-- int2octets of RFC 6979. -/
def int2octets (n x : Nat) : Bytes := beBytes ((bitLen n + 7) / 8) x

/-- T of RFC 6979 step h: HMAC outputs joined until they hold bit-length-of-n bits. Gives T and V. -/
def drbgFill (hs : Sha) (key : Bytes) (need : Nat) : Nat → Bytes → Bytes → Bytes × Bytes
  | 0, t, v => (t, v)
  | f + 1, t, v =>
    if need ≤ 8 * t.length then (t, v)
    else drbgFill hs key need f (t ++ hmac hs key v) (hmac hs key v)

/-- The signature for one nonce, none when r or s is zero. -/
def ecdsaWithK (c : Curve) (d e k : Nat) : Option (Nat × Nat) :=
  match pointMul c k c.gen with
  | none => none
  | some (x, _) =>
    let r := x % c.n
    let s := invMod c.n k * (e + r * d) % c.n
    if r == 0 || s == 0 then none else some (r, s)

/-- RFC 6979 step h: candidates until one gives a signature. Gives r, s and how many candidates failed. -/
def ecdsaLoop (c : Curve) (hs : Sha) (d e : Nat) : Nat → Nat → Bytes → Bytes → Option (Nat × Nat × Nat)
  | 0, _, _, _ => none
  | f + 1, tries, key, v =>
    let tv := drbgFill hs key (bitLen c.n) 20 [] v
    let k := bits2int c.n tv.1
    let sig := if 1 ≤ k ∧ k < c.n then ecdsaWithK c d e k else none
    match sig with
    | some (r, s) => some (r, s, tries)
    | none =>
      let key' := hmac hs key (tv.2 ++ [0])
      ecdsaLoop c hs d e f (tries + 1) key' (hmac hs key' tv.2)

/-- R395 SIGN: r, s, and the number of candidates for k that were not usable. -/
def ecdsaSign (c : Curve) (hs : Sha) (d : Nat) (digest : Bytes) : Option (Nat × Nat × Nat) :=
  let e := bits2int c.n digest
  let seed := int2octets c.n d ++ int2octets c.n (e % c.n)
  let v0 := List.replicate hs.out (1 : Byte)
  let k1 := hmac hs (zeroBytes hs.out) (v0 ++ [0] ++ seed)
  let v1 := hmac hs k1 v0
  let k2 := hmac hs k1 (v1 ++ [1] ++ seed)
  ecdsaLoop c hs d (e % c.n) 64 0 k2 (hmac hs k2 v1)

/-- R395 VERIFY and the last two lines of R397's table, for a point that R397 accepts. -/
def ecdsaVerify (c : Curve) (Q : Point) (digest : Bytes) (r s : Nat) : Bool :=
  if r == 0 || s == 0 || decide (c.n ≤ r) || decide (c.n ≤ s) then false
  else
    let w := invMod c.n s
    let e := bits2int c.n digest
    match pointMul2 c (e % c.n * w % c.n) (r * w % c.n) Q with
    | none => false
    | some (x, _) => x % c.n == r

/-- An ECDSA P-384 signature (r then s, 48 bytes each) of a message, under SHA-384, as the engine's own
records carry it. -/
def verify384 (Q : Point) (msg sig : Bytes) : Bool :=
  pointValid curveP384 Q && ecdsaVerify curveP384 Q (sha384 msg) (beAt sig 0 48) (beAt sig 48 48)

/-- A P-384 signature by a private scalar, r then s. -/
def sign384 (d : Nat) (msg : Bytes) : Bytes :=
  match ecdsaSign curveP384 sha384Shape d (sha384 msg) with
  | some (r, s, _) => beBytes 48 r ++ beBytes 48 s
  | none => zeroBytes 96

/-- R395 KEYPAIR: the private scalar from a draw c of bitlen(n) + 64 bits. -/
def keyOfDraw (c : Curve) (draw : Nat) : Nat := draw % 2 ^ (bitLen c.n + 64) % (c.n - 1) + 1

/-- R395 ECDH: the point d·Q. -/
def ecdhPoint (c : Curve) (d : Nat) (Q : Point) : Point := pointMul c d Q

end Sys2Proof.Machine
end

