-- ==== Sys2Proof/Machine/Table.lean ====
section
/-!
DEFINITION. Sparse tables: a list of (index, value) pairs with strictly rising indices, read with a default.
The families of registers and slots that the spec indexes by a number (queues, labels, tiles, buffers, ...) and
the contents of buffers are held so.
-/

namespace Sys2Proof.Machine

/-- A sparse table. -/
abbrev Tab (α : Type) := List (Nat × α)

/-- The value at an index, if one is listed. -/
def Tab.find {α : Type} : Tab α → Nat → Option α
  | [], _ => none
  | (i, v) :: t, k => if i = k then some v else Tab.find t k

/-- The value at an index, `d` where none is listed. -/
def Tab.getD {α : Type} (t : Tab α) (k : Nat) (d : α) : α := (Tab.find t k).getD d

/-- The table with `v` at index `k`. -/
def Tab.put {α : Type} : Tab α → Nat → α → Tab α
  | [], k, v => [(k, v)]
  | (i, w) :: t, k, v =>
    if k < i then (k, v) :: (i, w) :: t
    else if i = k then (k, v) :: t
    else (i, w) :: Tab.put t k v

/-- The table without index `k`. -/
def Tab.del {α : Type} : Tab α → Nat → Tab α
  | [], _ => []
  | (i, w) :: t, k => if i = k then Tab.del t k else (i, w) :: Tab.del t k

/-- Every listed value changed by `f`. -/
def Tab.mapVals {α β : Type} (f : Nat → α → β) (t : Tab α) : Tab β := t.map fun p => (p.1, f p.1 p.2)

/-- The lowest number from `n` on that is not listed (`fuel` bounds the search). -/
def Tab.firstFree {α : Type} (t : Tab α) : Nat → Nat → Nat
  | 0, n => n
  | f + 1, n => if (Tab.find t n).isSome then Tab.firstFree t f (n + 1) else n

/-- The canonical form: indices strictly rising. -/
def Tab.sorted {α : Type} : Tab α → Bool
  | [] => true
  | [_] => true
  | a :: b :: t => decide (a.1 < b.1) && Tab.sorted (b :: t)

/-! ### Contents of a buffer -/

/-- Buffer contents: the bytes that have been written, by offset, in canonical form. An offset that is not
listed holds no byte that anything has written; what it reads as is the caller's (Config.bufferByte). -/
abbrev Memory := Tab Byte

/-- One byte written. -/
def Memory.writeByte (m : Memory) (a : Nat) (b : Byte) : Memory := Tab.put m a b

/-- A string written from an address on. -/
def Memory.write (m : Memory) (a : Nat) : Bytes → Memory
  | [] => m
  | b :: bs => Memory.write (Memory.writeByte m a b) (a + 1) bs

/-- The bytes of `w` written over the contents. -/
def Memory.merge (m w : Memory) : Memory := w.foldl (fun t x => Tab.put t x.1 x.2) m

/-- One byte read, if it was written. -/
def Memory.readByte? (m : Memory) (a : Nat) : Option Byte := Tab.find m a

/-- The canonical form of contents. -/
def Memory.wf (m : Memory) : Bool := Tab.sorted m

end Sys2Proof.Machine
end

