-- ==== Sys2Proof/Machine/State.lean ====
section
/-!
DEFINITION. The state of the engine as plain data: every register, buffer, queue, counter and mode that the
spec names, the commands waiting (pending), and the model's own log of what has left the engine (outputs).
Counters are numbers with the saturation written where they count; registers that software writes whole
are bit vectors. Families indexed by a number are sparse tables (Table.lean), read with the default of
their type.
-/

namespace Sys2Proof.Machine

/-! ### What leaves the engine (model's own field, log 3) -/

/-- One act at the boundary (R1): what a port, the custody link or a register read gives out. -/
inductive Output where
  /-- A posted write of the Interior port to host memory. -/
  | interior (addr : Nat) (data : Bytes)
  /-- An interrupt message: a 4-byte write on the Control port (R487). -/
  | message (addr data : Nat)
  /-- The answer to a Control-port read (R511). -/
  | readData (offset width value : Nat)
  /-- A frame of the custody link (R74). -/
  | custody (type seq : Nat) (payload : Bytes)
  /-- A frame of a Sync lane (R492). -/
  | sync (frame : Bytes)
  /-- What a debug access of the TAP segment shifts out (R502). -/
  | scan (data : Bytes)
deriving DecidableEq, Repr

/-! ### Fields that a read or a write of 1 clears -/

/-- R16: an RC field: its value, and the tick at which the engine last set it with the value that it had before that tick. -/
structure Rc where
  val : Nat := 0
  old : Nat := 0
  tick : Nat := 0
deriving DecidableEq, Repr

/-- R15: a W1C register: its bits, and the tick at which the engine last set some with the bits that it set then. -/
structure W1c (w : Nat) where
  bits : BitVec w := 0
  now : BitVec w := 0
  tick : Nat := 0
deriving DecidableEq, Repr

/-! ### GCTL and INT (22_register_map.md) -/

/-- R515: what the global block itself holds. -/
structure Gctl where
  die : BitVec 32 := 0
  dieValid : Bool := false
  scratch : Tab (BitVec 32) := []
  /-- R508: the last low-half read: its offset and the high half it latched. -/
  latch : Option (Nat × Nat) := none
deriving DecidableEq, Repr

/-- R516: the engine interrupt vector. -/
structure IntBlock where
  enable : BitVec 16 := 0
  armed : Bool := true
  msgAddr : BitVec 48 := 0
  msgData : BitVec 32 := 0
  sent : Rc := {}
deriving DecidableEq, Repr

/-! ### TIME (16_clocks_and_time.md) -/

/-- A launch comparator (R411, R415). -/
structure Comparator where
  t : Nat := 0
  armed : Bool := false
  late : Bool := false
deriving DecidableEq, Repr

/-- A timer's count with the last tick that it counted (R524). -/
structure Timer where
  ticks : Rc := {}
  last : Option Nat := none
deriving DecidableEq, Repr

/-- R407 to R415. -/
structure Time where
  gcnt : Nat := 0
  locked : Bool := false
  holdover : Bool := false
  /-- R408: GCNT holds until the system count reaches it. -/
  holding : Bool := false
  optimeValid : Bool := false
  optime0 : Nat := 0
  g0 : Nat := 0
  pcc : BitVec 32 := 0
  steps : Rc := {}
  holds : Rc := {}
  cmp : Tab Comparator := []
  timers : Tab Timer := []
  tmrSel : BitVec 4 := 0
  lfcSel : BitVec 3 := 0
  /-- R491: consecutive count words that equalled the local count. -/
  matches_ : Nat := 0
deriving DecidableEq, Repr

/-! ### PWR (18_start_up_and_power.md) -/

/-- R431: start phases. -/
inductive Phase where
  | moult | rom | selftest | basking | ready | full | failed
deriving DecidableEq, Repr

/-- R430, R441 to R446. -/
structure Pwr where
  inReset : Bool := false
  phase : Phase := .moult
  baskRegion : Nat := 0
  hostValues : Bool := false
  warnRail : BitVec 4 := 0
  inhibitRail : BitVec 4 := 0
  pf : Bool := false
  pfLatched : Bool := false
  flushActive : Bool := false
  flushDone : Bool := false
  resetCause : Nat := 0
  resetRail : BitVec 4 := 0
  evt : W1c 5 := {}
  evtEn : BitVec 5 := 0
  rgSel : BitVec 3 := 0
  hostOptime : BitVec 48 := 0
  hostPcc : BitVec 32 := 0
  /-- R523: the pieces of phase ROM: the certificate's verdict is in, the lock wait has ended. -/
  certDone : Bool := false
  lockWaitDone : Bool := false
  /-- The tick at which phase ROM began. -/
  romStart : Nat := 0
  enclaveTested : Bool := false
deriving DecidableEq, Repr

/-! ### Regions and tiles (18, 19, 11) -/

/-- R470 RGr_STAT.STATE. -/
inductive RegionState where
  | inService | leaping | folding | out
deriving DecidableEq, Repr

/-- R446 PWR_RG_STAT.STATE. -/
inductive TestState where
  | untested | testing | passed | outOfService
deriving DecidableEq, Repr

/-- One region: its self-test, its fault block, its seal registers. -/
structure Region where
  test : TestState := .untested
  mPass : BitVec 9 := 0
  sPass : BitVec 9 := 0
  vcPass : BitVec 2 := 0
  switchOk : Bool := false
  poolOk : Bool := false
  state : RegionState := .inService
  outCause : Nat := 0
  spareM : Bool := false
  spareS : Bool := false
  leapFrom : BitVec 8 := 0
  leapTo : BitVec 8 := 0
  /-- A Leapfrog or a Fold that waits for the Steward (R425): the TILE_ID marked, or the Fold's trigger and the
  cause code of its record. -/
  leapWait : Option Nat := none
  foldWait : Option (Nat × Nat) := none
  /-- R451: the Leapfrog that runs is TILE_RETIRE's. -/
  leapRetire : Bool := false
  fault : W1c 5 := {}
  faultEn : BitVec 5 := 0
  crc : Rc := {}
  resends : Rc := {}
  /-- R454: the failures of a window of GCNT, and which window that is. -/
  crcWindow : Nat := 0
  crcWindowNo : Nat := 0
  fixed : Rc := {}
  passes : Nat := 0
  /-- R379: spill in force. -/
  spill : Bool := false
  sealCt : Nat := 0
  sealMismatch : Rc := {}
  sealMarked : Rc := {}
  sealDropped : Rc := {}
  sealKeyload : Rc := {}
  /-- R315 RGr_SEAL_STAT: the Spawn being sealed: label, profile slot, K, batch and pass. -/
  sealBusy : Bool := false
  sealLabel : Nat := 0
  sealProfile : Nat := 0
  sealK : Nat := 0
  sealBatch : Nat := 0
  sealPass : Nat := 0
deriving DecidableEq, Repr

/-- R469 TS_STAT.STATE. -/
inductive TileState where
  | noTile | disabled | failed | retired | unbound | spare | bound | marked
deriving DecidableEq, Repr

/-- R62: a sequencer: the place in its code, and the count registers and hidden iteration counters of the loop levels. -/
structure Sequencer where
  pc : Nat := 0
  counts : List Nat := [0, 0, 0, 0]
  iters : List Nat := [0, 0, 0, 0]
deriving DecidableEq, Repr

/-- One tile's status block and what the fault rules keep about it. -/
structure Tile where
  state : TileState := .noTile
  leapIn : Bool := false
  role : Nat := 0
  lslot : Nat := 0
  ce : Rc := {}
  mismatch : Rc := {}
  wd : Rc := {}
  retry : Rc := {}
  cause : Nat := 0
  /-- R449: a watchdog expiry or microcode error already retried the current unit of work. -/
  retried : Bool := false
  /-- R294: the limb-row of the current pass already mismatched once. -/
  residue : Bool := false
  /-- R450: the SRAM supply was removed. -/
  sramOff : Bool := false
  /-- R299: the key areas: label, generation and limb of each pair held, the newest first. -/
  keys : List (Nat × Nat × Nat) := []
  seq : Sequencer := {}
  /-- R162: the source lines in the gather cache, by address over 64, the last used first. -/
  gather : List Nat := []
deriving DecidableEq, Repr

/-- R461, R470: the engine-wide fault state. -/
structure Faults where
  halt : Bool := false
  haltCause : Nat := 0
deriving DecidableEq, Repr

/-! ### STW (17_steward.md) -/

/-- R416 to R428. -/
structure Stw where
  running : Bool := false
  restarting : Bool := false
  shedding : Bool := false
  last : Nat := 0
  peak : Rc := {}
  count : Nat := 0
  cause : Nat := 0
  /-- R426: start ticks of the restarts so far, newest first. -/
  starts : List Nat := []
  /-- R421: consecutive windows above 900 and at most 750. -/
  above : Nat := 0
  below : Nat := 0
  busy : Bool := false
  code : Nat := 0
  result : Nat := 0
  args : Tab (BitVec 32) := []
  rsp : List Nat := []
  /-- R422: the last statistics snapshot: GCNT, ciphertexts sealed, samples voided. -/
  snapGcnt : Nat := 0
  snapSealed : Nat := 0
  snapVoided : Nat := 0
  /-- The running counts that a sweep reads. -/
  sealed : Nat := 0
  voided : Nat := 0
deriving DecidableEq, Repr

/-! ### ERW (20_event_recorder.md) -/

/-- R471: a record in the ring, with the tick of its first occurrence and what the ring keeps about it. -/
structure Record where
  code : Nat
  severity : Nat
  payload : Bytes
  rep : Nat := 0
  gen : Nat := 0
  gap : Bool := false
  pcc : Nat := 0
  optime : Nat := 0
  last : Nat := 0
  seq : Nat := 0
  first : Nat := 0
  /-- R476: taken by a flush, so closed to coalescing. -/
  closed : Bool := false
  /-- R475: its space is free. -/
  free : Bool := false
  /-- R475: a window read of the panel has returned it. -/
  panelRead : Bool := false
  /-- R480: read through the host window. -/
  hostRead : Bool := false
deriving DecidableEq, Repr

/-- One channel of the ring. -/
structure Channel where
  records : List Record := []
  next : Nat := 0
  gen : Nat := 0
  lost : Rc := {}
  gap : Bool := false
  /-- R480: window generations, and whether the port has read since its generation last advanced. -/
  hostGen : Nat := 0
  hostArmed : Bool := false
  panelGen : Nat := 0
  panelArmed : Bool := false
deriving DecidableEq, Repr

/-- R476, R477: a running flush and what it took. -/
structure Flush where
  trigger : Nat
  start : Nat
  number : Nat
  taken : List (Nat × Record)
  optime : Nat
  pcc : Nat
  opsNext : Nat
  custodyNext : Nat
  auditNext : Nat
  /-- R477: where it writes: the address of its buffer, and which buffer it is. -/
  addr : Nat
  buffer : Nat
deriving DecidableEq, Repr

/-- R484. -/
structure Erw where
  chans : Tab Channel := []
  flush : Option Flush := none
  /-- R476: the trigger of the further flush, or of one that waits below V_INHIBIT. -/
  wait : Option Nat := none
  unacked : BitVec 2 := 0
  flushes : Nat := 0
  /-- R477: flushes of this start, k of the next one. -/
  number : Nat := 0
  lastFault : Option Nat := none
  evt : W1c 6 := {}
  evtEn : BitVec 6 := 0
  base : BitVec 64 := 0
  size : BitVec 32 := 0
  window : BitVec 14 := 1000
  chSel : BitVec 3 := 0
  winChan : BitVec 3 := 0
  cursor : BitVec 64 := 0
  winValid : Bool := false
  winGap : Bool := false
  winDenied : Bool := false
  winGen : Nat := 0
  winSeq : Nat := 0
  winNext : Nat := 0
  winData : Bytes := []
  /-- R482: digests of the clear tokens used in this start. -/
  tokens : List Bytes := []
deriving DecidableEq, Repr

/-! ### PKE (15_pk_engine.md) -/

/-- R386: the client of a job. -/
inductive PkClient where
  | startup | custody | sil | context | recorder | manifests | host
deriving DecidableEq, Repr

/-- R393: the operation of a job. -/
inductive PkOp where
  | sign | verify | keypair | ecdh | curve
deriving DecidableEq, Repr

/-- A job: what R394 read into job memory. -/
structure PkJob where
  op : PkOp
  client : PkClient
  slot : Nat
  key : Nat := 0
  hash : Nat := 0
  keep : Bool := false
  /-- The operand block. -/
  data : Bytes := []
  outAddr : Nat := 0
  outLen : Nat := 0
  start : Nat := 0
  /-- R398: the duration E of one run. -/
  dur : Nat := 0
  /-- R395: the draw of KEYPAIR. -/
  draw : Nat := 0
  /-- R309: the manifest that a SIGN of the manifest stream signs. -/
  manifest : Nat := 0
  /-- R401, R402: its command has ended without it: it runs to its end, and its result is moulted. -/
  orphan : Bool := false
deriving DecidableEq, Repr

/-- A curve slot (R388). -/
structure CurveSlot where
  curve : Curve
  digest : Bytes
deriving DecidableEq, Repr

/-- A private key with the curve it was made under (R391). -/
structure KeySlot where
  d : Nat
  slot : Nat
  digest : Bytes
deriving DecidableEq, Repr

/-- R308, R309: a closed sealed-output manifest that waits for its signature: the entry it belongs to, its
number within the job, its address, and its bytes up to the signature. -/
structure Manifest where
  run : Nat
  number : Nat
  addr : Nat
  body : Bytes
  /-- R89: its signature, once made, while the fence of its matter holds the write. -/
  signature : Option Bytes := none
deriving DecidableEq, Repr

/-- R386 to R403. -/
structure Pke where
  running : Option PkJob := none
  /-- The job of the admin stream that waits. -/
  admin : Option PkJob := none
  /-- The manifest stream: serial numbers of the manifests that wait (R309). -/
  manifests : List Nat := []
  /-- The closed manifests that are not yet written, by serial number. -/
  held : Tab Manifest := []
  nextManifest : Nat := 0
  /-- Start-up jobs still to run, in order. -/
  startup : List PkOp := []
  /-- The stream of the job that ended last. -/
  lastManifest : Bool := false
  ended : Bool := false
  curves : Tab CurveSlot := []
  keys : Tab KeySlot := []
  /-- R391: slots to empty when the running job ends. -/
  clearing : List Nat := []
  outchk : Rc := {}
  eccCe : Rc := {}
  jobs : Nat := 0
  curveSel : BitVec 4 := 0
deriving DecidableEq, Repr

/-! ### CUS (03_custody.md) -/

/-- R70: the states of a label. -/
inductive LabelState where
  | free | opening | opened | fenced | closing | erasing | scrubbing
deriving DecidableEq, Repr

/-- A matter label: its state, what the manifest and the offer gave it, and its key slot. -/
structure Label where
  state : LabelState := .free
  gen : Nat := 0
  slot : Nat := 0
  shapeMeta : Bool := false
  modalities : BitVec 4 := 0
  profile : Nat := 0
  matter : Nat := 0
  epoch : Nat := 0
  fingerprint : Bytes := []
  token : Nat := 0
  kData : Bytes := []
  kMem : Bytes := []
  kNoise : Bytes := []
  /-- The fence interrupted a CLOSING (R96). -/
  wasClosing : Bool := false
  /-- R88: the source code of the erasure. -/
  source : Nat := 0
  /-- R261: the tick of the present fence, and the ticks of the fences before it. -/
  fencedAt : Nat := 0
  fencedTicks : Nat := 0
  /-- R84: the offer's slot has read absent while the label is in OPENING. -/
  edge : Bool := false
deriving DecidableEq, Repr

/-- R79: a pending offer: the 202 bytes of its payload. -/
structure Offer where
  payload : Bytes
deriving DecidableEq, Repr

/-- A frame that waits for its answer (R76). -/
structure Frame where
  type : Nat
  seq : Nat
  payload : Bytes
  resends : Nat := 0
deriving DecidableEq, Repr

/-- R76: what a receiver keeps about the last frame it acted on. -/
structure Received where
  seq : Nat
  crc : Nat
  /-- The answer: type and payload of the ACK or NAK. -/
  ansType : Nat
  answer : Bytes
deriving DecidableEq, Repr

/-- R67 to R104. -/
structure Cus where
  labels : Tab Label := []
  present : BitVec 8 := 0
  /-- R91: per slot an open debounce window: its first tick and its length in ticks. -/
  windows : Tab (Nat × Nat) := []
  debounce : BitVec 13 := 2000
  tadpoleLimit : BitVec 14 := 1000
  evt : W1c 8 := {}
  evtEn : BitVec 8 := 0
  sel : BitVec 10 := 0
  sessionOk : Bool := false
  allFenced : Bool := false
  linkUp : Bool := false
  /-- R76: HELLOs of this start whose SESSION waits for the session key. -/
  hellos : Nat := 0
  lastNak : Nat := 0
  crcErr : Rc := {}
  resends : Rc := {}
  txSeq : Nat := 0
  awaiting : List Frame := []
  rxLast : Option Received := none
  offers : List Offer := []
  /-- R78: the session key pair. -/
  sessionD : Nat := 0
  sessionPub : Bytes := []
  sessionFp : Bytes := []
  /-- R101, R102, R104. -/
  armedKind : Nat := 0
  armTick : Nat := 0
  btnA : Option Nat := none
  btnB : Option Nat := none
  /-- R101: an act was already taken for the present press. -/
  acted : Bool := false
  clearGranted : Bool := false
  grantEnd : Nat := 0
  dbgUnlocked : Bool := false
  dbgExpiry : Nat := 0
  unlockMin : BitVec 6 := 15
  /-- R502: the instruction that stands in the TAP segment. -/
  tap : TapInstr := .bypass
deriving DecidableEq, Repr

/-! ### SIL (02_structure_image.md) -/

/-- R42: a route. -/
structure Route where
  src : Nat
  dst : Nat
  stream : Nat
  live : Bool
  rate : Nat
deriving DecidableEq, Repr

/-- R46: a claim entry of an image. -/
structure ClaimEntry where
  kind : Nat
  index : Nat
  arg : Nat
deriving DecidableEq, Repr

/-- What SIL holds of a structure image (R38 to R49). -/
structure Image where
  requireSpare : Bool
  gradeReq : Nat
  stepLetter : Nat
  stepDigit : Nat
  regionMask : BitVec 8
  /-- R41: role code and MC_INDEX of the 144 logical positions. -/
  roles : List (Nat × Nat)
  routes : List Route
  /-- R45: role and code. -/
  micro : List (Nat × Bytes)
  claims : List ClaimEntry
  budgets : List Nat
  maxLogN : Nat
  maxLimbs : Nat
  digest : Bytes
deriving DecidableEq, Repr

/-- R54, R58, R59: the two microcode banks of a role. -/
structure RoleBanks where
  active : Nat := 0
  bank0 : Option Bytes := none
  bank1 : Option Bytes := none
  /-- The generation on the active bank, and the generation that new entries take. -/
  activeGen : Nat := 0
  gen : Nat := 0
  /-- R66: the bank whose reloaded code has not been active yet. -/
  unswapped : Option Nat := none
deriving DecidableEq, Repr

/-- R63: a claim that holds a resource: its holder (0: the image), ARG, and the tick of the grant. -/
structure Claim where
  holder : Nat
  arg : Nat
  tick : Nat
deriving DecidableEq, Repr

/-- R38 to R66. -/
structure Sil where
  active : Option Image := none
  actHost : Bool := false
  staged : Option Image := none
  activating : Bool := false
  /-- R54: a tile failed during the activation that runs. -/
  actFailed : Bool := false
  locked : Bool := false
  bankV : Nat := 0
  banks : Tab RoleBanks := []
  /-- The generation clock: the number of the next bank generation (R58). -/
  nextGen : Nat := 1
  reason : Nat := 0
  section_ : Nat := 0
  entry : Nat := 0
  certOk : Bool := false
  grade : Nat := 0
  stepLetter : Nat := 0
  stepDigit : Nat := 0
  disabled : BitVec 64 := BitVec.allOnes 64
  progDigest : Bytes := []
  bindSel : BitVec 8 := 0
  claimKind : BitVec 4 := 0
  claimIndex : BitVec 6 := 0
  /-- R52: role map index to TILE_ID. -/
  bind : Tab Nat := []
  claims : Tab Claim := []
  /-- The keys that the root of trust certifies (R50, R82, R481), by SIGNER_ID. -/
  imageKeys : List (Nat × Bytes) := []
  manifestKeys : List (Nat × Bytes) := []
  tokenKeys : List (Nat × Bytes) := []
  /-- R57: the grade certificate as read at this start. -/
  cert : CertFacts := CertFacts.mk false 0 0 0 0
deriving DecidableEq, Repr

/-! ### QG (04_work_queues.md) -/

/-- R127. -/
inductive QState where
  | absent | enabled | disabling | disabled
deriving DecidableEq, Repr

/-- A completion that is formed and not yet written (R120). -/
structure Compl where
  cid : Nat
  status : Nat
  voids : Nat := 0
  ndc : Nat := 0
  flags : Nat := 0
  result : Nat := 0
  opaqueLo : Nat
  noIrq : Bool
deriving DecidableEq, Repr

/-- R348: a ledger record. -/
structure Ledger where
  entry : Bytes
  prog : Bytes
  seeds : Bytes
  dicts : List (Nat × Bytes)
  tiles : List Nat
  ndc : Nat
deriving DecidableEq, Repr

/-- A cached entry: its bytes (none: its read had an error response, R490), and the generation clock of the
microcode banks when it was fetched (R58, R59). -/
structure Cached where
  entry : Option Bytes
  stamp : Nat := 0
deriving DecidableEq, Repr

/-- A taken entry that is not yet completed: its number, its bytes, the head just past it, and its
completion once formed. -/
structure Taken where
  serial : Nat
  bytes : Bytes
  head : Nat
  /-- The generation clock at its fetch. -/
  stamp : Nat := 0
  isFence : Bool := false
  /-- R133: the entry's work started. -/
  ran : Bool := false
  /-- R348: the ledger record that its completion adds. -/
  ledger : Option Ledger := none
  /-- R374: the handles that its list names. -/
  names : List Nat := []
  /-- R171: the dictionary versions that it binds. -/
  dicts : List Nat := []
  compl : Option Compl := none
deriving DecidableEq, Repr

/-- A queue: its ring, its binding, its vector, and what determinism keeps for it. -/
structure Queue where
  state : QState := .absent
  label : Nat := 0
  gen : Nat := 0
  cls : Nat := 0
  weight : Nat := 0
  logSize : Nat := 0
  sqBase : Nat := 0
  cqBase : Nat := 0
  msiAddr : Nat := 0
  msiData : Nat := 0
  cmp : Nat := 0
  launchHeld : Bool := false
  paused : Bool := false
  pausePending : Bool := false
  armed : Bool := false
  sqHead : Nat := 0
  sqTail : Nat := 0
  cqHead : Nat := 0
  cqTail : Nat := 0
  /-- R94: the tail up to which posted entries of an erased matter complete with MATTER_FENCED, and the tick of the
  erasure. -/
  eraseTail : Option Nat := none
  eraseTick : Option Nat := none
  /-- R131: the tick of the last TAIL write, the tail before that tick, and the words written in it. -/
  tailTick : Nat := 0
  tailWas : Nat := 0
  tailWords : List Nat := []
  /-- Cached, untaken entries from SQ head on. -/
  cache : List Cached := []
  taken : List Taken := []
  /-- NO_IRQ of the completions between CQ head and CQ tail. -/
  unread : List Bool := []
  /-- R490: failed attempts of the completion write in hand, and whether it waits for a doorbell. -/
  writeFails : Nat := 0
  stuck : Bool := false
  /-- R490: disabled while stuck: no further completion is written. -/
  mute : Bool := false
  /-- R322: the host seed slots. -/
  seeds : Tab Bytes := []
  ndc : Nat := 0
  entries : Nat := 0
  sampleCursor : Nat := 0
  rowCursor : Nat := 0
  lastDone : Nat := 0
  lastTaken : Option Nat := none
  ref : List Nat := []
  ledger : List Ledger := []
  chorus : Option Nat := none
  /-- R32: entries taken in the present round of the round robin. -/
  served : Nat := 0
deriving DecidableEq, Repr

/-- R386: what the job of an admin command on the PK engine serves: the VERIFY of the record that the command read, of a
context's certificate before it, the ECDH of an open, the SIGN of a context. -/
inductive PkStep where
  | verify (data : Bytes)
  | certificate (data : Bytes)
  | agree (label : Nat) (offer : Bytes)
  | sign (body : Bytes)
deriving DecidableEq, Repr

/-- What the running admin command waits for, once it has passed its checks. -/
inductive AdminWait where
  | boundary (q : Nat)
  | selftest
  | switch
  | counter (label gen slot token counter deadline : Nat)
  | pkJob
  | pk (step : PkStep)
  | launch (n : Nat) (late : Bool)
  | leapfrog (r : Nat)
  | fold (r : Nat)
  | flush
  /-- R58: the record's code is being written into the named bank, whose valid bit is clear. -/
  | reload (record : Bytes)
  | clear (channel authority : Nat)
  | erase (label : Nat)
  | detach (q lane : Nat)
  /-- R424: its outcome is settled and only the restarting Steward is waited for: status and RESULT. -/
  | done (status result : Nat)
deriving DecidableEq, Repr

/-- The admin command that runs. -/
structure AdminRun where
  entry : Bytes
  wait : AdminWait
deriving DecidableEq, Repr

/-- R106 to R134. -/
structure Qg where
  adminEn : Bool := false
  badDb : Rc := {}
  malformed : Rc := {}
  adminSqBase : BitVec 64 := 0
  adminCqBase : BitVec 64 := 0
  adminMsiAddr : BitVec 64 := 0
  adminMsiData : BitVec 32 := 0
  qSel : BitVec 12 := 0
  queues : Tab Queue := []
  /-- Queue 0's ring state; its binding fields are unused. -/
  admin : Queue := .mk .absent 0 0 0 0 8 0 0 0 0 0 false false false false 0 0 0 0 none none 0 0 [] [] [] [] 0 false false [] 0 0 0 0 0 none [] [] none 0
  /-- R125: taken admin entries in ring order, not yet run. -/
  todo : List (Option Bytes) := []
  run : Option AdminRun := none
  /-- R95: accepted revokes: entry and label. -/
  revokes : List (Bytes × Nat) := []
  /-- Admin completions formed and not yet written, in the order they are due. -/
  due : List Compl := []
  /-- The next serial number of a taken entry. -/
  nextSerial : Nat := 1
deriving DecidableEq, Repr

/-! ### DET (12_randomness.md, 13_determinism.md) -/

/-- R351: a Chorus point: STEP, INDEX, STAGE, digest, and the local tile. -/
structure ChorusPoint where
  step : Nat
  index : Nat
  stage : Nat
  digest : Bytes
  tile : Nat := 0
  /-- The entry that made it (local points). -/
  serial : Nat := 0
deriving DecidableEq, Repr

/-- R350 to R353: a Chorus lane. -/
structure Chorus where
  queue : Nat := 0
  partner : Nat := 0
  diverged : W1c 1 := {}
  divStep : Nat := 0
  divIndex : Nat := 0
  divStage : Nat := 0
  divTile : Nat := 0
  missing : Bool := false
  stalled : Bool := false
  /-- Points that wait for their partner, local and remote, and keys already compared. -/
  here : List ChorusPoint := []
  remote : List ChorusPoint := []
  compared : List (Nat × Nat × Nat) := []
deriving DecidableEq, Repr

/-- R333, R353. -/
structure Det where
  ndcGlobal : Nat := 0
  qSel : BitVec 12 := 0
  seedQueue : BitVec 12 := 0
  seedSlot : BitVec 4 := 0
  staging : Tab (BitVec 32) := []
  lanes : Tab Chorus := []
deriving DecidableEq, Repr

/-! ### POOL and EMC (14_enclave_memory_and_pools.md) -/

/-- R367: an entry of a buffer table. -/
structure Buffer where
  label : Nat
  gen : Nat
  /-- Size in bytes as requested. -/
  size : Nat
  inEnclave : Bool
  cells : List Nat
  res : Option Nat
  owners : List Nat
  holder : Nat
  parked : Bool := false
  lost : Bool := false
  /-- R374: due to return once no taken entry names it. -/
  due : Bool := false
  /-- R382: it was given a class slot. -/
  slot : Bool := false
  /-- The allocation's number: what its unwritten bytes are drawn by. -/
  serial : Nat
  data : Memory := []
deriving DecidableEq, Repr

/-- R371: a working buffer of a stage. -/
structure WorkBuffer where
  label : Nat
  gen : Nat
  inEnclave : Bool
  region : Nat
  cells : List Nat
  /-- R382: it was given a class slot. -/
  slot : Bool := false
  run : Nat := 0
  use : CellUse := .other
deriving DecidableEq, Repr

/-- R378: what a consumer's backlog has set off: its bytes are those that its producers have written and it has not
taken. -/
structure Backlog where
  spilling : Bool := false
  stalled : Bool := false
deriving DecidableEq, Repr

/-- R361 to R384. -/
structure Pool where
  chain : Bool := false
  split : List Nat := [256, 64, 32, 8, 2, 1]
  green : Nat := 2048
  amber : Nat := 3072
  water : Tab (Nat × Nat × Nat) := []
  buffers : Tab Buffer := []
  /-- Held cells of each region pool, and of the enclave pool. -/
  used : Tab (List Nat) := []
  encUsed : List Nat := []
  /-- R375: cells awaiting overwrite, with the label that they belonged to. -/
  dirty : List (Nat × Nat) := []
  /-- R434: cells of the enclave pool counted free at start. -/
  encKnown : Bool := false
  work : List WorkBuffer := []
  /-- R371: stage requests that wait for cells. -/
  requests : List WorkRequest := []
  backlogs : Tab Backlog := []
  reqArg : BitVec 32 := 0
  owners : BitVec 51 := 0
  rspHandle : Nat := 0
  rspStatus : Nat := 0
  /-- R369: the tick at which POOL_RSP.BUSY clears. -/
  busyTil : Nat := 0
  protocol : Rc := {}
  refused : Rc := {}
  rgSel : BitVec 3 := 0
  tileSel : BitVec 13 := 0
  nextSerial : Nat := 0
deriving DecidableEq, Repr

/-- R385: a pseudo-channel. -/
structure PseudoChannel where
  state : Nat := 0
  /-- R381: the errors of a window of GCNT, and which window that is. -/
  ceWindow : Nat := 0
  ceWindowNo : Nat := 0
  ueSeen : Bool := false
deriving DecidableEq, Repr

/-- R355 to R360, R377, R381, R385. -/
structure Emc where
  ctlKey : Bytes := []
  ctlKeyOk : Bool := false
  inService : Nat := 0
  pcSel : BitVec 9 := 0
  pcs : Tab PseudoChannel := []
  /-- R357: entries of the remap table that moved. -/
  remap : Tab Nat := []
  patrol : BitVec 14 := 10000
  rate : Nat := 0
  patrolPasses : Nat := 0
  patrolCell : Nat := 0
  ceLimit : BitVec 16 := 64
  ce : Rc := {}
  ue : Rc := {}
  /-- R494: stacks that run with a shortened refresh interval. -/
  shortRefresh : BitVec 6 := 0
deriving DecidableEq, Repr

/-! ### The whole engine -/

/-- R135: a command of a list: its header's fields and its payload. -/
structure ListCmd where
  op : Nat
  stage : Nat
  len : Nat
  arg : Nat
  payload : Bytes
deriving DecidableEq, Repr

/-- R138, R154: a descriptor slot: its bytes, whether it is a sharding extension, and the DESC that wrote it. -/
structure Slot where
  raw : Bytes
  isExt : Bool
  group : Nat
deriving DecidableEq, Repr

/-- R138: the contexts and slots of a list. -/
structure ListCtx where
  ctxs : Tab (List Nat) := []
  slots : Tab Slot := []
deriving DecidableEq, Repr

/-- R141: what a START snapshots: the 64 context words, and the named descriptors with their extensions. -/
structure Snap where
  stage : Nat
  tag : Nat
  words : List Nat
  descs : Tab (Bytes × Option Bytes)
deriving DecidableEq, Repr

/-- A frame of a video sample (R217): its number and flags, its shape words, its map, and its values. -/
structure VFrame where
  no : Nat
  concealed : Bool := false
  last : Bool := false
  mapValid : Bool := false
  late : Bool := false
  shape : List Nat
  mapW : Nat := 0
  mapH : Nat := 0
  map : List Nat := []
  values : List Nat := []
  /-- Bytes of a value. -/
  size : Nat := 1
deriving DecidableEq, Repr

/-- What a stage makes of one sample: its length or shape words, its void, its values. -/
structure SampleOut where
  index : Nat
  reason : Nat := 0
  detail : Nat := 0
  /-- The stage that decided the reason (R264). -/
  role : Nat := 0
  concealed : Bool := false
  /-- The words that the stage's length or shape output holds. -/
  words : List Nat := []
  values : List Nat := []
  labels : List Nat := []
  /-- The values of each output record of a video sample (R217, R235); a still sample has one record. -/
  parts : List (List Nat) := []
  frames : List VFrame := []
  /-- The native records for VENC (R222). -/
  aux : List VFrame := []
  /-- The crop of each record (R212). -/
  crops : List (List Nat) := []
deriving DecidableEq, Repr

/-- How the bytes read so far end: more may come, the sample is whole, or its next chunk fails to authenticate. -/
inductive Ending where
  | more | whole | badAuth
deriving DecidableEq, Repr

/-- A lane with the sample that it works on: its tile, or the V-cores of its group (R223; none while it is suspended, R234), when
it read the first chunk, the fenced ticks of the matter up to then, the chunks read, the bytes of the run read, and
the plaintext. -/
structure Lane where
  tile : Nat := 0
  cores : List Nat := []
  start : Nat
  fenced : Nat
  chunks : Nat := 0
  taken : Nat := 0
  data : Bytes := []
  ending : Ending := .more
  /-- R27: ticks of the present window in which the lane was stalled and the matter not fenced, and, while it is stalled, the
  tick since which it is, with the fenced ticks up to then. -/
  stall : Nat := 0
  stalledFrom : Option (Nat × Nat) := none
  /-- R448: it has been dropped and has not read the first chunk again. -/
  again : Bool := false
  /-- R262: the sample is complete; its lane stalls for room in the reorder buffer. -/
  out : Option SampleOut := none
deriving DecidableEq, Repr

/-- R231 to R234, R239: a live segment: the first tick of window 0, the picture of the next window to end, the late pictures
with the bytes read by the end of their windows, the ticks of reads with the bytes read by then, the picture whose
record leaves with the slices of it that have left, the frame records that have left, and whether the channel has lost
its core and waits for an IRAP picture. -/
structure Live where
  window0 : Nat
  next : Nat := 0
  late : List (Nat × Nat) := []
  reads : List (Nat × Nat) := []
  leaving : Nat := 0
  slices : Nat := 0
  frames : List VFrame := []
  resync : Bool := false
deriving DecidableEq, Repr

/-- R249 to R251: a plan row: the global index of its data row, its rows, and its segments as (sample, offset,
length). -/
structure PlanRow where
  g : Nat
  data : List Nat
  segId : List Nat
  segPos : List Nat
  segs : List (Nat × Nat × Nat)
deriving DecidableEq, Repr

/-- R253: a Spawn: its header and its rows. -/
structure Spawn where
  head : Bytes := []
  rows : List PlanRow
  rpr : Nat
  dtype : Nat
  last : Bool
deriving DecidableEq, Repr

/-- R245: a length item with the role that decided its void. -/
structure Item where
  len : Nat
  reason : Nat := 0
  detail : Nat := 0
  role : Nat := 0
deriving DecidableEq, Repr

/-- What a PACK job in MODE 0 holds. -/
structure Packing where
  /-- The samples that no window has packed yet, in shuffled order. -/
  waiting : List Nat := []
  items : Tab Item := []
  values : Tab (List Nat) := []
  /-- The tick at which each retired to PACK (R258). -/
  arrived : Tab Nat := []
  window : Nat := 0
  /-- Global row indices used by the job so far (classes S and F). -/
  used : Nat := 0
  /-- Plan rows that no Spawn holds yet. -/
  rows : List PlanRow := []
  /-- R265: per sample the first row, the offset, the plan rows. -/
  placed : Tab (Nat × Nat × Nat) := []
  finished : Bool := false
deriving DecidableEq, Repr

/-- R284: an encoded plan row: STATUS, VOID_ROW, and its encoded rows with their digests. -/
structure EncRow where
  g : Nat
  status : Nat
  voidRow : Nat := 0
  rows : List (List Int × Bytes) := []
  segs : List (Nat × Nat × Nat)
deriving DecidableEq, Repr

/-- An encoded record, with the PACK job that it comes from. -/
structure Encoded where
  head : Bytes := []
  pack : Nat
  rpr : Nat
  last : Bool
  rows : List EncRow
deriving DecidableEq, Repr

/-- A row in the seal fabric: its index and kind, its data row, its coefficients and digest, the address of its
column, and the digests of the limbs that are written. -/
structure SealRow where
  g : Nat
  /-- R298: its place among the rows of its Spawn. -/
  pos : Nat := 0
  kind : Nat
  dataRow : Nat
  coeffs : List Int
  digest : Bytes
  column : Nat
  limbs : List (Bytes × Bytes) := []
  /-- R326: K_row, held from the row's first pass in its region to its last. -/
  kRow : Option Bytes := none
  /-- R310: its column has received a limb. -/
  touched : Bool := false
deriving DecidableEq, Repr

/-- A Spawn dealt to a region (R22): its SEAL job, its rows whose headers are not written, the rows of the batch
under way, and the next limb pass of that batch. -/
structure SealSpawn where
  run : Nat
  job : Nat
  region : Nat
  last : Bool
  rows : List SealRow
  /-- R378: the bytes of its encoded record, and the rows that it brought to its region. -/
  size : Nat := 0
  total : Nat := 0
  batch : Nat := 0
  pass : Nat := 0
  started : Bool := false
deriving DecidableEq, Repr

/-- R143: a stage job, from its START to its end. -/
structure Job where
  run : Nat
  stage : Nat
  tag : Nat
  snap : Snap
  first : Nat
  count : Nat
  /-- R143: the tick at which its START was accepted. -/
  tick : Nat := 0
  running : Bool := false
  /-- R143: the tick at which it started. -/
  began : Nat := 0
  ended : Bool := false
  /-- R230: the frame clock of a live job. -/
  clock : Option Nat := none
  /-- R234: a live job that waits for a core. -/
  wantsCore : Bool := false
  /-- R229, R238: the core of a live channel or of an encoder. -/
  core : Option Nat := none
  /-- What the job reads from host memory: tables and tensors (log 3). -/
  host : HostMem := []
  /-- Samples started, by order. -/
  next : Nat := 0
  /-- R210, R213: the PYRAMID tiles as the present sample began. -/
  tiles : Nat := 0
  lanes : Tab Lane := []
  done : Tab SampleOut := []
  outs : Tab SampleOut := []
  live : Option Live := none
  pack : Packing := {}
  spawns : List Spawn := []
  /-- Spawns that ENCODE has taken, and the records it has made. -/
  encTaken : Nat := 0
  encoded : List Encoded := []
  /-- R308: sealed rows with their digests, closed manifests, LAST Spawns sealed. -/
  sealed : Tab Bytes := []
  closed : Nat := 0
  lastSealed : Nat := 0
  /-- R164: what a COPY job writes, from the contents at its start: per block its elements by position; and the writes that
  no index names a place for. -/
  copy : Tab (List (List Int × Nat)) := []
  copyLost : Nat := 0
deriving DecidableEq, Repr

/-- R99: a Tadpole: its first tick, whether a stage still holds it, and its rows not yet sealed or voided. -/
structure Tadpole where
  start : Nat
  held : Bool := true
  rows : Nat := 0
deriving DecidableEq, Repr

/-- R351, R352: a divergence of an entry: STEP, STAGE, INDEX, the local tile, and whether it is MISSING. -/
structure Divergence where
  step : Nat
  stage : Nat
  index : Nat
  tile : Nat
  missing : Bool
deriving DecidableEq, Repr

/-- A plan row not yet sealed whole: its samples, its encoded rows left, its ciphertext digests so far, and whether
one row was left unsealed. -/
structure RowLeft where
  samples : List Nat
  left : Nat
  digests : List Bytes := []
  unsealed : Bool := false
deriving DecidableEq, Repr

/-- What a START of a list says about its streams: its stage, its mode (PACK), its routes and stream flags, and the
route of its AUX records (VDEC). -/
structure StartPlan where
  stage : Nat
  mode : Nat
  routeIn : Nat
  routeOut : Nat
  streamIn : Bool
  streamOut : Bool
  aux : Nat := 65535
deriving DecidableEq, Repr

/-- R118: a RUN_LIST entry in execution. -/
structure Run where
  queue : Nat
  label : Nat
  gen : Nat
  cls : Nat := 0
  step : Nat := 0
  base : Nat := 0
  count : Nat := 0
  budget : Nat := 0
  cid : Nat := 0
  /-- R452, R457, R464, R346: marks that the completion status reads. -/
  retried : Bool := false
  folded : Bool := false
  dropped : Bool := false
  shifted : Bool := false
  diverged : Bool := false
  /-- R120: its completion has added an event record. -/
  recorded : Bool := false
  ndc : Nat := 0
  /-- R121: affected samples with their reasons, and the samples with any value voided. -/
  affected : List (Nat × Nat) := []
  voided : List Nat := []
  /-- R122: ciphertexts written, out-of-bounds writes dropped, SEAL outputs dropped. -/
  ciphertexts : Nat := 0
  oob : Nat := 0
  drops : Nat := 0
  /-- R58: the generation clock when the entry was fetched, and the bank of each role that its list starts. -/
  stamp : Nat := 0
  banks : List (Nat × Nat) := []
  /-- The STARTs of its list, in order, with what they snapshot. -/
  planned : List StartPlan := []
  snaps : List Snap := []
  /-- R144: the tick at which it was taken. -/
  tick : Nat := 0
  /-- R141: END has ended the list. -/
  ended : Bool := false
  /-- R323, R171: the seeds and the dictionary versions bound when it was taken. -/
  seeds : Tab Bytes := []
  dicts : Tab Nat := []
  /-- The commands of the list that have not acted, their place, and the list's contexts and slots. -/
  cmds : List ListCmd := []
  pos : Nat := 0
  ctx : ListCtx := {}
  /-- R140: busy tags with their jobs, and the jobs started so far. -/
  tags : Tab Nat := []
  started : List Nat := []
  /-- What the checks read from host memory, as read (R201, R255). -/
  host : HostMem := []
  tadpoles : Tab Tadpole := []
  /-- Plan rows not yet sealed whole, by data row. -/
  planRows : Tab RowLeft := []
  /-- TILE space of each stage (R148). -/
  scratch : Tab Memory := []
  /-- R352: divergences found, and the tick of the last local point. -/
  divs : List Divergence := []
  lastPoint : Nat := 0
  /-- R310: the S-tiles whose key areas its passes have used. -/
  keyTiles : List Nat := []
deriving DecidableEq, Repr

/-- R169: a version of a dictionary: its matter, the digest of its record, its entries with their
log-probabilities, its unigrams, its highest id, the profile slot it serves, and its enclave cells. -/
structure Dict where
  label : Nat
  gen : Nat
  digest : Bytes
  entries : List (Bytes × Int)
  hasLogp : Bool
  unigrams : List (Nat × Int)
  highest : Nat
  profile : Nat
  cells : List Nat
deriving DecidableEq, Repr

/-- R297: the cached public key of a matter. -/
structure PubKey where
  gen : Nat
  pk0 : List (List Nat)
  pk1 : List (List Nat)
  cells : List Nat
deriving DecidableEq, Repr

/-- R269 to R274: a loaded ring profile with its derived constants. -/
structure Profile where
  record : Bytes
  digest : Bytes
  scheme : Nat
  logN : Nat
  limbs : Nat
  outCoeff : Bool
  t : Nat
  omega : Nat
  scaleExp : Nat
  coeffLog : Nat
  q : List Nat
  psi : List Nat
  cdt : List Nat
  delta : List Nat
deriving DecidableEq, Repr

/-- Why a step can stop with a fault. The block has none of its own: no command of the spec ends the engine
(log 1), so this type has no constructor that a meaning uses.
`illFormedQueue`: raised by nothing. -/
inductive Fault where
  | illFormedQueue
deriving DecidableEq, Repr

/-- Why a step can be refused. `notModelled`: raised by exec's arm of a command that has no meaning yet; safe,
since the run stops there. -/
inductive Refusal where
  | notModelled (mnemonic : String)
deriving DecidableEq, Repr

/-- The state of the engine. -/
structure State where
  gctl : Gctl := .mk 0 false [] none
  intb : IntBlock := {}
  time : Time := {}
  pwr : Pwr := {}
  regions : Tab Region := []
  tiles : Tab Tile := []
  faults : Faults := {}
  stw : Stw := {}
  erw : Erw := {}
  pke : Pke := {}
  cus : Cus := {}
  sil : Sil := {}
  qg : Qg := {}
  det : Det := {}
  pool : Pool := {}
  emc : Emc := {}
  runs : Tab Run := []
  jobs : Tab Job := []
  /-- The number of the next job: jobs are numbered as their STARTs are accepted (R143). -/
  nextJob : Nat := 0
  profiles : Tab Profile := []
  /-- R171: dictionary versions by number, and the version that each slot holds. -/
  dicts : Tab Dict := []
  dictSlots : Tab Nat := []
  nextDict : Nat := 0
  /-- R297: public keys by label. -/
  keyCache : Tab PubKey := []
  /-- R22: Spawns in the seal fabric, in the order they were dealt, and the region dealt last. -/
  seals : Tab SealSpawn := []
  nextSeal : Nat := 0
  dealt : Nat := 7
  /-- The model's own log of what has left the engine, newest first (log 3). -/
  outputs : List Output := []
  /-- The model's own counter of free values (log 4): State.reset's 0 is a DESIGN CHOICE. -/
  fresh : Nat := 0
  /-- The commands that wait, first in first out. -/
  pending : List Instr := []
deriving DecidableEq, Repr

/-- The engine in the first T-cycle after reset is released (R513, R431): phase MOULT, every register at its
reset value, nothing loaded (R529). -/
def State.reset : State := {}

end Sys2Proof.Machine
end

