-- ==== Sys2Proof/Machine/Ops.lean ====
section
/-!
DEFINITION. The named operations over the state that every family shares: access to the blocks, the passing
of time, the boundary log, event records, flush starts, and the engine interrupt.
-/

namespace Sys2Proof.Machine

/-! ### Access to the blocks -/

def State.modGctl (s : State) (f : Gctl → Gctl) : State := { s with gctl := f s.gctl }
def State.modInt (s : State) (f : IntBlock → IntBlock) : State := { s with intb := f s.intb }
def State.modTime (s : State) (f : Time → Time) : State := { s with time := f s.time }
def State.modPwr (s : State) (f : Pwr → Pwr) : State := { s with pwr := f s.pwr }
def State.modStw (s : State) (f : Stw → Stw) : State := { s with stw := f s.stw }
def State.modErw (s : State) (f : Erw → Erw) : State := { s with erw := f s.erw }
def State.modPke (s : State) (f : Pke → Pke) : State := { s with pke := f s.pke }
def State.modCus (s : State) (f : Cus → Cus) : State := { s with cus := f s.cus }
def State.modSil (s : State) (f : Sil → Sil) : State := { s with sil := f s.sil }
def State.modQg (s : State) (f : Qg → Qg) : State := { s with qg := f s.qg }
def State.modDet (s : State) (f : Det → Det) : State := { s with det := f s.det }
def State.modPool (s : State) (f : Pool → Pool) : State := { s with pool := f s.pool }
def State.modEmc (s : State) (f : Emc → Emc) : State := { s with emc := f s.emc }

/-- One region. -/
def State.region (s : State) (r : Nat) : Region := Tab.getD s.regions r {}
def State.modRegion (s : State) (r : Nat) (f : Region → Region) : State :=
  { s with regions := Tab.put s.regions r (f (s.region r)) }

/-- One tile, by TILE_ID. -/
def State.tile (s : State) (id : Nat) : Tile := Tab.getD s.tiles id {}
def State.modTile (s : State) (id : Nat) (f : Tile → Tile) : State :=
  { s with tiles := Tab.put s.tiles id (f (s.tile id)) }

/-- One matter label. -/
def State.label (s : State) (l : Nat) : Label := Tab.getD s.cus.labels l {}
def State.modLabel (s : State) (l : Nat) (f : Label → Label) : State :=
  s.modCus fun c => { c with labels := Tab.put c.labels l (f (s.label l)) }

/-- One work queue; queue 0 is the admin queue. -/
def State.queue (s : State) (q : Nat) : Queue :=
  if q = 0 then s.qg.admin else Tab.getD s.qg.queues q {}
def State.modQueue (s : State) (q : Nat) (f : Queue → Queue) : State :=
  s.modQg fun g =>
    if q = 0 then { g with admin := f g.admin }
    else { g with queues := Tab.put g.queues q (f (Tab.getD g.queues q {})) }

/-- One channel of the recorder. -/
def State.chan (s : State) (c : Nat) : Channel := Tab.getD s.erw.chans c {}
def State.modChan (s : State) (c : Nat) (f : Channel → Channel) : State :=
  s.modErw fun e => { e with chans := Tab.put e.chans c (f (Tab.getD e.chans c {})) }

/-- One RUN_LIST entry in execution, by its serial number. -/
def State.modRun (s : State) (e : Nat) (f : Run → Run) : State :=
  match Tab.find s.runs e with
  | none => s
  | some r => { s with runs := Tab.put s.runs e (f r) }

/-- Something leaves the engine. -/
def State.emit (s : State) (o : Output) : State := { s with outputs := o :: s.outputs }

/-- A bit of a bit vector set. -/
def setBit {w : Nat} (v : BitVec w) (i : Nat) : BitVec w := v ||| BitVec.ofNat w (2 ^ i)

/-- A bit of a bit vector cleared. -/
def clearBit {w : Nat} (v : BitVec w) (i : Nat) : BitVec w := v &&& ~~~ BitVec.ofNat w (2 ^ i)

/-- A bit of a bit vector given a value. -/
def putBit {w : Nat} (v : BitVec w) (i : Nat) (b : Bool) : BitVec w := if b then setBit v i else clearBit v i

/-- R15, R16: the engine counts `n` in an RC field, saturating at `w` bits; a read returns the value before the sets of its
own tick and clears the field unless it was set in that tick. -/
def Rc.add (r : Rc) (w n now : Nat) : Rc := { val := satAdd w r.val n, old := if r.tick = now then r.old else r.val, tick := now }
/-- An RC field that the engine sets to a value. -/
def Rc.put (r : Rc) (v now : Nat) : Rc := { val := v, old := if r.tick = now then r.old else r.val, tick := now }
def Rc.read (r : Rc) (now : Nat) : Nat := if r.tick = now then r.old else r.val
def Rc.clear (r : Rc) (now : Nat) : Rc := if r.tick = now then r else {}

/-- R15: the engine sets a bit of a W1C register; a write clears the bits written with 1 but those set in its own tick. -/
def W1c.set {w : Nat} (e : W1c w) (i now : Nat) : W1c w :=
  { bits := setBit e.bits i, now := setBit (if e.tick = now then e.now else 0) i, tick := now }
def W1c.write {w : Nat} (e : W1c w) (v now : Nat) : W1c w :=
  { e with bits := e.bits &&& ~~~ (BitVec.ofNat w v &&& ~~~ (if e.tick = now then e.now else 0)) }

/-! ### Time -/

/-- GCNT moves on to the tick of a command. It never decreases (R407) and stands still in reset. A hold of
R408 ends once it advances again. -/
def State.tickTo (s : State) (t : Nat) : State :=
  if s.pwr.inReset || decide (t ≤ s.time.gcnt) then s
  else s.modTime fun m =>
    { m with gcnt := t,
             locked := m.locked || m.holding,
             holdover := m.holdover && !m.holding,
             holding := false }

/-- The current tick. -/
abbrev State.now (s : State) : Nat := s.time.gcnt

/-- R414: OPTIME of the current tick, 48 bits; 0 until the host supplies its values. -/
def State.optime (s : State) : Nat :=
  if s.time.optimeValid then (s.time.optime0 + (s.now - s.time.g0) * 1024 / 10 ^ 9) % 2 ^ 48 else 0

/-- R414: the power-cycle count of records. -/
def State.pccNow (s : State) : Nat := if s.time.optimeValid then s.time.pcc.toNat else 0

/-! ### Flushes of the recorder (R476 to R478) -/

/-- The clearable channels. -/
def clearable : List Nat := [0, 1, 2]

/-- What a flush takes of a channel: records not yet flushed whose tick lies before its start. -/
def takenOf (c : Nat) (ch : Channel) (now : Nat) : List (Nat × Record) :=
  (ch.records.filter fun r => !r.free && decide (r.first < now)).map fun r => (c, r)

/-- The records that a flush has taken are closed to coalescing. -/
def closeTaken (now : Nat) (ch : Channel) : Channel :=
  { ch with records := ch.records.map fun r => if r.first < now then { r with closed := true } else r }

/-- R477: the smallest buffer that a flush writes to. -/
def flushMin : Nat := 2621504

/-- A flush begins now. Below V_INHIBIT it waits (R478); with buffers too small it writes nothing (R477). -/
def State.issueFlush (s : State) (trigger : Nat) : State :=
  if s.pwr.inhibitRail != 0 then s.modErw fun e => { e with wait := some (if trigger = 2 then 2 else e.wait.getD trigger) }
  else if s.erw.size.toNat < flushMin then s.modErw fun e => { e with evt := e.evt.set 3 s.now }
  else
    let f : Flush :=
      { trigger := trigger, start := s.now, number := s.erw.number,
        taken := clearable.flatMap fun c => takenOf c (s.chan c) s.now,
        optime := s.optime, pcc := s.pccNow,
        opsNext := (s.chan 0).next, custodyNext := (s.chan 3).next, auditNext := (s.chan 4).next,
        addr := (s.erw.base.toNat / 64 * 64 + s.erw.number % 2 * s.erw.size.toNat) % 2 ^ 64,
        buffer := s.erw.number % 2 }
    let s := clearable.foldl (fun s c => s.modChan c (closeTaken s.now)) s
    let s := s.modErw fun e => { e with flush := some f, number := e.number + 1 }
    if trigger = 2 then s.modPwr fun p => { p with flushActive := true, flushDone := false } else s

/-- R476: a trigger: a flush begins, or, while one runs, one further flush is noted. -/
def State.triggerFlush (s : State) (trigger : Nat) : State :=
  if s.erw.flush.isSome then s.modErw fun e => { e with wait := some (if trigger = 2 then 2 else e.wait.getD trigger) }
  else s.issueFlush trigger

/-- R442, R443, R461: a flush begins unless one is running; a power trigger makes a running flush the power
flush. -/
def State.joinFlush (s : State) (trigger : Nat) : State :=
  if s.erw.flush.isSome then
    (if trigger = 2 then s.modPwr fun p => { p with flushActive := true, flushDone := false } else s)
  else s.issueFlush trigger

/-! ### Event records (R471 to R475) -/

/-- R472: a payload filled with zeros to a multiple of 4 bytes, and to at least 8. -/
def padPayload (p : Bytes) : Bytes := padTo (max 8 ((p.length + 3) / 4 * 4)) p

/-- The bytes that a record takes in the ring. -/
def Record.size (r : Record) : Nat := 32 + r.payload.length

/-- R475: the size of a channel's partition. -/
def partition (c : Nat) : Nat := if c = 2 ∨ c = 4 then 524288 else 1048576

/-- The bytes of a list of records. -/
def bytesOf (rs : List Record) : Nat := (rs.map Record.size).sum

/-- The list without its first record that has free space, if there is one. -/
def dropFirstFree : List Record → Option (Record × List Record)
  | [] => none
  | r :: rs =>
    if r.free then some (r, rs)
    else match dropFirstFree rs with
      | none => none
      | some (x, rest) => some (x, r :: rest)

/-- R480: the generations of the ports that have read the record advance, once per read. -/
def Channel.touched (ch : Channel) (r : Record) : Channel :=
  { ch with
    hostGen := if r.hostRead && ch.hostArmed then (ch.hostGen + 1) % 256 else ch.hostGen,
    hostArmed := ch.hostArmed && !r.hostRead,
    panelGen := if r.panelRead && ch.panelArmed then (ch.panelGen + 1) % 256 else ch.panelGen,
    panelArmed := ch.panelArmed && !r.panelRead }

/-- R475: room for `need` bytes: the oldest record with free space is overwritten, else the oldest record,
which is a loss (`fuel` bounds the records overwritten). Gives the channel and whether a record was lost. -/
def makeRoom (now cap need : Nat) : Nat → Channel → Bool → Channel × Bool
  | 0, ch, lost => (ch, lost)
  | f + 1, ch, lost =>
    if bytesOf ch.records + need ≤ cap then (ch, lost)
    else match dropFirstFree ch.records with
      | some (r, rest) => makeRoom now cap need f { ch.touched r with records := rest } lost
      | none =>
        match ch.records with
        | [] => (ch, lost)
        | r :: rest =>
          makeRoom now cap need f
            { ch.touched r with records := rest, lost := ch.lost.add 32 1 now, gap := true } true

/-- R474: whether a new record coalesces with the last of its channel. -/
def coalesces (window now code : Nat) (payload : Bytes) : Option Record → Bool
  | none => false
  | some r =>
    r.code == code && r.payload == payload && !r.closed && !r.free &&
      decide (r.first ≤ now) && decide (now < r.first + window * 10 ^ 6)

/-- The last record of a list changed. -/
def onLast (f : Record → Record) : List Record → List Record
  | [] => []
  | [r] => [f r]
  | r :: rs => r :: onLast f rs

/-- R475, R484: bytes of records without free space. -/
def heldBytes (ch : Channel) : Nat := bytesOf (ch.records.filter fun r => !r.free)

/-- At least 75 % of a partition is full of records without free space. -/
def over75 (c : Nat) (ch : Channel) : Bool := decide (3 * partition c ≤ 4 * heldBytes ch)

/-- R473 to R475: EVENT_RECORD: a record of the current tick is coalesced or written to its channel. -/
def State.putRecord (s : State) (c code severity : Nat) (payload : Bytes) : State :=
  let p := padPayload payload
  let ch := s.chan c
  if coalesces s.erw.window.toNat s.now code p ch.records.getLast? then
    let ch := match ch.records.getLast? with
      | some r => if r.rep < 65535 then ch.touched r else ch
      | none => ch
    s.modChan c fun _ =>
      { ch with records := onLast (fun r => { r with rep := satAdd 16 r.rep 1, last := s.optime }) ch.records }
  else
    let m := makeRoom s.now (partition c) (32 + p.length) (ch.records.length + 1) ch false
    let r : Record :=
      { code := code, severity := severity, payload := p, gen := m.1.gen, gap := m.1.gap,
        pcc := s.pccNow, optime := s.optime, last := s.optime, seq := m.1.next, first := s.now }
    let new := { m.1 with records := m.1.records ++ [r], next := m.1.next + 1, gap := false }
    let s := s.modChan c fun _ => new
    let s := if m.2 then s.modErw fun e => { e with evt := e.evt.set 2 s.now } else s
    if (c = 3 ∨ c = 4) ∧ over75 c new = true then s.modErw fun e => { e with evt := e.evt.set 4 s.now } else s

/-- R476: the flush triggers that a new record can fire: a FAULT record of severity ERROR or CRITICAL at
most once per 100 ms, and a clearable partition that reaches 75 % full of records not yet flushed. -/
def State.recordTriggers (s : State) (c severity : Nat) (before : Bool) : State :=
  let s :=
    if c = 1 ∧ 3 ≤ severity ∧ (match s.erw.lastFault with | none => true | some t => decide (t + 10 ^ 8 ≤ s.now)) = true
    then (s.modErw fun e => { e with lastFault := some s.now }).triggerFlush 1
    else s
  if c ≤ 2 ∧ before = false ∧ over75 c (s.chan c) = true then s.triggerFlush 3 else s

/-- EVENT_RECORD with its triggers. A record that coalesces fires none. -/
def State.record (s : State) (c code severity : Nat) (payload : Bytes) : State :=
  let before := over75 c (s.chan c)
  let n := (s.chan c).next
  let s := s.putRecord c code severity payload
  if (s.chan c).next = n then s else s.recordTriggers c severity before

/-- OPS record 0x0201: a register write ignored (offset, value). -/
def State.opsWrite (s : State) (off value : Nat) : State :=
  s.record 0 0x0201 1 (leBytes 4 off ++ leBytes 4 value)

/-- OPS record 0x02FF: any other OPS record that a rule names. -/
def State.opsRule (s : State) (rule arg : Nat) : State :=
  s.record 0 0x02FF 1 (leBytes 4 rule ++ leBytes 4 arg)

/-- A FAULT record: region and cause, then what the code adds (R468, R472). -/
def State.faultRecord (s : State) (code severity region cause : Nat) (more : Bytes) : State :=
  s.record 1 code severity (leBytes 1 region ++ leBytes 1 cause ++ more)

/-- A CUSTODY record. -/
def State.custodyRecord (s : State) (code severity : Nat) (payload : Bytes) : State :=
  s.record 3 code severity payload

/-- PWR_START.PHASE changes (R446: EVT.PHASE). -/
def State.setPhase (s : State) (p : Phase) : State :=
  s.modPwr fun w => { w with phase := p, evt := w.evt.set 4 s.now }

end Sys2Proof.Machine
end

