-- ==== Sys2Proof/Machine/Flags.lean ====
section
/-!
DEFINITION. The levels and flags that the engine computes from other state: interrupt source levels and the
engine interrupt (R516, R517), counts of labels and regions, tile counts per role, and the status copies.
-/

namespace Sys2Proof.Machine

/-- R445: the codes of the start phases. -/
def Phase.code : Phase → Nat
  | .moult => 0 | .rom => 1 | .selftest => 2 | .basking => 3 | .ready => 4 | .full => 5 | .failed => 6

/-- R70: the codes of label states. -/
def LabelState.code : LabelState → Nat
  | .free => 0 | .opening => 1 | .opened => 2 | .fenced => 3 | .closing => 4 | .erasing => 5 | .scrubbing => 6

/-- R134: the codes of queue states. -/
def QState.code : QState → Nat
  | .absent => 0 | .enabled => 1 | .disabling => 2 | .disabled => 3

/-- R470: the codes of region states. -/
def RegionState.code : RegionState → Nat
  | .inService => 0 | .leaping => 1 | .folding => 2 | .out => 3

/-- R446: the codes of test states. -/
def TestState.code : TestState → Nat
  | .untested => 0 | .testing => 1 | .passed => 2 | .outOfService => 3

/-- R469: the codes of tile states. -/
def TileState.code : TileState → Nat
  | .noTile => 0 | .disabled => 1 | .failed => 2 | .retired => 3 | .unbound => 4 | .spare => 5 | .bound => 6
  | .marked => 7

/-- R525: a region is in service from the pass of its test until it folds or is taken offline. -/
def State.inService (s : State) (r : Nat) : Bool :=
  (s.region r).test == .passed && ((s.region r).state == .inService || (s.region r).state == .leaping)

/-- R459: a region counts as out of service when it is folded, failed its test or was taken offline. -/
def State.isOut (s : State) (r : Nat) : Bool :=
  (s.region r).test == .outOfService || (s.region r).state == .out

/-- The eight regions. -/
def regionNumbers : List Nat := List.range 8

/-- R470 ENGINE.OUT. -/
def State.outCount (s : State) : Nat := (regionNumbers.filter s.isOut).length

/-- R470 ENGINE.FOLDING. -/
def State.foldingCount (s : State) : Nat :=
  (regionNumbers.filter fun r => (s.region r).state == .folding).length

/-- A Leapfrog or Fold waits for the Steward (R425): one that could not begin, or one that was under way. -/
def State.recoveryWait (s : State) : Bool :=
  regionNumbers.any fun r =>
    (s.region r).leapWait.isSome || (s.region r).foldWait.isSome ||
      (s.stw.restarting && ((s.region r).state == .leaping || (s.region r).state == .folding))

/-- The number of labels in a state that satisfies `p`. -/
def State.labelCount (s : State) (p : LabelState → Bool) : Nat :=
  (s.cus.labels.filter fun x => p x.2.state).length

/-- The states OPENING to CLOSING. -/
def LabelState.live : LabelState → Bool
  | .opening | .opened | .fenced | .closing => true
  | _ => false

/-- Some label is in states OPENING to CLOSING. -/
def State.anyLive (s : State) : Bool := s.cus.labels.any fun x => x.2.state.live

/-- R103: whether debug access is permitted. -/
def State.dbgAllowed (s : State) : Bool := s.cus.dbgUnlocked || !s.anyLive

/-- R103: a claim's key in the claim table. -/
def claimKey (kind index : Nat) : Nat := kind * 256 + index

/-- The claim that holds a resource, if any (R63). -/
def State.claimOf (s : State) (kind index : Nat) : Option Claim := Tab.find s.sil.claims (claimKey kind index)

/-- R502: debug access counts as connected for check 5 of OPEN_MATTER. -/
def State.dbgConnected (s : State) : Bool :=
  !(s.cus.tap == .bypass || s.cus.tap == .idcode || s.cus.tap == .sample) || (s.claimOf 4 0).isSome

/-- The role code that a role map index carries in the active image. -/
def State.roleAt (s : State) (i : Nat) : Nat :=
  match s.sil.active with
  | none => 0
  | some im => (im.roles.getD i (0, 0)).1

/-- R345: the number of tiles bound to a role. -/
def State.tileCount (s : State) (role : Nat) : Nat :=
  (s.sil.bind.filter fun b => s.roleAt b.1 == role).length

/-- R353: the tile counts of role codes 1 to 9. -/
def State.tileCounts (s : State) : List Nat := (List.range 9).map fun c => s.tileCount (c + 1)

/-- R345, R353: nine counts of seven bits each. -/
def packCounts : List Nat → Nat
  | [] => 0
  | c :: cs => c % 128 + 128 * packCounts cs

/-- R516: the level of an interrupt source. -/
def State.source (s : State) (i : Nat) : Bool :=
  match i with
  | 0 => s.cus.evt.bits &&& s.cus.evtEn != 0
  | 1 => s.pwr.evt.bits &&& s.pwr.evtEn != 0
  | 2 => s.erw.evt.bits &&& s.erw.evtEn != 0
  | 3 => (Tab.getD s.det.lanes 0 {}).diverged.bits != 0 || (Tab.getD s.det.lanes 1 {}).diverged.bits != 0
  | 4 => s.time.holdover
  | 5 => s.stw.restarting
  | 6 => s.faults.halt
  | 7 => false
  | i => (s.region (i - 8)).fault.bits &&& (s.region (i - 8)).faultEn != 0

/-- The sources from `i` down as a number. -/
def State.sourceBits (s : State) : Nat → Nat
  | 0 => 0
  | i + 1 => s.sourceBits i + ofBool (s.source i) * 2 ^ i

/-- R516 INT_STAT.SOURCES. -/
def State.sources (s : State) : BitVec 16 := BitVec.ofNat 16 (s.sourceBits 16)

/-- R517: while the vector is armed and has an address, the first moment at which an enabled source is up
disarms it and sends the message. -/
def State.intPoll (s : State) : State :=
  if s.intb.armed && s.intb.msgAddr &&& ~~~3#48 != 0 && s.sources &&& s.intb.enable != 0 then
    (s.emit (.message (s.intb.msgAddr &&& ~~~3#48).toNat s.intb.msgData.toNat)).modInt fun i =>
      { i with armed := false, sent := i.sent.add 32 1 s.now }
  else s

/-- The frame of every meaning: time moves on to the command's tick, the command acts, and the engine
interrupt looks at its sources. While the engine is held in reset (R430) nothing acts. -/
def act (t : Nat) (s : State) (f : State → State) : Host.Outcome State Fault Refusal :=
  .next (if s.pwr.inReset then s else (f (s.tickTo t)).intPoll)

/-- The frame of the events that reach an engine in reset too: its reset sources and its release. -/
def actInReset (t : Nat) (s : State) (f : State → State) : Host.Outcome State Fault Refusal :=
  .next (f (s.tickTo t)).intPoll

end Sys2Proof.Machine
end

