-- ==== Sys2Proof/Machine/Operands.lean ====
section
/-!
DEFINITION. The operand forms: the fields of a submission entry (R115), which of them each admin opcode names
(R126), and the completion entry (R120).
-/

namespace Sys2Proof.Machine

/-! ### Submission entries (R115) -/

def entOp (b : Bytes) : Nat := leAt b 0 1
def entFlags (b : Bytes) : Nat := leAt b 1 1
def entCid (b : Bytes) : Nat := leAt b 2 2
def entMatter (b : Bytes) : Nat := fieldOf (leAt b 4 2) 0 10
def entClass (b : Bytes) : Nat := fieldOf (leAt b 4 2) 10 2
def entAddr (b : Bytes) : Nat := leAt b 8 8
def entLen (b : Bytes) : Nat := leAt b 16 4
def entStep (b : Bytes) : Nat := leAt b 24 8
def entBase (b : Bytes) : Nat := leAt b 32 8
def entCount (b : Bytes) : Nat := leAt b 40 4
def entBudget (b : Bytes) : Nat := leAt b 44 4
def entOpaqueLo (b : Bytes) : Nat := leAt b 48 8
def entNoIrq (b : Bytes) : Bool := bitOf (entFlags b) 0
/-- The generation that a command which names a matter carries (R126). -/
def entGen (b : Bytes) : Nat := fieldOf (entBudget b) 0 8
/-- The queue that a command names in LIST_LEN (R126). -/
def entQueue (b : Bytes) : Nat := fieldOf (entLen b) 0 12

/-- The reserved bits that every entry leaves zero: bytes 4–5 [15:12], bytes 6–7, bytes 20–23. -/
def entReservedOk (b : Bytes) : Bool :=
  fieldOf (leAt b 4 2) 12 4 == 0 && leAt b 6 2 == 0 && leAt b 20 4 == 0 && entClass b != 3

/-! ### Admin opcodes (R126) -/

/-- The operand bits that an admin opcode names: FLAGS, MATTER, CLASS, LIST_ADDR, LIST_LEN, STEP, SAMPLE_BASE,
SAMPLE_COUNT, BUDGET. Bits outside are reserved. -/
structure OperandMask where
  flags : Nat := 1
  matter : Bool := false
  cls : Bool := false
  addr : Bool := false
  len : Nat := 0
  step : Nat := 0
  base : Nat := 0
  count : Nat := 0
  budget : Nat := 0
deriving DecidableEq, Repr

/-- All ones in 32 and 64 bits. -/
def ones32 : Nat := 2 ^ 32 - 1
def ones64 : Nat := 2 ^ 64 - 1

/-- R126's encoding table; none for an opcode that it does not hold. -/
def adminMask (op : Nat) : Option OperandMask :=
  match op with
  | 0x01 => some { flags := 3, matter := true, cls := true, addr := true, len := 0x31FFFFF, step := ones64,
                   base := ones64, count := ones32, budget := 0xFF }
  | 0x02 | 0x03 | 0x04 | 0x20 => some { len := 0xFFF }
  | 0x08 | 0x0A | 0x10 | 0x28 | 0x40 => some { addr := true, len := ones32 }
  | 0x09 | 0x31 => some {}
  | 0x11 | 0x12 => some { matter := true, budget := 0xFF }
  | 0x18 => some { addr := true, len := ones32, step := 0xF }
  | 0x19 => some { matter := true, addr := true, len := ones32, budget := 0xFF }
  | 0x1A => some { matter := true, addr := true, len := ones32, step := 0xFFF, budget := 0xFF }
  | 0x21 => some { addr := true, len := 0xFFF, count := ones32 }
  | 0x22 => some { flags := 3, addr := true, len := 0xFFF, count := ones32 }
  | 0x23 => some { len := 3, step := ones64 }
  | 0x24 => some { len := 0x30FFF, base := ones32 }
  | 0x25 => some { addr := true, len := 0xFF0FFF, step := ones64, base := ones64 }
  | 0x2C => some { len := 0xFFFFF0F, count := ones32 }
  | 0x2D => some { len := 0xFFFFF0F }
  | 0x30 => some { addr := true, len := 7, count := ones32 }
  | 0x38 | 0x39 => some { len := 7 }
  | 0x3A => some { len := 0xFF }
  | _ => none

/-- No bit of `v` stands outside the mask. -/
def within (v mask : Nat) : Bool := v &&& mask == v

/-- R117 check 2 for an admin entry. DEDUCED (log 50): reserved operand bits, STEP[63:12] of LOAD_DICTIONARY too, fail here,
before the checks of R126 and of the command's own rule (R170), which R117 runs later. -/
def adminReservedOk (m : OperandMask) (b : Bytes) : Bool :=
  entReservedOk b && within (entFlags b) m.flags && (m.matter || entMatter b == 0) &&
    (m.cls || entClass b == 0) && (m.addr || entAddr b == 0) && within (entLen b) m.len &&
    within (entStep b) m.step && within (entBase b) m.base && within (entCount b) m.count &&
    within (entBudget b) m.budget

/-- The admin opcodes that name an existing work queue in LIST_LEN (R126). -/
def namesQueue (op : Nat) : Bool := [0x02, 0x03, 0x04, 0x20, 0x21, 0x22, 0x24, 0x25].contains op

/-- The admin opcodes that name a matter and act only while its label is OPEN (R126). -/
def needsOpen (op : Nat) : Bool := [0x11, 0x19, 0x1A].contains op

/-- Queue `q` is a work queue that exists. -/
def State.queueExists (s : State) (q : Nat) : Bool := q != 0 && (s.queue q).state != .absent

/-- R126: what a command that names a label and a generation finds: none when it may act. -/
def State.openStatus (s : State) (l gen : Nat) : Option Nat :=
  let x := s.label l
  if x.state == .free || x.gen != gen then some 0x31
  else if x.state == .fenced then some 0x30
  else if x.state == .opened then none
  else some 0x31

/-- R117: the checks of a taken admin entry, in order: none when it passes. -/
def State.adminCheck (s : State) (b : Bytes) : Option Nat :=
  match adminMask (entOp b) with
  | none => some 0x10
  | some m =>
    if !adminReservedOk m b then some 0x11
    else if namesQueue (entOp b) && !s.queueExists (entQueue b) then some 0x12
    else if entOp b == 0x21 && decide (entCount b < 16384) then some 0x12
    else if needsOpen (entOp b) then s.openStatus (entMatter b) (entGen b)
    else none

/-! ### Completions (R120) -/

/-- A completion for an entry. -/
def complOf (b : Bytes) (status result : Nat) : Compl :=
  { cid := entCid b, status := status, result := result, opaqueLo := entOpaqueLo b, noIrq := entNoIrq b }

/-- R490: the completion of an entry whose read had an error response. -/
def complOfError : Compl := { cid := 0xFFFF, status := 0x12, result := 0, opaqueLo := 0, noIrq := false }

/-- The 32 bytes of a completion entry of queue `q` with the SQ head to report. -/
def Compl.bytes (c : Compl) (q head : Nat) : Bytes :=
  leBytes 2 c.cid ++ leBytes 2 q ++ leBytes 2 head ++ leBytes 1 c.status ++ [0] ++ leBytes 4 c.voids ++
    leBytes 2 c.ndc ++ leBytes 2 c.flags ++ leBytes 8 c.result ++ leBytes 8 c.opaqueLo

/-! ### Rings (R106, R107) -/

/-- The entries of a ring. -/
def Queue.size (q : Queue) : Nat := 2 ^ q.logSize

/-- The completion ring has no free slot (R123). -/
def Queue.cqFull (q : Queue) : Bool := (q.cqTail + 1) % q.size == q.cqHead % q.size

/-- The entries posted and not taken. -/
def Queue.posted (q : Queue) : Nat := (q.sqTail + q.size - q.sqHead) % q.size

/-- The queue's matter is fenced (R89). -/
def State.queueFenced (s : State) (q : Queue) : Bool :=
  (s.label q.label).state == .fenced && (s.label q.label).gen == q.gen

/-- The queue's matter is closing (R96): no further entry of it is fetched. -/
def State.queueClosing (s : State) (q : Queue) : Bool :=
  (s.label q.label).state == .closing && (s.label q.label).gen == q.gen

end Sys2Proof.Machine
end

