-- ==== Sys2Proof/Machine/Cells.lean ====
section
/-!
DEFINITION. Cells of the enclave and region pools (R361 to R366, R375, R379): which are free, taken by whom, held and given
back.
-/

namespace Sys2Proof.Machine

/-! ### Enclave cells (R355, R356, R361) -/

/-- The first cell of the enclave pool and the number of enclave cells. -/
def encFirst : Nat := 16384
def encCells : Nat := 7324032

/-- The pseudo-channel of a cell. -/
def pcOf (cell : Nat) : Nat := cell % 384

def State.pc (s : State) (p : Nat) : PseudoChannel := Tab.getD s.emc.pcs p {}
def State.modPc (s : State) (p : Nat) (f : PseudoChannel → PseudoChannel) : State :=
  s.modEmc fun e => { e with pcs := Tab.put e.pcs p (f (Tab.getD e.pcs p {})) }

/-- Enclave cell `c` is free: in the pool, in a pseudo-channel in service, not held, not dirty. -/
def State.encCellFree (s : State) (c : Nat) : Bool :=
  s.pool.encKnown && (s.pc (pcOf c)).state == 0 && !s.pool.encUsed.contains c &&
    !s.pool.dirty.any fun d => d.1 == c

/-- The `n` lowest free enclave cells from `c` on (`fuel` bounds the cells looked at). -/
def State.lowestEnc (s : State) : Nat → Nat → Nat → List Nat
  | 0, _, _ => []
  | f + 1, c, n =>
    if n = 0 ∨ encCells ≤ c then []
    else if s.encCellFree c then c :: s.lowestEnc f (c + 1) (n - 1)
    else s.lowestEnc f (c + 1) n

/-- R362: the `n` lowest free enclave cells, none when there are too few. -/
def State.takeEnc (s : State) (n : Nat) : Option (List Nat) :=
  let cs := s.lowestEnc ((n + s.pool.encUsed.length + s.pool.dirty.length + 1) * 384) encFirst n
  if cs.length = n then some cs else none

/-- The pool cells that a pseudo-channel holds (its 19,073 cells less those of the control area). -/
def pcPoolCells (p : Nat) : Nat := if p < 256 then 19030 else 19031

/-- R384 ENC_FREE: free cells of the enclave pool. -/
def State.encFree (s : State) : Nat :=
  if s.pool.encKnown then
    ((List.range 384).map fun p => if (s.pc p).state = 0 then pcPoolCells p else 0).sum -
      ((s.pool.encUsed.filter fun c => decide (encFirst ≤ c) && (s.pc (pcOf c)).state == 0).length +
        (s.pool.dirty.filter fun d => (s.pc (pcOf d.1)).state == 0).length)
  else 0

/-! ### Region pools (R361 to R366, R379) -/

/-- The cells of one slot of each class (R364). -/
def classCells : List Nat := [1, 4, 16, 64, 256, 1024]

/-- The held cells of a region pool. -/
def State.usedOf (s : State) (r : Nat) : List Nat := Tab.getD s.pool.used r []

/-- Where the slots of class `k` begin in the split. -/
def classBase (split : List Nat) (k : Nat) : Nat :=
  ((List.zipWith (· * ·) split classCells).take k).sum

/-- The cells of the split: the reserve zone begins here. -/
def splitCells (split : List Nat) : Nat := classBase split 6

/-- The cells of slot `i` of class `k`. -/
def slotCells (split : List Nat) (k i : Nat) : List Nat :=
  let n := classCells.getD k 0
  (List.range n).map fun j => classBase split k + i * n + j

/-- The lowest free slot of class `k` from slot `i` on (`fuel` slots are left). -/
def State.freeSlot (s : State) (r k : Nat) : Nat → Nat → Option (List Nat)
  | 0, _ => none
  | f + 1, i =>
    let cs := slotCells s.pool.split k i
    if cs.any fun c => (s.usedOf r).contains c then s.freeSlot r k f (i + 1) else some cs

/-- R364: a slot of the smallest class that holds `n` cells and has a free slot, looking at `fuel` classes. -/
def State.sizedSlot (s : State) (r n : Nat) : Nat → Nat → Option (List Nat)
  | 0, _ => none
  | f + 1, k =>
    if classCells.getD k 0 < n then s.sizedSlot r n f (k + 1)
    else match s.freeSlot r k (s.pool.split.getD k 0) 0 with
      | some cs => some cs
      | none => s.sizedSlot r n f (k + 1)

/-- The `n` lowest free cells of a region pool in [lo, hi) (`fuel` cells are looked at). -/
def lowestRegion (used : List Nat) (hi : Nat) : Nat → Nat → Nat → List Nat
  | 0, _, _ => []
  | f + 1, c, n =>
    if n = 0 ∨ hi ≤ c then []
    else if used.contains c then lowestRegion used hi f (c + 1) n
    else c :: lowestRegion used hi f (c + 1) (n - 1)

/-- The cells that the buffers of a reservation hold. -/
def State.resUsed (s : State) (res : Nat) : Nat :=
  ((s.pool.buffers.filter fun b => b.2.res == some res).map fun b => b.2.cells.length).sum

/-- The reservations granted in a region: index and cells (R63, R366). -/
def State.reservations (s : State) (r : Nat) : List (Nat × Nat) :=
  (List.range 8).filterMap fun k => (s.claimOf 6 (8 * r + k)).map fun c => (8 * r + k, c.arg)

/-- R384 RES_UNUSED: the unused reserved cells of a region. -/
def State.resUnused (s : State) (r : Nat) : Nat :=
  ((s.reservations r).map fun x => x.2 - s.resUsed x.1).sum

/-- The granted cells of a region's reservations. -/
def State.resGranted (s : State) (r : Nat) : Nat := ((s.reservations r).map Prod.snd).sum

/-- R379: cells of a region pool that no reservation holds. -/
def State.unreservedUsed (s : State) (r : Nat) : Nat :=
  (s.usedOf r).length - ((s.reservations r).map fun x => s.resUsed x.1).sum

/-- R379: the spill state of a region follows the count of its allocated unreserved cells. -/
def State.spillUpdate (s : State) (r : Nat) : State :=
  let n := s.unreservedUsed r
  s.modRegion r fun g =>
    { g with spill := if s.pool.amber ≤ n then true else if n < s.pool.green then false else g.spill }

/-- R364, R365, R379: the region cells that an unreserved request for `n` cells takes, none when it takes
enclave cells instead. -/
def State.takeRegion (s : State) (r n : Nat) : Option (List Nat) :=
  if (s.region r).spill then none
  else if s.pool.chain then
    let free := 4096 - (s.usedOf r).length
    if n + s.resUnused r ≤ free then
      let cs := lowestRegion (s.usedOf r) 4096 4096 0 n
      if cs.length = n then some cs else none
    else none
  else if 1024 < n then none
  else s.sizedSlot r n 6 0

/-- R366: the cells that a request takes from reservation `res` of region `r` alone. -/
def State.takeReserved (s : State) (r res n : Nat) : Option (List Nat) :=
  match s.claimOf 6 res with
  | none => none
  | some c =>
    if c.arg < s.resUsed res + n then none
    else
      let cs := lowestRegion (s.usedOf r) 4096 4096 (if s.pool.chain then 0 else splitCells s.pool.split) n
      if cs.length = n then some cs else none

/-- Where a request finds its cells: (in the enclave, cells). `pool` 8 is the enclave pool. -/
def State.findCells (s : State) (pool : Nat) (res : Option Nat) (n : Nat) : Option (Bool × List Nat) :=
  let enc := (s.takeEnc ((n + 15) / 16)).map fun cs => (true, cs)
  match res with
  | some k => (s.takeReserved pool k n).map fun cs => (false, cs)
  | none =>
    if pool = 8 then enc
    else match s.takeRegion pool n with
      | some cs => some (false, cs)
      | none => enc

/-- Cells become held. -/
def State.holdCells (s : State) (r : Nat) (enc : Bool) (cs : List Nat) : State :=
  if enc then s.modPool fun p => { p with encUsed := p.encUsed ++ cs }
  else (s.modPool fun p => { p with used := Tab.put p.used r (Tab.getD p.used r [] ++ cs) }).spillUpdate r

/-- R375: cells are given back: region cells are moulted and free, enclave cells pass to the dirty bitmap
under the label that held them. -/
def State.giveCells (s : State) (r : Nat) (enc : Bool) (cs : List Nat) (l : Nat) : State :=
  if enc then s.modPool fun p =>
    { p with encUsed := p.encUsed.filter fun c => !cs.contains c, dirty := p.dirty ++ cs.map fun c => (c, l) }
  else (s.modPool fun p =>
    { p with used := Tab.put p.used r ((Tab.getD p.used r []).filter fun c => !cs.contains c) }).spillUpdate r

/-! ### Working buffers of stages (R371) -/

/-- The pool that a request names: 8 is the enclave pool. -/
def poolOfRequest (q : WorkRequest) : Nat := match q.region with | none => 8 | some r => r.toNat

/-- R371: a request of an entry for `bytes` bytes in pool `p`. -/
def workRequest (e : Nat) (r : Run) (p bytes : Nat) (use : CellUse) : WorkRequest :=
  { region := if p < 8 then some (BitVec.ofNat 3 p) else none,
    cells := if p < 8 then (bytes + 4095) / 4096 else (bytes + 65535) / 65536,
    label := BitVec.ofNat 10 r.label, gen := BitVec.ofNat 8 r.gen, run := e, use := use }

/-- R32, R362: the cells that a request takes now: none when there are too few, or another waits before it for the same pool. -/
def State.cellsFor (s : State) (q : WorkRequest) : Option (Bool × List Nat) :=
  let ahead := (s.pool.requests.filter fun w => w.region == q.region).takeWhile fun w => w != q
  if ahead.isEmpty then s.findCells (poolOfRequest q) none (match q.region with | none => 16 * q.cells | some _ => q.cells)
  else none

/-- A request is served. -/
def State.serveRequest (s : State) (q : WorkRequest) (enc : Bool) (cs : List Nat) : State :=
  (s.modPool fun p =>
    { p with requests := p.requests.erase q,
             work := p.work ++ [{ label := q.label.toNat, gen := q.gen.toNat, inEnclave := enc, region := poolOfRequest q, cells := cs, slot := !enc && !p.chain,
                                  run := q.run, use := q.use }] }).holdCells (poolOfRequest q) enc cs

/-- A working buffer for a use is held. -/
def State.holds (s : State) (u : CellUse) : Bool := s.pool.work.any fun w => w.use == u

/-- R371: a stage asks for cells: they are held when the answer is true; else the request waits. -/
def State.askCells (s : State) (q : WorkRequest) : State × Bool :=
  if q.use != .other && s.holds q.use then (s, true)
  else match s.cellsFor q with
    | some (enc, cs) => (s.serveRequest q enc cs, true)
    | none => (if s.pool.requests.contains q then s else s.modPool fun p => { p with requests := p.requests ++ [q] }, false)

/-- R98, R375: the working buffers that satisfy `f` are wiped and given back. -/
def State.freeWork (s : State) (f : WorkBuffer → Bool) : State :=
  let gone := s.pool.work.filter f
  let s := s.modPool fun p => { p with work := p.work.filter fun w => !f w }
  gone.foldl (fun s w => s.giveCells w.region w.inEnclave w.cells w.label) s

/-- The working buffer of a use is given back, and its request no longer waits. -/
def State.freeUse (s : State) (u : CellUse) : State :=
  (s.freeWork fun w => w.use == u).modPool fun p => { p with requests := p.requests.filter fun q => q.use != u }

/-- R299: a working buffer keeps its first `bytes` bytes, and gives the cells beyond them back. -/
def State.shrinkWork (s : State) (u : CellUse) (bytes : Nat) : State :=
  match s.pool.work.find? fun w => w.use == u with
  | none => s
  | some w =>
    let n := if w.inEnclave then (bytes + 65535) / 65536 else (bytes + 4095) / 4096
    (s.modPool fun p => { p with work := p.work.map fun v => if v.use = u then { v with cells := v.cells.take n } else v }).giveCells
      w.region w.inEnclave (w.cells.drop n) w.label

/-- R464: the working buffers of an entry are wiped, and its requests dropped. -/
def State.dropWork (s : State) (e : Nat) : State :=
  (s.freeWork fun w => w.run == e).modPool fun p => { p with requests := p.requests.filter fun q => q.run != e }

/-- R171: a version that no taken entry binds and no slot holds gives its cells back. -/
def State.dropUnboundDicts (s : State) : State :=
  let free := s.dicts.filter fun d =>
    !(s.qg.queues.any fun q => q.2.taken.any fun t => t.dicts.contains d.1) && !(s.dictSlots.any fun b => b.2 == d.1)
  free.foldl (fun s d => { s.giveCells 0 true d.2.cells d.2.label with dicts := Tab.del s.dicts d.1 }) s

end Sys2Proof.Machine
end

