-- ==== Sys2Proof/Machine/Cipher.lean ====
section
/-!
DEFINITION. The ciphers: ChaCha20's block function (RFC 8439), AES-256 (FIPS 197), GCM (SP 800-38D) and
XTS (IEEE 1619), and the CRC-32 of the custody link.
PRESUMED (log 14): the functions are taken from the standards that the spec cites and does not repeat.
-/

namespace Sys2Proof.Machine

/-! ### ChaCha20 -/

/-- Rotation left of a 32-bit word. -/
def rotl32 (x n : Nat) : Nat := ((x <<< n) % 2 ^ 32) ||| (x >>> (32 - n))

/-- The quarter round on four words. -/
def quarter (a b c d : Nat) : Nat × Nat × Nat × Nat :=
  let a := (a + b) % 2 ^ 32
  let d := rotl32 (d ^^^ a) 16
  let c := (c + d) % 2 ^ 32
  let b := rotl32 (b ^^^ c) 12
  let a := (a + b) % 2 ^ 32
  let d := rotl32 (d ^^^ a) 8
  let c := (c + d) % 2 ^ 32
  let b := rotl32 (b ^^^ c) 7
  (a, b, c, d)

/-- The quarter round applied to four places of the sixteen-word state. -/
def quarterAt (s : List Nat) (i j k l : Nat) : List Nat :=
  let q := quarter (s.getD i 0) (s.getD j 0) (s.getD k 0) (s.getD l 0)
  (((s.set i q.1).set j q.2.1).set k q.2.2.1).set l q.2.2.2

/-- One column round and one diagonal round. -/
def chachaDouble (s : List Nat) : List Nat :=
  let s := quarterAt s 0 4 8 12
  let s := quarterAt s 1 5 9 13
  let s := quarterAt s 2 6 10 14
  let s := quarterAt s 3 7 11 15
  let s := quarterAt s 0 5 10 15
  let s := quarterAt s 1 6 11 12
  let s := quarterAt s 2 7 8 13
  quarterAt s 3 4 9 14

/-- `n` double rounds. -/
def chachaRounds : Nat → List Nat → List Nat
  | 0, s => s
  | n + 1, s => chachaRounds n (chachaDouble s)

/-- The 64-byte block of a 32-byte key, a 32-bit counter and a 12-byte nonce. -/
def chachaBlock (key : Bytes) (counter : Nat) (nonce : Bytes) : Bytes :=
  let s := [0x61707865, 0x3320646e, 0x79622d32, 0x6b206574] ++ (leWords 4 key).take 8
    ++ [counter % 2 ^ 32] ++ (leWords 4 nonce).take 3
  (List.zipWith (fun a b => (a + b) % 2 ^ 32) s (chachaRounds 10 s)).flatMap (leBytes 4)

/-! ### AES-256 -/

/-- The S-box, first half. -/
def aesSboxLo : List Nat := [
    0x63, 0x7c, 0x77, 0x7b, 0xf2, 0x6b, 0x6f, 0xc5, 0x30, 0x01, 0x67, 0x2b, 0xfe, 0xd7, 0xab, 0x76,
    0xca, 0x82, 0xc9, 0x7d, 0xfa, 0x59, 0x47, 0xf0, 0xad, 0xd4, 0xa2, 0xaf, 0x9c, 0xa4, 0x72, 0xc0,
    0xb7, 0xfd, 0x93, 0x26, 0x36, 0x3f, 0xf7, 0xcc, 0x34, 0xa5, 0xe5, 0xf1, 0x71, 0xd8, 0x31, 0x15,
    0x04, 0xc7, 0x23, 0xc3, 0x18, 0x96, 0x05, 0x9a, 0x07, 0x12, 0x80, 0xe2, 0xeb, 0x27, 0xb2, 0x75,
    0x09, 0x83, 0x2c, 0x1a, 0x1b, 0x6e, 0x5a, 0xa0, 0x52, 0x3b, 0xd6, 0xb3, 0x29, 0xe3, 0x2f, 0x84,
    0x53, 0xd1, 0x00, 0xed, 0x20, 0xfc, 0xb1, 0x5b, 0x6a, 0xcb, 0xbe, 0x39, 0x4a, 0x4c, 0x58, 0xcf,
    0xd0, 0xef, 0xaa, 0xfb, 0x43, 0x4d, 0x33, 0x85, 0x45, 0xf9, 0x02, 0x7f, 0x50, 0x3c, 0x9f, 0xa8,
    0x51, 0xa3, 0x40, 0x8f, 0x92, 0x9d, 0x38, 0xf5, 0xbc, 0xb6, 0xda, 0x21, 0x10, 0xff, 0xf3, 0xd2]

/-- The S-box, second half. -/
def aesSboxHi : List Nat := [
    0xcd, 0x0c, 0x13, 0xec, 0x5f, 0x97, 0x44, 0x17, 0xc4, 0xa7, 0x7e, 0x3d, 0x64, 0x5d, 0x19, 0x73,
    0x60, 0x81, 0x4f, 0xdc, 0x22, 0x2a, 0x90, 0x88, 0x46, 0xee, 0xb8, 0x14, 0xde, 0x5e, 0x0b, 0xdb,
    0xe0, 0x32, 0x3a, 0x0a, 0x49, 0x06, 0x24, 0x5c, 0xc2, 0xd3, 0xac, 0x62, 0x91, 0x95, 0xe4, 0x79,
    0xe7, 0xc8, 0x37, 0x6d, 0x8d, 0xd5, 0x4e, 0xa9, 0x6c, 0x56, 0xf4, 0xea, 0x65, 0x7a, 0xae, 0x08,
    0xba, 0x78, 0x25, 0x2e, 0x1c, 0xa6, 0xb4, 0xc6, 0xe8, 0xdd, 0x74, 0x1f, 0x4b, 0xbd, 0x8b, 0x8a,
    0x70, 0x3e, 0xb5, 0x66, 0x48, 0x03, 0xf6, 0x0e, 0x61, 0x35, 0x57, 0xb9, 0x86, 0xc1, 0x1d, 0x9e,
    0xe1, 0xf8, 0x98, 0x11, 0x69, 0xd9, 0x8e, 0x94, 0x9b, 0x1e, 0x87, 0xe9, 0xce, 0x55, 0x28, 0xdf,
    0x8c, 0xa1, 0x89, 0x0d, 0xbf, 0xe6, 0x42, 0x68, 0x41, 0x99, 0x2d, 0x0f, 0xb0, 0x54, 0xbb, 0x16]

/-- The S-box. -/
def aesSub (x : Nat) : Nat := if x < 128 then aesSboxLo.getD x 0 else aesSboxHi.getD (x - 128) 0

/-- Where the S-box takes a value: the inverse S-box. -/
def aesSubInv (y : Nat) : Nat := (aesSboxLo ++ aesSboxHi).idxOf y

/-- Multiplication by x in GF(2^8). -/
def aesXtime (a : Nat) : Nat := if 128 ≤ a then (2 * a) ^^^ 0x11b else 2 * a

/-- Multiplication in GF(2^8) by a factor of four bits. -/
def aesMul (k a : Nat) : Nat :=
  let a2 := aesXtime a
  let a4 := aesXtime a2
  let a8 := aesXtime a4
  (if bitOf k 0 then a else 0) ^^^ (if bitOf k 1 then a2 else 0) ^^^ (if bitOf k 2 then a4 else 0)
    ^^^ (if bitOf k 3 then a8 else 0)

/-- One column times the circulant matrix with first row `m`. -/
def aesMixColumn (m : List Nat) (c : List Nat) : List Nat :=
  (List.range 4).map fun r =>
    (List.range 4).foldl (fun acc k => acc ^^^ aesMul (m.getD ((k + 4 - r) % 4) 0) (c.getD k 0)) 0

/-- A list cut into fours (`fuel` bounds the number of pieces). -/
def fours : Nat → List Nat → List (List Nat)
  | 0, _ => []
  | f + 1, l => if l.isEmpty then [] else l.take 4 :: fours f (l.drop 4)

/-- MixColumns, or its inverse, on sixteen bytes. -/
def aesMix (m s : List Nat) : List Nat := (fours 4 s).flatMap (aesMixColumn m)

/-- ShiftRows: byte r of column c comes from column c + r. -/
def aesShift (s : List Nat) : List Nat :=
  (List.range 16).map fun i => s.getD ((i % 4) + 4 * ((i / 4 + i % 4) % 4)) 0

/-- The inverse of ShiftRows. -/
def aesShiftInv (s : List Nat) : List Nat :=
  (List.range 16).map fun i => s.getD ((i % 4) + 4 * ((i / 4 + 4 - i % 4) % 4)) 0

/-- Two byte lists exclusive-ored. -/
def xorNats (a b : List Nat) : List Nat := List.zipWith (· ^^^ ·) a b

/-- The key schedule: words added one at a time; `ws` holds them newest first. -/
def aesExpand : Nat → Nat → Nat → List (List Nat) → List (List Nat)
  | 0, _, _, ws => ws
  | n + 1, i, rcon, ws =>
    let prev := ws.getD 0 []
    let old := ws.getD 7 []
    let f := if i % 8 == 0 then
        xorNats ((prev.drop 1 ++ prev.take 1).map aesSub) [rcon, 0, 0, 0]
      else if i % 8 == 4 then prev.map aesSub else prev
    aesExpand n (i + 1) (if i % 8 == 0 then aesXtime rcon else rcon) (xorNats old f :: ws)

/-- A list of words joined in fours into round keys. -/
def aesJoin : Nat → List (List Nat) → List (List Nat)
  | 0, _ => []
  | n + 1, ws => (ws.take 4).flatten :: aesJoin n (ws.drop 4)

/-- The fifteen round keys of a 32-byte key. -/
def aesKeys (key : Bytes) : List (List Nat) :=
  let ws := fours 8 (key.map BitVec.toNat)
  aesJoin 15 (aesExpand 52 8 1 ws.reverse).reverse

/-- The rounds of encryption after the first key addition. -/
def aesEncGo : List (List Nat) → List Nat → List Nat
  | [], s => s
  | [k], s => xorNats (aesShift (s.map aesSub)) k
  | k :: ks, s => aesEncGo ks (xorNats (aesMix [2, 3, 1, 1] (aesShift (s.map aesSub))) k)

/-- One block encrypted under expanded keys. -/
def aesEncWith (ks : List (List Nat)) (block : Bytes) : Bytes :=
  (aesEncGo (ks.drop 1) (xorNats (block.map BitVec.toNat) (ks.getD 0 []))).map (BitVec.ofNat 8)

/-- The rounds of decryption, keys newest first, before the last key addition. -/
def aesDecGo : List (List Nat) → List Nat → List Nat
  | [], s => s
  | [k], s => xorNats ((aesShiftInv s).map aesSubInv) k
  | k :: ks, s => aesDecGo ks (aesMix [14, 11, 13, 9] (xorNats ((aesShiftInv s).map aesSubInv) k))

/-- One block decrypted under expanded keys. -/
def aesDecWith (ks : List (List Nat)) (block : Bytes) : Bytes :=
  let r := ks.reverse
  (aesDecGo (r.drop 1) (xorNats (block.map BitVec.toNat) (r.getD 0 []))).map (BitVec.ofNat 8)

/-- One block encrypted with AES-256. -/
def aesEnc (key block : Bytes) : Bytes := aesEncWith (aesKeys key) block

/-! ### GCM -/

/-- The GHASH product, bit by bit from the most significant bit of `y`. -/
def ghashMulGo (y : Nat) : Nat → Nat → Nat → Nat
  | 0, _, z => z
  | n + 1, v, z =>
    let z := if bitOf y n then z ^^^ v else z
    let v := if bitOf v 0 then (v >>> 1) ^^^ (0xe1 <<< 120) else v >>> 1
    ghashMulGo y n v z

/-- The product of two blocks in GF(2^128) as GHASH defines it. -/
def ghashMul (x y : Nat) : Nat := ghashMulGo y 128 x 0

/-- A string filled with zeros to whole blocks of 16 bytes. -/
def pad16 (b : Bytes) : Bytes := b ++ zeroBytes ((16 - b.length % 16) % 16)

/-- GHASH under the hash key `h`. -/
def ghash (h : Nat) (data : Bytes) : Nat :=
  (chunks 16 data).foldl (fun y b => ghashMul (y ^^^ beNat b) h) 0

/-- The key stream blocks of CTR mode from a counter value on. -/
def gcmStream (ks : List (List Nat)) (iv : Bytes) : Nat → Nat → Bytes
  | 0, _ => []
  | n + 1, c => aesEncWith ks (iv ++ beBytes 4 (c % 2 ^ 32)) ++ gcmStream ks iv n (c + 1)

/-- The CTR part of GCM: encryption and decryption are the same. -/
def gcmCtr (ks : List (List Nat)) (iv data : Bytes) : Bytes :=
  xorBytes data (gcmStream ks iv ((data.length + 15) / 16) 2)

/-- The tag of a ciphertext with its additional data, for a 12-byte IV. -/
def gcmTag (ks : List (List Nat)) (iv aad ct : Bytes) : Bytes :=
  let h := beNat (aesEncWith ks (zeroBytes 16))
  let s := ghash h (pad16 aad ++ pad16 ct ++ beBytes 8 (8 * aad.length) ++ beBytes 8 (8 * ct.length))
  xorBytes (beBytes 16 s) (aesEncWith ks (iv ++ [0, 0, 0, 1]))

/-- AES-256-GCM decryption: the plaintext, or none when the tag fails. -/
def gcmOpen (key iv aad ct tag : Bytes) : Option Bytes :=
  let ks := aesKeys key
  if gcmTag ks iv aad ct == tag then some (gcmCtr ks iv ct) else none

/-! ### XTS -/

/-- The tweak times x in GF(2^128), little-endian. -/
def xtsNext (t : Nat) : Nat := if 2 ^ 127 ≤ t then ((2 * t) % 2 ^ 128) ^^^ 0x87 else 2 * t

/-- XTS over whole 16-byte blocks; `f` is the block cipher in the direction wanted. -/
def xtsBlocks (ks : List (List Nat)) (enc : Bool) : List Bytes → Nat → Bytes
  | [], _ => []
  | b :: bs, t =>
    let x := xorBytes b (leBytes 16 t)
    xorBytes (if enc then aesEncWith ks x else aesDecWith ks x) (leBytes 16 t)
      ++ xtsBlocks ks enc bs (xtsNext t)

/-! ### CRC-32 -/

/-- One byte's eight steps of a reflected CRC-32. -/
def crcBits (poly : Nat) : Nat → Nat → Nat
  | 0, c => c
  | n + 1, c => crcBits poly n (if bitOf c 0 then (c >>> 1) ^^^ poly else c >>> 1)

/-- A reflected CRC-32 of a string, start and final inversion all ones. -/
def crc32With (poly : Nat) (bs : Bytes) : Nat :=
  (bs.foldl (fun c b => crcBits poly 8 (c ^^^ b.toNat)) 0xffffffff) ^^^ 0xffffffff

end Sys2Proof.Machine
end

