-- ==== Sys2Proof/Machine/Enclave.lean ====
section
/-!
DEFINITION. What lies in the enclave cells of a buffer (R20, R355 to R360): ciphertext under the key of the matter, in
units of 64 bytes, and the accesses that the EMC takes and discards.
-/

namespace Sys2Proof.Machine

/-! ### AES-256-XTS at an enclave address (R358) -/

/-- R358: whole AES blocks at an enclave address: the data unit is 512 bytes, and its tweak is the address over 512. -/
def xtsAt (key : Bytes) (addr : Nat) (enc : Bool) (data : Bytes) : Bytes :=
  let t := leNat (aesEnc (key.drop 32) (leBytes 16 (addr / 512)))
  xtsBlocks (aesKeys (key.take 32)) enc (chunks 16 data) (Nat.iterate xtsNext (addr % 512 / 16) t)

/-- R355: the enclave address of offset `o` of a chain of cells. -/
def chainAddr (cells : List Nat) (o : Nat) : Nat := cells.getD (o / 65536) 0 * 65536 + o % 65536

/-! ### The bytes of a buffer -/

/-- The 64 stored bytes of the unit that offset `o` lies in. -/
def Buffer.unit (b : Buffer) (o : Nat) : Bytes := (List.range 64).map fun i => (Tab.find b.data (o / 64 * 64 + i)).getD 0

/-- One byte of a buffer as its matter reads it. A byte that nothing has written is free (R370, log 31). -/
def Buffer.byte (key : Bytes) (b : Buffer) (o : Nat) : Byte :=
  match Tab.find b.data o with
  | none => Config.bufferByte b.serial o
  | some x => if b.inEnclave then (xtsAt key (chainAddr b.cells (o / 64 * 64)) false (b.unit o)).getD (o % 64) 0 else x

/-- Unit `u` of a buffer as it is stored when its bytes are those of `f`. -/
def Buffer.sealUnit (key : Bytes) (b : Buffer) (f : Nat → Byte) (u : Nat) : Memory :=
  let c := xtsAt key (chainAddr b.cells (64 * u)) true ((List.range 64).map fun i => f (64 * u + i))
  (List.range 64).map fun i => (64 * u + i, c.getD i 0)

/-- R358: written bytes reach a buffer: in the enclave by a read, merge and write of whole units. -/
def Buffer.write (key : Bytes) (b : Buffer) (m : Memory) : Buffer :=
  { b with data :=
      if b.inEnclave then
        ((m.map fun x => x.1 / 64).eraseDups).foldl (fun d u =>
          Memory.merge d (b.sealUnit key (fun o => (Tab.find m o).getD (b.byte key o)) u)) b.data
      else Memory.merge b.data m }

/-- R381, R383: the buffer's bytes move to a chain of enclave cells, encrypted there. -/
def Buffer.moveTo (key : Bytes) (cells : List Nat) (b : Buffer) : Buffer :=
  let us := (b.data.map fun x => x.1 / 64).eraseDups
  let b' := { b with inEnclave := true, cells := cells, data := [] }
  b'.write key (us.flatMap fun u => (List.range 64).map fun i => (64 * u + i, b.byte key (64 * u + i)))

/-- A cell of a chain takes the place of another. -/
def renumber (a b : Nat) (cs : List Nat) : List Nat := cs.map fun c => if c = a then b else c

/-- R381 step 2: a held cell is read, decrypted, encrypted again at cell `d` and relinked. -/
def Buffer.moveCell (key : Bytes) (c d : Nat) (b : Buffer) : Buffer :=
  if b.inEnclave && b.cells.contains c then b.moveTo key (renumber c d b.cells) else b

/-! ### Accesses (R19, R359, R360) -/

/-- R19, R359, R360: an entry's access to a buffer is accepted: the label and generation are the buffer's, and the EMC holds
the label's key. -/
def State.accepts (s : State) (r : Run) (b : Buffer) : Bool :=
  b.label == r.label && b.gen == r.gen && !(b.inEnclave && (s.label r.label).kMem.isEmpty)

/-- R19, R359: a discarded access adds one FAULT record. The region is that of the buffer's pool, the cause none; which
unit issued the access is not the model's to say (log 69). -/
def State.discard (s : State) (l h : Nat) : State :=
  s.faultRecord 0x0110 3 (h / 2 ^ 28 % 8) 0 (leBytes 2 l ++ leBytes 2 (Config.unitOf l h))

end Sys2Proof.Machine
end

