-- ==== Sys2Proof/Machine/Real.lean ====
section
/-!
DEFINITION. Exact arithmetic for the rules that compute with real numbers: the three floating-point formats
(R149, R159), their operations with rounding half to even (R174, R203, R207), and the transcendental functions
(R188, R203, R278, R318), which are taken in 256-bit fixed point and rounded once (log 40).
-/

namespace Sys2Proof.Machine

/-! ### Fixed point with 256 fractional bits -/

def fxOne : Int := 2 ^ 256

/-- A product and a quotient, rounded towards minus infinity. -/
def fxMul (a b : Int) : Int := (a * b) / fxOne
def fxDiv (a b : Int) : Int := if b = 0 then 0 else (a * fxOne) / b

/-- The rational `n/d`. -/
def fxRat (n : Int) (d : Nat) : Int := (n * fxOne) / (d : Int)

/-- The sum of z^(2i+1)/(2i+1) over the next `fuel` terms; `pw` is the current power, `k` its exponent. -/
def atanhGo (z2 : Int) : Nat → Int → Nat → Int → Int
  | 0, _, _, acc => acc
  | f + 1, pw, k, acc => atanhGo z2 f (fxMul pw z2) (k + 2) (acc + pw / (k : Int))

/-- artanh z for |z| ≤ 1/3. -/
def fxAtanh (z : Int) : Int := atanhGo (fxMul z z) 90 z 1 0

/-- The natural logarithm of 2. -/
def fxLn2 : Int := 2 * fxAtanh (fxRat 1 3)

/-- The natural logarithm of a positive fixed-point number. -/
def fxLn (x : Int) : Int :=
  let k : Int := (bitLen x.toNat : Int) - 257
  let m : Int := if 0 ≤ k then x / 2 ^ k.toNat else x * 2 ^ (-k).toNat
  k * fxLn2 + 2 * fxAtanh (fxDiv (m - fxOne) (m + fxOne))

/-- The sum of (−1)^i z^(2i+1)/(2i+1) over the next `fuel` terms. -/
def atanGo (z2 : Int) : Nat → Int → Nat → Int → Int
  | 0, _, _, acc => acc
  | f + 1, pw, k, acc => atanGo z2 f (-(fxMul pw z2)) (k + 2) (acc + pw / (k : Int))

/-- π by Machin's formula. -/
def fxPi : Int :=
  let a5 := fxRat 1 5
  let a239 := fxRat 1 239
  16 * atanGo (fxMul a5 a5) 60 a5 1 0 - 4 * atanGo (fxMul a239 a239) 20 a239 1 0

/-- The alternating sum of x^(k+2i)/(k+2i)! from the term `t` of exponent `k` on. -/
def trigGo (x2 : Int) : Nat → Int → Nat → Int → Int
  | 0, _, _, acc => acc
  | f + 1, t, k, acc => trigGo x2 f (-(fxMul t x2 / (((k + 1) * (k + 2) : Nat) : Int))) (k + 2) (acc + t)

/-- Sine and cosine of an angle in radians, of magnitude at most π. -/
def fxSin (x : Int) : Int := trigGo (fxMul x x) 45 x 1 0
def fxCos (x : Int) : Int := trigGo (fxMul x x) 45 fxOne 0 0

/-- cos(2π·n/d), with the angle brought into one half turn. -/
def fxCosTurn (n : Int) (d : Nat) : Int :=
  let m := n % (d : Int)
  let m := if (d : Int) < 2 * m then (d : Int) - m else m
  fxCos (2 * fxPi * m / (d : Int))

/-- sin(2π·n/d). -/
def fxSinTurn (n : Int) (d : Nat) : Int :=
  let m := n % (d : Int)
  if (d : Int) < 2 * m then -(fxSin (2 * fxPi * ((d : Int) - m) / (d : Int))) else fxSin (2 * fxPi * m / (d : Int))

/-! ### Rounding -/

/-- n/d to the nearest integer, ties to even. -/
def roundEven (n : Int) (d : Nat) : Int :=
  let q := n / (d : Int)
  let r := n - q * (d : Int)
  if 2 * r < (d : Int) then q
  else if (d : Int) < 2 * r then q + 1
  else if q % 2 = 0 then q else q + 1

/-- n/d to the nearest integer, ties away from zero. -/
def roundNear (n : Int) (d : Nat) : Int :=
  if 0 ≤ n then (2 * n + d) / (2 * (d : Int)) else -((2 * (-n) + d) / (2 * (d : Int)))

/-- An integer brought into a range. -/
def clampInt (lo hi v : Int) : Int := if v < lo then lo else if hi < v then hi else v

/-! ### Floating-point formats -/

/-- A binary format: the bits of its exponent and of its fraction. -/
structure Fmt where
  ebits : Nat
  fbits : Nat
deriving DecidableEq, Repr

def fp16 : Fmt := { ebits := 5, fbits := 10 }
def bf16 : Fmt := { ebits := 8, fbits := 7 }
def fp32 : Fmt := { ebits := 8, fbits := 23 }

/-- The exponent bias. -/
def Fmt.bias (f : Fmt) : Nat := 2 ^ (f.ebits - 1) - 1

/-- The pattern of infinity without its sign, and the canonical quiet NaN (R159). -/
def Fmt.inf (f : Fmt) : Nat := (2 ^ f.ebits - 1) * 2 ^ f.fbits
def Fmt.nan (f : Fmt) : Nat := f.inf + 2 ^ (f.fbits - 1)
def Fmt.sign (f : Fmt) (neg : Bool) : Nat := if neg then 2 ^ (f.ebits + f.fbits) else 0

/-- What a pattern stands for: m·2^e with a sign. -/
inductive FVal where
  | nan
  | inf (neg : Bool)
  | fin (neg : Bool) (m : Nat) (e : Int)
deriving DecidableEq, Repr

/-- A pattern read. -/
def Fmt.read (f : Fmt) (w : Nat) : FVal :=
  let neg := bitOf w (f.ebits + f.fbits)
  let ex := fieldOf w f.fbits f.ebits
  let fr := fieldOf w 0 f.fbits
  if ex = 2 ^ f.ebits - 1 then (if fr = 0 then .inf neg else .nan)
  else if ex = 0 then .fin neg fr (1 - (f.bias : Int) - f.fbits)
  else .fin neg (2 ^ f.fbits + fr) ((ex : Int) - f.bias - f.fbits)

/-- The exponent of the highest bit of the positive rational n/d. -/
def ratLog (n d : Nat) : Int :=
  let k : Int := (bitLen n : Int) - bitLen d
  if (if 0 ≤ k then decide (n < d * 2 ^ k.toNat) else decide (n * 2 ^ (-k).toNat < d)) then k - 1 else k

/-- The pattern nearest to ±n/d, ties to even; beyond the range it is infinity. -/
def Fmt.round (f : Fmt) (neg : Bool) (n d : Nat) : Nat :=
  if n = 0 then f.sign neg
  else
    let lo : Int := 1 - (f.bias : Int) - f.fbits
    let q : Int := max (ratLog n d - f.fbits) lo
    let m : Nat := (if 0 ≤ q then roundEven n (d * 2 ^ q.toNat) else roundEven ((n * 2 ^ (-q).toNat : Nat) : Int) d).toNat
    -- the carry of a rounded fraction runs into the exponent field by itself
    let w := m + (q - lo).toNat * 2 ^ f.fbits
    f.sign neg + min w f.inf

/-- The rational value of a finite pattern: numerator and denominator. -/
def finRat (neg : Bool) (m : Nat) (e : Int) : Int × Nat :=
  let s : Int := if neg then -(m : Int) else m
  if 0 ≤ e then (s * 2 ^ e.toNat, 1) else (s, 2 ^ (-e).toNat)

/-- The exact value of a pattern, none for NaN and infinity. -/
def Fmt.rat (f : Fmt) (w : Nat) : Option (Int × Nat) :=
  match f.read w with
  | .fin neg m e => some (finRat neg m e)
  | _ => none

/-- The pattern nearest to an integer or a rational. -/
def Fmt.ofRat (f : Fmt) (n : Int) (d : Nat) : Nat := f.round (decide (n < 0)) n.natAbs d

/-- A pattern of one format as the nearest of another (R159). -/
def Fmt.convert (src dst : Fmt) (w : Nat) : Nat :=
  match src.read w with
  | .nan => dst.nan
  | .inf neg => dst.sign neg + dst.inf
  | .fin neg m e => let r := finRat neg m e; dst.round neg r.1.natAbs r.2

/-! ### Operations of fp32 -/

/-- a + b. -/
def fAdd (a b : Nat) : Nat :=
  match fp32.read a, fp32.read b with
  | .nan, _ => fp32.nan
  | _, .nan => fp32.nan
  | .inf s, .inf t => if s = t then fp32.sign s + fp32.inf else fp32.nan
  | .inf s, _ => fp32.sign s + fp32.inf
  | _, .inf t => fp32.sign t + fp32.inf
  | .fin s m e, .fin t n f =>
    let x := finRat s m e
    let y := finRat t n f
    let v : Int := x.1 * y.2 + y.1 * x.2
    if v = 0 then fp32.sign (s && t) else fp32.ofRat v (x.2 * y.2)

/-- −a. -/
def fNeg (a : Nat) : Nat := a ^^^ 2 ^ 31

/-- a − b. -/
def fSub (a b : Nat) : Nat := fAdd a (fNeg b)

/-- a · b. -/
def fMul (a b : Nat) : Nat :=
  match fp32.read a, fp32.read b with
  | .nan, _ => fp32.nan
  | _, .nan => fp32.nan
  | .inf s, .inf t => fp32.sign (s != t) + fp32.inf
  | .inf s, .fin t n _ => if n = 0 then fp32.nan else fp32.sign (s != t) + fp32.inf
  | .fin s m _, .inf t => if m = 0 then fp32.nan else fp32.sign (s != t) + fp32.inf
  | .fin s m e, .fin t n f =>
    let r := finRat false (m * n) (e + f)
    fp32.round (s != t) r.1.natAbs r.2

/-- a / b. -/
def fDiv (a b : Nat) : Nat :=
  match fp32.read a, fp32.read b with
  | .nan, _ => fp32.nan
  | _, .nan => fp32.nan
  | .inf _, .inf _ => fp32.nan
  | .inf s, .fin t _ _ => fp32.sign (s != t) + fp32.inf
  | .fin s _ _, .inf t => fp32.sign (s != t)
  | .fin s m e, .fin t n f =>
    if n = 0 then (if m = 0 then fp32.nan else fp32.sign (s != t) + fp32.inf)
    else
      let x := finRat false m e
      let y := finRat false n f
      fp32.round (s != t) (x.1.natAbs * y.2) (x.2 * y.1.natAbs)

/-- The square root of a fixed-point number. -/
def fxSqrt (x : Int) : Int := (isqrt (x.toNat * 2 ^ 256) : Int)

/-- The square root of a pattern. A rest below the root's last bit is kept as a further bit, so that the
rounding is exact. -/
def fSqrt (a : Nat) : Nat :=
  match fp32.read a with
  | .nan => fp32.nan
  | .inf s => if s then fp32.nan else fp32.inf
  | .fin s m e =>
    if m = 0 then a
    else if s then fp32.nan
    else
      -- m·2^e = M·2^(2k) with an even exponent and M of at least 64 bits
      let sh : Nat := 64 + (if e % 2 = 0 then 0 else 1)
      let mm := m * 2 ^ sh
      let k : Int := (e - sh) / 2
      let root := isqrt mm
      let n := 2 * root + (if root * root = mm then 0 else 1)
      if 0 ≤ k - 1 then fp32.round false (n * 2 ^ (k - 1).toNat) 1 else fp32.round false n (2 ^ (1 - k).toNat)

/-- a < b; false where either is a NaN. -/
def fLt (a b : Nat) : Bool :=
  match fp32.read a, fp32.read b with
  | .nan, _ => false
  | _, .nan => false
  | .inf s, .inf t => s && !t
  | .inf s, .fin _ _ _ => s
  | .fin _ _ _, .inf t => !t
  | .fin s m e, .fin t n f =>
    let x := finRat s m e
    let y := finRat t n f
    decide (x.1 * (y.2 : Int) < y.1 * (x.2 : Int))

/-- The pattern is finite. -/
def fFinite (a : Nat) : Bool := (fp32.rat a).isSome

/-- Patterns of constants: an integer, a decimal n/d, one and zero. -/
def fInt (n : Int) : Nat := fp32.ofRat n 1
def fConst (n : Int) (d : Nat) : Nat := fp32.ofRat n d
def fOne : Nat := fInt 1
def fHalf : Nat := fConst 1 2

/-- max(0, v), min(1, v), and the smaller and the larger of two patterns. -/
def fMax (a b : Nat) : Nat := if fLt a b then b else a
def fMin (a b : Nat) : Nat := if fLt b a then b else a

/-- The fp32 value nearest to a fixed-point number. -/
def fOfFx (x : Int) : Nat := fp32.ofRat x (2 ^ 256)

/-- A pattern as a fixed-point number; 0 where it is not finite. -/
def fxOfF (a : Nat) : Int :=
  match fp32.rat a with
  | none => 0
  | some r => fxRat r.1 r.2

/-! ### Value shapes of draws (R318) -/

/-- Gumbel value of a 32-bit field. -/
def gumbel (x : Nat) : Nat :=
  let u : Int := ((2 * x + 1 : Nat) : Int) * 2 ^ (256 - 33)
  fOfFx (-(fxLn (-(fxLn u))))

/-- Normal value of a pair of 32-bit fields. -/
def normalDraw (xa xb : Nat) : Nat :=
  let u1 : Int := ((2 * xa + 1 : Nat) : Int) * 2 ^ (256 - 33)
  fOfFx (fxMul (fxSqrt (-2 * fxLn u1)) (fxCosTurn xb (2 ^ 32)))

end Sys2Proof.Machine
end

