-- ==== Sys2Proof/Machine/Tensor.lean ====
section
/-!
DEFINITION. Tensor descriptors (R147 to R157): their fields, the rules that hold whatever role uses them, the
place of an element, and reading, writing and converting elements (R159).
-/

namespace Sys2Proof.Machine

/-! ### Descriptors (R147, R154) -/

/-- A descriptor with the sharding extension of the next slot, if it has one. -/
structure Desc where
  base : Nat
  dtype : Nat
  rankByte : Nat
  flags : Nat
  bits : Nat
  fill : Nat
  extents : List Nat
  strides : List Int
  ext : Option Bytes
deriving DecidableEq, Repr

/-- The descriptor that 64 bytes hold. -/
def descOf (b : Bytes) (ext : Option Bytes) : Desc :=
  { base := leAt b 0 8, dtype := leAt b 8 1, rankByte := leAt b 9 1, flags := leAt b 10 1, bits := leAt b 11 1,
    fill := leAt b 12 4, extents := leWords 4 (slice b 16 24),
    strides := (leWords 4 (slice b 40 24)).map (signedOf 32), ext := ext }

def Desc.rank (d : Desc) : Nat := d.rankByte % 8
def Desc.sharded (d : Desc) : Bool := bitOf d.flags 0
def Desc.space (d : Desc) : Nat := fieldOf d.base 60 4
def Desc.extent (d : Desc) (i : Nat) : Nat := d.extents.getD i 0
def Desc.stride (d : Desc) (i : Nat) : Int := d.strides.getD i 0
/-- A plane dtype. -/
def Desc.isPlane (d : Desc) : Bool := d.dtype == 0x10 || d.dtype == 0x11
/-- The handle, and the address within the space (R148). -/
def Desc.handle (d : Desc) : Nat := fieldOf d.base 28 32
def Desc.addr (d : Desc) : Nat := if d.space = 2 then fieldOf d.base 0 28 else fieldOf d.base 0 60

/-- R149: the element size of a byte dtype; none for a code that is no byte dtype. -/
def dtypeSize (code : Nat) : Option Nat :=
  match code with
  | 1 => some 1 | 2 => some 1 | 3 => some 2 | 4 => some 2 | 5 => some 4 | 6 => some 4 | 7 => some 8 | 8 => some 8
  | 9 => some 2 | 0xA => some 2 | 0xB => some 4 | 0xC => some 8
  | _ => none

/-- R149: the dtype code is listed. -/
def dtypeListed (code : Nat) : Bool := (dtypeSize code).isSome || code == 0x10 || code == 0x11

/-- The element size; 1 for plane tensors, as R153 takes it. -/
def Desc.size (d : Desc) : Nat := (dtypeSize d.dtype).getD 1

/-- The bits of an element. -/
def Desc.width (d : Desc) : Nat := if d.isPlane then d.bits else 8 * d.size

/-! ### Sharding (R154, R155) -/

/-- The entry of a dimension in the extension: MODE, reserved byte, COUNT, INDEX. -/
def shardEntry (e : Bytes) (i : Nat) : Nat × Nat × Nat × Nat :=
  (leAt e (8 * i) 1, leAt e (8 * i + 1) 1, leAt e (8 * i + 2) 3, leAt e (8 * i + 5) 3)

/-- R155: the local extent of dimension `i`. -/
def Desc.localExtent (d : Desc) (i : Nat) : Nat :=
  match d.ext with
  | none => d.extent i
  | some e =>
    let x := shardEntry e i
    let n := d.extent i
    let b := (n + x.2.2.1 - 1) / x.2.2.1
    if x.1 = 1 then min n ((x.2.2.2 + 1) * b) - x.2.2.2 * b
    else if x.1 = 2 then (n - x.2.2.2 + x.2.2.1 - 1) / x.2.2.1
    else n

/-- R155, R156: the local coordinate of a global one in dimension `i`; none where it is out of bounds or held by
another shard. -/
def Desc.localCoord (d : Desc) (i : Nat) (g : Int) : Option Nat :=
  if g < 0 ∨ (d.extent i : Int) ≤ g then none
  else
    let g := g.toNat
    match d.ext with
    | none => some g
    | some e =>
      let x := shardEntry e i
      let b := (d.extent i + x.2.2.1 - 1) / x.2.2.1
      if x.1 = 1 then (if x.2.2.2 * b ≤ g ∧ g < (x.2.2.2 + 1) * b then some (g - x.2.2.2 * b) else none)
      else if x.1 = 2 then (if g % x.2.2.1 = x.2.2.2 then some (g / x.2.2.1) else none)
      else some g

/-! ### Footprints (R151, R152) -/

/-- The dimensions of a descriptor. -/
def Desc.dims (d : Desc) : List Nat := List.range d.rank

/-- The tensor has no element here. -/
def Desc.empty (d : Desc) : Bool := d.dims.any fun i => d.localExtent i == 0

/-- The sum over the dimensions of the part of s·(e − 1) that `f` keeps. -/
def Desc.span (d : Desc) (f : Int → Int) : Int :=
  (d.dims.map fun i => f (d.stride i * ((d.localExtent i : Int) - 1))).sum

/-- R151: PLANE_STRIDE. -/
def Desc.planeStride (d : Desc) : Int := d.stride 5

/-- R152: the footprint as an interval of addresses in its space, end excluded. -/
def Desc.footprint (d : Desc) : Int × Int :=
  let a : Int := d.addr
  if d.isPlane then (a, a + (d.bits - 1 : Nat) * d.planeStride + (d.span (max 0) + 8) / 8)
  else (a + d.span (min 0), a + d.span (max 0) + d.size)

/-- A footprint with the memory it lies in: the space, the handle of a buffer, the interval. -/
structure Foot where
  space : Nat
  handle : Nat
  lo : Int
  hi : Int
deriving DecidableEq, Repr

def Desc.foot (d : Desc) : Option Foot :=
  if d.empty then none
  else some { space := d.space, handle := if d.space = 2 then d.handle else 0, lo := d.footprint.1, hi := d.footprint.2 }

/-- Two footprints meet. -/
def Foot.meets (a b : Foot) : Bool :=
  a.space == b.space && a.handle == b.handle && decide (a.lo < b.hi) && decide (b.lo < a.hi)

/-! ### Rules whatever the role (R139 checks 2 and 3) -/

/-- Check 2 for a descriptor: reserved bits and unused encodings. -/
def Desc.reservedOk (d : Desc) : Bool :=
  d.rankByte / 8 == 0 && d.flags / 2 == 0 && dtypeListed d.dtype && decide (d.space ≤ 3) &&
    (decide (2 ≤ d.space) || fieldOf d.base 48 12 == 0) && (d.space != 3 || fieldOf d.base 23 37 == 0) &&
    (match d.ext with
      | none => true
      | some e => (List.range 6).all (fun i => (shardEntry e i).2.1 == 0 && decide ((shardEntry e i).1 ≤ 2)) && allZero (slice e 48 16))

/-- R154: the extension's entries. -/
def Desc.shardOk (d : Desc) : Bool :=
  if d.sharded then
    match d.ext with
    | none => false
    | some e => (List.range 6).all fun i =>
        let x := shardEntry e i
        if i < d.rank then decide (1 ≤ x.2.2.1) && decide (x.2.2.2 < x.2.2.1) && (x.1 != 0 || x.2.2.1 == 1)
        else x.1 == 0 && x.2.2.1 == 0 && x.2.2.2 == 0
  else true

/-- R150, R151: alignment and strides. -/
def Desc.layoutOk (d : Desc) : Bool :=
  if d.isPlane then
    d.dims.all (fun i => decide (0 ≤ d.stride i)) && d.extent 5 == 0 && decide (0 < d.planeStride) &&
      d.planeStride % 64 == 0 && decide ((d.span (max 0) + 8) / 8 ≤ d.planeStride) && d.addr % 64 == 0
  else d.dims.all (fun i => d.stride i % (d.size : Int) == 0) && d.addr % d.size == 0

/-- R147: ranks, widths, and zeros beyond the rank. -/
def Desc.shapeOk (d : Desc) : Bool :=
  decide (1 ≤ d.rank) && decide (d.rank ≤ if d.isPlane then 5 else 6) &&
    (if d.isPlane then (decide (1 ≤ d.bits) && decide (d.bits ≤ 7)) || d.bits == 12 else d.bits == 0) &&
    (List.range 6).all fun i => decide (i < d.rank) ||
      (d.extent i == 0 && (d.stride i == 0 || (d.isPlane && i == 5)))

/-- R148: the form of a SEALED descriptor. -/
def Desc.sealedOk (d : Desc) : Bool :=
  d.space != 1 || (d.dtype == 1 && d.rank == 1 && d.stride 0 == 16 && d.addr % 16 == 0)

/-- The list with an element in its place by stride. -/
def insertDim (x : Nat × Nat) : List (Nat × Nat) → List (Nat × Nat)
  | [] => [x]
  | y :: ys => if x.1 < y.1 then x :: y :: ys else y :: insertDim x ys

/-- R153 over the sorted dimensions: each |STRIDE| is at least the previous one times the previous extent. -/
def strideChain (least : Nat) : List (Nat × Nat) → Bool
  | [] => true
  | x :: xs => decide (least ≤ x.1) && strideChain (x.1 * x.2) xs

/-- R153: no two elements of an output share a byte. -/
def Desc.noAlias (d : Desc) : Bool :=
  let ds := (d.dims.filter fun i => decide (1 < d.localExtent i)).map fun i => ((d.stride i).natAbs, d.localExtent i)
  strideChain d.size (ds.foldr insertDim [])

/-- Check 3 for a descriptor by itself: what depends on the buffers and on the role's budget is apart. -/
def Desc.rulesOk (d : Desc) (output : Bool) : Bool :=
  d.shapeOk && d.shardOk && d.layoutOk && d.sealedOk && (!output || d.noAlias)

/-! ### Elements -/

/-- R149: the fill as an element. -/
def Desc.fillElem (d : Desc) : Nat :=
  if d.dtype = 8 then wordOf 64 (signedOf 32 d.fill) else d.fill % 2 ^ min d.width 64

/-- The local coordinates of a global position, if this engine holds it. -/
def Desc.localCoords (d : Desc) (c : List Int) : Option (List Nat) :=
  (d.dims.map fun i => d.localCoord i (c.getD i 0)).foldr
    (fun x acc => match x, acc with | some v, some vs => some (v :: vs) | _, _ => none) (some [])

/-- The sum of coordinate times stride. -/
def Desc.linear (d : Desc) (c : List Nat) : Int :=
  (d.dims.map fun i => d.stride i * (c.getD i 0 : Nat)).sum

/-- Byte and bit of plane `k` at linear position `l`. -/
def Desc.planeAt (d : Desc) (k : Nat) (l : Int) : Nat × Nat :=
  (((d.addr : Int) + k * d.planeStride + l / 8).toNat, (l % 8).toNat)

/-- R156: the element at a global position; `mem` gives the bytes of the tensor's space. -/
def Desc.read (d : Desc) (mem : Nat → Byte) (c : List Int) : Nat :=
  match d.localCoords c with
  | none => d.fillElem
  | some v =>
    let l := d.linear v
    if d.isPlane then
      ((List.range d.bits).map fun k =>
        let p := d.planeAt k l
        ofBool (bitOf (mem p.1).toNat p.2) * 2 ^ k).sum
    else
      let a := ((d.addr : Int) + l).toNat
      leNat ((List.range d.size).map fun i => mem (a + i))

/-- Bytes already written over a memory. -/
def overlay (m : Memory) (mem : Nat → Byte) (a : Nat) : Byte := (Tab.find m a).getD (mem a)

/-- What has been written to a tensor: the bytes, and the number of writes that were dropped. -/
structure Written where
  bytes : Memory := []
  dropped : Nat := 0
deriving DecidableEq, Repr

/-- R156: an element is written at a global position, or the write is dropped and counted. -/
def Desc.write (d : Desc) (mem : Nat → Byte) (w : Written) (c : List Int) (v : Nat) : Written :=
  match d.localCoords c with
  | none => { w with dropped := w.dropped + 1 }
  | some x =>
    let l := d.linear x
    if d.isPlane then
      { w with bytes := (List.range d.bits).foldl (fun m k =>
          let p := d.planeAt k l
          m.writeByte p.1 (putBit8 (overlay m mem p.1) p.2 (bitOf v k))) w.bytes }
    else { w with bytes := w.bytes.write ((d.addr : Int) + l).toNat (leBytes d.size v) }
where
  /-- A bit of a byte given a value. -/
  putBit8 (b : Byte) (i : Nat) (v : Bool) : Byte :=
    if v then b ||| BitVec.ofNat 8 (2 ^ i) else b &&& ~~~ BitVec.ofNat 8 (2 ^ i)

/-- All positions of a shape, the innermost dimension running fastest. -/
def positions : List Nat → List (List Nat)
  | [] => [[]]
  | e :: es => (positions es).flatMap fun c => (List.range e).map fun i => i :: c

/-- A position as integers. -/
def ints (c : List Nat) : List Int := c.map Int.ofNat

/-- The global shape. -/
def Desc.shape (d : Desc) : List Nat := d.extents.take d.rank

/-! ### Conversion (R159) -/

/-- The dtype is an integer or a plane. -/
def isIntDtype (code : Nat) : Bool := (decide (1 ≤ code) && decide (code ≤ 8)) || code == 0x10 || code == 0x11

/-- The floating format of a dtype. -/
def fmtOf (code : Nat) : Option Fmt :=
  match code with
  | 9 => some fp16 | 0xA => some bf16 | 0xB => some fp32
  | _ => none

/-- The dtype is signed. -/
def isSigned (code : Nat) : Bool := code == 2 || code == 4 || code == 6 || code == 8 || code == 0x11

/-- An element of an integer dtype as an integer. -/
def elemInt (code width v : Nat) : Int := if isSigned code then signedOf width v else v

/-- An integer brought into the range of an integer dtype, as its pattern. -/
def saturate (code width : Nat) (i : Int) : Nat :=
  if isSigned code then wordOf width (clampInt (-(2 ^ (width - 1) : Nat)) ((2 ^ (width - 1) : Nat) - 1) i)
  else wordOf width (clampInt 0 ((2 ^ width : Nat) - 1) i)

/-- R159: the pair of dtypes is listed. -/
def convListed (src dst : Desc) : Bool :=
  (src.dtype == dst.dtype) || ((isIntDtype src.dtype || (fmtOf src.dtype).isSome) && (isIntDtype dst.dtype || (fmtOf dst.dtype).isSome))

/-- R159: one element converted. A COPY between planes of different BITS goes by the row of integers and planes, which saturates: a
bit copy, the row of the same dtype, fits equal widths alone (DEDUCED, log 51). -/
def convElem (src dst : Desc) (v : Nat) : Nat :=
  if src.dtype = dst.dtype ∧ src.bits = dst.bits then v
  else match fmtOf src.dtype, fmtOf dst.dtype with
    | none, none => saturate dst.dtype dst.width (elemInt src.dtype src.width v)
    | none, some f => f.ofRat (elemInt src.dtype src.width v) 1
    | some f, some g => f.convert g v
    | some f, none =>
      match f.read v with
      | .nan => 0
      | .inf neg => saturate dst.dtype dst.width (if neg then -(2 ^ 70) else 2 ^ 70)
      | .fin neg m e => let r := finRat neg m e; saturate dst.dtype dst.width (roundEven r.1 r.2)

/-! ### The COPY role (R158 to R164) -/

/-- A position with one coordinate replaced. -/
def withCoord (c : List Int) (dim : Nat) (i : Int) : List Int := c.set dim i

/-- R157: the index that position `i` of an index tensor gives, none where it selects nothing of `extent`. -/
def Desc.indexAt (d : Desc) (mem : Nat → Byte) (extent : Nat) (i : Int) : Option Nat :=
  let v := elemInt d.dtype d.width (d.read mem [i])
  if v < 0 ∨ (extent : Int) ≤ v then none else some v.toNat

end Sys2Proof.Machine
end

