-- ==== Sys2Proof/Machine/Work.lean ====
section
/-!
DEFINITION. What the engine keeps of a RUN_LIST entry in execution: its counts, its completion, its abort
(R120 to R122, R347, R452, R457, R463, R464).
-/

namespace Sys2Proof.Machine

/-- R347: a timing-dependent choice: the queue's counter, the global counter and the entry's count. -/
def State.addNdc (s : State) (e : Nat) : State :=
  match Tab.find s.runs e with
  | none => s
  | some r =>
    let s := s.modRun e fun r => { r with ndc := r.ndc + 1 }
    let s := s.modQueue r.queue fun q => { q with ndc := satAdd 64 q.ndc 1 }
    s.modDet fun d => { d with ndcGlobal := satAdd 64 d.ndcGlobal 1 }

/-- R121: the affected sample of the lowest global index, as (index, reason). -/
def firstAffected : List (Nat × Nat) → Option (Nat × Nat)
  | [] => none
  | a :: as =>
    match firstAffected as with
    | none => some a
    | some b => if b.1 < a.1 then some b else some a

/-- R121: the status of a list that ran to its end. -/
def Run.listStatus (r : Run) : Nat :=
  match r.affected with
  | [] => 0x00
  | a :: as => if as.all fun b => b.2 == a.2 then a.2 else 0x01

/-- R463: the status that a RUN_LIST entry takes. -/
def Run.status (r : Run) (halt : Bool) : Nat :=
  if halt then 0x73
  else if r.dropped then 0x60
  else if r.diverged then 0x52
  else if r.folded then 0x71
  else if r.retried then 0x70
  else r.listStatus

/-- R122: RESULT. -/
def Run.result (r : Run) : Nat :=
  min r.ciphertexts (2 ^ 32 - 1) + 2 ^ 32 * min r.oob 65535 +
    2 ^ 48 * (match firstAffected r.affected with | none => 0 | some a => a.2) + 2 ^ 56 * min r.drops 255

/-- R120: the completion of a RUN_LIST entry. The record that a completion adds is that of a divergence (R352; log 20). -/
def Run.compl (r : Run) (halt : Bool) (b : Bytes) : Compl :=
  { cid := entCid b, status := r.status halt, voids := min r.voided.length (2 ^ 32 - 1),
    ndc := min r.ndc 65535,
    flags := ofBool r.shifted + 2 * ofBool r.recorded + 4 * ofBool (decide (65535 < r.ndc)),
    result := r.result, opaqueLo := entOpaqueLo b, noIrq := entNoIrq b }

/-- The completion formed for one taken entry of a queue. -/
def setCompl (e : Nat) (c : Compl) (ts : List Taken) : List Taken :=
  ts.map fun t => if t.serial = e ∧ t.compl = none then { t with compl := some c } else t

/-- The entry's bytes. -/
def takenBytes (e : Nat) (ts : List Taken) : Bytes :=
  match ts.find? fun t => t.serial = e with
  | none => []
  | some t => t.bytes

/-- R348: the ledger record of an entry takes its count. -/
def setNdc (e n : Nat) (ts : List Taken) : List Taken :=
  ts.map fun t => if t.serial = e then { t with ledger := t.ledger.map fun l => { l with ndc := min n 65535 } } else t

/-- The points of an entry leave its Chorus lane. -/
def State.dropPoints (s : State) (e : Nat) : State :=
  s.modDet fun d => { d with lanes := Tab.mapVals (fun _ l =>
    let h := l.here.filter fun p => p.serial != e
    { l with here := h, stalled := decide (65536 ≤ h.length) }) d.lanes }

/-- The entry ends: its completion is formed from its counts, and nothing of it is left in execution. -/
def State.endRun (s : State) (e : Nat) : State :=
  match Tab.find s.runs e with
  | none => s
  | some r =>
    let b := takenBytes e (s.queue r.queue).taken
    let s := s.modQueue r.queue fun q => { q with taken := setNdc e r.ndc (setCompl e (r.compl s.faults.halt b) q.taken) }
    let s := (s.dropPoints e).dropWork e
    { s with runs := Tab.del s.runs e, jobs := s.jobs.filter fun j => j.2.run != e }

/-- Some manifest of the entry is not yet written (R309). -/
def State.manifestsOpen (s : State) (e : Nat) : Bool := s.pke.held.any fun m => m.2.run == e

/-- Some point of the entry waits for its partner (R352). -/
def State.pointsOpen (s : State) (e : Nat) : Bool := s.det.lanes.any fun l => l.2.here.any fun p => p.serial == e

/-- R352: the rank of a stage. -/
def stageRank (c : Nat) : Nat :=
  match c with
  | 5 => 2 | 0x11 => 3 | 6 => 4 | 8 => 5 | 9 => 6
  | _ => 1

/-- R352: a divergence comes before another. -/
def Divergence.before (a b : Divergence) : Bool :=
  decide (a.step < b.step) || (a.step == b.step && (decide (stageRank a.stage < stageRank b.stage) ||
    (stageRank a.stage == stageRank b.stage && decide (a.index < b.index))))

/-- R352: the first divergence of a list. -/
def firstDiv : List Divergence → Option Divergence
  | [] => none
  | d :: ds => match firstDiv ds with | none => some d | some x => if x.before d then some x else some d

/-- R352: the first divergence of an entry marks it, is latched in its lane if none is latched there, and adds one AUDIT
record. -/
def State.settleDivs (s : State) (e : Nat) : State :=
  match Tab.find s.runs e with
  | none => s
  | some r =>
    match firstDiv r.divs, (s.queue r.queue).chorus with
    | some d, some l =>
      let x := Tab.getD s.det.lanes l {}
      let s := s.modRun e fun r => { r with diverged := true, recorded := true }
      let s := if x.diverged.bits != 0 then s else s.modDet fun m =>
        { m with lanes := Tab.put m.lanes l { x with diverged := x.diverged.set 0 s.now, divStep := d.step, divIndex := d.index, divStage := d.stage, divTile := d.tile, missing := d.missing } }
      s.record 4 0x0501 2 (leBytes 8 d.step ++ leBytes 8 d.index ++ leBytes 1 d.stage ++ leBytes 2 d.tile)
    | some _, none => s.modRun e fun r => { r with diverged := true }
    | none, _ => s

/-- R24, R309, R352: an entry whose list has ended completes once all its manifests have been written and all its points
are matched or have timed out. -/
def State.settleRun (s : State) (e : Nat) : State :=
  match Tab.find s.runs e with
  | none => s
  | some r => if r.ended && !s.manifestsOpen e && !s.pointsOpen e then (s.settleDivs e).endRun e else s

/-- R310: the Spawns of an entry leave the seal fabric, and the key areas that its passes used are moulted; 64 zero bytes go to the header slot of every column that has
received a limb and no header. -/
def State.dropSeals (s : State) (e : Nat) : State :=
  let mine := s.seals.filter fun x => x.2.run == e
  let cols := mine.flatMap fun x => (x.2.rows.filter SealRow.touched).map SealRow.column
  let s := cols.foldl (fun s a => s.emit (.interior a (zeroBytes 64))) s
  let s := mine.foldl (fun s x => s.modRegion x.2.region fun w => { w with sealBusy := false }) s
  let s := match Tab.find s.runs e with
    | none => s
    | some r => r.keyTiles.foldl (fun s id => s.modTile id fun t => { t with keys := t.keys.filter fun k => k.1 != r.label || k.2.1 != r.gen }) s
  { s with seals := s.seals.filter fun x => x.2.run != e }

/-- R310, R402: the manifests of an entry that are not yet written are discarded. -/
def State.dropManifests (s : State) (e : Nat) : State :=
  s.modPke fun p =>
    { p with manifests := p.manifests.filter fun n => !(p.held.any fun m => m.1 == n && m.2.run == e),
             held := p.held.filter fun m => m.2.run != e }

/-- Every entry in execution that satisfies `p` is marked by `f`. -/
def State.markRuns (s : State) (p : Run → Bool) (f : Run → Run) : State :=
  { s with runs := Tab.mapVals (fun _ r => if p r then f r else r) s.runs }

end Sys2Proof.Machine
end

