-- ==== Sys2Proof/Machine/Lists.lean ====
section
/-!
DEFINITION. Command lists (05_stage_programs_and_tensors.md, R135 to R141): parsing, the header rules, the
context and slots of a list, the snapshot that a START takes, and the fields of an SCB (R145).
-/

namespace Sys2Proof.Machine

/-! ### Parsing (R135 to R137) -/

/-- R137: the stage codes. -/
def isStage (c : Nat) : Bool := (decide (1 ≤ c) && decide (c ≤ 9)) || c == 0x10 || c == 0x11

/-- R136, R137: opcode, stage and length of a command, and that a DESC stays within the slots. -/
def cmdShapeOk (c : ListCmd) : Bool :=
  match c.op with
  | 0 | 5 | 7 => c.len == 0
  | 1 => decide (8 ≤ c.len) && c.len % 8 == 0 && decide (c.arg % 64 + c.len / 8 ≤ 64)
  | 2 => isStage c.stage && decide (8 ≤ c.len) && decide (c.len ≤ 64)
  | 3 => isStage c.stage && c.len == 1
  | 4 => isStage c.stage && c.len == 0
  | _ => false

/-- The command at the head of a string, if the string holds it whole. -/
def cmdAt (b : Bytes) : Option (ListCmd × Bytes) :=
  if b.length < 8 then none
  else
    let w := leAt b 0 8
    let len := fieldOf w 16 16
    let rest := b.drop 8
    if rest.length < 8 * len then none
    else some ({ op := fieldOf w 0 8, stage := fieldOf w 8 8, len := len, arg := fieldOf w 32 32, payload := rest.take (8 * len) },
      rest.drop (8 * len))

/-- Check 1: the commands of a list, the last of them its one END (`fuel` bounds their number). -/
def parseCmds : Nat → Bytes → Option (List ListCmd)
  | 0, _ => none
  | f + 1, b =>
    match cmdAt b with
    | none => none
    | some (c, rest) =>
      if !cmdShapeOk c then none
      else if c.op = 7 then (if rest.isEmpty then some [c] else none)
      else (parseCmds f rest).map (c :: ·)

/-- R135 to R137: check 1 of R139 over a whole list. -/
def parseList (b : Bytes) : Option (List ListCmd) :=
  match parseCmds (b.length / 8 + 1) b with
  | none => none
  | some cs => if (cs.filter fun c => c.op == 4).length ≤ 4096 then some cs else none

/-- R137: the reserved parts of a command's header (check 2). -/
def cmdReservedOk (c : ListCmd) : Bool :=
  match c.op with
  | 0 | 7 => c.stage == 0 && c.arg == 0
  | 1 => c.stage == 0 && decide (c.arg < 64)
  | 2 => c.arg == 0
  | 3 => decide (c.arg < 64)
  | 4 => decide (c.arg < 256)
  | _ => c.stage == 0 && decide (c.arg < 512)

/-! ### Contexts and slots (R138) -/

/-- The context words of a stage. -/
def ListCtx.words (x : ListCtx) (stage : Nat) : List Nat := Tab.getD x.ctxs stage (List.replicate 64 0)

/-- The descriptors of a DESC, each with whether it is the extension of the one before (R154). -/
def descParts : Bool → List Bytes → List (Bytes × Bool)
  | _, [] => []
  | isExt, d :: ds => (d, isExt) :: descParts (!isExt && bitOf (leAt d 10 1) 0) ds

/-- A DESC fills slots. -/
def putSlots (group : Nat) : Nat → List (Bytes × Bool) → Tab Slot → Tab Slot
  | _, [], t => t
  | i, (d, e) :: ds, t => putSlots group (i + 1) ds (Tab.put t i { raw := d, isExt := e, group := group })

/-- DESC, LOAD_SCB and WRITE_REG change contexts and slots at once; `n` is the command's place in its list. -/
def ListCtx.apply (x : ListCtx) (n : Nat) (c : ListCmd) : ListCtx :=
  match c.op with
  | 1 => { x with slots := putSlots n (c.arg % 64) (descParts false (chunks 64 c.payload)) x.slots }
  | 2 => { x with ctxs := Tab.put x.ctxs c.stage ((leWords 8 c.payload ++ List.replicate 64 0).take 64) }
  | 3 => { x with ctxs := Tab.put x.ctxs c.stage ((x.words c.stage).set (c.arg % 64) (leNat c.payload)) }
  | _ => x

/-- R154: the sharding extension of a slot: the next slot, written by the same DESC as one. -/
def ListCtx.extOf (x : ListCtx) (i : Nat) (s : Slot) : Option Bytes :=
  if bitOf (leAt s.raw 10 1) 0 then
    match Tab.find x.slots (i + 1) with
    | some e => if e.isExt && e.group == s.group then some e.raw else none
    | none => none
  else none

/-! ### Snapshots (R141, R145) -/

/-- Byte `i` of a context. -/
def ctxByte (words : List Nat) (i : Nat) : Nat := fieldOf (words.getD (i / 8) 0) (8 * (i % 8)) 8

/-- The slots that an SCB names: TD_IN, TD_OUT, TD_IDX. -/
def namedSlots (words : List Nat) : List Nat := ((List.range 12).map fun i => ctxByte words (4 + i)).filter fun k => k != 0xFF

/-- R141: what a START snapshots. -/
def ListCtx.snap (x : ListCtx) (stage tag : Nat) : Snap :=
  let words := x.words stage
  { stage := stage, tag := tag, words := words,
    descs := (namedSlots words).foldl (fun t k =>
      match Tab.find x.slots k with
      | some s => if s.isExt then t else Tab.put t k (s.raw, x.extOf k s)
      | none => t) [] }

def Snap.byte (p : Snap) (i : Nat) : Nat := ctxByte p.words i
def Snap.half (p : Snap) (i : Nat) : Nat := p.byte i + 256 * p.byte (i + 1)
def Snap.body (p : Snap) (i : Nat) : Nat := p.words.getD (8 + i) 0
/-- A field of a body word. -/
def Snap.fld (p : Snap) (word lo width : Nat) : Nat := fieldOf (p.body word) lo width
def Snap.bit (p : Snap) (word i : Nat) : Bool := bitOf (p.body word) i
def Snap.role (p : Snap) : Nat := p.byte 0
def Snap.bodyWords (p : Snap) : Nat := p.half 2
def Snap.inSlot (p : Snap) (i : Nat) : Nat := p.byte (4 + i)
def Snap.outSlot (p : Snap) (i : Nat) : Nat := p.byte (8 + i)
def Snap.idxSlot (p : Snap) (i : Nat) : Nat := p.byte (12 + i)
def Snap.loop (p : Snap) (i : Nat) : Nat := p.byte (16 + 3 * i) + 256 * p.byte (17 + 3 * i) + 65536 * p.byte (18 + 3 * i)
def Snap.split (p : Snap) : Nat := p.byte 28
def Snap.streamIn (p : Snap) : Bool := bitOf (p.byte 29) 0
def Snap.streamOut (p : Snap) : Bool := bitOf (p.byte 29) 1
def Snap.sampleFirst (p : Snap) : Nat := fieldOf (p.words.getD 4 0) 0 32
def Snap.sampleSpan (p : Snap) : Nat := fieldOf (p.words.getD 4 0) 32 32
def Snap.routeIn (p : Snap) : Nat := p.half 40
def Snap.routeOut (p : Snap) : Nat := p.half 42

/-- The descriptor of a slot number; none for 0xFF. -/
def Snap.descAt (p : Snap) (k : Nat) : Option Desc := (Tab.find p.descs k).map fun d => descOf d.1 d.2
def Snap.input (p : Snap) (i : Nat) : Option Desc := p.descAt (p.inSlot i)
def Snap.output (p : Snap) (i : Nat) : Option Desc := p.descAt (p.outSlot i)
def Snap.index (p : Snap) (i : Nat) : Option Desc := p.descAt (p.idxSlot i)

/-- The tensors that a job reads: its inputs and indices. -/
def Snap.reads (p : Snap) : List Desc := (List.range 4).filterMap p.input ++ (List.range 4).filterMap p.index

/-- The samples of a job: R145's first sample and span over an entry of `count` samples. -/
def Snap.samples (p : Snap) (count : Nat) : Nat :=
  if p.sampleSpan = 0 then count - p.sampleFirst else p.sampleSpan

/-! ### The order of the jobs of a list (R140, R142) -/

/-- A START of a list, with the jobs before it that are not concurrent with it. -/
structure Started where
  snap : Snap
  index : Nat
  after : List Nat
deriving DecidableEq, Repr

/-- The walk over a list: contexts, jobs so far with their tags, jobs waited for, and whether the tag rules hold. -/
structure Walk where
  ctx : ListCtx := {}
  tags : Tab Nat := []
  waited : List Nat := []
  starts : List Started := []
  tagsOk : Bool := true

/-- R140: one command of the walk. -/
def Walk.step (w : Walk) (n : Nat) (c : ListCmd) : Walk :=
  match c.op with
  | 4 =>
    let tag := c.arg % 256
    { w with tags := Tab.put w.tags tag w.starts.length, tagsOk := w.tagsOk && (Tab.find w.tags tag).isNone,
             starts := w.starts ++ [{ snap := w.ctx.snap c.stage tag, index := w.starts.length, after := w.waited }] }
  | 5 =>
    let tag := c.arg % 256
    if bitOf c.arg 8 then
      { w with tags := [], waited := List.range w.starts.length, tagsOk := w.tagsOk && tag == 0 }
    else match Tab.find w.tags tag with
      | none => { w with tagsOk := false }
      | some j => { w with tags := Tab.del w.tags tag, waited := j :: w.waited }
  | _ => { w with ctx := w.ctx.apply n c }

/-- The walk over the commands from place `n` on. -/
def walkFrom : Nat → List ListCmd → Walk → Walk
  | _, [], w => w
  | n, c :: cs, w => walkFrom (n + 1) cs (w.step n c)

def walkList (cs : List ListCmd) : Walk := walkFrom 0 cs {}

/-! ### Bytes in host memory that a command carries (log 3) -/

/-- The byte at a host address, as the command's reads found it: the first string that holds it; 0 where none does
(log 3). -/
def hostByte : HostMem → Nat → Byte
  | [], _ => 0
  | (a, bs) :: m, k => if a ≤ k ∧ k < a + bs.length then bs.getD (k - a) 0 else hostByte m k

end Sys2Proof.Machine
end

