-- ==== Sys2Proof/Machine/Draws.lean ====
section
/-!
DEFINITION. Host-seeded draws (R316 to R320), and the memory that a job's tensors lie in: reading, storing and
counting writes that are dropped (R148, R156).
-/

namespace Sys2Proof.Machine

/-! ### Draws -/

/-- R316: a block as the 512-bit integer Z. -/
def blockOf (key : Bytes) (counter : Nat) (nonce : Bytes) : Nat := leNat (chachaBlock key counter nonce)

/-- R319: a host-seeded block. -/
def hostBlock (seed : Bytes) (streamId sample stage counter : Nat) : Nat :=
  blockOf seed counter (leBytes 2 streamId ++ leBytes 6 sample ++ leBytes 1 stage ++ zeroBytes 3)

/-- R317: 32-bit field k, 16-bit field k, 64-bit window k, 2-bit field k. -/
def field32 (z k : Nat) : Nat := fieldOf z (32 * k) 32
def field16 (z k : Nat) : Nat := fieldOf z (16 * k) 16
def window64 (z k : Nat) : Nat := fieldOf z (64 * k) 64
def field2 (z k : Nat) : Nat := fieldOf z (2 * k) 2

/-! ### Memory of a job's tensors -/

/-- The bytes of the space that a tensor lies in. -/
def State.bytesOfTensor (s : State) (e stage : Nat) (host : HostMem) (d : Desc) : Nat → Byte :=
  match d.space with
  | 2 => fun a =>
    match Tab.find s.pool.buffers d.handle, Tab.find s.runs e with
    | some b, some r => if s.accepts r b then b.byte (s.label b.label).kMem a else Config.noData d.handle a
    | _, _ => Config.noData d.handle a
  | 3 => fun a =>
    match Tab.find s.runs e with
    | some r => (Tab.find (Tab.getD r.scratch stage []) a).getD (Config.scratchByte e stage a)
    | none => 0
  | _ => hostByte host

/-- The listed bytes as strings of consecutive addresses; `run` is the string being built, newest byte first. -/
def stringsOf : Memory → Nat → Bytes → List (Nat × Bytes)
  | [], a, run => if run.isEmpty then [] else [(a, run.reverse)]
  | (k, b) :: m, a, run =>
    if run.isEmpty then stringsOf m k [b]
    else if k = a + run.length then stringsOf m a (b :: run)
    else (a, run.reverse) :: stringsOf m k [b]

/-- Written bytes reach the space of their tensor; a buffer of another matter discards them (R19, R360). -/
def State.store (s : State) (e stage : Nat) (d : Desc) (m : Memory) : State :=
  match d.space with
  | 2 =>
    match Tab.find s.pool.buffers d.handle, Tab.find s.runs e with
    | some b, some r =>
      if s.accepts r b then
        s.modPool fun p => { p with buffers := Tab.put p.buffers d.handle (b.write (s.label b.label).kMem m) }
      else s.discard r.label d.handle
    | _, _ => s
  | 3 => s.modRun e fun r =>
      { r with scratch := Tab.put r.scratch stage (Memory.merge (Tab.getD r.scratch stage []) m) }
  | _ => (stringsOf m 0 []).foldl (fun s x => s.emit (.interior x.1 x.2)) s

/-- R19, R359: a job's reads of buffers that do not accept its accesses: one FAULT record for each. -/
def State.judgeReads (s : State) (r : Run) (ds : List Desc) : State :=
  ds.foldl (fun s d =>
    match d.space, Tab.find s.pool.buffers d.handle with
    | 2, some b => if s.accepts r b then s else s.discard r.label d.handle
    | _, _ => s) s

/-- R156: dropped writes count in RESULT[47:32] of the entry. -/
def State.countOob (s : State) (e n : Nat) : State := s.modRun e fun r => { r with oob := r.oob + n }

/-- Elements written to a tensor at global positions, with the dropped ones counted. -/
def State.writeElems (s : State) (e stage : Nat) (d : Desc) (es : List (List Nat × Nat)) : State :=
  let mem := s.bytesOfTensor e stage [] d
  let w := es.foldl (fun w x => d.write mem w (ints x.1) x.2) {}
  (s.store e stage d w.bytes).countOob e w.dropped

/-- One element of a tensor at a global position. -/
def State.readElem (s : State) (e stage : Nat) (host : HostMem) (d : Desc) (c : List Nat) : Nat :=
  d.read (s.bytesOfTensor e stage host d) (ints c)

/-- R157: element `i` of an index tensor, or what the index selects of `extent`. -/
def State.readIndex (s : State) (e stage : Nat) (host : HostMem) (d : Desc) (extent i : Nat) : Option Nat :=
  d.indexAt (s.bytesOfTensor e stage host d) extent i

/-! ### Notes that stages make about samples -/

/-- R121, R264: a sample of an entry is affected, with the first reason that it meets; a void takes the place of concealment.
`lost` says that a value of it is voided. -/
def Run.affect (r : Run) (sample reason : Nat) (lost : Bool) : Run :=
  { r with
    affected :=
      if r.affected.any fun a => a.1 == sample then
        (if lost && !r.voided.contains sample then r.affected.map fun a => if a.1 = sample ∧ a.2 = 0x23 then (sample, reason) else a
         else r.affected)
      else r.affected ++ [(sample, reason)],
    voided := if lost && !r.voided.contains sample then r.voided ++ [sample] else r.voided }

end Sys2Proof.Machine
end

