-- ==== Sys2Proof/Machine/Sequencer.lean ====
section
/-!
DEFINITION. Sequencers (R45, R62): what the loader asks of loops, and the count registers and iteration counters of the four
loop levels.
-/

namespace Sys2Proof.Machine

open Config (SeqOp)

/-! ### The loader's check (R45) -/

/-- Every loop start has a matching end, and no loop nests deeper than four; `levels` are those of the loops that are open. -/
def loopsMatch : List SeqOp → (levels : List Nat) → Bool
  | [], levels => levels.isEmpty
  | .start l :: ops, levels => decide (l < 4) && decide (levels.length < 4) && loopsMatch ops (l :: levels)
  | .stop l :: ops, levels => levels.head? == some l && loopsMatch ops levels.tail
  | _ :: ops, levels => loopsMatch ops levels

/-- R45: the code of a MICROCODE entry or record passes the loader. -/
def microcodeOk (code : Bytes) : Bool :=
  match Config.microcode code with
  | none => false
  | some ops => loopsMatch ops []

/-! ### Running (R62) -/

/-- How many instructions on the one after the matching end stands; `deep` loops are open within. -/
def pastEnd : List SeqOp → (deep : Nat) → Nat
  | [], _ => 0
  | .start _ :: ops, deep => pastEnd ops (deep + 1) + 1
  | .stop _ :: ops, deep => if deep = 0 then 1 else pastEnd ops (deep - 1) + 1
  | _ :: ops, deep => pastEnd ops deep + 1

/-- The same backwards from an end: how many instructions back the one after the matching start stands. -/
def pastStart : List SeqOp → (deep : Nat) → Nat
  | [], _ => 0
  | .stop _ :: ops, deep => pastStart ops (deep + 1) + 1
  | .start _ :: ops, deep => if deep = 0 then 0 else pastStart ops (deep - 1) + 1
  | _ :: ops, deep => pastStart ops deep + 1

/-- The count register of a level, and its iteration counter. -/
def Sequencer.count (q : Sequencer) (l : Nat) : Nat := q.counts.getD l 0
def Sequencer.iter (q : Sequencer) (l : Nat) : Nat := q.iters.getD l 0

/-- R62: a loop start samples the count; zero skips the body. -/
def Sequencer.loopStart (ops : List SeqOp) (q : Sequencer) (l : Nat) : Sequencer :=
  { q with iters := q.iters.set l (q.count l),
           pc := if q.count l = 0 then q.pc + 1 + pastEnd (ops.drop (q.pc + 1)) 0 else q.pc + 1 }

/-- R62: a loop end counts the iteration, and returns to the start while any is left. -/
def Sequencer.loopEnd (ops : List SeqOp) (q : Sequencer) (l : Nat) : Sequencer :=
  let n := q.iter l - 1
  { q with iters := q.iters.set l n, pc := if n = 0 then q.pc + 1 else q.pc - pastStart (ops.take q.pc).reverse 0 }

/-- R62: bits above [23:0] of a written count are ignored. -/
def Sequencer.write (q : Sequencer) (l n : Nat) : Sequencer := { q with counts := q.counts.set l (n % 2 ^ 24) }

/-- One instruction; after the last, the next unit of work begins. -/
def Sequencer.step (ops : List SeqOp) (q : Sequencer) : Sequencer :=
  match ops[q.pc]? with
  | none => { q with pc := 0 }
  | some (.start l) => q.loopStart ops l
  | some (.stop l) => q.loopEnd ops l
  | some (.move l n) => { q.write l n with pc := q.pc + 1 }
  | some .other => { q with pc := q.pc + 1 }

/-- `n` instructions. -/
def Sequencer.run (ops : List SeqOp) : Nat → Sequencer → Sequencer
  | 0, q => q
  | n + 1, q => Sequencer.run ops n (q.step ops)

/-- The count registers as an SCB writes them. -/
def Sequencer.load (counts : List Nat) : Sequencer := { counts := counts.map (· % 2 ^ 24) }

/-- The tiles bound to a role in ascending logical order. -/
def State.unitsOf (s : State) (role : Nat) : List Nat := (s.sil.bind.filter fun b => s.roleAt b.1 == role).map Prod.snd

/-- The code that a role's tiles run. -/
def State.codeOf (s : State) (role : Nat) : List SeqOp :=
  let b := Tab.getD s.sil.banks role {}
  (((if b.active = 0 then b.bank0 else b.bank1).bind Config.microcode)).getD []

/-- R62: a tile's sequencer has run a unit of work. -/
def State.runUnit (s : State) (id : Nat) : Sequencer :=
  (s.tile id).seq.run (s.codeOf (s.tile id).role) (Config.seqSteps id s.now)

/-- R62: a Tail drop or a watchdog abort discards a tile's loop state. -/
def State.dropLoops (s : State) (id : Nat) : State := s.modTile id fun t => { t with seq := {} }

end Sys2Proof.Machine
end

