-- ==== Sys2Proof/Machine/Copy.lean ====
section
/-!
DEFINITION. The COPY role (R158 to R164): what a job writes from the contents at its start, block by block; and the Tail drop
of an entry (R464), which may find some of its blocks written.
-/

namespace Sys2Proof.Machine

/-! ### Jobs -/

def State.job? (s : State) (j : Nat) : Option Job := Tab.find s.jobs j
def State.modJob (s : State) (j : Nat) (f : Job → Job) : State :=
  match Tab.find s.jobs j with
  | none => s
  | some x => { s with jobs := Tab.put s.jobs j (f x) }

/-- The jobs of an entry, in the order of their STARTs. -/
def State.jobsOf (s : State) (e : Nat) : List (Nat × Job) := s.jobs.filter fun j => j.2.run == e

/-- The place of a job among its entry's STARTs. -/
def State.placeOf (s : State) (e j : Nat) : Nat := ((s.jobsOf e).map Prod.fst).idxOf j

/-! ### What a COPY writes -/

def copyMode (p : Snap) : Nat := p.fld 0 0 4
def copyDim (p : Snap) : Nat := p.fld 0 8 3

/-- R160: an exact in-place square transpose. -/
def inPlace (p : Snap) (a b : Desc) : Bool :=
  copyMode p == 1 && a.base == b.base && a.dtype == b.dtype && a.rank == b.rank && a.extents == b.extents &&
    a.strides == b.strides && a.extent 0 == a.extent 1

/-- R160, R448: the block of 64 by 64 of the two innermost dimensions that a position lies in; of an in-place transpose, a
block and its mirror are one. -/
def blockNo (swap : Bool) (shape c : List Nat) : Nat :=
  let n := (shape.getD 0 1 + 63) / 64
  let m := (shape.getD 1 1 + 63) / 64
  let x := c.getD 0 0 / 64
  let y := c.getD 1 0 / 64
  let p := if swap then (min x y, max x y) else (x, y)
  p.1 + n * (p.2 + m * (List.zip (c.drop 2) (shape.drop 2)).foldr (fun a r => a.1 + a.2 * r) 0)

/-- R159 to R163: the elements that a COPY writes, as (block, place, value), with the number that no index names a place for.
`sm` gives the bytes of the source, `idx` what the index tensor selects. -/
def copyElems (mode dim : Nat) (swap : Bool) (src dst : Desc) (sm : Nat → Byte) (idx : Nat → Option Nat) :
    List (Nat × List Int × Nat) × Nat :=
  if mode = 3 then
    let ps := positions src.shape
    (ps.filterMap fun c =>
      let i := c.getD dim 0
      match idx i with
      | none => none
      -- of several positions that name one place the highest is kept
      | some k =>
        if (List.range (src.extent dim)).any fun j => decide (i < j) && idx j == some k then none
        else some (blockNo false src.shape c, withCoord (ints c) dim k, convElem src dst (src.read sm (ints c))),
      (ps.filter fun c => (idx (c.getD dim 0)).isNone).length)
  else
    ((positions dst.shape).map fun c =>
      let v := match mode with
        | 0 => src.read sm (ints c)
        | 1 => src.read sm (ints (c.set 0 (c.getD 1 0) |>.set 1 (c.getD 0 0)))
        | _ => match idx (c.getD dim 0) with
          | none => src.fillElem
          | some k => src.read sm (withCoord (ints c) dim k)
      (blockNo swap dst.shape c, ints c, convElem src dst v), 0)

/-- The elements of each block. -/
def byBlock (es : List (Nat × List Int × Nat)) : Tab (List (List Int × Nat)) :=
  es.foldl (fun t x => Tab.put t x.1 (Tab.getD t x.1 [] ++ [x.2])) []

/-- R157: what the index tensor of a COPY selects. -/
def State.copyIndex (s : State) (x : Job) (host : HostMem) (i : Nat) : Option Nat :=
  let p := x.snap
  match p.index 0 with
  | none => none
  | some d =>
    let t := if copyMode p = 2 then p.input 0 else p.output 0
    s.readIndex x.run 7 host d (match t with | some t => t.extent (copyDim p) | none => 0) i

/-- R164: what a COPY job writes, from the contents as they stand; what comes by a stream is free (log 44). -/
def State.copyPlan (s : State) (j : Nat) (x : Job) (host : HostMem) : Tab (List (List Int × Nat)) × Nat :=
  let p := x.snap
  match p.output 0 with
  | none => ([], 0)
  | some dst =>
    match p.input 0 with
    | some src =>
      let es := copyElems (copyMode p) (copyDim p) (inPlace p src dst) src dst (s.bytesOfTensor x.run 7 host src) (s.copyIndex x host)
      (byBlock es.1, es.2)
    | none =>
      let ps := positions dst.shape
      (byBlock ((List.range ps.length).map fun i =>
        (blockNo false dst.shape (ps.getD i []), ints (ps.getD i []), Config.copyIn x.run (s.placeOf x.run j) i)), 0)

/-- The blocks of a COPY job that satisfy `f` are written. -/
def State.putCopy (s : State) (x : Job) (f : Nat → Bool) : State :=
  match x.snap.output 0 with
  | none => s
  | some dst =>
    let mem := s.bytesOfTensor x.run 7 [] dst
    let w := ((x.copy.filter fun b => f b.1).flatMap Prod.snd).foldl (fun w c => dst.write mem w c.1 c.2) {}
    (s.store x.run 7 dst w.bytes).countOob x.run w.dropped

/-! ### Tail drop (R464) -/

/-- R160, R448: when an entry ends by a Tail drop, each block of its running COPY jobs is written whole or not at all; which
are is not said (Config.copyDone, log 72). -/
def State.dropCopies (s : State) (e : Nat) : State :=
  ((s.jobsOf e).filter fun j => j.2.stage == 7 && j.2.running).foldl (fun s j =>
    s.putCopy j.2 (Config.copyDone e (s.placeOf e j.1))) s

/-- R62: the loop state of the tiles that worked on an entry. -/
def State.dropEntryLoops (s : State) (e : Nat) : State :=
  (((s.jobsOf e).filter fun j => j.2.running).flatMap fun j => s.unitsOf j.2.stage).foldl State.dropLoops s

/-- R464: Tail drop of an entry: it completes with ABORTED_TAIL_DROP, and what it held is moulted. -/
def State.dropRun (s : State) (e : Nat) : State :=
  (((((s.dropCopies e).dropEntryLoops e).modRun e fun r => { r with dropped := true }).dropSeals e).dropManifests e).endRun e

/-- Every entry in execution that satisfies `p` is Tail dropped. -/
def State.dropRuns (s : State) (p : Run → Bool) : State :=
  ((s.runs.filter fun x => p x.2).map Prod.fst).foldl State.dropRun s

end Sys2Proof.Machine
end

