-- ==== Sys2Proof/Machine/Erase.lean ====
section
/-!
DEFINITION. Fence, lift and erasure of a matter (R88 to R97), and the admin completions that they bring.
-/

namespace Sys2Proof.Machine

/-! ### Admin completions (R125) -/

/-- An admin completion is formed. -/
def State.adminDone (s : State) (b : Bytes) (status result : Nat) : State :=
  s.modQg fun g => { g with due := g.due ++ [complOf b status result] }

/-- The admin command that runs completes. While the Steward restarts, every command but PK_JOB waits for it
(R419). -/
def State.finishAdmin (s : State) (status result : Nat) : State :=
  match s.qg.run with
  | none => s
  | some r =>
    if s.stw.restarting && r.wait != .pkJob then
      s.modQg fun g => { g with run := some { r with wait := .done status result } }
    else (s.modQg fun g => { g with run := none }).adminDone r.entry status result

/-- The admin command that runs passed its checks and waits. -/
def State.adminWaits (s : State) (b : Bytes) (w : AdminWait) : State :=
  s.modQg fun g => { g with run := some { entry := b, wait := w } }

/-- The admin command that ran is over; its completion is formed beside this. -/
def State.endAdmin (s : State) : State := s.modQg fun g => { g with run := none }

/-- R386, R387: the admin command asks the PK engine for a job and waits for its end. -/
def State.pkAsk (s : State) (b : Bytes) (op : PkOp) (client : PkClient) (data : Bytes) (step : PkStep) : State :=
  (s.modPke fun p => { p with admin := some { op := op, client := client, slot := 1, hash := 2, data := data } }).adminWaits b (.pk step)

/-- A job that an admin command asked for. -/
def PkJob.asked (j : PkJob) : Bool := !(j.client == .startup || j.client == .manifests || j.client == .host)

/-- R401, R402: the command ends without its job: the job leaves the admin stream, or runs to its end for nothing. -/
def Pke.leave (p : Pke) : Pke :=
  { p with admin := none, running := p.running.map fun j => if j.asked then { j with orphan := true } else j }

/-- What the running admin command waits for. -/
def State.waiting (s : State) : Option AdminWait := s.qg.run.map AdminRun.wait

/-! ### Labels -/

/-- A label returns to FREE: nothing is left but its generation. -/
def freeLabel (x : Label) : Label := { gen := x.gen }

/-- R95: the accepted revokes of a label complete. -/
def State.finishRevokes (s : State) (l status : Nat) : State :=
  let mine := s.qg.revokes.filter fun r => r.2 == l
  let s := s.modQg fun g => { g with revokes := g.revokes.filter fun r => r.2 != l }
  mine.foldl (fun s r => s.adminDone r.1 status 0) s

/-- R84: an open that fails: the key slot is zeroised, the label returns to FREE, one CUSTODY record 0x0402. -/
def State.openFails (s : State) (l order status : Nat) : State :=
  let m := (s.label l).matter
  let s := s.modLabel l freeLabel
  let s := s.custodyRecord 0x0402 2 (leBytes 8 m ++ leBytes 1 order)
  s.finishAdmin status 0

/-- The check of R84 that the running OPEN_MATTER comes to next. -/
def State.openCheck (s : State) : Nat :=
  match s.waiting with
  | some (.pk _) => 10
  | _ => 13

/-- R97, R125: the running command of a matter that is fenced completes with MATTER_FENCED: a PAUSE or a SAVE_CONTEXT at any
fence, and so a RESTORE_CONTEXT before its signature is looked at; a detach at a revoke; CLOSE_MATTER waits on (R96). -/
def State.fenceAdmin (s : State) (source l : Nat) : State :=
  match s.waiting with
  | some (.detach q _) =>
    if source = 1 ∧ (s.queue q).label = l ∧ (s.queue q).gen = (s.label l).gen then s.finishAdmin 0x30 0 else s
  | some (.pk (.sign _)) | some (.pk (.certificate _)) =>
    let q := match s.qg.run with | some r => entQueue r.entry | none => 0
    if (s.queue q).label = l ∧ (s.queue q).gen = (s.label l).gen then (s.modPke Pke.leave).finishAdmin 0x30 0 else s
  | some (.boundary q) =>
    if (s.queue q).label = l ∧ (s.queue q).gen = (s.label l).gen then
      (s.modQueue q fun x => { x with pausePending := false }).finishAdmin 0x30 0
    else s
  | _ => s

/-- R88, R89: FENCE_APPLIED: one matter is fenced by a source (its code of R88). A label in OPENING fails its
open instead (R84, R97): at an absent edge at its next check, else now. -/
def State.fenceOne (s : State) (source slot l : Nat) : State :=
  match (s.label l).state with
  | .opening =>
    if source = 0 then s.modLabel l fun x => { x with edge := true } else (s.modPke Pke.leave).openFails l s.openCheck 0x32
  | .opened | .closing =>
    let closing := (s.label l).state == .closing
    let s := s.modLabel l fun x => { x with state := .fenced, wasClosing := closing, fencedAt := s.now }
    let s := s.modCus fun c => { c with evt := c.evt.set 0 s.now }
    let s := s.custodyRecord 0x0403 1 (leBytes 1 source ++ leBytes 1 slot ++ leBytes 2 l)
    s.fenceAdmin source l
  | _ => s

/-- R92: FENCE_LIFT: the fence lifts; a label that was CLOSING is CLOSING again (R96). -/
def State.liftOne (s : State) (slot l : Nat) : State :=
  match (s.label l).state with
  | .fenced =>
    let s := s.modLabel l fun x =>
      { x with state := if x.wasClosing then .closing else .opened, wasClosing := false,
               fencedTicks := x.fencedTicks + (s.now - x.fencedAt) }
    let s := s.modCus fun c => { c with evt := c.evt.set 1 s.now }
    s.custodyRecord 0x0404 1 (leBytes 1 slot ++ leBytes 2 l)
  | _ => s

/-- The queue is bound to the label with its current generation. -/
def State.boundTo (s : State) (q : Queue) (l : Nat) : Bool :=
  q.state != .absent && q.label == l && q.gen == (s.label l).gen

/-- R94: at erasure the tail as it stands is noted in every queue of the matter. -/
def State.noteTails (s : State) (l : Nat) : State :=
  s.modQg fun g =>
    { g with queues := Tab.mapVals (fun _ q =>
        if s.boundTo q l then { q with eraseTail := if q.posted = 0 then none else some q.sqTail, eraseTick := some s.now } else q) g.queues }

/-- A completion with another status. -/
def Compl.withStatus (st : Nat) (c : Compl) : Compl := { c with status := st }

/-- R94: the completions of a queue's taken entries at the erasure: a FENCE that waits for earlier work has not completed,
and takes the status of that work. `open_` says that an earlier entry is not complete. -/
def dropFences : Bool → List Taken → List Taken
  | _, [] => []
  | open_, t :: ts =>
    let t := if t.isFence && open_ then { t with compl := t.compl.map (Compl.withStatus 0x60) } else t
    t :: dropFences (open_ || t.compl.isNone || (t.isFence && open_)) ts

/-- R94: the FENCE entries of a matter that wait for its work are Tail dropped with it. -/
def State.dropFences (s : State) (l : Nat) : State :=
  s.modQg fun g =>
    { g with queues := Tab.mapVals (fun _ q =>
        if s.boundTo q l then { q with taken := Sys2Proof.Machine.dropFences false q.taken } else q) g.queues }

/-- R376: the buffers of a label leave the buffer tables, their region cells are moulted and free, their
enclave cells go to the dirty bitmap. -/
def Pool.erase (p : Pool) (l : Nat) : Pool :=
  let mine := p.buffers.filter fun b => b.2.label == l
  let work := p.work.filter fun w => w.label == l
  let encMine := (mine.filter fun b => b.2.inEnclave).flatMap (fun b => b.2.cells) ++
    (work.filter fun w => w.inEnclave).flatMap fun w => w.cells
  let regMine := fun (r : Nat) =>
    (mine.filter fun b => !b.2.inEnclave && b.1 / 2 ^ 28 == r).flatMap (fun b => b.2.cells) ++
      (work.filter fun w => !w.inEnclave && w.region == r).flatMap fun w => w.cells
  { p with
    buffers := p.buffers.filter fun b => b.2.label != l,
    work := p.work.filter fun w => w.label != l,
    requests := p.requests.filter fun w => w.label.toNat != l,
    encUsed := p.encUsed.filter fun c => !encMine.contains c,
    used := Tab.mapVals (fun r cs => cs.filter fun c => !(regMine r).contains c) p.used,
    dirty := p.dirty ++ encMine.map fun c => (c, l) }

/-- R93, R297, R171: the cached public key and the dictionary versions of a label leave their slots; their cells go to the
dirty bitmap; its key areas in the S-tiles are moulted. -/
def State.eraseKeys (s : State) (l : Nat) : State :=
  let pk := match Tab.find s.keyCache l with | none => [] | some k => k.cells
  let ds := (s.dicts.filter fun d => d.2.label == l).flatMap fun d => d.2.cells
  let gone := fun (n : Nat) => match Tab.find s.dicts n with | none => true | some d => d.label == l
  let s := s.modPool fun p =>
    { p with encUsed := p.encUsed.filter fun c => !(pk ++ ds).contains c, dirty := p.dirty ++ (pk ++ ds).map fun c => (c, l) }
  let s := { s with tiles := Tab.mapVals (fun _ (t : Tile) => { t with keys := t.keys.filter fun k => k.1 != l }) s.tiles }
  { s with keyCache := Tab.del s.keyCache l, dictSlots := s.dictSlots.filter fun b => !gone b.2,
           dicts := s.dicts.filter fun d => d.2.label != l }

/-- The labels of a slot that satisfy `p`. -/
def State.slotLabels (s : State) (slot : Nat) (p : Label → Bool) : List Nat :=
  (s.cus.labels.map Prod.fst).filter fun l => (s.label l).slot == slot && p (s.label l)

/-- R97: the erasure of a slot's last fenced label cancels the slot's debounce window. -/
def State.cancelWindow (s : State) (l : Nat) : State :=
  let slot := (s.label l).slot
  if (s.slotLabels slot fun x => x.state == .fenced) = [] then s.modCus fun c => { c with windows := Tab.del c.windows slot } else s

/-- R93: ERASURE: the label enters ERASING, its key slot is zeroised, its holdings are moulted or marked for
the scrub engine, its entries are disposed of (R94). -/
def State.eraseOne (s : State) (source l : Nat) : State :=
  match (s.label l).state with
  | .opened | .fenced | .closing =>
    let g := (s.label l).gen
    let s := (s.noteTails l).dropFences l
    let s := s.dropRuns fun r => r.label == l && r.gen == g
    let s := s.modLabel l fun x =>
      { x with state := .erasing, source := source, kData := [], kMem := [], kNoise := [], wasClosing := false }
    (regionNumbers.foldl State.spillUpdate ((s.modPool fun p => p.erase l).eraseKeys l)).cancelWindow l
  | _ => s

/-- All labels that are listed. -/
def State.labels (s : State) : List Nat := s.cus.labels.map Prod.fst

/-- R88: a source that fences every matter and erases each at once (PWR_FAIL_n, Halt-safe). -/
def State.eraseAll (s : State) (source : Nat) : State :=
  let s := s.labels.foldl (fun s l => (s.fenceOne source 0xFF l).eraseOne source l) s
  -- debounce windows are overtaken: erasure was at once (R97)
  s.modCus fun c => { c with windows := [], allFenced := true }

/-- R96: the last fetched entry of a CLOSING matter, taken or still in the entry cache, has completed: erasure runs. -/
def State.closeCheck (s : State) (l : Nat) : State :=
  if (s.label l).state = .closing ∧
      (s.qg.queues.all fun q => !(s.boundTo q.2 l) || (q.2.taken.isEmpty && (q.2.cache.isEmpty || q.2.posted == 0))) = true
  then s.eraseOne 4 l else s

/-- R93, R95, R96: the Moults of an erasure are done: the label is in SCRUBBING, or at once FREE when it held
no enclave cell; ERASED rises; the record names it; waiting commands complete. -/
def State.eraseEnd (s : State) (l : Nat) : State :=
  match (s.label l).state with
  | .erasing =>
    let x := s.label l
    let s := s.modCus fun c => { c with evt := c.evt.set 2 s.now }
    let s := s.custodyRecord 0x0405 1
      (leBytes 2 l ++ leBytes 8 x.matter ++ leBytes 4 x.epoch ++ leBytes 1 x.source)
    let s :=
      if s.pool.dirty.any fun d => d.2 == l then s.modLabel l fun x => { x with state := .scrubbing }
      else s.modLabel l freeLabel
    let s := s.finishRevokes l 0
    match s.waiting with
    | some (.erase l') => if l' = l then s.finishAdmin (if x.source = 4 then 0 else 0x30) 0 else s
    | _ => s
  | _ => s

end Sys2Proof.Machine
end

