-- ==== Sys2Proof/Machine/Banks.lean ====
section
/-!
DEFINITION. The two microcode banks of a role and what a reload does to them (R58, R59, R61).
-/

namespace Sys2Proof.Machine

/-- The banks of one role. -/
def State.banks (s : State) (c : Nat) : RoleBanks := Tab.getD s.sil.banks c {}

/-- A bank written. -/
def RoleBanks.write (b : RoleBanks) (k : Nat) (code : Option Bytes) : RoleBanks :=
  if k = 0 then { b with bank0 := code } else { b with bank1 := code }

/-- The fields of a microcode record. -/
def mcRole (d : Bytes) : Nat := leAt d 8 1
def mcBank (d : Bytes) : Nat := leAt d 9 1
def mcLen (d : Bytes) : Nat := leAt d 12 4
/-- The offset of the signature. -/
def mcEnd (d : Bytes) : Nat := 128 + up64 (mcLen d)

/-- R58, R59: the named bank's valid bit clears on every tile of the role; a generation that waited in it is lost. -/
def State.clearBank (s : State) (d : Bytes) : State :=
  let b := s.banks (mcRole d)
  let new : RoleBanks := { b.write (mcBank d) none with gen := b.activeGen, unswapped := none }
  s.modSil fun x => { x with banks := Tab.put x.banks (mcRole d) new }

/-- R58, R61: a record's code takes the bank, and its generation becomes current. -/
def State.reload (s : State) (d : Bytes) : State :=
  let prog := sha384 (s.sil.progDigest ++ sha384 d)
  let g := s.sil.nextGen
  let new : RoleBanks := { (s.banks (mcRole d)).write (mcBank d) (some (slice d 128 (mcLen d))) with gen := g, unswapped := some (mcBank d) }
  let s := s.modSil fun x =>
    { x with banks := Tab.put x.banks (mcRole d) new, nextGen := g + 1, progDigest := prog }
  s.record 4 0x0503 0 (leBytes 1 (mcRole d) ++ prog.take 8)

/-- R58, R59: the reload whose code was being written ends: the bank is valid and the command completes. -/
def State.reloadEnd (s : State) : State :=
  match s.waiting with
  | some (.reload d) => if s.stw.restarting || s.faults.halt then s else (s.reload d).finishAdmin 0 0
  | _ => s

end Sys2Proof.Machine
end

