-- ==== Sys2Proof/Machine/Pools.lean ====
section
/-!
DEFINITION. Buffer pools and the enclave memory controller (14_enclave_memory_and_pools.md): the free
stores, buffer requests, the pool record, retirement, scrub and patrol.
-/

namespace Sys2Proof.Machine

/-! ### Buffers (R367 to R374) -/

/-- The pool that a handle names. -/
def poolOf (h : Nat) : Nat := h / 2 ^ 28

/-- R367: the lowest free entry of a pool's buffer table. -/
def State.freeEntry (s : State) (pool : Nat) : Option Nat :=
  let cap := if pool = 8 then 1048576 else 4096
  let mine : Tab Buffer := (s.pool.buffers.filter fun b => poolOf b.1 == pool).map fun b => (b.1 % 2 ^ 28, b.2)
  let i := Tab.firstFree mine (mine.length + 1) 0
  if i < cap then some i else none

/-- A buffer by handle. -/
def State.buffer? (s : State) (h : Nat) : Option Buffer := Tab.find s.pool.buffers h

def State.modBuffer (s : State) (h : Nat) (f : Buffer → Buffer) : State :=
  match s.buffer? h with
  | none => s
  | some b => s.modPool fun p => { p with buffers := Tab.put p.buffers h (f b) }

/-- R374: some taken entry of the buffer's matter names it. -/
def State.named (s : State) (h : Nat) (b : Buffer) : Bool :=
  s.qg.queues.any fun q => q.2.label == b.label && q.2.gen == b.gen &&
    q.2.taken.any fun t => t.names.contains h

/-- BUFFER_RETURN: the buffer is wiped and its entry freed. -/
def State.returnBuffer (s : State) (h : Nat) : State :=
  match s.buffer? h with
  | none => s
  | some b =>
    (s.modPool fun p => { p with buffers := Tab.del p.buffers h }).giveCells (poolOf h) b.inEnclave b.cells b.label

/-- R373, R374: the buffer is due to return: at once unless a taken entry names it. -/
def State.dueBuffer (s : State) (h : Nat) : State :=
  match s.buffer? h with
  | none => s
  | some b => if s.named h b then s.modBuffer h fun b => { b with due := true } else s.returnBuffer h

/-- R374: the buffers that are due and that no taken entry names any longer return. -/
def State.returnDue (s : State) : State :=
  ((s.pool.buffers.filter fun b => b.2.due && !s.named b.1 b.2).map Prod.fst).foldl State.returnBuffer s

/-- R373: FREE by the free right holder. -/
def State.freeBuffer (s : State) (h : Nat) : State :=
  match s.buffer? h with
  | none => s
  | some b => if b.owners = [b.holder] then s.dueBuffer h else s.modBuffer h fun b => { b with parked := true }

/-- R373: RELEASE by an owner that is not the free right holder. -/
def State.dropOwner (s : State) (h q : Nat) : State :=
  match s.buffer? h with
  | none => s
  | some b =>
    let rest := b.owners.filter fun x => x != q
    let s := s.modBuffer h fun b => { b with owners := rest }
    if b.parked && rest == [b.holder] then s.dueBuffer h else s

/-- R373: a protocol error: POOL_ERR.PROTOCOL and the OPS record 0x0203. -/
def State.protocolError (s : State) (q h : Nat) : State :=
  (s.modPool fun p => { p with protocol := p.protocol.add 16 1 s.now }).record 0 0x0203 2 (leBytes 2 q ++ leBytes 4 h)

/-- R373: DESTROY_QUEUE acts on every buffer that the queue owns, without a protocol error. -/
def State.leaveBuffers (s : State) (q : Nat) : State :=
  ((s.pool.buffers.filter fun b => b.2.owners.contains q).map fun b => (b.1, b.2.holder)).foldl
    (fun s x => if x.2 = q then s.freeBuffer x.1 else s.dropOwner x.1 q) s

/-! ### The request registers (R369, R370) -/

/-- The fields of a POOL_REQ_CTL write. -/
def reqOp (v : Nat) : Nat := fieldOf v 0 3
def reqPool (v : Nat) : Nat := fieldOf v 4 4
def reqRes (v : Nat) : Nat := fieldOf v 8 7
def reqQueue (v : Nat) : Nat := fieldOf v 16 12
def reqReserved (v : Nat) : Nat := fieldOf v 3 1 + fieldOf v 15 1 + fieldOf v 28 4

/-- POOL_REQ_OWNERS: the queues named, in order. -/
def State.shareCount (s : State) : Nat := fieldOf s.pool.owners.toNat 48 3
def State.shareQueues (s : State) : List Nat :=
  (List.range s.shareCount).map fun i => fieldOf s.pool.owners.toNat (12 * i) 12

/-- The owners after a SHARE. -/
def sharedOwners (b : Buffer) (qs : List Nat) : List Nat :=
  qs.foldl (fun os q => if os.contains q then os else os ++ [q]) b.owners

/-- R370: the status of a request, 0 when it passes every check. -/
def State.reqStatus (s : State) (v : Nat) : Nat :=
  let op := reqOp v
  let arg := s.pool.reqArg.toNat
  let q := s.queue (reqQueue v)
  let buf := s.buffer? arg
  let res := if reqRes v = 0x7F then none else some (reqRes v)
  let isOwner := match buf with | none => false | some b => b.owners.contains (reqQueue v)
  if op = 0 ∨ 4 < op ∨ (op = 1 ∧ (8 < reqPool v ∨ arg = 0 ∨ 65536 < arg)) ∨
      (63 < reqRes v ∧ reqRes v ≠ 0x7F) ∨ (op = 2 ∧ (s.shareCount = 0 ∨ 4 < s.shareCount)) then 0x12
  else if reqReserved v ≠ 0 then 0x11
  else if reqQueue v = 0 ∨ q.state ≠ .enabled ∨ (op ≠ 1 ∧ isOwner = false) ∨
      (op = 2 ∧ (s.shareQueues.any fun x => !s.queueExists x) = true) then 0x12
  else if s.queueFenced q then 0x30
  else if (s.label q.label).state ≠ .opened ∨ (s.label q.label).gen ≠ q.gen then 0x31
  else if op = 2 ∧ (s.shareQueues.any fun x =>
      (s.queue x).label != q.label || (s.queue x).gen != q.gen) = true then 0x13
  else if op = 1 ∧ ((match res with
        | none => false
        | some k => (match s.claimOf 6 k with
          | none => true
          | some c => k / 8 != reqPool v || (c.holder != 0 && c.holder != reqQueue v))) = true ∨
      (reqPool v < 8 ∧ s.inService (reqPool v) = false)) then 0x40
  else if op = 2 ∧ (match buf with | none => false | some b => b.parked) = true then 0x40
  else if op = 1 ∧ ((s.findCells (reqPool v) res arg).isNone = true ∨ (s.freeEntry (reqPool v)).isNone = true) then 0x41
  else if op = 2 ∧ (match buf with | none => 0 | some b => (sharedOwners b s.shareQueues).length) > 8 then 0x41
  else 0

/-- R370: ALLOC acts: the buffer takes the lowest entry and its cells. -/
def State.doAlloc (s : State) (v : Nat) : State :=
  let q := s.queue (reqQueue v)
  let arg := s.pool.reqArg.toNat
  let res := if reqRes v = 0x7F then none else some (reqRes v)
  match s.findCells (reqPool v) res arg, s.freeEntry (reqPool v) with
  | some (enc, cs), some i =>
    let h := reqPool v * 2 ^ 28 + i
    let b : Buffer := { label := q.label, gen := q.gen, size := arg * 4096, inEnclave := enc, cells := cs,
                        res := res, slot := !enc && res.isNone && !s.pool.chain, owners := [reqQueue v], holder := reqQueue v, serial := s.pool.nextSerial }
    (s.modPool fun p => { p with buffers := Tab.put p.buffers h b, nextSerial := p.nextSerial + 1,
                                 rspHandle := h }).holdCells (reqPool v) enc cs
  | _, _ => s

/-- R372: SHARE acts. -/
def State.doShare (s : State) : State :=
  s.modBuffer s.pool.reqArg.toNat fun b =>
    { b with owners := sharedOwners b s.shareQueues, holder := s.shareQueues.getLast?.getD b.holder }

/-- R373: RELEASE and FREE act for queue `q`; `free` says which. -/
def State.doRelease (s : State) (q : Nat) (free : Bool) : State :=
  let h := s.pool.reqArg.toNat
  match s.buffer? h with
  | none => s
  | some b =>
    if b.holder = q then (if free then s.freeBuffer h else (s.protocolError q h).freeBuffer h)
    else if free then (s.protocolError q h).dropOwner h q
    else s.dropOwner h q

/-- POOL_RSP.BUSY (R369). -/
def State.poolBusy (s : State) : Bool := decide (s.now < s.pool.busyTil)

/-- R370: a request that reaches the Pool Manager is judged and acts in that T-cycle. -/
def State.poolServe (s : State) (v : Nat) : State :=
  let st := s.reqStatus v
  let s' := s.modPool fun p =>
    { p with rspStatus := st, rspHandle := if reqOp v = 1 then p.rspHandle else p.reqArg.toNat }
  if st ≠ 0 then s'
  else match reqOp v with
    | 1 => s'.doAlloc v
    | 2 => s'.doShare
    | 3 => s'.doRelease (reqQueue v) false
    | _ => s'.doRelease (reqQueue v) true

/-- The tick at which the response is complete: within 2 µs plus 1 ns per cell (R369, log 8). -/
def State.poolDone (s : State) (v : Nat) : Nat :=
  let arg := s.pool.reqArg.toNat
  let cells := if reqOp v = 1 then arg else match s.buffer? arg with | none => 0 | some b => b.size / 4096
  s.now + 1 + Config.poolTime s.now cells % (2000 + cells)

/-- R369: a write of POOL_REQ_CTL. While BUSY is set it changes nothing, and is counted and recorded. -/
def State.poolRequest (s : State) (v : Nat) : State :=
  if s.poolBusy then
    (s.modPool fun p => { p with refused := p.refused.add 16 1 s.now }).opsWrite 0x28008 v
  else (s.modPool fun p => { p with busyTil := s.poolDone v }).poolServe v

/-- A write of POOL_REQ_CTL whose OP is the row's; another OP is another row's write. -/
def State.poolRow (s : State) (op : Nat) (v : BitVec 32) : State :=
  if reqOp v.toNat = op then s.poolRequest v.toNat else s

/-- ALLOC (R370). -/
def execAlloc (t : Nat) (value : BitVec 32) (s : State) := act t s fun s => s.poolRow 1 value
/-- SHARE (R372). -/
def execShare (t : Nat) (value : BitVec 32) (s : State) := act t s fun s => s.poolRow 2 value
/-- RELEASE (R373). -/
def execRelease (t : Nat) (value : BitVec 32) (s : State) := act t s fun s => s.poolRow 3 value
/-- FREE (R373). -/
def execFree (t : Nat) (value : BitVec 32) (s : State) := act t s fun s => s.poolRow 4 value

/-! ### Pseudo-channels (R381) -/

/-- The held cells of a pseudo-channel. -/
def State.heldOf (s : State) (p : Nat) : List Nat := s.pool.encUsed.filter fun c => pcOf c == p

/-- The control cells that lie on a pseudo-channel (R357). -/
def State.controlOf (s : State) (p : Nat) : List Nat :=
  (List.range encFirst).filter fun i => pcOf (Tab.getD s.emc.remap i i) == p

/-- R376, R70: a label in SCRUBBING whose last dirty cell is gone becomes FREE. -/
def State.scrubCheck (s : State) (l : Nat) : State :=
  if (s.label l).state = .scrubbing ∧ (s.pool.dirty.any fun d => d.2 == l) = false then s.modLabel l freeLabel else s

/-- R381: retirement begins: free and dirty cells leave the bitmaps; with too few free cells elsewhere it
stops, and the channel stays in service, its cells in the bitmaps again (log 57). -/
def State.retirePc (s : State) (p : Nat) : State :=
  if (s.pc p).state ≠ 0 then s
  else
    let s1 := s.modPc p fun x => { x with state := 1 }
    if s1.encFree < (s.heldOf p).length then
      s.faultRecord 0x0114 3 0 0 (leBytes 2 p ++ [1])
    else
      let ls := (s.pool.dirty.filter fun d => pcOf d.1 == p).map Prod.snd
      let s2 := s1.modPool fun q => { q with dirty := q.dirty.filter fun d => pcOf d.1 != p }
      ls.foldl State.scrubCheck s2

/-- R381: a write of EMC_PC_CTL. -/
def State.writePcCtl (s : State) (v : Nat) : State :=
  if bitOf v 0 ∧ s.emc.pcSel.toNat < 384 then s.retirePc s.emc.pcSel.toNat else s

/-- RETIRE (R381): EMC_PC_CTL. -/
def execRetire (t : Nat) (value : BitVec 32) (s : State) := act t s fun s => s.writePcCtl value.toNat

/-- R381 step 2: one held cell moves to the lowest free cell; its owner is relinked. -/
def State.moveCell (s : State) (c : Nat) : State :=
  match s.takeEnc 1 with
  | some [d] =>
    let s := s.modPool fun p =>
      { p with encUsed := renumber c d p.encUsed,
               buffers := Tab.mapVals (fun _ b => b.moveCell (s.label b.label).kMem c d) p.buffers,
               work := p.work.map fun w => if w.inEnclave then { w with cells := renumber c d w.cells } else w }
    { s with keyCache := Tab.mapVals (fun _ k => { k with cells := renumber c d k.cells }) s.keyCache,
             dicts := Tab.mapVals (fun _ k => { k with cells := renumber c d k.cells }) s.dicts }
  | _ => s

/-- R381 step 3: one control cell moves through the remap table, while the pool has a free cell for it (log 57). -/
def State.moveControl (s : State) (i : Nat) : State :=
  match s.takeEnc 1 with
  | some [d] => (s.modPool fun p => { p with encUsed := p.encUsed ++ [d] }).modEmc fun e => { e with remap := Tab.put e.remap i d }
  | _ => s

/-- A buffer becomes LOST (R381, R456): the record 0x010C names it. -/
def State.loseBuffer (s : State) (h : Nat) : State :=
  match s.buffer? h with
  | none => s
  | some b =>
    if b.lost then s
    else (s.modBuffer h fun b => { b with lost := true }).faultRecord 0x010C 3 0 0 (leBytes 4 h)

/-- R458: the entries whose descriptors name the buffer are Tail dropped, with one FAULT record. -/
def State.dropNaming (s : State) (h : Nat) : State :=
  let es := s.qg.queues.flatMap fun q => (q.2.taken.filter fun t => t.names.contains h && t.compl.isNone).map Taken.serial
  es.foldl (fun s e => (s.dropRun e).faultRecord 0x010C 3 0 0 (leBytes 4 h)) s

/-- The handles of buffers that hold one of the cells. -/
def State.holdersOf (s : State) (cs : List Nat) : List Nat :=
  (s.pool.buffers.filter fun b => b.2.inEnclave && b.2.cells.any fun c => cs.contains c).map Prod.fst

/-- R381 steps 2 to 4. -/
def State.retireDone (s : State) (p : Nat) (lost : List Nat) : State :=
  if (s.pc p).state ≠ 1 then s
  else
    let bad := s.holdersOf (lost.filter fun c => pcOf c == p)
    let s := bad.foldl (fun s h => (s.loseBuffer h).dropNaming h) s
    let s := (s.heldOf p).foldl State.moveCell s
    let s := (s.controlOf p).foldl State.moveControl s
    let s := s.modPc p fun x => { x with state := 2 }
    let s := s.modEmc fun e => { e with inService := e.inService - 1 }
    s.faultRecord 0x0114 3 0 0 (leBytes 2 p ++ [0])

/-- PC_RETIRE_DONE (R381). -/
def execPcRetireDone (t : Nat) (pc : BitVec 9) (lost : List Nat) (s : State) :=
  act t s fun s => s.retireDone pc.toNat lost

/-- R381: the number of the present window of GCNT, and the corrected errors that a pseudo-channel has returned in it. -/
def State.ceWindowNow (s : State) : Nat := s.now / 3600000000000
def State.ceCount (s : State) (p : Nat) : Nat := if (s.pc p).ceWindowNo = s.ceWindowNow then (s.pc p).ceWindow else 0

/-- R381: an error that a pseudo-channel returns. -/
def State.eccError (s : State) (p : Nat) (e : EccError) : State :=
  if 384 ≤ p ∨ (s.pc p).state = 2 then s
  else match e with
    | .corrected =>
      let s := s.modEmc fun x => { x with ce := x.ce.add 16 1 s.now }
      let s := s.modPc p fun x => { x with ceWindow := satAdd 16 (s.ceCount p) 1, ceWindowNo := s.ceWindowNow }
      if s.emc.ceLimit.toNat ≤ (s.pc p).ceWindow then s.retirePc p else s
    | .uncorrectable =>
      let s := s.modEmc fun x => { x with ue := x.ue.add 16 1 s.now }
      let s := s.modPc p fun x => { x with ueSeen := true }
      s.retirePc p

/-- ENCLAVE_ECC_ERROR (R381). While the channel moves, an uncorrectable error of a held cell marks its
buffer LOST. -/
def execEnclaveEccError (t : Nat) (pc : BitVec 9) (err : EccError) (cell : Nat) (s : State) :=
  act t s fun s =>
    let moving := (s.pc pc.toNat).state == 1
    let s := s.eccError pc.toNat err
    if moving && err == .uncorrectable then
      (s.holdersOf [cell]).foldl (fun s h => (s.loseBuffer h).dropNaming h) s
    else s

/-- CE_WINDOW_END (R381): at a multiple of 3.6×10^12 the counts start again, unless an error of the new window has begun
them already. -/
def execCeWindowEnd (t : Nat) (s : State) :=
  act t s fun s =>
    if s.now % 3600000000000 = 0 then
      s.modEmc fun e => { e with pcs := Tab.mapVals (fun _ x =>
        if x.ceWindowNo = s.ceWindowNow then x else { x with ceWindow := 0, ceWindowNo := s.ceWindowNow }) e.pcs }
    else s

/-- SCRUB_OVERWRITE (R375, R376): the scrub engine overwrites a dirty cell and frees it; the label's last
one frees the label. It takes the cells in ascending order, so another cell than the lowest is not taken. -/
def execScrubOverwrite (t : Nat) (cell : Nat) (s : State) :=
  act t s fun s =>
    match s.pool.dirty.find? fun d => d.1 == cell with
    | none => s
    | some d =>
      if s.pool.dirty.any fun x => decide (x.1 < cell) then s
      else (s.modPool fun p => { p with dirty := p.dirty.filter fun x => x.1 != cell }).scrubCheck d.2

/-- R377: the first cell in service from `c` on (`fuel` bounds the search). -/
def State.nextInService (s : State) : Nat → Nat → Nat
  | 0, c => c
  | f + 1, c => if c < encCells ∧ (s.pc (pcOf c)).state = 2 then s.nextInService f (c + 1) else c

/-- PATROL_SCRUB_READ (R377): the patrol reads the next cell in ascending order, corrects single-bit errors
in place, and begins again after the last. -/
def execPatrolScrubRead (t : Nat) (cell : Nat) (corrected : Bool) (s : State) :=
  act t s fun s =>
    if s.emc.rate = 0 ∨ s.nextInService 384 s.emc.patrolCell ≠ cell then s
    else
      let next := s.nextInService 384 (cell + 1)
      let s := s.modEmc fun e =>
        if next < encCells then { e with patrolCell := next }
        else { e with patrolCell := 0, patrolPasses := satAdd 16 e.patrolPasses 1 }
      if corrected then s.eccError (pcOf cell) .corrected else s

/-- STACK_TEMPERATURE_REPORT (R494): the refresh interval follows the reported temperature. -/
def execStackTemperatureReport (t : Nat) (stack : BitVec 3) (hot : Bool) (s : State) :=
  act t s fun s =>
    if stack.toNat < 6 then s.modEmc fun e => { e with shortRefresh := putBit e.shortRefresh stack.toNat hot } else s

/-- R434: the enclave test ends: the channels that fail are retired for this start under R381. No cell is held yet; the
control cells move, and each retirement adds its FAULT record. -/
def State.enclaveTested (s : State) (failed : List Nat) : State :=
  let failed := (failed.filter fun p => decide (p < 384)).eraseDups
  let s := failed.foldl (fun s p => s.modPc p fun x => { x with state := 2 }) s
  let s := s.modPool fun p => { p with encKnown := true }
  let s := s.modPwr fun w => { w with enclaveTested := true }
  let s := s.modEmc fun e =>
    { e with inService := ((List.range 384).filter fun p => (s.pc p).state == 0).length,
             rate := if s.stw.shedding then 1000 else e.patrol.toNat }
  failed.foldl (fun s p => ((s.controlOf p).foldl State.moveControl s).faultRecord 0x0114 3 0 0 (leBytes 2 p ++ [0])) s

/-- ENCLAVE_TEST_END (R434), within phase SELFTEST. -/
def execEnclaveTestEnd (t : Nat) (failed : List Nat) (s : State) :=
  act t s fun s => if s.pwr.phase = .selftest ∧ s.pwr.enclaveTested = false then s.enclaveTested failed else s

end Sys2Proof.Machine
end

