-- ==== Sys2Proof/Machine/Queues.lean ====
section
/-!
DEFINITION. Work queues and the admin queue (04_work_queues.md): doorbells, the entry cache, taking entries,
completions and interrupt vectors, the queue life cycle, and the frame in which admin commands run.
-/

namespace Sys2Proof.Machine

/-! ### Taking admin entries (R125) -/

/-- R125: prefetched admin entries are taken while the completion ring has room (R123). -/
def State.takeAdmin (s : State) : State :=
  s.modQg fun g =>
    if g.admin.cqFull || g.admin.stuck then g
    else { g with todo := g.todo ++ g.admin.cache.map Cached.entry,
                  admin := { g.admin with sqHead := (g.admin.sqHead + g.admin.cache.length) % 256, cache := [] } }

/-- The front admin entry leaves the list of those that wait to run. -/
def State.popAdmin (s : State) : State := s.modQg fun g => { g with todo := g.todo.drop 1 }

/-- R134: QG_ERR.MALFORMED. -/
def State.countMalformed (s : State) : State := s.modQg fun g => { g with malformed := g.malformed.add 16 1 s.now }

/-- R462: the admin commands that run in Halt-safe. -/
def runsInHalt (op : Nat) : Bool := op == 0x02 || op == 0x03 || op == 0x31

/-- R432: admin entries wait until BASKING begins; in FAILED the engine is in Halt-safe and they are taken. -/
def State.adminMayRun (s : State) : Bool :=
  match s.pwr.phase with
  | .moult | .rom | .selftest => false
  | _ => true

/-- The frame of every admin command but REVOKE_MATTER: when no command runs and the Steward is up, the front
entry is checked (R117, R462) and, where its opcode is the row's, acts. An entry that fails its checks
completes in any row (log 9). A reload that was being written has ended by then (R59). -/
def State.adminRow (s : State) (op : Nat) (f : Bytes → State → State) : State :=
  let s := s.reloadEnd
  if s.qg.run.isSome || s.stw.restarting || !s.adminMayRun then s
  else match s.qg.todo with
    | [] => s
    | none :: _ => s.popAdmin.modQg fun g => { g with due := g.due ++ [complOfError] }
    | some b :: _ =>
      if s.faults.halt && !runsInHalt (entOp b) then s.popAdmin.adminDone b 0x73 0
      else match s.adminCheck b with
        | some st => s.popAdmin.countMalformed.adminDone b st 0
        | none => if entOp b = op then f b s.popAdmin else s

/-! ### Interrupt vectors and completion writes (R119, R120, R123, R132) -/

/-- The message address and data of a queue's vector. -/
def State.vector (s : State) (q : Nat) : Nat × Nat :=
  if q = 0 then (s.qg.adminMsiAddr.toNat, s.qg.adminMsiData.toNat) else ((s.queue q).msiAddr, (s.queue q).msiData)

/-- QUEUE_INTERRUPT_MESSAGE: an armed vector sends its message and disarms. -/
def State.queueMessage (s : State) (q : Nat) : State :=
  if (s.queue q).armed then
    (s.emit (.message (s.vector q).1 (s.vector q).2)).modQueue q fun x => { x with armed := false }
  else s

/-- The host address of a queue's next completion slot. -/
def State.slotAddr (s : State) (q : Nat) : Nat :=
  (if q = 0 then s.qg.adminCqBase.toNat / 4096 * 4096 else (s.queue q).cqBase) + 32 * (s.queue q).cqTail

/-- A completion is written: CQ_TAIL advances, and the vector acts unless the entry asked for NO_IRQ. -/
def State.writeCompl (s : State) (q : Nat) (c : Compl) : State :=
  let s := s.emit (.interior (s.slotAddr q) (c.bytes q (s.queue q).sqHead))
  let s := s.modQueue q fun x =>
    { x with cqTail := (x.cqTail + 1) % x.size, unread := x.unread ++ [c.noIrq], writeFails := 0 }
  if c.noIrq then s else s.queueMessage q

/-- R346, R348 and the queue counters of R342 at the completion of a RUN_LIST entry that ran. -/
def State.countEntry (s : State) (q : Nat) (t : Taken) : State :=
  if t.ran then
    s.modQueue q fun x =>
      { x with entries := satAdd 64 x.entries 1,
               sampleCursor := max x.sampleCursor (entBase t.bytes + entCount t.bytes),
               lastDone := entStep t.bytes,
               ledger := match t.ledger with
                 | none => x.ledger
                 | some l => (x.ledger ++ [l]).drop (x.ledger.length + 1 - 256) }
  else s

/-- R129: the state becomes DISABLED once nothing of the queue is outstanding. -/
def State.idleCheck (s : State) (q : Nat) : State :=
  let x := s.queue q
  if x.state = .disabling ∧ x.taken = [] ∧ (x.posted = 0 ∨ x.mute = true) then
    s.modQueue q fun x => { x with state := .disabled, cache := [] }
  else s

/-- R350: a detach that waits ends once the queue's outstanding entries have completed. -/
def State.detachCheck (s : State) : State :=
  match s.waiting with
  | some (.detach q lane) =>
    if (s.queue q).taken = [] then
      let s := s.modDet fun d => { d with lanes := Tab.put d.lanes lane { Tab.getD d.lanes lane {} with queue := 0, partner := 0, here := [], remote := [], compared := [], stalled := false } }
      (s.modQueue q fun x => { x with chorus := none }).finishAdmin 0 0
    else s
  | _ => s

/-- What follows the write of a work queue's completion: buffers return (R374), a CLOSING matter may erase
(R96), a disabling queue may be idle. -/
def State.afterCompl (s : State) (q : Nat) : State :=
  let l := (s.queue q).label
  (((s.returnDue.closeCheck l).idleCheck q).detachCheck).dropUnboundDicts

/-- The status that a formed completion is written with: Halt-safe overrides that of a RUN_LIST that ran. -/
def haltStatus (halt ran : Bool) (c : Compl) : Compl := if halt && ran then { c with status := 0x73 } else c

/-- R129: QUEUE_DISABLED for an untaken entry of a disabling queue. -/
def disabledCompl (halt : Bool) : Option Bytes → Compl
  | none => complOfError
  | some b => complOf b (if halt then 0x73 else 0x61) 0

/-- COMPLETION_WRITE of a work queue. -/
def State.writeWork (s : State) (q : Nat) : State :=
  let x := s.queue q
  match x.taken with
  | t :: ts =>
    match t.compl with
    | none => s
    | some c =>
      let s := (s.modQueue q fun x => { x with taken := ts }).writeCompl q (haltStatus s.faults.halt t.ran c)
      (s.countEntry q t).afterCompl q
  | [] =>
    if x.state = .disabling ∧ x.posted ≠ 0 ∧ s.queueFenced x = false then
      match x.cache with
      | [] => s
      | e :: rest =>
        let s := s.modQueue q fun x => { x with cache := rest, sqHead := (x.sqHead + 1) % x.size }
        (s.writeCompl q (disabledCompl s.faults.halt e.entry)).afterCompl q
    else s

/-- COMPLETION_WRITE (R119): the next due completion of the queue is written, where the ring has a free slot. -/
def State.complWrite (s : State) (q : Nat) : State :=
  let s := if q = 0 then s.reloadEnd else s
  let x := s.queue q
  if x.cqFull || x.stuck || x.mute then s
  else if q = 0 then
    if s.qg.adminEn then
      match s.qg.due with
      | [] => s
      | c :: cs => ((s.modQg fun g => { g with due := cs }).writeCompl 0 c).takeAdmin
    else s
  else if x.state = .absent then s
  else s.writeWork q

/-- COMPLETION_WRITE (R119). -/
def execCompletionWrite (t : Nat) (q : BitVec 12) (s : State) := act t s fun s => s.complWrite q.toNat

/-! ### Doorbells (R108 to R112) -/

/-- The ring of queue `q` exists (R109 condition 1). -/
def State.ringExists (s : State) (q : Nat) : Bool :=
  if q = 0 then s.qg.adminEn else (s.queue q).state != .absent

/-- DOORBELL_IGNORED (R109). -/
def State.badDoorbell (s : State) (q reason v : Nat) : State :=
  (s.modQg fun g => { g with badDb := g.badDb.add 16 1 s.now }).record 0 0x0202 1
    (leBytes 2 q ++ leBytes 1 reason ++ leBytes 4 v)

/-- A write of the submission doorbell (R108 to R112). -/
def State.sqDoorbell (s : State) (q : Nat) (v : BitVec 32) : State :=
  let w := v.toNat
  let tail := fieldOf w 0 16
  let x := s.queue q
  if !s.ringExists q then s.badDoorbell q 1 w
  else if x.size ≤ tail then s.badDoorbell q 2 w
  else if fieldOf w 16 14 ≠ 0 ∨ bitOf w 31 = true then s.badDoorbell q 3 w
  else if q ≠ 0 ∧ x.state ≠ .enabled then s.badDoorbell q 4 w
  else s.modQueue q fun x =>
    { x with sqTail := tail, cache := if bitOf w 30 then [] else x.cache,
             tailTick := s.now, tailWas := if x.tailTick = s.now ∧ x.tailWords ≠ [] then x.tailWas else x.sqTail,
             tailWords := if x.tailTick = s.now then x.tailWords ++ [w] else [w],
             eraseTail := if x.eraseTick = some s.now ∧ tail ≠ x.sqHead then some tail else x.eraseTail }

/-- A write of the completion doorbell (R109, R132). -/
def State.cqDoorbell (s : State) (q : Nat) (v : BitVec 32) : State :=
  let w := v.toNat
  let head := fieldOf w 0 16
  let x := s.queue q
  let moved := (head + x.size - x.cqHead) % x.size
  if !s.ringExists q then s.badDoorbell q 1 w
  else if x.size ≤ head then s.badDoorbell q 2 w
  else if fieldOf w 16 16 ≠ 0 then s.badDoorbell q 3 w
  else if q ≠ 0 ∧ x.state = .disabled then s.badDoorbell q 4 w
  else if (x.cqTail + x.size - x.cqHead) % x.size < moved then s.badDoorbell q 5 w
  else
    let s := s.modQueue q fun x =>
      { x with cqHead := head, unread := x.unread.drop moved, armed := true, stuck := false,
               writeFails := if x.stuck then 3 else x.writeFails }
    let s := if (s.queue q).unread.any fun n => !n then s.queueMessage q else s
    if q = 0 then s.takeAdmin else s

/-- SQ_TAIL_DOORBELL (R114): a write without REFETCH. -/
def execSqTailDoorbell (t : Nat) (q : BitVec 12) (value : BitVec 32) (s : State) :=
  act t s fun s => if bitOf value.toNat 30 then s else s.sqDoorbell q.toNat value
/-- REFETCH (R112): a write with REFETCH set drops the untaken cached entries and applies TAIL. -/
def execRefetch (t : Nat) (q : BitVec 12) (value : BitVec 32) (s : State) :=
  act t s fun s => if bitOf value.toNat 30 then s.sqDoorbell q.toNat value else s
/-- CQ_HEAD_DOORBELL (R132). -/
def execCqHeadDoorbell (t : Nat) (q : BitVec 12) (value : BitVec 32) (s : State) :=
  act t s fun s => s.cqDoorbell q.toNat value

/-- R111, R114: one entry's read data, or an error response (none), enters the cache. -/
def State.fetchEntry (s : State) (q : Nat) (e : Option Bytes) : State :=
  let x := s.queue q
  if !s.ringExists q || decide (x.posted ≤ x.cache.length) ||
      (q != 0 && (s.queueFenced x || s.queueClosing x || decide (16 ≤ x.cache.length))) || x.state == .disabled then s
  else
    let s := s.modQueue q fun x => { x with cache := x.cache ++ [{ entry := e, stamp := s.sil.nextGen }] }
    if q = 0 then s.takeAdmin else s

/-- ENTRY_FETCH (R111). -/
def execEntryFetch (t : Nat) (q : BitVec 12) (data : Bytes) (s : State) :=
  act t s fun s => s.fetchEntry q.toNat (some data)

/-! ### Taking work entries (R116 to R118) -/

/-- R116: the operand rules of a work entry (check 4). -/
def workOperandsOk (b : Bytes) : Bool :=
  if entOp b == 0x80 then
    entAddr b != 0 && entAddr b % 64 == 0 && decide (8 ≤ entLen b) && decide (entLen b ≤ 16777216) &&
      entLen b % 8 == 0 && decide (entBase b < 2 ^ 48) && decide (entCount b ≤ 2 ^ 24) &&
      decide (entBase b + entCount b ≤ 2 ^ 48)
  else
    entAddr b == 0 && entLen b == 0 && entStep b == 0 && entBase b == 0 && entCount b == 0 && entBudget b == 0

/-- R117: the checks of a taken work entry, in order: none when it passes. -/
def State.workCheck (s : State) (x : Queue) (b : Bytes) : Option Nat :=
  if !(entOp b == 0x80 || entOp b == 0x82 || entOp b == 0x83) then some 0x10
  else if !entReservedOk b || !within (entFlags b) 1 then some 0x11
  else if entMatter b != x.label || entClass b != x.cls then some 0x13
  else if !workOperandsOk b then some 0x12
  else if (s.label x.label).state == .opened && (s.label x.label).gen == x.gen then none
  else if x.eraseTail.isSome then some 0x30
  else some 0x31

/-- R340: with a PAUSE pending the queue takes only entries of its current step. -/
def pauseAllows (x : Queue) (b : Bytes) : Bool :=
  !x.pausePending || x.lastTaken == some (entStep b)

/-- The queue may take its next cached entry. R96, R117: an entry that CLOSE_MATTER finds fetched and not taken is still
taken, and fails check 5. -/
def State.mayTake (s : State) (x : Queue) : Bool :=
  x.state == .enabled && x.posted != 0 && !x.paused && !x.launchHeld && !s.queueFenced x && !x.cqFull && !x.stuck &&
    !(x.taken.any fun t => t.isFence)

/-- R32, R340: the queue has an entry that it may take now. -/
def State.contends (s : State) (x : Queue) : Bool :=
  s.mayTake x && (match x.cache.map Cached.entry with
    | [] => false
    | none :: _ => true
    | some b :: _ => pauseAllows x b)

/-- R32: of the queues that contend the one whose entry is taken next: queue 0 comes first; of the work queues the lowest
that has taken fewer entries in the present round than its WEIGHT, and when none has, the lowest of all, in a new
round (log 70). -/
def State.nextQueue (s : State) : Option Nat :=
  let cs := s.qg.queues.filter fun q => s.contends q.2
  if !s.qg.admin.cache.isEmpty && !s.qg.admin.cqFull && !s.qg.admin.stuck then none
  else match cs.find? fun q => decide (q.2.served < q.2.weight) with
    | some q => some q.1
    | none => cs.head?.map Prod.fst

/-- R32: an entry of queue `q` is taken in its round. -/
def State.serveRound (s : State) (q : Nat) : State :=
  let x := s.queue q
  if x.served < x.weight then s.modQueue q fun x => { x with served := x.served + 1 }
  else (s.modQg fun g => { g with queues := Tab.mapVals (fun _ y => { y with served := 0 }) g.queues }).modQueue q fun x => { x with served := 1 }

/-- The next cached entry is taken: SQ head moves past it, and it is held with a new serial number. -/
def State.takeFront (s : State) (q : Nat) (b : Bytes) (isFence : Bool) (c : Option Compl) : State :=
  let e := s.qg.nextSerial
  let stamp := match (s.queue q).cache with | [] => 0 | x :: _ => x.stamp
  let s := (s.modQg fun g => { g with nextSerial := e + 1 }).serveRound q
  s.modQueue q fun x =>
    let head := (x.sqHead + 1) % x.size
    { x with cache := x.cache.drop 1, sqHead := head, lastTaken := some (entStep b),
             eraseTail := if x.eraseTail = some head then none else x.eraseTail,
             taken := x.taken ++ [{ serial := e, bytes := b, head := head, stamp := stamp, isFence := isFence, compl := c }] }

/-- The frame of the work entries: when the round robin picks the queue, the front cached entry is taken and checked (ENTRY_CHECKS); one that
fails, or that meets Halt-safe, completes in any of the three rows (log 9); one whose opcode is the row's
acts: `f` gets its bytes. -/
def State.workRow (s : State) (q op : Nat) (f : Bytes → State → State) : State :=
  let x := s.queue q
  if q = 0 || s.nextQueue != some q then s
  else match x.cache.map Cached.entry with
    | [] => s
    | none :: _ => s.takeFront q [] false (some complOfError)
    | some b :: _ =>
      if s.faults.halt then s.takeFront q b false (some (complOf b 0x73 0))
      else match s.workCheck x b with
        | some st => s.countMalformed.takeFront q b false (some (complOf b st 0))
        | none => if entOp b = op then f b s else s

/-- FENCE (R118): it is taken, holds its queue, and completes when every earlier entry has (R119). -/
def execFence (t : Nat) (q : BitVec 12) (s : State) :=
  act t s fun s => s.workRow q.toNat 0x82 fun b s => s.takeFront q.toNat b true (some (complOf b 0 0))

/-- NOP (R118). -/
def execNop (t : Nat) (q : BitVec 12) (s : State) :=
  act t s fun s => s.workRow q.toNat 0x83 fun b s => s.takeFront q.toNat b false (some (complOf b 0 0))

/-! ### ADMIN_EN (R124) -/

/-- No admin command is pending or running. -/
def State.adminIdle (s : State) : Bool :=
  s.qg.todo.isEmpty && s.qg.run.isNone && s.qg.revokes.isEmpty && s.qg.due.isEmpty

/-- R124: a write of QG_CTL. -/
def State.writeAdminEn (s : State) (v : BitVec 32) : State :=
  if bitOf v.toNat 0 then
    if s.qg.adminEn then s
    else s.modQg fun g => { g with adminEn := true, admin := { g.admin with state := .enabled, armed := true } }
  else if !s.qg.adminEn then s
  else if s.adminIdle then
    s.modQg fun g =>
      { g with adminEn := false,
               admin := { g.admin with state := .absent, armed := false, sqHead := 0, sqTail := 0, cqHead := 0,
                                       cqTail := 0, cache := [], unread := [], stuck := false, writeFails := 0 } }
  else s.opsWrite 0x8000 v.toNat

/-- ADMIN_EN_WRITE (R124). -/
def execAdminEnWrite (t : Nat) (value : BitVec 32) (s : State) := act t s fun s => s.writeAdminEn value

/-! ### Life cycle (R127 to R130, R113) -/

/-- The active image is the Basking image (R437). -/
def State.basking (s : State) : Bool := s.sil.active.isSome && !s.sil.actHost

/-- The lowest absent work queue number, from `q` on (`fuel` bounds the search). -/
def State.freeQueue (s : State) : Nat → Nat → Option Nat
  | 0, _ => none
  | f + 1, q => if 4095 < q then none else if (s.queue q).state = .absent then some q else s.freeQueue f (q + 1)

/-- R128: the queue number that CREATE_QUEUE gives, if one is available. -/
def State.createNumber (s : State) (b : Bytes) : Option Nat :=
  if entQueue b = 0 then s.freeQueue 4095 1
  else if (s.queue (entQueue b)).state = .absent then some (entQueue b) else none

/-- CREATE_QUEUE's operand fields. -/
def crWeight (b : Bytes) : Nat := fieldOf (entLen b) 12 4
def crLogSize (b : Bytes) : Nat := fieldOf (entLen b) 16 5
def crCmp (b : Bytes) : Nat := fieldOf (entLen b) 24 2
def crHeld (b : Bytes) : Bool := bitOf (entFlags b) 1

/-- R128: the checks of CREATE_QUEUE: the status, 0 when all pass. -/
def State.createStatus (s : State) (b : Bytes) : Nat :=
  let l := s.label (entMatter b)
  if crLogSize b < 4 ∨ 16 < crLogSize b ∨ crWeight b = 0 ∨ entAddr b = 0 ∨ entAddr b % 4096 ≠ 0 ∨
      entStep b = 0 ∨ entStep b % 4096 ≠ 0 ∨ (crHeld b = false ∧ crCmp b ≠ 0) then 0x12
  else if (s.createNumber b).isNone = true ∨ (s.basking = true ∧ entClass b ≠ 0) then 0x40
  else if l.state = .fenced then 0x30
  else if l.state ≠ .opened ∨ l.gen ≠ entGen b then 0x31
  else if crHeld b = true ∧ (match s.claimOf 2 (crCmp b) with
      | none => true
      | some c => c.holder != 0 && some c.holder != s.createNumber b) = true then 0x40
  else 0

/-- R128: the new queue. -/
def newQueue (b : Bytes) (ref : List Nat) : Queue :=
  { state := .enabled, label := entMatter b, gen := entGen b, cls := entClass b, weight := crWeight b,
    logSize := crLogSize b, sqBase := entAddr b, cqBase := entStep b, msiAddr := entBase b, msiData := entCount b,
    cmp := crCmp b, launchHeld := crHeld b, armed := true, ref := ref }

/-- CREATE_QUEUE (R128). -/
def execCreateQueue (t : Nat) (s : State) :=
  act t s fun s => s.adminRow 0x01 fun b s =>
    let st := s.createStatus b
    match s.createNumber b with
    | some q =>
      if st = 0 then (s.modQueue q fun _ => newQueue b s.tileCounts).adminDone b 0 q else s.adminDone b st 0
    | none => s.adminDone b st 0

/-- R130: the claims that a queue holds are released. -/
def State.releaseClaims (s : State) (q : Nat) : State :=
  s.modSil fun x => { x with claims := x.claims.filter fun c => c.2.holder != q }

/-- R130: a DISABLED queue becomes ABSENT. -/
def State.destroy (s : State) (q : Nat) : State :=
  let timers := (s.sil.claims.filter fun c => c.2.holder == q && c.1 / 256 == 1).map fun c => c.1 % 256
  let s := s.leaveBuffers q
  let s := s.releaseClaims q
  let s := s.modTime fun m => { m with timers := timers.foldl Tab.del m.timers }
  let s := s.modDet fun d =>
    { d with lanes := Tab.mapVals (fun _ l => if l.queue = q then { l with queue := 0, partner := 0, here := [], remote := [], compared := [], stalled := false } else l) d.lanes }
  s.modQg fun g => { g with queues := Tab.del g.queues q }

/-- DESTROY_QUEUE (R130). -/
def execDestroyQueue (t : Nat) (s : State) :=
  act t s fun s => s.adminRow 0x02 fun b s =>
    if (s.queue (entQueue b)).state = .disabled then (s.destroy (entQueue b)).adminDone b 0 0
    else s.adminDone b 0x40 0

/-- R131: the TAIL writes of the tick of the acceptance are ignored (R109 condition 4). -/
def State.undoTail (s : State) (q : Nat) : State :=
  let x := s.queue q
  if x.tailTick = s.now ∧ x.tailWords ≠ [] then
    x.tailWords.foldl (fun s w => s.badDoorbell q 4 w) (s.modQueue q fun x => { x with sqTail := x.tailWas, tailWords := [] })
  else s

/-- R129, R490: an ENABLED queue becomes DISABLING. One whose completion write has failed for good discards
its completions with one OPS record. -/
def State.disable (s : State) (q : Nat) : State :=
  let s := s.undoTail q
  let x := s.queue q
  let s := s.modQueue q fun x => { x with state := .disabling, paused := false, pausePending := false, launchHeld := false }
  let s :=
    if x.stuck then
      let n := (x.taken.filter fun t => t.compl.isSome).length + x.posted
      (s.modQueue q fun x => { x with mute := true, taken := x.taken.filter fun t => t.compl.isNone }).opsRule 490
        (Config.discardArg q n)
    else s
  s.idleCheck q

/-- DISABLE_QUEUE (R129). A PAUSE that waits for the queue's boundary is an earlier command, so none is pending
here but one whose boundary cannot come: it is the command that runs (R125). -/
def execDisableQueue (t : Nat) (s : State) :=
  act t s fun s => s.adminRow 0x03 fun b s =>
    let head := (s.queue (entQueue b)).sqHead
    let s := if (s.queue (entQueue b)).state = .enabled then s.disable (entQueue b) else s
    s.adminDone b 0 head

/-- QUEUE_INVALIDATE (R113). -/
def execQueueInvalidate (t : Nat) (s : State) :=
  act t s fun s => s.adminRow 0x04 fun b s =>
    let head := (s.queue (entQueue b)).sqHead
    (s.modQueue (entQueue b) fun x => { x with cache := [] }).adminDone b 0 head

/-! ### The pool record (R382) -/

/-- A little-endian word of the record. -/
def water (d : Bytes) (i k : Nat) : Nat := leAt d (64 + 12 * i + 4 * k) 4

/-- R382: the split, and the SIZED reservations granted in a region, fit the pool. -/
def State.splitFits (s : State) (split : List Nat) : Bool :=
  regionNumbers.all fun r => decide (splitCells split + (if s.pool.chain then 0 else s.resGranted r) ≤ 4096)

/-- R382: the status of a pool record, 0 when it is accepted. -/
def State.poolRecordStatus (s : State) (b d : Bytes) : Nat :=
  let flags := leAt d 10 2
  let setSplit := bitOf flags 0
  let setRegion := bitOf flags 1
  let setWater := bitOf flags 2
  let split := (List.range 6).map fun k => leAt d (16 + 2 * k) 2
  if entLen b ≠ 256 ∨ slice d 0 8 ≠ asciiBytes "HYNUSPCF" ∨ leAt d 8 2 ≠ 1 then 0x12
  else if allZero (slice d 12 4) = false ∨ allZero (slice d 32 32) = false ∨ 8 ≤ flags ∨
      (setSplit = false ∧ allZero (slice d 16 12) = false) ∨
      (setRegion = false ∧ allZero (slice d 28 4) = false) ∨
      (setWater = false ∧ allZero (slice d 64 192) = false) then 0x11
  else if (setSplit = true ∧ s.splitFits split = false) ∨
      (setRegion = true ∧ ¬ (leAt d 28 2 < leAt d 30 2 ∧ leAt d 30 2 ≤ 4096)) ∨
      (setWater = true ∧ ((List.range 12).all fun i =>
          decide (water d i 0 < water d i 1) && decide (water d i 1 < water d i 2) && decide (water d i 2 ≤ 262144)) = false) ∨
      (setWater = true ∧ allZero (slice d 208 48) = false) then 0x12
  else if setSplit = true ∧ ((s.pool.buffers.any fun x => x.2.slot && !x.2.inEnclave) || s.pool.work.any WorkBuffer.slot) = true then 0x40
  else if flags = 0 then 0x40
  else 0

/-- R382: the record takes hold. -/
def State.applyPoolRecord (s : State) (d : Bytes) : State :=
  let flags := leAt d 10 2
  s.modPool fun p =>
    { p with
      split := if bitOf flags 0 then (List.range 6).map fun k => leAt d (16 + 2 * k) 2 else p.split,
      green := if bitOf flags 1 then leAt d 28 2 else p.green,
      amber := if bitOf flags 1 then leAt d 30 2 else p.amber,
      water := if bitOf flags 2 then (List.range 12).map fun i => (i, (water d i 0, water d i 1, water d i 2)) else p.water }

end Sys2Proof.Machine
end

