-- ==== Sys2Proof/Machine/Scan.lean ====
section
/-!
DEFINITION. Reading a coded sample in order (R199, R216, R260): a decoder over the bytes read so far, which counts
decode work units and stops at the first condition it meets. The image and video decoders are written over it.
-/

namespace Sys2Proof.Machine

/-- Why a decoder stops before its end: the bytes read so far end; the next unit would pass BUDGET (R260); a condition
of R199 with its DETAIL. -/
inductive Stop where
  | short
  | over
  | bad (detail : Nat)
deriving DecidableEq, Repr

/-- A reader: its bytes, its place, the bytes left of the segment it reads and that segment's start, the coded byte in
hand with its bits left, the units counted, BUDGET (0: none). -/
structure Reader where
  data : Array Byte
  pos : Nat := 0
  seg : Nat := 0
  mark : Nat := 0
  cur : Nat := 0
  left : Nat := 0
  units : Nat := 0
  budget : Nat := 0

/-- A decoder. -/
abbrev Dec := StateT Reader (Except Stop)

def stop {α : Type} (x : Stop) : Dec α := fun _ => .error x

/-- The DETAILs of R199. -/
def unsupported {α : Type} : Dec α := stop (.bad 1)
def syntaxErr {α : Type} : Dec α := stop (.bad 2)
def truncated {α : Type} : Dec α := stop (.bad 3)
def tooLarge {α : Type} : Dec α := stop (.bad 4)
def checksum {α : Type} : Dec α := stop (.bad 5)
def pageAbsent {α : Type} : Dec α := stop (.bad 7)
def lineLength {α : Type} : Dec α := stop (.bad 8)

/-- The limits of the SCB and of the output that a header is held to (R193, R195, R199): MAX_PIXELS, V_MAX where TD_OUT[0]
is named, COLOUR, ALPHA_DROP, and BITS of the descriptor where OUT_FMT is uplane (0: none). -/
structure ImgLimits where
  maxPixels : Nat
  vmax : Option Nat := none
  colour : Nat := 0
  dropAlpha : Bool := false
  plane : Option Nat := none

/-- R199: values beyond V_MAX. -/
def ImgLimits.beyond (l : ImgLimits) (values : Nat) : Bool := match l.vmax with | some v => decide (v < values) | none => false

/-- A condition, `x` where it holds. -/
def guardDec (c : Bool) (x : Dec Unit) : Dec Unit := if c then x else pure ()

/-- R260: one work unit; the unit that would pass BUDGET is not performed. -/
def unit : Dec Unit := fun r =>
  if r.budget ≠ 0 ∧ r.budget ≤ r.units then .error .over else .ok ((), { r with units := r.units + 1 })

/-- The byte `n` places on. -/
def peek (n : Nat) : Dec Nat := fun r =>
  if r.pos + n < r.data.size then .ok ((r.data.getD (r.pos + n) 0).toNat, r) else .error .short

/-- The next byte. -/
def nextByte : Dec Nat := do
  let b ← peek 0
  modify fun r => { r with pos := r.pos + 1 }
  return b

/-- The next byte, its read a work unit. -/
def codedByte : Dec Nat := do
  let _ ← peek 0
  unit
  nextByte

/-- `n` bytes. -/
def takeBytes : Nat → Dec (List Nat)
  | 0 => return []
  | n + 1 => do
    let b ← nextByte
    return b :: (← takeBytes n)

/-- A number of `n` bytes, most significant first. -/
def beRead (n : Nat) : Dec Nat := do return (← takeBytes n).foldl (fun a b => a * 256 + b) 0

/-- `n` bytes skipped, each of which must have been read. -/
def skipBytes (n : Nat) : Dec Unit := do
  if n = 0 then return
  let _ ← peek (n - 1)
  modify fun r => { r with pos := r.pos + n }

/-- The next bit of the bytes that `supply` gives, most or least significant first. -/
def bitHigh (supply : Dec Nat) : Dec Nat := do
  if (← get).left = 0 then
    let b ← supply
    modify fun r => { r with cur := b, left := 8 }
  modify fun r => { r with left := r.left - 1 }
  let r ← get
  return r.cur / 2 ^ r.left % 2

def bitLow (supply : Dec Nat) : Dec Nat := do
  if (← get).left = 0 then
    let b ← supply
    modify fun r => { r with cur := b, left := 8 }
  let r ← get
  set { r with left := r.left - 1 }
  return r.cur / 2 ^ (8 - r.left) % 2

/-- The bits left of the byte in hand are dropped. -/
def alignByte : Dec Unit := modify fun r => { r with left := 0 }

/-- A number of `n` bits, its most or its least significant bit first. -/
def bitsHigh (bit : Dec Nat) : Nat → (acc : Nat) → Dec Nat
  | 0, a => return a
  | n + 1, a => do bitsHigh bit n (2 * a + (← bit))

def bitsLow (bit : Dec Nat) (n : Nat) : Dec Nat := do
  let mut v := 0
  for i in List.range n do
    v := v + (← bit) * 2 ^ i
  return v

/-- A canonical prefix code, as T.81 and RFC 1951 define it: how many codes each length has, from 1, and the symbols
in the order of their codes. -/
structure Codebook where
  counts : List Nat
  symbols : Array Nat
deriving Inhabited

/-- The codes that a length may still use after the lengths before it; none where they are more than there are. -/
def codesLeft : List Nat → (left : Nat) → Option Nat
  | [], left => some left
  | n :: ns, left => if 2 * left < n then none else codesLeft ns (2 * left - n)

/-- A symbol of a canonical code: the least code of the length, and the symbols before it. -/
def symbolFrom (bit : Dec Nat) (symbols : Array Nat) : List Nat → (code first before : Nat) → Dec Nat
  | [], _, _, _ => syntaxErr
  | n :: ns, code, first, before => do
    let code := 2 * code + (← bit)
    if code < first + n then return symbols.getD (before + (code - first)) 0
    else symbolFrom bit symbols ns code (2 * (first + n)) (before + n)

def symbol (bit : Dec Nat) (c : Codebook) : Dec Nat := symbolFrom bit c.symbols c.counts 0 0 0

/-- What a decoder gives of the bytes read so far. -/
def Dec.onBytes {α : Type} (d : Dec α) (budget : Nat) (bs : Bytes) : Except Stop (α × Reader) :=
  d { data := bs.toArray, budget := budget }

end Sys2Proof.Machine
end

