-- ==== Sys2Proof/Machine/Fax.lean ====
section
/-!
DEFINITION. The decoding of G4_FAX (R190, R192, R199, R260): the files of TIFF 6.0 within the conditions of R190, and the
codes of ITU-T T.4 and T.6. What R190 leaves to those standards is taken from them, PRESUMED (log 34).
-/

namespace Sys2Proof.Machine

/-! ### Codes -/

/-- A code: its bits, its value, what it stands for. -/
abbrev FaxCode := Nat × Nat × Nat

/-- T.4: the terminating codes of white runs 0 to 63. -/
def whiteShort : List (Nat × Nat) :=
  [(8, 0x35), (6, 0x07), (4, 0x07), (4, 0x08), (4, 0x0B), (4, 0x0C), (4, 0x0E), (4, 0x0F),
   (5, 0x13), (5, 0x14), (5, 0x07), (5, 0x08), (6, 0x08), (6, 0x03), (6, 0x34), (6, 0x35),
   (6, 0x2A), (6, 0x2B), (7, 0x27), (7, 0x0C), (7, 0x08), (7, 0x17), (7, 0x03), (7, 0x04),
   (7, 0x28), (7, 0x2B), (7, 0x13), (7, 0x24), (7, 0x18), (8, 0x02), (8, 0x03), (8, 0x1A)] ++
  [(8, 0x1B), (8, 0x12), (8, 0x13), (8, 0x14), (8, 0x15), (8, 0x16), (8, 0x17), (8, 0x28),
   (8, 0x29), (8, 0x2A), (8, 0x2B), (8, 0x2C), (8, 0x2D), (8, 0x04), (8, 0x05), (8, 0x0A),
   (8, 0x0B), (8, 0x52), (8, 0x53), (8, 0x54), (8, 0x55), (8, 0x24), (8, 0x25), (8, 0x58),
   (8, 0x59), (8, 0x5A), (8, 0x5B), (8, 0x4A), (8, 0x4B), (8, 0x32), (8, 0x33), (8, 0x34)]

/-- T.4: the make-up codes of white runs 64 to 1728. -/
def whiteLong : List (Nat × Nat) :=
  [(5, 0x1B), (5, 0x12), (6, 0x17), (7, 0x37), (8, 0x36), (8, 0x37), (8, 0x64), (8, 0x65), (8, 0x68),
   (8, 0x67), (9, 0xCC), (9, 0xCD), (9, 0xD2), (9, 0xD3), (9, 0xD4), (9, 0xD5), (9, 0xD6), (9, 0xD7),
   (9, 0xD8), (9, 0xD9), (9, 0xDA), (9, 0xDB), (9, 0x98), (9, 0x99), (9, 0x9A), (6, 0x18), (9, 0x9B)]

/-- T.4: the terminating codes of black runs 0 to 63. -/
def blackShort : List (Nat × Nat) :=
  [(10, 0x37), (3, 0x02), (2, 0x03), (2, 0x02), (3, 0x03), (4, 0x03), (4, 0x02), (5, 0x03),
   (6, 0x05), (6, 0x04), (7, 0x04), (7, 0x05), (7, 0x07), (8, 0x04), (8, 0x07), (9, 0x18),
   (10, 0x17), (10, 0x18), (10, 0x08), (11, 0x67), (11, 0x68), (11, 0x6C), (11, 0x37), (11, 0x28),
   (11, 0x17), (11, 0x18), (12, 0xCA), (12, 0xCB), (12, 0xCC), (12, 0xCD), (12, 0x68), (12, 0x69)] ++
  [(12, 0x6A), (12, 0x6B), (12, 0xD2), (12, 0xD3), (12, 0xD4), (12, 0xD5), (12, 0xD6), (12, 0xD7),
   (12, 0x6C), (12, 0x6D), (12, 0xDA), (12, 0xDB), (12, 0x54), (12, 0x55), (12, 0x56), (12, 0x57),
   (12, 0x64), (12, 0x65), (12, 0x52), (12, 0x53), (12, 0x24), (12, 0x37), (12, 0x38), (12, 0x27),
   (12, 0x28), (12, 0x58), (12, 0x59), (12, 0x2B), (12, 0x2C), (12, 0x5A), (12, 0x66), (12, 0x67)]

/-- T.4: the make-up codes of black runs 64 to 1728. -/
def blackLong : List (Nat × Nat) :=
  [(10, 0x0F), (12, 0xC8), (12, 0xC9), (12, 0x5B), (12, 0x33), (12, 0x34), (12, 0x35), (13, 0x6C), (13, 0x6D),
   (13, 0x4A), (13, 0x4B), (13, 0x4C), (13, 0x4D), (13, 0x72), (13, 0x73), (13, 0x74), (13, 0x75), (13, 0x76),
   (13, 0x77), (13, 0x52), (13, 0x53), (13, 0x54), (13, 0x55), (13, 0x5A), (13, 0x5B), (13, 0x64), (13, 0x65)]

/-- T.4: the make-up codes of either colour, 1792 to 2560. -/
def eitherLong : List (Nat × Nat) :=
  [(11, 0x08), (11, 0x0C), (11, 0x0D), (12, 0x12), (12, 0x13), (12, 0x14), (12, 0x15), (12, 0x16), (12, 0x17),
   (12, 0x1C), (12, 0x1D), (12, 0x1E), (12, 0x1F)]

/-- Codes of runs that rise by `step` from `from_`. -/
def runCodes (from_ step : Nat) (cs : List (Nat × Nat)) : List FaxCode := cs.zipIdx.map fun (c, i) => (c.1, c.2, from_ + i * step)

/-- The run codes of a colour; 4000: an extension code. -/
def extensionRun : Nat := 4000
def whiteRuns : List FaxCode := runCodes 0 1 whiteShort ++ runCodes 64 64 whiteLong ++ runCodes 1792 64 eitherLong ++ [(9, 1, extensionRun)]
def blackRuns : List FaxCode := runCodes 0 1 blackShort ++ runCodes 64 64 blackLong ++ runCodes 1792 64 eitherLong ++ [(9, 1, extensionRun)]

/-- T.4, T.6: the modes of two-dimensional coding: pass 0, horizontal 1, extension 2, vertical 10 + (a1 − b1). -/
def modeCodes : List FaxCode :=
  [(1, 1, 10), (3, 3, 11), (3, 2, 9), (3, 1, 1), (4, 1, 0), (6, 3, 12), (6, 2, 8), (7, 3, 13), (7, 2, 7), (7, 1, 2)]

/-! ### Bits -/

/-- FillOrder: the bits of a byte from its most or its least significant. -/
def reverseByte (b : Nat) : Nat := (List.range 8).foldl (fun v i => 2 * v + b / 2 ^ i % 2) 0

/-- The next coded byte of a strip or page: each is a unit (R260); `bare`: a page that ends with the sample. A strip that
ends before its rows do is TRUNCATED. -/
def faxByte (bare flip : Bool) : Dec Nat := do
  if !bare then
    guardDec ((← get).seg == 0) truncated
    modify fun r => { r with seg := r.seg - 1 }
  let b ← codedByte
  return if flip then reverseByte b else b

/-- A row and the reader it is read with. -/
structure FaxIn where
  bare : Bool
  flip : Bool
  width : Nat

def FaxIn.bit (x : FaxIn) : Dec Nat := bitHigh (faxByte x.bare x.flip)

/-- A code of a list: its value; EOL (eleven zeros) as `none`; SYNTAX where no code begins so. -/
def faxCode (x : FaxIn) (codes : List FaxCode) : (fuel len value : Nat) → Dec (Option Nat)
  | 0, _, _ => syntaxErr
  | fuel + 1, len, value => do
    let v := 2 * value + (← x.bit)
    match codes.find? fun c => c.1 == len + 1 && c.2.1 == v with
    | some c => return some c.2.2
    | none => if len + 1 = 11 ∧ v = 0 then return none else faxCode x codes fuel (len + 1) v

/-- The next `n` bits as far as they stand among the bytes read: of a strip, or of a bare page. -/
def FaxIn.ahead (x : FaxIn) (r : Reader) (n : Nat) : List Nat :=
  let take := if x.bare then n / 8 + 1 else min r.seg (n / 8 + 1)
  let bytes := (r.data.extract r.pos (r.pos + take)).toList.map fun b => if x.flip then reverseByte b.toNat else b.toNat
  let bits := fun (b : Nat) (k : Nat) => (List.range k).map fun i => b / 2 ^ (k - 1 - i) % 2
  (bits r.cur r.left ++ bytes.flatMap fun b => bits b 8).take n

/-! ### Rows -/

/-- A run of a colour: make-up codes and a terminating code. EOL within a row ends it short (R199). -/
def faxRun (x : FaxIn) (black : Bool) : Nat → (total : Nat) → Dec Nat
  | 0, _ => syntaxErr
  | fuel + 1, total => do
    match ← faxCode x (if black then blackRuns else whiteRuns) 13 0 0 with
    | none => lineLength
    | some r =>
      guardDec (r == extensionRun) unsupported
      guardDec (decide (x.width < total + r)) lineLength
      if r < 64 then return total + r else faxRun x black fuel (total + r)

/-- A row coded in one dimension, from column `a`: the columns at which its runs end. -/
def faxRow1 (x : FaxIn) : Nat → (a : Nat) → (black : Bool) → List Nat → Dec (List Nat)
  | 0, _, _, _ => syntaxErr
  | fuel + 1, a, black, cs => do
    if x.width ≤ a then return cs
    let r ← faxRun x black (x.width + 1) 0
    guardDec (decide (x.width < a + r)) lineLength
    faxRow1 x fuel (a + r) (!black) (cs ++ [a + r])

/-- b1 and b2: the first changing element of the reference row right of a0 (at the start of the row, of the row) whose
colour is not the present one, and the next. -/
def refChanges (width : Nat) (ref : List Nat) (a0 : Nat) (start black : Bool) : Nat × Nat :=
  match ref.zipIdx.find? fun c => (decide (a0 < c.1) || start) && c.2 % 2 == ofBool black with
  | none => (width, width)
  | some c => (c.1, ref.getD (c.2 + 1) width)

/-- A row coded in two dimensions against the changing elements of its reference row. -/
def faxRow2 (x : FaxIn) (ref : List Nat) : Nat → (a0 : Nat) → (start black : Bool) → List Nat → Dec (List Nat)
  | 0, _, _, _, _ => syntaxErr
  | fuel + 1, a0, start, black, cs => do
    if x.width ≤ a0 then return cs
    let b := refChanges x.width ref a0 start black
    match ← faxCode x modeCodes 12 0 0 with
    | none => lineLength
    | some 0 => faxRow2 x ref fuel b.2 false black cs
    | some 1 => do
      let r1 ← faxRun x black (x.width + 1) 0
      let r2 ← faxRun x (!black) (x.width + 1) 0
      guardDec (decide (x.width < a0 + r1 + r2)) lineLength
      faxRow2 x ref fuel (a0 + r1 + r2) false black (cs ++ [a0 + r1, a0 + r1 + r2])
    | some 2 => unsupported
    | some n => do
      guardDec (decide (b.1 + n < a0 + 10)) syntaxErr
      guardDec (decide (x.width + 10 < b.1 + n)) lineLength
      faxRow2 x ref fuel (b.1 + n - 10) false (!black) (cs ++ [b.1 + n - 10])

/-- The pixels of a row from the ends of its runs, true for black; the first run is white. -/
def rowPixels (width : Nat) : (a : Nat) → (black : Bool) → List Nat → List Bool
  | a, black, [] => List.replicate (width - a) black
  | a, black, c :: cs => List.replicate (c - a) black ++ rowPixels width c (!black) cs

/-- The changing elements of a row of pixels. -/
def changesOf : Nat → Bool → List Bool → List Nat
  | _, _, [] => []
  | i, prev, b :: bs => if b = prev then changesOf (i + 1) b bs else i :: changesOf (i + 1) b bs

/-! ### Pages and strips -/

/-- How rows are coded: Compression 1 to 4, and two-dimensional T.4. -/
structure FaxMode where
  comp : Nat
  two : Bool := false

/-- EOL: eleven or more zeros, fill among them (R192), and a one. -/
def faxEol (x : FaxIn) : Nat → (zeros : Nat) → Dec Unit
  | 0, _ => syntaxErr
  | fuel + 1, zeros => do
    if (← x.bit) = 0 then faxEol x fuel (zeros + 1)
    else guardDec (decide (zeros < 11)) syntaxErr

/-- Whether EOL stands next, once enough bits are read to tell. `whole`: the sample ends with the bytes read. -/
def atEol (x : FaxIn) (whole : Bool) : Dec Bool := do
  let r ← get
  let a := x.ahead r 12
  guardDec (decide (a.length < 12) && (if x.bare then !whole else decide (r.data.size < r.pos + r.seg))) (stop .short)
  return a == List.replicate 11 0 ++ [1]

/-- R192: only fill is left of a bare page that has ended: no RTC, no EOFB. -/
def onlyFill (x : FaxIn) (m : FaxMode) (r : Reader) : Bool :=
  let rest := x.ahead r (8 * (r.data.size - r.pos) + 8)
  rest.all (· == 0) && (m.comp == 3 || decide (rest.length < 8))

/-- What stands where a row may start: the end of the page (RTC or EOFB), or a row and whether it is coded in one
dimension. The first row of a page is coded in one dimension, unless by T.6. -/
def rowStart (x : FaxIn) (m : FaxMode) (whole first : Bool) : Dec (Option Bool) := do
  match m.comp with
  | 2 =>
    alignByte
    return some true
  | 3 =>
    faxEol x (8 * ((← get).data.size + 1)) 0
    let one ← if m.two then do pure ((← x.bit) == 1) else pure true
    if one && (← atEol x whole) then return none
    guardDec (first && !one) syntaxErr
    return some one
  | _ => if ← atEol x whole then return none else return some false

/-- The pixels of a row of uncoded bytes. -/
def plainRow (x : FaxIn) : Nat → Dec (List Bool)
  | 0 => return []
  | n + 1 => do
    let b ← faxByte x.bare x.flip
    return ((List.range 8).map fun i => b / 2 ^ (7 - i) % 2 == 1) ++ (← plainRow x n)

/-- A row, once its start is known, against the row before it. -/
def faxRow (x : FaxIn) (one : Bool) (prev : List Bool) : Dec (List Bool) := do
  let fuel := 8 * ((← get).data.size + 1)
  let cs ← if one then faxRow1 x fuel 0 false [] else faxRow2 x (changesOf 0 false prev) fuel 0 true false []
  return rowPixels x.width 0 false cs

/-- The rows of a strip, `n` of them, against the row before, the last first; each row is a unit. An end mark before the
rows are complete ends the input. -/
def stripRows (x : FaxIn) (m : FaxMode) : (n : Nat) → (first : Bool) → (prev : List Bool) → List (List Bool) → Dec (List (List Bool))
  | 0, _, _, rows => return rows
  | n + 1, first, prev, rows => do
    let row ← if m.comp = 1 then do
        unit
        pure ((← plainRow x ((x.width + 7) / 8)).take x.width)
      else match ← rowStart x m true first with
        | none => truncated
        | some one => do
          unit
          faxRow x one prev
    stripRows x m n false row (row :: rows)

/-- The rows of a bare page, the last first. `whole`: the sample ends with the bytes read. -/
def pageRows (x : FaxIn) (m : FaxMode) (l : ImgLimits) (whole : Bool) : Nat → (prev : List Bool) → List (List Bool) → Dec (List (List Bool))
  | 0, _, _ => syntaxErr
  | fuel + 1, prev, rows => do
    let r ← get
    if whole && !rows.isEmpty && onlyFill x m r then return rows
    match ← rowStart x m whole rows.isEmpty with
    | none =>
      guardDec rows.isEmpty truncated
      return rows
    | some one =>
      unit
      guardDec (decide (l.maxPixels < (rows.length + 1) * x.width) || l.beyond ((rows.length + 1) * x.width)) tooLarge
      let row ← faxRow x one prev
      pageRows x m l whole fuel row (row :: rows)

/-! ### TIFF -/

/-- A decoded page: its size, its pixels in raster order, true for black. -/
structure FaxPage where
  width : Nat
  height : Nat
  black : List Bool

/-- A field of the file at an offset. -/
def fileAt (big : Bool) (off n : Nat) : Dec Nat := fun r =>
  if off + n ≤ r.data.size then
    let bs := (r.data.extract off (off + n)).toList
    .ok (if big then beNat bs else leNat bs, r)
  else .error .short

/-- R190, R199: the chain of IFDs from an offset, at most 4,096, each with at most 512 entries, none twice. -/
def ifdChain (big : Bool) : Nat → (off : Nat) → List Nat → Dec (List Nat)
  | 0, _, _ => unsupported
  | fuel + 1, off, got => do
    if off = 0 then return got
    guardDec (got.contains off) syntaxErr
    guardDec (fuel == 0) unsupported
    let n ← fileAt big off 2
    guardDec (n == 0) syntaxErr
    guardDec (decide (512 < n)) unsupported
    ifdChain big fuel (← fileAt big (off + 2 + 12 * n) 4) (got ++ [off])

/-- An entry of an IFD: tag, type, count, and where its values stand. -/
structure IfdEntry where
  tag : Nat
  size : Nat
  count : Nat
  at_ : Nat

/-- The bytes of a value of a type: BYTE, SHORT and LONG alone hold the numbers that a page is read by. -/
def tagSize (type : Nat) : Nat := match type with | 1 => 1 | 3 => 2 | 4 => 4 | _ => 0

/-- The entries of an IFD. -/
def ifdEntries (big : Bool) (off : Nat) : Nat → Dec (List IfdEntry)
  | 0 => return []
  | n + 1 => do
    let o := off + 2 + 12 * n
    let size := tagSize (← fileAt big (o + 2) 2)
    let count ← fileAt big (o + 4) 4
    let at_ ← if size * count ≤ 4 then pure (o + 8) else fileAt big (o + 8) 4
    return (← ifdEntries big off n) ++ [{ tag := ← fileAt big o 2, size := size, count := count, at_ := at_ }]

/-- The values of a tag, `n` of them; SYNTAX where their number or type does not fit. -/
def tagValues (big : Bool) (es : List IfdEntry) (tag n : Nat) : Dec (List Nat) := do
  match es.find? fun e => e.tag == tag with
  | none => syntaxErr
  | some e =>
    guardDec (e.size == 0 || e.count != n) syntaxErr
    (List.range n).mapM fun i => fileAt big (e.at_ + i * e.size) e.size

/-- The value of a tag, or its default. -/
def tagValue (big : Bool) (es : List IfdEntry) (tag : Nat) (default : Option Nat) : Dec Nat := do
  match default, es.any fun e => e.tag == tag with
  | some d, false => return d
  | _, _ => return (← tagValues big es tag 1).getD 0 0

/-- R190: the page that an IFD describes. -/
def tiffPage (l : ImgLimits) (big : Bool) (off : Nat) : Dec FaxPage := do
  let es ← ifdEntries big off (← fileAt big off 2)
  let get1 := tagValue big es
  let w ← get1 256 none
  guardDec (w == 0) syntaxErr
  guardDec (decide (65535 < w)) unsupported
  let h ← get1 257 none
  guardDec (h == 0) syntaxErr
  guardDec (decide (l.maxPixels < w * h) || l.beyond (w * h)) tooLarge
  guardDec ((← get1 258 (some 1)) != 1) unsupported
  let comp ← get1 259 (some 1)
  guardDec (comp == 0 || decide (4 < comp)) unsupported
  let photo ← get1 262 none
  guardDec (decide (1 < photo)) unsupported
  let order ← get1 266 (some 1)
  guardDec (order != 1 && order != 2) unsupported
  guardDec ((← get1 277 (some 1)) != 1) unsupported
  let rps ← get1 278 (some (2 ^ 32 - 1))
  let t4 ← get1 292 (some 0)
  guardDec (comp == 3 && t4 != 0 && t4 != 1 && t4 != 4 && t4 != 5) unsupported
  guardDec (comp == 4 && (← get1 293 (some 0)) != 0) unsupported
  guardDec (es.any fun e => decide (322 ≤ e.tag) && decide (e.tag ≤ 325)) unsupported
  guardDec (rps == 0) syntaxErr
  let strips := (h + rps - 1) / rps
  guardDec (decide (65536 < strips)) unsupported
  let offs ← tagValues big es 273 strips
  let lens ← tagValues big es 279 strips
  let x : FaxIn := { bare := false, flip := order == 2, width := w }
  let mut rows : List (List Bool) := []
  for i in List.range strips do
    modify fun r => { r with pos := offs.getD i 0, seg := lens.getD i 0, left := 0 }
    rows ← stripRows x { comp := comp, two := t4 % 2 == 1 } (min rps (h - i * rps)) true [] rows
  return { width := w, height := h, black := rows.reverse.flatMap fun r => r.map (· != (photo == 1)) }

/-- R190: a TIFF file's page `page`; a page beyond the chain is PAGE_ABSENT (R199). -/
def tiffScan (l : ImgLimits) (page : Nat) : Dec FaxPage := do
  let order ← beRead 2
  guardDec (order != 0x4949 && order != 0x4D4D) syntaxErr
  let big := order == 0x4D4D
  guardDec ((← fileAt big 2 2) != 42) syntaxErr
  let first ← fileAt big 4 4
  guardDec (first == 0) syntaxErr
  let chain ← ifdChain big 4097 first []
  match chain[page]? with
  | none => pageAbsent
  | some off => tiffPage l big off

/-- R190: a fax sample of a FORMAT; `width` is WIDTH of a bare page. -/
def faxScan (l : ImgLimits) (format width page : Nat) (whole : Bool) : Dec FaxPage := do
  if format = 0 then tiffScan l page
  else
    let x : FaxIn := { bare := true, flip := false, width := width }
    let m : FaxMode := if format = 3 then { comp := 4 } else { comp := 3, two := format == 2 }
    let rows ← pageRows x m l whole (8 * ((← get).data.size + 1)) [] []
    return { width := width, height := rows.length, black := rows.reverse.flatten }

end Sys2Proof.Machine
end

