-- ==== Sys2Proof/Machine/Jpeg.lean ====
section
/-!
DEFINITION. The entropy decoding of the JPEG role (R187, R188, R192, R199, R260): the markers, frames, scans and
Huffman codes of ITU-T T.81 within the subset of R187. What R187 leaves to T.81 is taken from it, PRESUMED (log 34).
-/

namespace Sys2Proof.Machine

/-- A component: its sampling factors and quantiser selector, the quantiser of its first scan, its blocks per line, its
quantised coefficients in natural order, and the bit position each coefficient was last sent to. -/
structure JpegComp where
  id : Nat
  h : Nat
  v : Nat
  tq : Nat
  quant : List Nat := []
  perLine : Nat := 0
  blocks : Array (Array Int) := #[]
  sent : List (Option Nat) := List.replicate 64 none
deriving Inhabited

/-- A coded image so far: SOF (16: none), size, components, tables by selector (class · 4 + id), restart interval, and
the transform of APP14. -/
structure Jpeg where
  sof : Nat := 16
  width : Nat := 0
  height : Nat := 0
  comps : List JpegComp := []
  quants : List (Nat × List Nat) := []
  codes : List (Nat × Codebook) := []
  interval : Nat := 0
  transform : Option Nat := none
deriving Inhabited

def Jpeg.hmax (j : Jpeg) : Nat := (j.comps.map JpegComp.h).foldl max 1
def Jpeg.vmax (j : Jpeg) : Nat := (j.comps.map JpegComp.v).foldl max 1

/-- APP14 transform 0. -/
def Jpeg.plain (j : Jpeg) : Bool := j.transform == some 0

/-- A component's blocks across and down where its blocks are coded alone. -/
def Jpeg.across (j : Jpeg) (c : JpegComp) : Nat := ((j.width * c.h + j.hmax - 1) / j.hmax + 7) / 8
def Jpeg.down (j : Jpeg) (c : JpegComp) : Nat := ((j.height * c.v + j.vmax - 1) / j.vmax + 7) / 8

/-- The MCUs across and down of an interleaved scan. -/
def Jpeg.mcuAcross (j : Jpeg) : Nat := (j.width + 8 * j.hmax - 1) / (8 * j.hmax)
def Jpeg.mcuDown (j : Jpeg) : Nat := (j.height + 8 * j.vmax - 1) / (8 * j.vmax)

/-- The natural position of a coefficient in zig-zag order. -/
def zigzag : List Nat :=
  [0, 1, 8, 16, 9, 2, 3, 10, 17, 24, 32, 25, 18, 11, 4, 5, 12, 19, 26, 33, 40, 48, 41, 34, 27, 20, 13, 6, 7, 14, 21, 28,
   35, 42, 49, 56, 57, 50, 43, 36, 29, 22, 15, 23, 30, 37, 44, 51, 58, 59, 52, 45, 38, 31, 39, 46, 53, 60, 61, 54, 47,
   55, 62, 63]

/-! ### Entropy-coded segments -/

/-- The next entropy-coded byte; each byte of the segment is a unit, a stuffed zero included (R260). EOI ends the input
before the image is complete. -/
def ecByte : Dec Nat := do
  if (← peek 0) = 0xFF then
    let m ← peek 1
    guardDec (m == 0xD9) truncated
    guardDec (m != 0) syntaxErr
    let b ← codedByte
    let _ ← codedByte
    return b
  else codedByte

def ecBit : Dec Nat := bitHigh ecByte
def ecBits (n : Nat) : Dec Nat := bitsHigh ecBit n 0

/-- T.81 RECEIVE and EXTEND. -/
def ecSigned (n : Nat) : Dec Int := do
  if n = 0 then return 0
  let v ← ecBits n
  return if v < 2 ^ (n - 1) then (v : Int) - (2 ^ n - 1 : Nat) else (v : Int)

/-- The DC difference. -/
def dcDiff (dc : Codebook) : Dec Int := do
  let t ← symbol ecBit dc
  guardDec (decide (11 < t)) syntaxErr
  ecSigned t

/-- The AC coefficients of a sequential block from position `k`; `fuel` bounds the positions. -/
def acFrom (ac : Codebook) : Nat → Nat → Array Int → Dec (Array Int)
  | 0, _, b => return b
  | fuel + 1, k, b => do
    if 63 < k then return b
    let rs ← symbol ecBit ac
    let r := rs / 16
    let n := rs % 16
    if n = 0 then
      if r = 0 then return b
      guardDec (r != 15 || decide (63 < k + 16)) syntaxErr
      acFrom ac fuel (k + 16) b
    else
      guardDec (decide (10 < n) || decide (63 < k + r)) syntaxErr
      let v ← ecSigned n
      acFrom ac fuel (k + r + 1) (b.set! (zigzag.getD (k + r) 0) v)

/-- The first scan of a band of AC coefficients; also the blocks that the band still ends in. -/
def acFirst (ac : Codebook) (last low : Nat) : Nat → Nat → Array Int → Dec (Array Int × Nat)
  | 0, _, b => return (b, 0)
  | fuel + 1, k, b => do
    if last < k then return (b, 0)
    let rs ← symbol ecBit ac
    let r := rs / 16
    let n := rs % 16
    if n = 0 then
      if r < 15 then return (b, 2 ^ r - 1 + (← ecBits r))
      guardDec (decide (last < k + 16)) syntaxErr
      acFirst ac last low fuel (k + 16) b
    else
      guardDec (decide (10 < n) || decide (last < k + r)) syntaxErr
      let v ← ecSigned n
      acFirst ac last low fuel (k + r + 1) (b.set! (zigzag.getD (k + r) 0) (v * 2 ^ low))

/-- A correction bit of a coefficient that is not zero. -/
def refineOne (low : Nat) (v : Int) : Dec Int := do
  if (← ecBit) = 1 ∧ v.natAbs / 2 ^ low % 2 = 0 then return (if 0 ≤ v then v + 2 ^ low else v - 2 ^ low)
  return v

/-- The coefficients from `k` to `last` refined, until `zeros` coefficients that are zero have been passed and one more is
met; the place reached. -/
def refineRun (last low : Nat) : Nat → Nat → (zeros : Option Nat) → Array Int → Dec (Array Int × Nat)
  | 0, k, _, b => return (b, k)
  | fuel + 1, k, zeros, b => do
    if last < k then return (b, k)
    let i := zigzag.getD k 0
    let v := b.getD i 0
    if v ≠ 0 then
      let v ← refineOne low v
      refineRun last low fuel (k + 1) zeros (b.set! i v)
    else match zeros with
      | some 0 => return (b, k)
      | some (z + 1) => refineRun last low fuel (k + 1) (some z) b
      | none => refineRun last low fuel (k + 1) none b

/-- A refining scan of a band of AC coefficients; also the blocks that the band still ends in, this one not counted. -/
def acRefine (ac : Codebook) (last low : Nat) : Nat → Nat → Array Int → Dec (Array Int × Nat)
  | 0, _, b => return (b, 0)
  | fuel + 1, k, b => do
    if last < k then return (b, 0)
    let rs ← symbol ecBit ac
    let r := rs / 16
    let n := rs % 16
    guardDec (decide (1 < n)) syntaxErr
    if n = 0 ∧ r < 15 then
      let run := 2 ^ r - 1 + (← ecBits r)
      let x ← refineRun last low 64 k none b
      return (x.1, run)
    let sign ← if n = 0 then pure 0 else ecBit
    let v : Int := if sign = 1 then 2 ^ low else - 2 ^ low
    let x ← refineRun last low 64 k (some r) b
    guardDec (decide (last < x.2)) syntaxErr
    acRefine ac last low fuel (x.2 + 1) (if n = 0 then x.1 else x.1.set! (zigzag.getD x.2 0) v)

/-- What a scan codes: the band, the bit positions, and the codes of each of its components. -/
structure ScanHead where
  first : Nat
  last : Nat
  high : Nat
  low : Nat
  progressive : Bool

/-- One block of a scan: the block, the DC prediction and the blocks that a band still ends in, before and after. -/
def scanBlock (h : ScanHead) (dc ac : Codebook) (b : Array Int) (pred : Int) (run : Nat) : Dec (Array Int × Int × Nat) := do
  unit
  if !h.progressive then
    let p := pred + (← dcDiff dc)
    let b ← acFrom ac 64 1 (b.set! 0 p)
    return (b, p, run)
  else if h.first = 0 then
    if h.high = 0 then
      let p := pred + (← dcDiff dc)
      return (b.set! 0 (p * 2 ^ h.low), p, run)
    else
      let v ← ecBit
      return (b.set! 0 (b.getD 0 0 + v * 2 ^ h.low), pred, run)
  else if h.high = 0 then
    if run ≠ 0 then return (b, pred, run - 1)
    let x ← acFirst ac h.last h.low 64 h.first b
    return (x.1, pred, x.2)
  else if run ≠ 0 then
    let x ← refineRun h.last h.low 64 h.first none b
    return (x.1, pred, run - 1)
  else
    let x ← acRefine ac h.last h.low 64 h.first b
    return (x.1, pred, x.2)

/-- The places of the blocks of MCU `m`: the scan's component, and the block's number. -/
def mcuBlocks (j : Jpeg) (cs : List JpegComp) (m : Nat) : List (Nat × Nat) :=
  match cs with
  | [c] => [(0, m / j.across c * c.perLine + m % j.across c)]
  | _ => cs.zipIdx.flatMap fun (c, i) => (List.range c.v).flatMap fun y => (List.range c.h).map fun x =>
      (i, (m / j.mcuAcross * c.v + y) * c.perLine + m % j.mcuAcross * c.h + x)

/-- R187: RST0 to RST7 in sequence. -/
def restartMark (n : Nat) : Dec Unit := do
  alignByte
  guardDec ((← nextByte) != 0xFF) syntaxErr
  let m ← nextByte
  guardDec (m == 0xD9) truncated
  guardDec (m != 0xD0 + n % 8) syntaxErr

/-- The entropy-coded data of a scan; each component with its DC and AC code. -/
def scanData (j : Jpeg) (h : ScanHead) (cs : List (JpegComp × Codebook × Codebook)) : Dec (List JpegComp) := do
  let mut planes : Array (Array (Array Int)) := (cs.map fun c => c.1.blocks).toArray
  let mut preds : Array Int := (cs.map fun _ => (0 : Int)).toArray
  let mut run := 0
  let comps := cs.map Prod.fst
  let total := match comps with | [c] => j.across c * j.down c | _ => j.mcuAcross * j.mcuDown
  alignByte
  for m in List.range total do
    if j.interval ≠ 0 ∧ m ≠ 0 ∧ m % j.interval = 0 then
      restartMark (m / j.interval - 1)
      preds := preds.map fun _ => 0
      run := 0
    for (i, n) in mcuBlocks j comps m do
      let plane := planes.getD i #[]
      let codes := (cs.getD i default).2
      let x ← scanBlock h codes.1 codes.2 (plane.getD n #[]) (preds.getD i 0) run
      planes := planes.set! i (plane.set! n x.1)
      preds := preds.set! i x.2.1
      run := x.2.2
  alignByte
  return comps.zipIdx.map fun (c, i) => { c with blocks := planes.getD i #[] }

/-! ### Segments -/

/-- DQT: quantisers, in zig-zag order in the segment and in natural order in the table. -/
def readQuants : Nat → (left : Nat) → Jpeg → Dec Jpeg
  | 0, _, j => return j
  | fuel + 1, left, j => do
    if left = 0 then return j
    let pt ← nextByte
    guardDec (pt / 16 != 0 || decide (3 < pt % 16) || decide (left < 65)) syntaxErr
    let q ← takeBytes 64
    guardDec (q.contains 0) syntaxErr
    let table := (List.range 64).map fun i => q.getD (zigzag.idxOf i) 1
    readQuants fuel (left - 65) { j with quants := (pt % 16, table) :: j.quants }

/-- DHT: codes; no code is all ones. -/
def readCodes : Nat → (left : Nat) → Jpeg → Dec Jpeg
  | 0, _, j => return j
  | fuel + 1, left, j => do
    if left = 0 then return j
    let ct ← nextByte
    guardDec (decide (1 < ct / 16) || decide (3 < ct % 16) || decide (left < 17)) syntaxErr
    let counts ← takeBytes 16
    let n := counts.foldl (· + ·) 0
    guardDec (decide (left < 17 + n) || decide (256 < n) ||
      (match codesLeft counts 1 with | some l => l == 0 | none => true)) syntaxErr
    let symbols ← takeBytes n
    readCodes fuel (left - 17 - n)
      { j with codes := (ct / 16 * 4 + ct % 16, { counts := counts, symbols := symbols.toArray }) :: j.codes }

/-- The components of a frame. -/
def readComps : Nat → Dec (List JpegComp)
  | 0 => return []
  | n + 1 => do
    let id ← nextByte
    let hv ← nextByte
    let tq ← nextByte
    guardDec (hv / 16 == 0 || decide (4 < hv / 16) || hv % 16 == 0 || decide (4 < hv % 16)) unsupported
    guardDec (decide (3 < tq)) syntaxErr
    return { id := id, h := hv / 16, v := hv % 16, tq := tq } :: (← readComps n)

/-- R188: the channels of `n` components under COLOUR. -/
def jpegChannels (colour n : Nat) : Nat :=
  if n = 1 then (if colour = 1 then 3 else 1) else if n = 3 ∧ colour = 2 then 1 else n

/-- SOF0 to SOF2, in the order of its fields (R187, R192, R199). -/
def readFrame (l : ImgLimits) (sof len : Nat) (j : Jpeg) : Dec Jpeg := do
  guardDec (j.sof != 16) syntaxErr
  guardDec ((← nextByte) != 8) unsupported
  let h ← beRead 2
  guardDec (h == 0) unsupported
  let w ← beRead 2
  guardDec (w == 0) syntaxErr
  guardDec (decide (l.maxPixels < w * h)) tooLarge
  let n ← nextByte
  guardDec (n == 0) syntaxErr
  guardDec (n == 2 || decide (4 < n) || (n == 4 && l.colour != 0)) unsupported
  guardDec (l.beyond (w * h * jpegChannels l.colour n)) tooLarge
  guardDec (len != 6 + 3 * n) syntaxErr
  let comps ← readComps n
  guardDec (!(comps.map JpegComp.id).Nodup) syntaxErr
  let j := { j with sof := sof, width := w, height := h, comps := comps }
  return { j with comps := comps.map fun c =>
    { c with perLine := j.mcuAcross * c.h,
             blocks := Array.replicate (j.mcuAcross * c.h * (j.mcuDown * c.v)) (Array.replicate 64 0) } }

/-- T.81 on progressive scans: a coefficient is first sent, DC before AC, and then refined bit by bit; a sequential
component is sent once. -/
def sentOk (h : ScanHead) (c : JpegComp) : Bool :=
  (List.range 64).all fun k =>
    !(decide (h.first ≤ k) && decide (k ≤ h.last)) ||
      (c.sent.getD k none == (if h.high = 0 then none else some h.high))

/-- SOS and its scan. -/
def readScan (len : Nat) (j : Jpeg) : Dec Jpeg := do
  guardDec (j.sof == 16) syntaxErr
  -- R187: four components only under APP14 transform 0
  guardDec (j.comps.length == 4 && !j.plain) unsupported
  let n ← nextByte
  guardDec (n == 0 || decide (4 < n) || len != 4 + 2 * n) syntaxErr
  let sel ← takeBytes (2 * n)
  let first ← nextByte
  let last ← nextByte
  let ahl ← nextByte
  let prog := j.sof == 2
  let h : ScanHead := { first := first, last := last, high := ahl / 16, low := ahl % 16, progressive := prog }
  guardDec (if prog then
      decide (last < first) || decide (63 < last) || (first == 0 && last != 0) || (first != 0 && n != 1) ||
        decide (13 < h.low) || !(h.high == 0 || h.high == h.low + 1)
    else first != 0 || last != 63 || ahl != 0) syntaxErr
  let mut cs : List (JpegComp × Codebook × Codebook) := []
  let mut places : List Nat := []
  for i in List.range n do
    let id := sel.getD (2 * i) 0
    let t := sel.getD (2 * i + 1) 0
    match j.comps.zipIdx.find? fun x => x.1.id == id with
    | none => syntaxErr
    | some (c, k) =>
      -- components of a scan stand in the order of the frame
      guardDec (places.any fun p => decide (k ≤ p)) syntaxErr
      guardDec (!sentOk h c || (first != 0 && c.sent.getD 0 none == none)) syntaxErr
      let quant ← if c.quant.isEmpty then
          match j.quants.find? fun q => q.1 == c.tq with | some q => pure q.2 | none => syntaxErr
        else pure c.quant
      guardDec (j.sof == 0 && (decide (1 < t / 16) || decide (1 < t % 16))) syntaxErr
      let table := fun (needed : Bool) (sel : Nat) => (do
        match j.codes.find? fun q => q.1 == sel with
        | some q => return q.2
        | none => if needed then syntaxErr else return default : Dec Codebook)
      let dc ← table (!prog || (first == 0 && h.high == 0)) (if t / 16 < 4 then t / 16 else 99)
      let ac ← table (!prog || first != 0) (if t % 16 < 4 then 4 + t % 16 else 99)
      places := places ++ [k]
      cs := cs ++ [({ c with quant := quant }, dc, ac)]
  -- R187: at most 10 blocks in an MCU
  guardDec (decide (1 < n) && decide (10 < (cs.map fun c => c.1.h * c.1.v).foldl (· + ·) 0)) unsupported
  let done ← scanData j h cs
  let done := done.map fun c => { c with sent := c.sent.zipIdx.map fun (x, k) => if first ≤ k ∧ k ≤ last then some h.low else x }
  return { j with comps := j.comps.map fun c => (done.find? fun d => d.id == c.id).getD c }

/-- APP14: the transform of an Adobe segment. -/
def readApp14 (len : Nat) (j : Jpeg) : Dec Jpeg := do
  if len < 12 then
    skipBytes len
    return j
  let b ← takeBytes 12
  skipBytes (len - 12)
  return if b.take 5 = [0x41, 0x64, 0x6F, 0x62, 0x65] then { j with transform := some (b.getD 11 0) } else j

/-- A marker: its code after any fill bytes. -/
def marker : Nat → Dec Nat
  | 0 => syntaxErr
  | fuel + 1 => do
    guardDec ((← peek 0) != 0xFF) syntaxErr
    let m ← peek 1
    if m = 0xFF then
      skipBytes 1
      marker fuel
    else
      skipBytes 2
      return m

/-- The segments from a marker on to EOI (R187, R192). -/
def segments (l : ImgLimits) : Nat → Jpeg → Dec Jpeg
  | 0, _ => syntaxErr
  | fuel + 1, j => do
    let m ← marker (fuel + 1)
    if m = 0xD9 then
      guardDec (j.sof == 16 || j.comps.any fun c => c.sent.getD 0 none == none) truncated
      return j
    -- a restart marker or SOI out of place, and a stuffed byte
    guardDec (m == 0 || (decide (0xD0 ≤ m) && decide (m ≤ 0xD8))) syntaxErr
    -- R187: every other frame type and marker use, DNL among them
    guardDec (!([0xC0, 0xC1, 0xC2, 0xC4, 0xDA, 0xDB, 0xDD, 0xFE].contains m || (decide (0xE0 ≤ m) && decide (m ≤ 0xEF)))) unsupported
    let len ← beRead 2
    guardDec (decide (len < 2)) syntaxErr
    let len := len - 2
    let j ← match m with
      | 0xC0 | 0xC1 | 0xC2 => readFrame l (m - 0xC0) len j
      | 0xC4 => readCodes (len + 1) len j
      | 0xDA => readScan len j
      | 0xDB => readQuants (len + 1) len j
      | 0xDD => do
        guardDec (len != 2) syntaxErr
        let n ← beRead 2
        pure { j with interval := n }
      | 0xEE => readApp14 len j
      | _ => do
        skipBytes len
        pure j
    segments l fuel j

/-- R187: the coded image of a JPEG sample. -/
def jpegScan (l : ImgLimits) : Dec Jpeg := do
  guardDec ((← nextByte) != 0xFF) syntaxErr
  guardDec ((← nextByte) != 0xD8) syntaxErr
  segments l ((← get).data.size + 1) {}

/-- R188: the pixels and the components of a progressive image once the frame header is among the bytes. -/
def progressiveSize : Nat → Bytes → Option (Nat × Nat)
  | 0, _ => none
  | fuel + 1, bs =>
    let m := leAt bs 1 1
    let len := beAt bs 2 2
    if bs.length < 4 ∨ leAt bs 0 1 ≠ 0xFF then none
    else if m = 0xFF then progressiveSize fuel (bs.drop 1)
    else if m = 0xC2 then (if bs.length < 10 then none else some (beAt bs 5 2 * beAt bs 7 2, leAt bs 9 1))
    else if m = 0xC0 ∨ m = 0xC1 ∨ m = 0xD9 ∨ m = 0xDA then none
    else progressiveSize fuel (bs.drop (2 + len))

end Sys2Proof.Machine
end

