-- ==== Sys2Proof/Machine/Inflate.lean ====
section
/-!
DEFINITION. Inflating a zlib stream (R189, R199, R260): RFC 1950 and RFC 1951, which R189 takes from those standards,
over the compressed bytes that a container supplies (log 34).
-/

namespace Sys2Proof.Machine

/-- Where inflated bytes go: the bytes that the image takes, and the places that hold a filter type. -/
structure Sink where
  total : Nat
  isFilter : Nat → Bool

/-- An inflated byte: the first of every 64 is a unit (R260); beyond the image it is ill-formed (R199); a filter type
above 4 is outside the subset (R189). -/
def emit (k : Sink) (out : Array Byte) (b : Nat) : Dec (Array Byte) := do
  guardDec (decide (k.total ≤ out.size)) syntaxErr
  if out.size % 64 = 0 then unit
  guardDec (k.isFilter out.size && decide (4 < b)) unsupported
  return out.push (BitVec.ofNat 8 b)

/-- A code from the length of each symbol; none where the code is ill-formed: more codes than there are, or fewer, one
code alone excepted where `lone`. -/
def codeOf (lone : Bool) (lengths : List Nat) : Option Codebook :=
  let counts := (List.range 15).map fun i => lengths.count (i + 1)
  let used := counts.foldl (· + ·) 0
  match codesLeft counts 1 with
  | none => none
  | some l =>
    if l = 0 ∨ (lone ∧ used ≤ 1) then
      some { counts := counts,
             symbols := ((List.range 15).flatMap fun i => (lengths.zipIdx.filter fun x => x.1 == i + 1).map Prod.snd).toArray }
    else none

/-- A number's low bits first. -/
def lowBits (supply : Dec Nat) (n : Nat) : Dec Nat := bitsLow (bitLow supply) n

/-- Stored bytes. -/
def storedFrom (supply : Dec Nat) (k : Sink) : Nat → Array Byte → Dec (Array Byte)
  | 0, out => return out
  | n + 1, out => do storedFrom supply k n (← emit k out (← supply))

/-- The bytes of a match, one by one, `dist` back. -/
def copyMatch (k : Sink) (dist : Nat) : Nat → Array Byte → Dec (Array Byte)
  | 0, out => return out
  | n + 1, out => do copyMatch k dist n (← emit k out (out.getD (out.size - dist) 0).toNat)

/-- RFC 1951: the base and the extra bits of a length symbol from 257 on, and of a distance symbol. -/
def lengthBase : List (Nat × Nat) :=
  (List.range 8).map (fun i => (3 + i, 0)) ++
  (List.range 20).map (fun i => let e := i / 4 + 1; (3 + 2 ^ (e + 2) + i % 4 * 2 ^ e, e)) ++ [(258, 0)]
def distBase : List (Nat × Nat) :=
  (List.range 4).map (fun i => (1 + i, 0)) ++
  (List.range 26).map (fun i => let e := i / 2 + 1; (1 + 2 ^ (e + 1) + i % 2 * 2 ^ e, e))

/-- The symbols of a block up to its end, in a window of `window` bytes; `fuel` bounds the symbols. -/
def symbolsFrom (supply : Dec Nat) (k : Sink) (window : Nat) (lit dist : Codebook) : Nat → Array Byte → Dec (Array Byte)
  | 0, _ => syntaxErr
  | fuel + 1, out => do
    let s ← symbol (bitLow supply) lit
    if s < 256 then symbolsFrom supply k window lit dist fuel (← emit k out s)
    else if s = 256 then return out
    else match lengthBase[s - 257]? with
      | none => syntaxErr
      | some (base, extra) =>
        let n := base + (← lowBits supply extra)
        let d ← symbol (bitLow supply) dist
        match distBase[d]? with
        | none => syntaxErr
        | some (base, extra) =>
          let back := base + (← lowBits supply extra)
          guardDec (decide (out.size < back) || decide (window < back)) syntaxErr
          symbolsFrom supply k window lit dist fuel (← copyMatch k back n out)

/-- The code lengths of a dynamic block, `n` in all. -/
def readLengths (supply : Dec Nat) (c : Codebook) (n : Nat) : Nat → List Nat → Dec (List Nat)
  | 0, _ => syntaxErr
  | fuel + 1, got => do
    if n ≤ got.length then
      guardDec (decide (n < got.length)) syntaxErr
      return got
    let s ← symbol (bitLow supply) c
    if s < 16 then readLengths supply c n fuel (got ++ [s])
    else if s = 16 then
      match got.getLast? with
      | none => syntaxErr
      | some v => do readLengths supply c n fuel (got ++ List.replicate (3 + (← lowBits supply 2)) v)
    else if s = 17 then readLengths supply c n fuel (got ++ List.replicate (3 + (← lowBits supply 3)) 0)
    else readLengths supply c n fuel (got ++ List.replicate (11 + (← lowBits supply 7)) 0)

/-- A code, or SYNTAX. -/
def needCode (c : Option Codebook) : Dec Codebook := match c with | some c => return c | none => syntaxErr

/-- The codes of a dynamic block. -/
def dynamicCodes (supply : Dec Nat) : Dec (Codebook × Codebook) := do
  let hlit := 257 + (← lowBits supply 5)
  let hdist := 1 + (← lowBits supply 5)
  let hclen := 4 + (← lowBits supply 4)
  guardDec (decide (286 < hlit) || decide (30 < hdist)) syntaxErr
  let mut ls : List Nat := []
  for _ in List.range hclen do
    ls := ls ++ [← lowBits supply 3]
  let order := [16, 17, 18, 0, 8, 7, 9, 6, 10, 5, 11, 4, 12, 3, 13, 2, 14, 1, 15]
  let c ← needCode (codeOf false ((List.range 19).map fun s => ls.getD (order.idxOf s) 0))
  let all ← readLengths supply c (hlit + hdist) (hlit + hdist + 1) []
  guardDec (all.getD 256 0 == 0) syntaxErr
  let lit ← needCode (codeOf true (all.take hlit))
  let dist ← needCode (codeOf true (all.drop hlit))
  return (lit, dist)

/-- RFC 1951: the codes of a fixed block. -/
def fixedCodes : Dec (Codebook × Codebook) := do
  let lit ← needCode (codeOf false (List.replicate 144 8 ++ List.replicate 112 9 ++ List.replicate 24 7 ++ List.replicate 8 8))
  let dist ← needCode (codeOf false (List.replicate 32 5))
  return (lit, dist)

/-- The blocks of a DEFLATE stream; `fuel` bounds them. -/
def blocksFrom (supply : Dec Nat) (k : Sink) (window symbols : Nat) : Nat → Array Byte → Dec (Array Byte)
  | 0, _ => syntaxErr
  | fuel + 1, out => do
    let final ← lowBits supply 1
    let out ← match ← lowBits supply 2 with
      | 0 => do
        alignByte
        let n := (← supply) + 256 * (← supply)
        let m := (← supply) + 256 * (← supply)
        guardDec (n + m != 65535) syntaxErr
        storedFrom supply k n out
      | 1 => do
        let c ← fixedCodes
        symbolsFrom supply k window c.1 c.2 symbols out
      | 2 => do
        let c ← dynamicCodes supply
        symbolsFrom supply k window c.1 c.2 symbols out
      | _ => syntaxErr
    if final = 1 then return out else blocksFrom supply k window symbols fuel out

/-- RFC 1950: Adler-32. -/
def adler32 (bs : Array Byte) : Nat :=
  let r := bs.foldl (fun (a : Nat × Nat) b => let x := (a.1 + b.toNat) % 65521; (x, (a.2 + x) % 65521)) (1, 0)
  r.2 * 65536 + r.1

/-- RFC 1950: a zlib stream. Data that ends before the image is complete is TRUNCATED, an Adler-32 that differs is
CHECKSUM (R199). -/
def inflate (supply : Dec Nat) (k : Sink) : Dec (Array Byte) := do
  let bits := ((← get).data.size + 1) * 8
  alignByte
  let cmf ← supply
  guardDec (cmf % 16 != 8 || decide (7 < cmf / 16)) unsupported
  let flg ← supply
  guardDec ((cmf * 256 + flg) % 31 != 0) syntaxErr
  guardDec (flg / 32 % 2 == 1) unsupported
  let out ← blocksFrom supply k (2 ^ (cmf / 16 + 8)) bits bits #[]
  guardDec (decide (out.size < k.total)) truncated
  alignByte
  let mut sum := 0
  for _ in List.range 4 do
    sum := sum * 256 + (← supply)
  guardDec (sum != adler32 out) checksum
  return out

end Sys2Proof.Machine
end

