-- ==== Sys2Proof/Machine/Png.lean ====
section
/-!
DEFINITION. The container decoding of PNG_INFLATE with FORMAT 0 (R189, R192, R199, R260): chunks, filters and Adam7 of
ISO/IEC 15948. What R189 leaves to the standard is taken from it, PRESUMED (log 34).
-/

namespace Sys2Proof.Machine

/-- The header and the palette chunks of an image; `samples` are its unfiltered coded samples in raster order. -/
structure Png where
  width : Nat := 0
  height : Nat := 0
  depth : Nat := 8
  colour : Nat := 0
  adam7 : Bool := false
  palette : List (List Nat) := []
  trns : List Nat := []
  samples : List Nat := []
deriving Inhabited

/-- The channels that a colour type codes. -/
def pngChannels (colour : Nat) : Nat := match colour with | 2 => 3 | 4 => 2 | 6 => 4 | _ => 1

/-- R189: the channels after palette expansion and tRNS, and whether the last is alpha. -/
def pngForm (g : Png) : Nat × Bool :=
  let t := !g.trns.isEmpty
  match g.colour with
  | 0 => (if t then (2, true) else (1, false))
  | 2 | 3 => (if t then (4, true) else (3, false))
  | 4 => (2, true)
  | _ => (4, true)

/-- The channels that leave. -/
def pngOut (dropAlpha : Bool) (g : Png) : Nat := (pngForm g).1 - ofBool ((pngForm g).2 && dropAlpha)

/-- ISO/IEC 15948: CRC-32. -/
def crcByte (crc : Nat) (b : Byte) : Nat :=
  (List.range 8).foldl (fun c _ => if c % 2 = 1 then c / 2 ^^^ 0xEDB88320 else c / 2) (crc ^^^ b.toNat)
def crc32 (bs : Array Byte) : Nat := bs.foldl crcByte 0xFFFFFFFF ^^^ 0xFFFFFFFF

/-- The end of a chunk: its CRC covers type and data (R189, R199). -/
def chunkEnd : Dec Unit := do
  let r ← get
  let sum := crc32 (r.data.extract r.mark r.pos)
  guardDec ((← beRead 4) != sum) checksum

/-- A letter of a chunk type. -/
def isLetter (b : Nat) : Bool := (decide (65 ≤ b) && decide (b ≤ 90)) || (decide (97 ≤ b) && decide (b ≤ 122))

/-- The head of a chunk: its type, with its length as the segment to read. -/
def chunkHead : Dec (List Nat) := do
  let n ← beRead 4
  guardDec (decide (2 ^ 31 ≤ n)) syntaxErr
  modify fun r => { r with seg := n, mark := r.pos }
  let t ← takeBytes 4
  guardDec (!t.all isLetter) syntaxErr
  return t

def ihdr : List Nat := [73, 72, 68, 82]
def plte : List Nat := [80, 76, 84, 69]
def idat : List Nat := [73, 68, 65, 84]
def iend : List Nat := [73, 69, 78, 68]
def trnsType : List Nat := [116, 82, 78, 83]

/-- R189: the depths that a colour type may have; none for a colour type outside the subset. -/
def pngDepths (colour : Nat) : List Nat :=
  match colour with | 0 => [1, 2, 4, 8, 16] | 3 => [1, 2, 4, 8] | 2 | 4 | 6 => [8, 16] | _ => []

/-- R189: whether a coded sample of a depth (8 in a palette) has a conversion to a plane dtype of BITS `bits`. -/
def planeFits (bits d : Nat) : Bool := decide (d < 8) && bits == d

/-- IHDR, in the order of its fields. -/
def readIhdr (l : ImgLimits) : Dec Png := do
  let t ← chunkHead
  guardDec (t != ihdr || (← get).seg != 13) syntaxErr
  let w ← beRead 4
  let h ← beRead 4
  guardDec (w == 0 || h == 0 || decide (2 ^ 31 ≤ w) || decide (2 ^ 31 ≤ h)) syntaxErr
  guardDec (decide (l.maxPixels < w * h)) tooLarge
  let depth ← nextByte
  let colour ← nextByte
  guardDec (!(pngDepths colour).contains depth) unsupported
  guardDec (match l.plane with | some b => !planeFits b (if colour = 3 then 8 else depth) | none => false) unsupported
  guardDec ((← nextByte) != 0) unsupported
  guardDec ((← nextByte) != 0) unsupported
  let lace ← nextByte
  guardDec (decide (1 < lace)) unsupported
  chunkEnd
  return { width := w, height := h, depth := depth, colour := colour, adam7 := lace == 1 }

/-- PLTE: three bytes an entry; at most as many entries as a palette index reaches. -/
def readPlte (g : Png) : Dec Png := do
  let n := (← get).seg
  guardDec (!g.palette.isEmpty || !g.trns.isEmpty || g.colour == 0 || g.colour == 4 || n == 0 || n % 3 != 0 || decide (768 < n) ||
    (g.colour == 3 && decide (3 * 2 ^ g.depth < n))) syntaxErr
  let mut p : List (List Nat) := []
  for _ in List.range (n / 3) do
    p := p ++ [← takeBytes 3]
  chunkEnd
  return { g with palette := p }

/-- tRNS: a grey level, a colour, or an alpha per palette entry. -/
def readTrns (g : Png) : Dec Png := do
  let n := (← get).seg
  guardDec (!g.trns.isEmpty || n == 0) syntaxErr
  guardDec (match g.colour with
    | 0 => n != 2
    | 2 => n != 6
    | 3 => decide (g.palette.length < n)
    | _ => true) syntaxErr
  let b ← takeBytes n
  chunkEnd
  let word := fun (i : Nat) => (b.getD (2 * i) 0 * 256 + b.getD (2 * i + 1) 0) % 2 ^ g.depth
  return { g with trns := match g.colour with | 0 => [word 0] | 2 => [word 0, word 1, word 2] | _ => b }

/-- The chunks up to the first IDAT (R189, R192). -/
def chunksToData : Nat → Png → Dec Png
  | 0, _ => syntaxErr
  | fuel + 1, g => do
    let t ← chunkHead
    if t = idat then
      guardDec (g.colour == 3 && g.palette.isEmpty) syntaxErr
      return g
    else if t = plte then chunksToData fuel (← readPlte g)
    else if t = trnsType then chunksToData fuel (← readTrns g)
    else
      guardDec (t == iend) truncated
      guardDec (t == ihdr) syntaxErr
      guardDec (decide (t.getD 0 0 < 97)) unsupported
      skipBytes (← get).seg
      chunkEnd
      chunksToData fuel g

/-- The next compressed byte: IDAT chunks stand one after another. -/
def idatByte : Nat → Dec Nat
  | 0 => syntaxErr
  | fuel + 1 => do
    if (← get).seg = 0 then
      chunkEnd
      let t ← chunkHead
      guardDec (t == iend) truncated
      guardDec (t != idat) syntaxErr
      idatByte fuel
    else
      let b ← codedByte
      modify fun r => { r with seg := r.seg - 1 }
      return b

/-- The chunks after the image data, to IEND; the compressed data has ended. -/
def chunksToEnd : Nat → Dec Unit
  | 0 => syntaxErr
  | fuel + 1 => do
    let t ← chunkHead
    guardDec (t == ihdr || t == plte || t == trnsType || ((t == idat || t == iend) && (← get).seg != 0)) syntaxErr
    guardDec (decide (t.getD 0 0 < 97) && t != idat && t != iend) unsupported
    skipBytes (← get).seg
    chunkEnd
    if t = iend then return else chunksToEnd fuel

/-! ### Passes and filters -/

/-- The passes: first column and row, steps across and down. -/
def passSteps (adam7 : Bool) : List (Nat × Nat × Nat × Nat) :=
  if adam7 then [(0, 0, 8, 8), (4, 0, 8, 8), (0, 4, 4, 8), (2, 0, 4, 4), (0, 2, 2, 4), (1, 0, 2, 2), (0, 1, 1, 2)]
  else [(0, 0, 1, 1)]

/-- The width and height of each pass, both 0 where it has no pixel. -/
def Png.passSizes (g : Png) : List (Nat × Nat) :=
  (passSteps g.adam7).map fun (x, y, dx, dy) =>
    let w := (g.width - x + dx - 1) / dx
    let h := (g.height - y + dy - 1) / dy
    if w = 0 ∨ h = 0 then (0, 0) else (w, h)

/-- The bytes of a row of `w` pixels, its filter type not counted. -/
def Png.rowBytes (g : Png) (w : Nat) : Nat := (w * pngChannels g.colour * g.depth + 7) / 8

/-- The inflated bytes of the image. -/
def Png.total (g : Png) : Nat := (g.passSizes.map fun p => p.2 * (1 + g.rowBytes p.1)).foldl (· + ·) 0

/-- Whether an inflated byte is a row's filter type. -/
def filterPlace (g : Png) : List (Nat × Nat) → Nat → Bool
  | [], _ => false
  | p :: ps, at_ =>
    let n := p.2 * (1 + g.rowBytes p.1)
    if at_ < n then at_ % (1 + g.rowBytes p.1) == 0 else filterPlace g ps (at_ - n)

/-- The Paeth predictor. -/
def paeth (a b c : Nat) : Nat :=
  let p : Int := a + b - c
  let pa := (p - a).natAbs
  let pb := (p - b).natAbs
  let pc := (p - c).natAbs
  if pa ≤ pb ∧ pa ≤ pc then a else if pb ≤ pc then b else c

/-- A row unfiltered against the row before it; `bpp`: bytes of a pixel, at least 1. -/
def unfilterRow (filter bpp : Nat) (prev row : Array Byte) : Array Byte :=
  (List.range row.size).foldl (fun out i =>
    let a := if bpp ≤ i then (out.getD (i - bpp) 0).toNat else 0
    let b := (prev.getD i 0).toNat
    let c := if bpp ≤ i then (prev.getD (i - bpp) 0).toNat else 0
    let add := match filter with | 0 => 0 | 1 => a | 2 => b | 3 => (a + b) / 2 | _ => paeth a b c
    out.push (BitVec.ofNat 8 ((row.getD i 0).toNat + add))) #[]

/-- The samples of a row, `n` of them. -/
def rowSamples (depth n : Nat) (row : Array Byte) : List Nat :=
  (List.range n).map fun i =>
    if depth = 16 then (row.getD (2 * i) 0).toNat * 256 + (row.getD (2 * i + 1) 0).toNat
    else (row.getD (i * depth / 8) 0).toNat / 2 ^ (8 - depth - i * depth % 8) % 2 ^ depth

/-- The samples of a pass of `h` rows from place `at_` of the inflated bytes. -/
def passRows (g : Png) (bs : Array Byte) (w : Nat) : (h at_ : Nat) → (prev : Array Byte) → List Nat
  | 0, _, _ => []
  | h + 1, at_, prev =>
    let n := g.rowBytes w
    let row := unfilterRow (bs.getD at_ 0).toNat (max 1 (pngChannels g.colour * g.depth / 8)) prev (bs.extract (at_ + 1) (at_ + 1 + n))
    rowSamples g.depth (w * pngChannels g.colour) row ++ passRows g bs w h (at_ + 1 + n) row

/-- The samples of each pass. -/
def passesFrom (g : Png) (bs : Array Byte) : List (Nat × Nat) → Nat → List (Array Nat)
  | [], _ => []
  | p :: ps, at_ => (passRows g bs p.1 p.2 at_ #[]).toArray :: passesFrom g bs ps (at_ + p.2 * (1 + g.rowBytes p.1))

/-- The samples in raster order. -/
def rasterSamples (g : Png) (bs : Array Byte) : List Nat :=
  let passes := passesFrom g bs g.passSizes 0
  let n := pngChannels g.colour
  let steps := (passSteps g.adam7).zip (g.passSizes.zip passes)
  (List.range g.height).flatMap fun y => (List.range g.width).flatMap fun x =>
    match steps.find? fun s => decide (s.1.1 ≤ x) && decide (s.1.2.1 ≤ y) && (x - s.1.1) % s.1.2.2.1 == 0 && (y - s.1.2.1) % s.1.2.2.2 == 0 with
    | none => []
    | some ((x0, y0, dx, dy), (w, _), vs) => (List.range n).map fun c => vs.getD (((y - y0) / dy * w + (x - x0) / dx) * n + c) 0

/-- R189: the image of a PNG sample. -/
def pngScan (l : ImgLimits) : Dec Png := do
  guardDec ((← takeBytes 8) != [137, 80, 78, 71, 13, 10, 26, 10]) syntaxErr
  let g ← readIhdr l
  let fuel := (← get).data.size + 1
  let g ← chunksToData fuel g
  guardDec (l.beyond (g.width * g.height * pngOut l.dropAlpha g)) tooLarge
  let bs ← inflate (idatByte fuel) { total := g.total, isFilter := filterPlace g g.passSizes }
  -- the zlib stream ends with the image data
  guardDec ((← get).seg != 0) syntaxErr
  chunkEnd
  chunksToEnd fuel
  return { g with samples := rasterSamples g bs }

end Sys2Proof.Machine
end

