-- ==== Sys2Proof/Machine/Unicode.lean ====
section
/-!
DEFINITION. The text steps of R166 over the character data of Config: the Stream-Safe Text Format and the normalisation forms
of UAX #15, and case folding. The procedures are those of the Unicode standard, which R166 names (log 32).
-/

namespace Sys2Proof.Machine

/-! ### Decomposition -/

/-- A Hangul syllable, which the standard decomposes by arithmetic. -/
def isHangul (c : Nat) : Bool := decide (0xAC00 ≤ c) && decide (c < 0xAC00 + 11172)

/-- The full decomposition of a code point. -/
def decomposeCp (compat : Bool) (c : Nat) : List Nat :=
  if isHangul c then
    let i := c - 0xAC00
    let lv := [0x1100 + i / 588, 0x1161 + i % 588 / 28]
    if i % 28 = 0 then lv else lv ++ [0x11A7 + i % 28]
  else Config.decomposition compat c

/-- Non-starters at the head of a list, up to the first starter. -/
def leadMarks (cs : List Nat) : List Nat := cs.takeWhile fun c => Config.combiningClass c != 0

/-- A mark among marks in canonical order: behind those of its class. -/
def insertMark (c : Nat) : List Nat → List Nat
  | [] => [c]
  | m :: ms => if Config.combiningClass c < Config.combiningClass m then c :: m :: ms else m :: insertMark c ms

/-- The canonical order: each run of non-starters by combining class; `run` is the run being read. -/
def orderMarks : List Nat → List Nat → List Nat
  | run, [] => run
  | run, c :: cs => if Config.combiningClass c = 0 then run ++ c :: orderMarks [] cs else orderMarks (insertMark c run) cs

/-! ### Composition -/

/-- The composite of two code points: of Hangul letters by arithmetic. -/
def composePair (a b : Nat) : Option Nat :=
  if 0x1100 ≤ a ∧ a < 0x1113 ∧ 0x1161 ≤ b ∧ b < 0x1176 then some (0xAC00 + ((a - 0x1100) * 21 + (b - 0x1161)) * 28)
  else if isHangul a = true ∧ (a - 0xAC00) % 28 = 0 ∧ 0x11A8 ≤ b ∧ b < 0x11C3 then some (a + (b - 0x11A7))
  else Config.primaryComposite a b

/-- Composition behind starter `l`: `marks` are the non-starters left between, in order, and `last` is the class of the last
of them. -/
def composeFrom (l : Nat) (marks : List Nat) (last : Nat) : List Nat → List Nat
  | [] => l :: marks
  | c :: cs =>
    let k := Config.combiningClass c
    match (if marks.isEmpty ∨ last < k then composePair l c else none) with
    | some p => composeFrom p marks last cs
    | none => if k = 0 then l :: marks ++ composeFrom c [] 0 cs else composeFrom l (marks ++ [c]) k cs

/-- Canonical composition: what stands before the first starter stays. -/
def composeAll (cs : List Nat) : List Nat :=
  leadMarks cs ++ (match cs.drop (leadMarks cs).length with | [] => [] | l :: rest => composeFrom l [] 0 rest)

/-- R166: NORM 1 is NFC, 2 is NFKC. -/
def normalise (norm : Nat) (cs : List Nat) : List Nat :=
  if norm = 0 then cs else composeAll (orderMarks [] (cs.flatMap (decomposeCp (norm == 2))))

/-! ### Stream-Safe text and case folding -/

/-- R166 step 3: U+034F after every 30 consecutive non-starters; `n` counts those behind the last starter in the
compatibility decomposition of what has been read. -/
def streamSafe : Nat → List Nat → List Nat
  | _, [] => []
  | n, c :: cs =>
    let d := decomposeCp true c
    let lead := (leadMarks d).length
    let cut := decide (30 < n + lead)
    let n' := if lead = d.length then (if cut then 0 else n) + lead else (leadMarks d.reverse).length
    if cut then 0x34F :: c :: streamSafe n' cs else c :: streamSafe n' cs

/-- R166 step 5: full case folding. -/
def caseFold (cs : List Nat) : List Nat := cs.flatMap Config.foldCase

end Sys2Proof.Machine
end

