-- ==== Sys2Proof/Machine/Text.lean ====
section
/-!
DEFINITION. The TOKENISER role and its dictionaries (06_text_and_tokens.md): decoding, matching, sampling,
truncation, masking, work units, the checks of its SCB, and LOAD_DICTIONARY.
-/

namespace Sys2Proof.Machine

/-! ### Decoding (R166, R167) -/

/-- A code point, or an ill-formed subsequence with the index of the byte whose read proves it so. -/
inductive TextItem where
  | cp (c : Nat)
  | bad (bytes : Bytes) (proof : Nat)
deriving DecidableEq, Repr

/-- The ranges of the bytes that may follow a UTF-8 lead byte; none for a byte that leads nothing. -/
def utf8Follow (b : Nat) : Option (List (Nat × Nat)) :=
  let c := (0x80, 0xBF)
  if b < 0x80 then some []
  else if b < 0xC2 then none
  else if b < 0xE0 then some [c]
  else if b = 0xE0 then some [(0xA0, 0xBF), c]
  else if b = 0xED then some [(0x80, 0x9F), c]
  else if b < 0xF0 then some [c, c]
  else if b = 0xF0 then some [(0x90, 0xBF), c, c]
  else if b < 0xF4 then some [c, c, c]
  else if b = 0xF4 then some [(0x80, 0x8F), c, c]
  else none

/-- How many of the bytes continue a sequence, and its value. -/
def utf8Tail : List (Nat × Nat) → Bytes → Nat → Nat × Nat
  | [], _, v => (0, v)
  | _, [], v => (0, v)
  | (lo, hi) :: rs, b :: bs, v =>
    if lo ≤ b.toNat ∧ b.toNat ≤ hi then let r := utf8Tail rs bs (v * 64 + b.toNat % 64); (r.1 + 1, r.2) else (0, v)

/-- One item at the head of a UTF-8 string: bytes consumed, the code point or the offset that proves it ill-formed. -/
def utf8One (b : Byte) (bs : Bytes) : Nat × (Nat ⊕ Nat) :=
  match utf8Follow b.toNat with
  | none => (1, .inr 0)
  | some rs =>
    let lead := match rs.length with | 0 => b.toNat | 1 => b.toNat % 32 | 2 => b.toNat % 16 | _ => b.toNat % 8
    let r := utf8Tail rs bs lead
    if r.1 = rs.length then (1 + r.1, .inl r.2) else (1 + r.1, .inr (1 + r.1))

/-- One item at the head of a UTF-16 string. -/
def utf16One (big : Bool) (bs : Bytes) : Nat × (Nat ⊕ Nat) :=
  let unit := fun (i : Nat) => let x := slice bs i 2; if big then beNat x else leNat x
  -- a final odd byte; in big-endian order a byte DC to DF already proves an unpaired unit
  if bs.length < 2 then (1, .inr (if big ∧ 0xDC ≤ leAt bs 0 1 ∧ leAt bs 0 1 < 0xE0 then 0 else 1))
  else
    let u := unit 0
    if 0xD800 ≤ u ∧ u < 0xDC00 then
      let low := unit 2
      if 4 ≤ bs.length ∧ 0xDC00 ≤ low ∧ low < 0xE000 then (4, .inl (0x10000 + (u - 0xD800) * 1024 + (low - 0xDC00)))
      else
        let first := leAt bs 2 1
        if bs.length = 2 then (2, .inr 2)
        else if big ∧ ¬ (0xDC ≤ first ∧ first < 0xE0) then (2, .inr 2)
        else (2, .inr 3)
    else if 0xDC00 ≤ u ∧ u < 0xE000 then (2, .inr (if big then 0 else 1))
    else (2, .inl u)

/-- R166 step 1: the items of a string; `at_` is the place of its head in the sample. -/
def decodeFrom (enc : Nat) : Nat → Nat → Bytes → List TextItem
  | 0, _, _ => []
  | _, _, [] => []
  | f + 1, at_, b :: bs =>
    let r := match enc with
      | 0 => utf8One b bs
      | 1 => utf16One false (b :: bs)
      | 2 => utf16One true (b :: bs)
      | _ => (1, .inl b.toNat)
    let item := match r.2 with
      | .inl c => TextItem.cp c
      | .inr p => TextItem.bad ((b :: bs).take r.1) (at_ + p)
    item :: decodeFrom enc f (at_ + r.1) ((b :: bs).drop r.1)

/-- R166 step 1, with the leading byte order mark dropped. -/
def decodeText (enc : Nat) (bs : Bytes) : List TextItem :=
  match decodeFrom enc (bs.length + 1) 0 bs with
  | .cp c :: rest => if c = 0xFEFF ∧ enc ≠ 3 then rest else .cp c :: rest
  | items => items

/-- The index of the byte that proves the first ill-formed subsequence. -/
def firstBadByte : List TextItem → Option Nat
  | [] => none
  | .cp _ :: is => firstBadByte is
  | .bad _ p :: _ => some p

/-- A code point in UTF-8. -/
def utf8Bytes (c : Nat) : Bytes :=
  let b := BitVec.ofNat 8
  if c < 0x80 then [b c]
  else if c < 0x800 then [b (0xC0 + c / 64), b (0x80 + c % 64)]
  else if c < 0x10000 then [b (0xE0 + c / 4096), b (0x80 + c / 64 % 64), b (0x80 + c % 64)]
  else [b (0xF0 + c / 262144), b (0x80 + c / 4096 % 64), b (0x80 + c / 64 % 64), b (0x80 + c % 64)]

/-- What the decoded input is cut into: a part of text, a separator, the bytes of an ill-formed subsequence. -/
inductive Piece where
  | text (cps : List Nat)
  | sep
  | raw (bytes : Bytes)
deriving DecidableEq, Repr

/-- R166 step 2 and R167: the pieces, `cur` the part being built, newest code point first. -/
def piecesFrom (badSeq : Nat) (sep : Option Nat) : List TextItem → List Nat → List Piece
  | [], cur => [.text cur.reverse]
  | .cp c :: is, cur =>
    if sep = some c then .text cur.reverse :: .sep :: piecesFrom badSeq sep is [] else piecesFrom badSeq sep is (c :: cur)
  | .bad b _ :: is, cur =>
    if badSeq = 1 then
      (if sep = some 0xFFFD then .text cur.reverse :: .sep :: piecesFrom badSeq sep is [] else piecesFrom badSeq sep is (0xFFFD :: cur))
    else .text cur.reverse :: .raw b :: piecesFrom badSeq sep is []

/-! ### The SCB (R178) -/

/-- The fields of a TOKENISER body. -/
structure TokCfg where
  enc : Nat
  norm : Nat
  fold : Bool
  badSeq : Nat
  bos : Bool
  eos : Bool
  sepEn : Bool
  sampling : Bool
  masking : Bool
  prepass : Bool
  dict : Nat
  kMax : Nat
  seed : Nat
  sepCp : Nat
  maxTokens : Nat
  maxIn : Nat
  ovfVoid : Bool
  streamId : Nat
  invTemp : Nat
  maskP : Nat
  pMask : Nat
  pRand : Nat
deriving DecidableEq, Repr

def tokCfg (p : Snap) : TokCfg :=
  { enc := p.fld 0 0 3, norm := p.fld 0 4 2, fold := p.bit 0 6, badSeq := p.fld 0 8 2, bos := p.bit 0 10, eos := p.bit 0 11,
    sepEn := p.bit 0 12, sampling := p.bit 0 13, masking := p.bit 0 14, prepass := p.bit 0 15, dict := p.fld 0 16 8,
    kMax := p.fld 0 24 4 + 1, seed := p.fld 0 28 4, sepCp := p.fld 0 32 21, maxTokens := p.fld 1 0 32,
    maxIn := p.fld 1 32 25, ovfVoid := p.bit 1 57, streamId := p.fld 2 0 16, invTemp := p.fld 2 16 32,
    maskP := p.fld 3 0 16, pMask := p.fld 3 16 16, pRand := p.fld 3 32 16 }

/-- R166 steps 3 to 6: the UTF-8 bytes of a part. -/
def TokCfg.prepare (c : TokCfg) (cps : List Nat) : Bytes :=
  let x := normalise c.norm (streamSafe 0 cps)
  (if c.fold then normalise c.norm (caseFold x) else x).flatMap utf8Bytes

/-! ### Matching (R173, R174) -/

/-- The dictionary entries that a walk can still reach: what is left of each string, with its index. -/
abbrev Reach := List (Bytes × Nat)

/-- R173: the walk of the trie: child nodes visited, and the entries that end on it, deepest first. -/
def walkTrie : Reach → Nat → Bytes → List (Nat × Nat) → Nat × List (Nat × Nat)
  | _, _, [], acc => (0, acc)
  | es, n, b :: bs, acc =>
    let next := es.filterMap fun e => match e.1 with | x :: xs => if x = b then some (xs, e.2) else none | [] => none
    if next.isEmpty then (0, acc)
    else
      let acc := match next.find? fun e => e.1.isEmpty with | some e => (n + 1, e.2) :: acc | none => acc
      let r := walkTrie next (n + 1) bs acc
      (r.1 + 1, r.2)

/-- The entries of a dictionary with their indices. -/
def Dict.reach (d : Dict) : Reach := (List.range d.entries.length).map fun i => ((d.entries.getD i ([], 0)).1, i)

/-- R174: the key of a candidate from its LOGP, the inverse temperature and its Gumbel field. -/
def segKey (logp : Int) (invTemp x : Nat) : Nat := fAdd (fMul (fp32.ofRat logp 256) invTemp) (gumbel x)

/-- The place of the greatest key, the first of equals. -/
def bestKey : List Nat → Nat → Nat → Nat → Nat
  | [], _, best, _ => best
  | k :: ks, i, best, key => if fLt key k then bestKey ks (i + 1) i k else bestKey ks (i + 1) best key

/-- R174: the entry chosen at position `p` among the candidates, longest first. -/
def chooseEntry (c : TokCfg) (d : Dict) (seed : Bytes) (sample p : Nat) (cands : List (Nat × Nat)) : Option (Nat × Nat) :=
  match cands with
  | [] => none
  | [x] => some x
  | x :: xs =>
    if c.sampling then
      let ks := (x :: xs).take c.kMax
      if ks.length = 1 then some x
      else
        let z := hostBlock seed c.streamId sample 0x04 p
        let keys := (List.range ks.length).map fun k =>
          segKey (d.entries.getD (ks.getD k (0, 0)).2 ([], 0)).2 c.invTemp (field32 z k)
        (x :: xs)[bestKey (keys.drop 1) 1 0 (keys.getD 0 0)]?
    else some x

/-- The state of matching: units counted (R530), tokens emitted (newest first) with their number, the byte position
of the parts matched so far, and the void met. -/
structure Match where
  units : Nat
  out : List Nat := []
  n : Nat := 0
  pos : Nat := 0
  void : Option Nat := none
deriving DecidableEq, Repr

/-- R260: units are spent unless the budget is exhausted. -/
def Match.spend (m : Match) (budget k : Nat) : Match :=
  if m.void.isSome then m
  else if budget ≠ 0 ∧ budget < m.units + k then { m with void := some 0x22 } else { m with units := m.units + k }

/-- A token is emitted: its unit, then the output limit (R175, R184). -/
def Match.emit (m : Match) (c : TokCfg) (budget tok : Nat) : Match :=
  let m := m.spend budget 1
  if m.void.isSome then m
  else if c.ovfVoid ∧ c.maxTokens ≤ m.n then { m with void := some 0x20 }
  else { m with out := tok :: m.out, n := m.n + 1 }

/-- R173: a part is matched from its first byte on (`fuel` bounds the steps). -/
def matchPart (c : TokCfg) (d : Dict) (reach : Reach) (seed : Bytes) (sample budget : Nat) : Nat → Bytes → Match → Match
  | 0, _, m => m
  | _, [], m => m
  | f + 1, b :: bs, m =>
    if m.void.isSome then m
    else
      let w := walkTrie reach 0 (b :: bs) []
      let m := m.spend budget (1 + w.1)
      match chooseEntry c d seed sample m.pos w.2 with
      | none => matchPart c d reach seed sample budget f bs { m.emit c budget (5 + b.toNat) with pos := m.pos + 1 }
      | some (len, i) =>
        matchPart c d reach seed sample budget f ((b :: bs).drop len) { m.emit c budget (261 + i) with pos := m.pos + len }

/-- The pieces of a sample in order. The byte position p of R174, the counter of a draw, runs on from part to part over the prepared
bytes of the sample alone: a part does not begin again at 0, and SEP and ill-formed bytes take no position (DESIGN CHOICE, log 71). -/
def matchPieces (c : TokCfg) (d : Dict) (reach : Reach) (seed : Bytes) (sample budget : Nat) : List Piece → Match → Match
  | [], m => m
  | .text cps :: ps, m =>
    let bs := c.prepare cps
    matchPieces c d reach seed sample budget ps (matchPart c d reach seed sample budget (bs.length + 1) bs m)
  | .sep :: ps, m => matchPieces c d reach seed sample budget ps (m.emit c budget 3)
  | .raw bs :: ps, m =>
    matchPieces c d reach seed sample budget ps (bs.foldl (fun m b => m.emit c budget (5 + b.toNat)) m)

/-- R175, R530: BOS, the pieces, EOS; then truncation. -/
def matchSample (c : TokCfg) (d : Dict) (seed : Bytes) (sample budget : Nat) (bs : Bytes) : Match :=
  let m : Match := { units := bs.length }
  let m := if c.bos then m.emit c budget 1 else m
  let m := matchPieces c d d.reach seed sample budget (piecesFrom c.badSeq (if c.sepEn then some c.sepCp else none) (decodeText c.enc bs) []) m
  let m := if c.eos then m.emit c budget 2 else m
  if c.maxTokens < m.n then
    (if c.eos then { m with out := 2 :: (m.out.reverse.take (c.maxTokens - 1)).reverse, n := c.maxTokens }
     else { m with out := (m.out.reverse.take c.maxTokens).reverse, n := c.maxTokens })
  else m

/-! ### Masking (R176, R177) -/

/-- R177: the replacement token of position `i`. -/
def replacement (c : TokCfg) (d : Dict) (seed : Bytes) (sample i : Nat) : Nat :=
  let keys := (List.range d.unigrams.length).map fun j =>
    fAdd (fp32.ofRat (d.unigrams.getD j (0, 0)).2 256)
      (gumbel (field32 (hostBlock seed c.streamId sample 0x85 (64 * i + j / 16)) (j % 16)))
  (d.unigrams.getD (bestKey (keys.drop 1) 1 0 (keys.getD 0 0)) (0, 0)).1

/-- R176: the token and the label of position `i`. -/
def maskAt (c : TokCfg) (d : Dict) (seed : Bytes) (sample i tok : Nat) : Nat × Nat :=
  if 1 ≤ tok ∧ tok ≤ 3 then (tok, 0)
  else
    let z := hostBlock seed c.streamId sample 0x84 i
    let v := field16 z 1
    if field16 z 0 < c.maskP then
      (if v < c.pMask then 4 else if v < c.pMask + c.pRand then replacement c d seed sample i else tok, tok)
    else (tok, 0)

/-! ### One sample (R184) -/

/-- The least of the conditions met while the input is read, by (index, precedence). -/
def leastCond : List (Nat × Nat × Nat) → Option (Nat × Nat × Nat)
  | [] => none
  | x :: xs =>
    match leastCond xs with
    | none => some x
    | some y => if y.1 < x.1 ∨ (y.1 = x.1 ∧ y.2.1 < x.2.1) then some y else some x

/-- R184: the conditions that the read of the input meets. -/
def readConds (c : TokCfg) (budget : Nat) (bs : Bytes) (e : Ending) : List (Nat × Nat × Nat) :=
  (if e = .badAuth then [(bs.length, 1, 0x21)] else []) ++
  (if budget ≠ 0 ∧ budget < bs.length then [(budget, 2, 0x22)] else []) ++
  (if c.maxIn < bs.length then [(c.maxIn, 3, 0x20)] else []) ++
  (if c.badSeq = 0 then
    match firstBadByte (decodeText c.enc bs) with
    | some p => if p < bs.length ∨ e = .whole then [(p, 4, 0x20)] else []
    | none => []
   else [])

/-- One sample: none while its outcome needs more bytes. `budget` is the work budget, 0 for none. -/
def tokenise (c : TokCfg) (d : Dict) (seed : Bytes) (index budget : Nat) (bs : Bytes) (e : Ending) : Option SampleOut :=
  match leastCond (readConds c budget bs e) with
  | some x => some { index := index, reason := x.2.2, role := 4, words := [x.2.2 * 2 ^ 24] }
  | none =>
    if e = .whole then
      let m := matchSample c d seed index budget bs
      match m.void with
      | some r => some { index := index, reason := r, role := 4, words := [r * 2 ^ 24] }
      | none =>
        let toks := m.out.reverse
        let masked := (List.range toks.length).map fun i =>
          if c.masking then maskAt c d seed index i (toks.getD i 0) else (toks.getD i 0, 0)
        -- R182: a pre-pass gives the length without ids
        some { index := index, words := [toks.length], values := if c.prepass then [] else masked.map Prod.fst,
               labels := if c.masking then masked.map Prod.snd else [] }
    else none

/-- R183: a class C main pass holds a sample to its planned length word: the outcome, and whether it disagrees. -/
def holdToPlan (planned : Nat) (o : SampleOut) : SampleOut × Bool :=
  if o.reason = 0 ∧ o.words.getD 0 0 = planned % 2 ^ 24 then (o, false)
  else
    let r := if o.reason = 0x21 then 0x21 else 0x20
    ({ o with reason := r, words := [planned % 2 ^ 24 + r * 2 ^ 24], values := [], labels := [] }, true)

/-! ### The dictionary of a sample (R181) -/

/-- The version that an entry bound for a slot, if the slot was the matter's. -/
def State.boundDict (s : State) (r : Run) (slot : Nat) : Option Dict :=
  match Tab.find r.dicts slot with
  | none => none
  | some v => Tab.find s.dicts v

/-- R180, R181: a dictionary has what the SCB demands. -/
def TokCfg.dictOk (c : TokCfg) (d : Dict) : Bool :=
  (!c.sampling || d.hasLogp) && (c.pRand == 0 || !d.unigrams.isEmpty)

/-- R181: the dictionary that serves sample `k` of a job; none voids the sample. -/
def State.dictOf (s : State) (r : Run) (e : Nat) (host : HostMem) (p : Snap) (k : Nat) : Option Dict :=
  let c := tokCfg p
  let slot := match p.index 0 with
    | none => some c.dict
    | some x => s.readIndex e 4 host x 256 k
  match slot with
  | none => none
  | some i =>
    match s.boundDict r i with
    | none => none
    | some d => if c.dictOk d then some d else none

/-! ### Check 7 (R179, R180) -/

/-- R31, R269: the slots of a row under a profile. -/
def Profile.slots (f : Profile) : Nat := if f.scheme = 2 then 2 ^ f.logN / 2 else 2 ^ f.logN

/-- A descriptor is an unsigned 32-bit tensor of this shape. -/
def isU32 (shape : List Nat) : Option Desc → Bool
  | none => false
  | some d => d.dtype == 5 && d.shape == shape

/-- R148: a SEALED descriptor that covers `n` samples from `first` on. -/
def sealedCovers (first n : Nat) : Option Desc → Bool
  | none => false
  | some d => d.space == 1 && decide (first + n ≤ d.extent 0)

/-- A tensor that lies in memory other than SEALED. -/
def plainSpace (d : Desc) : Bool := d.space != 1

/-- What the slots of an SCB name: the inputs, outputs and indices that are used, as three lists. -/
def slotsOnly (p : Snap) (ins outs idxs : List Nat) : Bool :=
  (List.range 4).all fun i =>
    (ins.contains i || p.inSlot i == 0xFF) && (outs.contains i || p.outSlot i == 0xFF) && (idxs.contains i || p.idxSlot i == 0xFF)

/-- A slot is named exactly when `b` holds. -/
def present (b : Bool) (slot : Nat) : Bool := (slot != 0xFF) == b

/-- All LOOP counts are zero. -/
def loopsZero (p : Snap) : Bool := (List.range 4).all fun i => p.loop i == 0

/-- Index tensors are s32 or s64 (R157). -/
def isIndex : Option Desc → Bool
  | none => false
  | some d => (d.dtype == 6 || d.dtype == 8) && plainSpace d

/-- R178 to R180: check 7 of a TOKENISER START; `n` is the number of its samples. -/
def State.tokeniserOk (s : State) (r : Run) (p : Snap) (n : Nat) : Bool :=
  let c := tokCfg p
  let mainC := r.cls == 0 && !c.prepass
  let plain := !p.streamOut
  p.bodyWords == 4 && p.split == 0 && loopsZero p && !p.streamIn &&
    slotsOnly p [0, 1] [0, 1, 2] [0] &&
    p.inSlot 0 != 0xFF && sealedCovers p.sampleFirst n (p.input 0) &&
    present mainC (p.inSlot 1) &&
    (!mainC || (match p.input 1 with | some d => d.dtype == 5 && d.rank == 1 && decide (n ≤ d.extent 0) && plainSpace d | none => false)) &&
    present (plain && !c.prepass) (p.outSlot 0) && (p.outSlot 0 == 0xFF || isU32 [c.maxTokens, n] (p.output 0)) &&
    present plain (p.outSlot 1) && (p.outSlot 1 == 0xFF || (match p.output 1 with | some d => d.dtype == 5 && d.rank == 1 | none => false)) &&
    present (plain && !c.prepass && c.masking) (p.outSlot 2) && (p.outSlot 2 == 0xFF || isU32 [c.maxTokens, n] (p.output 2)) &&
    (p.idxSlot 0 == 0xFF || (isIndex (p.index 0) && (match p.index 0 with | some d => d.rank == 1 | none => false))) &&
    decide (c.enc ≤ 3) && decide (c.norm ≤ 2) && decide (c.badSeq ≤ 2) &&
    decide (c.sepCp ≤ 0x10FFFF) && !(decide (0xD800 ≤ c.sepCp) && decide (c.sepCp < 0xE000)) &&
    decide (ofBool c.bos + ofBool c.eos + 1 ≤ c.maxTokens) &&
    (match Tab.find s.profiles (s.label r.label).profile with | some f => decide (c.maxTokens ≤ f.slots) | none => false) &&
    decide (1 ≤ c.maxIn) && decide (c.maxIn ≤ 16777216) &&
    (if c.sampling then fFinite c.invTemp && fLt 0 c.invTemp else c.invTemp == 0) &&
    decide (c.pMask + c.pRand ≤ 65536) &&
    (c.masking || (c.maskP == 0 && c.pMask == 0 && c.pRand == 0)) &&
    (!c.prepass || (r.cls == 0 && !c.masking)) &&
    (match s.boundDict r c.dict with | some d => c.dictOk d | none => false)

/-! ### Retiring a sample (R179) -/

/-- The tensors of a TOKENISER job take sample `k`: its tokens, its length word, its labels. -/
def State.tokRetire (s : State) (e : Nat) (p : Snap) (k : Nat) (o : SampleOut) : State :=
  let c := tokCfg p
  let row := fun (vs : List Nat) => (List.range c.maxTokens).map fun i => ([i, k], vs.getD i 0)
  let s := match p.output 0 with | some d => s.writeElems e 4 d (row o.values) | none => s
  let s := match p.output 1 with | some d => s.writeElems e 4 d [([k], o.words.getD 0 0)] | none => s
  match p.output 2 with | some d => s.writeElems e 4 d (row o.labels) | none => s

/-! ### LOAD_DICTIONARY (R169 to R171) -/

def dctCount (d : Bytes) : Nat := leAt d 12 4
def dctStrings (d : Bytes) : Nat := leAt d 16 4
def dctUnigrams (d : Bytes) : Nat := leAt d 24 4
/-- Offset of the string area. -/
def dctArea (d : Bytes) : Nat := 64 + 8 * dctCount d + 8 * dctUnigrams d
/-- Entry i and unigram j, 8 bytes each. -/
def dctEntry (d : Bytes) (i : Nat) : Bytes := slice d (64 + 8 * i) 8
def dctUnigram (d : Bytes) (j : Nat) : Bytes := slice d (64 + 8 * dctCount d + 8 * j) 8
/-- The string of an entry. -/
def dctString (d : Bytes) (i : Nat) : Bytes := slice d (dctArea d + leAt (dctEntry d i) 0 4) (leAt (dctEntry d i) 4 1)

/-- No two strings of a list are equal. -/
def distinctStrings : List Bytes → Bool
  | [] => true
  | x :: xs => !xs.contains x && distinctStrings xs

/-- R170 check 1. -/
def dctFormOk (len : Nat) (d : Bytes) : Bool :=
  slice d 0 8 == asciiBytes "HYNUSDCT" && leAt d 8 2 == 1 && decide (1 ≤ dctCount d) && decide (dctCount d ≤ 262144) &&
    decide (1 ≤ dctStrings d) && decide (dctStrings d ≤ 16777216) && decide (dctUnigrams d ≤ 1024) &&
    len == (dctArea d + dctStrings d + 7) / 8 * 8

/-- R170 check 2, the record's part. -/
def dctReservedOk (d : Bytes) : Bool :=
  allZero (slice d 10 2) && leAt d 20 1 / 2 == 0 && allZero (slice d 21 3) && allZero (slice d 28 36) &&
    (List.range (dctCount d)).all (fun i => leAt (dctEntry d i) 5 1 == 0) &&
    (List.range (dctUnigrams d)).all (fun j => leAt (dctUnigram d j) 6 2 == 0) &&
    allZero (d.drop (dctArea d + dctStrings d))

/-- R170 check 3. -/
def dctEntriesOk (d : Bytes) : Bool :=
  let hasLogp := bitOf (leAt d 20 1) 0
  (List.range (dctCount d)).all (fun i =>
    let e := dctEntry d i
    decide (leAt e 0 4 + leAt e 4 1 ≤ dctStrings d) && decide (1 ≤ leAt e 4 1) && decide (leAt e 4 1 ≤ 64) &&
      decide (signedOf 16 (leAt e 6 2) ≤ 0) && (hasLogp || leAt e 6 2 == 0)) &&
  (List.range (dctUnigrams d)).all (fun j =>
    let u := dctUnigram d j
    decide (5 ≤ leAt u 0 4) && decide (leAt u 0 4 ≤ 260 + dctCount d) && decide (signedOf 16 (leAt u 4 2) ≤ 0)) &&
  distinctStrings ((List.range (dctCount d)).map (dctString d)) &&
  distinctStrings ((List.range (dctUnigrams d)).map fun j => slice (dctUnigram d j) 0 4)

/-- R171: the number of distinct prefixes of the strings, the empty one included. -/
def trieNodes (ss : List Bytes) : Nat :=
  1 + (ss.flatMap fun x => (List.range x.length).map fun n => x.take (n + 1)).eraseDups.length

/-- R171: the dictionary that a record builds. -/
def dctBuild (d : Bytes) (label gen profile : Nat) (cells : List Nat) : Dict :=
  { label := label, gen := gen, digest := sha384 d,
    entries := (List.range (dctCount d)).map fun i => (dctString d i, signedOf 16 (leAt (dctEntry d i) 6 2)),
    hasLogp := bitOf (leAt d 20 1) 0,
    unigrams := (List.range (dctUnigrams d)).map fun j => (leAt (dctUnigram d j) 0 4, signedOf 16 (leAt (dctUnigram d j) 4 2)),
    highest := 260 + dctCount d, profile := profile, cells := cells }

/-- The cells of 64 KiB that a trie and its tables take (log 33). -/
def dctCells (d : Bytes) : Nat :=
  (64 * trieNodes ((List.range (dctCount d)).map (dctString d)) + 8 * dctUnigrams d + 65535) / 65536

/-- R170: the status of a LOAD_DICTIONARY before its cells are looked for, 0 when all is well so far. -/
def State.dictionaryStatus (s : State) (b d : Bytes) : Nat :=
  let l := s.label (entMatter b)
  let slot := fieldOf (entStep b) 0 8
  if !dctFormOk (entLen b) d then 0x12
  else if !dctReservedOk d then 0x11
  else if !dctEntriesOk d then 0x12
  else if !(l.profile == fieldOf (entStep b) 8 4 && (match Tab.find s.profiles l.profile with
      | some f => f.scheme != 2 && decide (260 + dctCount d < f.t)
      | none => false)) then 0x43
  else if !(match Tab.find s.dictSlots slot with
      | none => true
      | some v => match Tab.find s.dicts v with
        | some o => o.label == entMatter b && o.gen == entGen b
        | none => true) then 0x40
  else 0

/-- LOAD_DICTIONARY (R170). -/
def execLoadDictionary (t : Nat) (data : Bytes) (s : State) :=
  act t s fun s => s.adminRow 0x1A fun b s =>
    let d := padTo (entLen b) data
    let st := s.dictionaryStatus b d
    if st ≠ 0 then s.adminDone b st 0
    else match s.takeEnc (dctCells d) with
      | none => s.adminDone b 0x41 0
      | some cs =>
        let s := s.holdCells 0 true cs
        let v := s.nextDict
        let x := dctBuild d (entMatter b) (entGen b) (fieldOf (entStep b) 8 4) cs
        let s := { s with dicts := Tab.put s.dicts v x, nextDict := v + 1,
                          dictSlots := Tab.put s.dictSlots (fieldOf (entStep b) 0 8) v }
        s.dropUnboundDicts.adminDone b 0 x.highest

end Sys2Proof.Machine
end

