-- ==== Sys2Proof/Machine/Images.lean ====
section
/-!
DEFINITION. The image decode roles (07_images_and_pages.md, R187 to R199): JPEG, PNG_INFLATE and G4_FAX. Jpeg.lean,
Png.lean and Fax.lean read the coded data; the pixel arithmetic, the conversions, RAW and the outcome of a sample are
here.
-/

namespace Sys2Proof.Machine

/-! ### The SCB (R193) -/

/-- The fields of a decode body. -/
structure ImgCfg where
  stage : Nat
  prepass : Bool
  outFmt : Nat
  colour : Nat
  linear : Bool
  dropAlpha : Bool
  format : Nat
  maxPixels : Nat
  width : Nat
  channels : Nat
  raw16 : Bool
deriving DecidableEq, Repr

def imgCfg (p : Snap) : ImgCfg :=
  { stage := p.stage, prepass := p.bit 0 0, outFmt := p.fld 0 4 4, colour := p.fld 0 8 2, linear := p.bit 0 10,
    dropAlpha := p.bit 0 11, format := p.fld 0 12 2, maxPixels := p.fld 1 0 28, width := p.fld 2 0 16,
    channels := p.fld 2 16 4, raw16 := p.bit 2 20 }

/-- RAW is PNG_INFLATE with FORMAT 1. -/
def ImgCfg.isRaw (c : ImgCfg) : Bool := c.stage == 2 && c.format == 1

/-- A decoded image: width, height, channels, layout, depth, and the values in flat layout (R195). -/
structure Picture where
  width : Nat
  height : Nat
  channels : Nat
  layout : Nat
  depth : Nat
  values : List Nat
deriving DecidableEq, Repr

/-- R195: shape word 2. -/
def shapeWord2 (channels layout depth : Nat) : Nat := channels + 16 * layout + 256 * depth

/-- R195: the shape words of a whole image, and of a voided sample. -/
def Picture.words (p : Picture) : List Nat := [p.width, p.height, shapeWord2 p.channels p.layout p.depth, 0]
def voidWords (reason detail : Nat) : List Nat := [0, 0, 0, detail + 2 ^ 24 * reason]

/-! ### JPEG pixels (R188) -/

/-- R188: K[x][u]. -/
def idctK (x u : Nat) : Int :=
  if u = 0 then 2896 else roundNear (4096 * fxCosTurn ((2 * x + 1) * u : Nat) 32) (2 ^ 256)

def idctTable : List (List Int) := (List.range 8).map fun x => (List.range 8).map (idctK x)

/-- A sum of products. -/
def dotInt : List Int → List Int → Int
  | a :: as, b :: bs => a * b + dotInt as bs
  | _, _ => 0

/-- R188: the 64 pixels of a block, row by row, from its dequantised coefficients F, row v by row v. -/
def idct (k : List (List Int)) (f : List Int) : List Int :=
  -- t[v][x], then s[y][x]
  let rows := (List.range 8).map fun v => (List.range 8).map fun x =>
    (dotInt (k.getD x []) ((f.drop (8 * v)).take 8) + 2 ^ 10) / 2 ^ 11
  (List.range 8).flatMap fun y => (List.range 8).map fun x =>
    clampInt 0 255 ((dotInt (k.getD y []) (rows.map fun r => r.getD x 0) + 2 ^ 14) / 2 ^ 15 + 128)

/-- R188: dequantise and clamp. -/
def dequant (q : List Nat) (f : List Int) : List Int :=
  List.zipWith (fun (q : Nat) c => clampInt (-32768) 32767 (c * q)) q f

/-- The pixels of a component, block by block. -/
def compBlocks (c : JpegComp) : List (List Int) :=
  let k := idctTable
  c.blocks.toList.map fun b => idct k (dequant c.quant b.toList)

/-- A component's plane: blocks per line, its width and height, its blocks. -/
structure Plane where
  perLine : Nat
  w : Nat
  h : Nat
  blocks : List (List Int)

/-- A pixel of a plane; beyond an edge, the edge's. -/
def Plane.at_ (p : Plane) (x y : Int) : Int :=
  let x := (clampInt 0 ((p.w : Int) - 1) x).toNat
  let y := (clampInt 0 ((p.h : Int) - 1) y).toNat
  (p.blocks.getD (y / 8 * p.perLine + x / 8) []).getD (y % 8 * 8 + x % 8) 0

/-- R188: one axis of the centred linear filter: `at_` gives the line's values, `n` its length. -/
def upLinear (f fmax pos n : Nat) (at_ : Int → Int) : Int :=
  if f = fmax then at_ pos
  else if fmax = 2 * f then
    let i : Int := (pos / 2 : Nat)
    (3 * at_ i + at_ (if pos % 2 = 0 then i - 1 else i + 1) + 2) / 4
  else Config.chromaOther f fmax pos ((List.range n).map fun (i : Nat) => at_ i)

/-- R188: a component's value at a pixel of the image. -/
def upsample (linear : Bool) (p : Plane) (c : JpegComp) (hmax vmax x y : Nat) : Int :=
  if linear then
    upLinear c.v vmax y p.h fun j => upLinear c.h hmax x p.w fun i => p.at_ i j
  else p.at_ (x * c.h / hmax : Nat) (y * c.v / vmax : Nat)

/-- R188: RGB from YCbCr. -/
def rgbOfYcc (y cb cr : Int) : List Int :=
  let db := cb - 128
  let dr := cr - 128
  [clampInt 0 255 (y + (91881 * dr + 2 ^ 15) / 2 ^ 16),
   clampInt 0 255 (y + (-22554 * db - 46802 * dr + 2 ^ 15) / 2 ^ 16),
   clampInt 0 255 (y + (116130 * db + 2 ^ 15) / 2 ^ 16)]

/-- R188: luma from RGB. -/
def lumaOfRgb (r g b : Int) : Int := (19595 * r + 38470 * g + 7471 * b + 2 ^ 15) / 2 ^ 16

/-- R188: the channels of a pixel under COLOUR; `plain`: APP14 transform 0. -/
def jpegColour (colour : Nat) (plain : Bool) (v : List Int) : List Int :=
  match colour, v with
  | 0, v => v
  | 1, [y] => [y, y, y]
  | 1, [a, b, c] => if plain then [a, b, c] else rgbOfYcc a b c
  | _, [y] => [y]
  | _, [a, b, c] => if plain then [lumaOfRgb a b c] else [a]
  | _, v => v

/-- R188, R195: channels and layout of a JPEG image under COLOUR. -/
def jpegLayout (colour comps : Nat) (plain : Bool) : Nat × Nat :=
  if comps = 1 then (if colour = 1 then (3, 2) else (1, 0))
  else if comps = 4 then (4, 5)
  else match colour with
    | 0 => (3, if plain then 2 else 4)
    | 1 => (3, 2)
    | _ => (1, 0)

/-- The picture that a JPEG image gives. -/
def jpegPicture (colour : Nat) (linear : Bool) (j : Jpeg) : Picture :=
  let planes := j.comps.map fun x =>
    (x, ({ perLine := x.perLine, w := (j.width * x.h + j.hmax - 1) / j.hmax, h := (j.height * x.v + j.vmax - 1) / j.vmax,
           blocks := compBlocks x } : Plane))
  let lay := jpegLayout colour j.comps.length j.plain
  { width := j.width, height := j.height, channels := lay.1, layout := lay.2, depth := 8,
    values := (List.range j.height).flatMap fun y => (List.range j.width).flatMap fun x =>
      (jpegColour colour j.plain (planes.map fun p => upsample linear p.2 p.1 j.hmax j.vmax x y)).map Int.toNat }

/-- R188: the coefficient store of a progressive image within MAX_PIXELS, W·H·C·2 bytes, once its frame header is read. -/
def progressiveBytes (maxPixels : Nat) (data : Bytes) : Nat :=
  match progressiveSize (data.length + 1) (data.drop 2) with
  | some (pixels, comps) => if pixels ≤ maxPixels then pixels * comps * 2 else 0
  | none => 0

/-! ### PNG and RAW pixels (R189, R191) -/

/-- R189: a coded sample of depth `d` in the output format; none outside the subset. `bits` is BITS of the
descriptor, where there is one. -/
def pngConvert (outFmt d : Nat) (bits : Option Nat) (v : Nat) : Option Nat :=
  if outFmt = 0 then (if d = 8 then some v else if d = 16 then some ((v * 255 + 32895) / 2 ^ 16) else some (v * 255 / (2 ^ d - 1)))
  else if outFmt = 1 then (if d = 8 then some (v * 257) else if d = 16 then some v else some (v * 65535 / (2 ^ d - 1)))
  else if d < 8 ∧ bits.getD d = d then some v else none

/-- R189: a pixel's samples with palette expansion and the alpha of tRNS. -/
def pngPixel (g : Png) (v : List Nat) : List Nat :=
  if g.colour = 3 then
    let i := v.getD 0 0
    (List.range 3).map (fun c => match g.palette[i]? with | some p => p.getD c 0 | none => Config.paletteHole i c % 256) ++
      (if g.trns.isEmpty then [] else [g.trns.getD i 255])
  else if g.trns.isEmpty ∨ g.colour = 4 ∨ g.colour = 6 then v
  else v ++ [if v = g.trns then 0 else 2 ^ g.depth - 1]

/-- The depth of a pixel's samples after palette expansion. -/
def pngDepth (g : Png) : Nat := if g.colour = 3 then 8 else g.depth

/-- R195: the layout of a number of channels of grey or RGB with or without alpha. -/
def layoutOf (channels : Nat) : Nat := match channels with | 1 => 0 | 2 => 1 | 3 => 2 | _ => 3

/-- A list cut into lists of `n`. -/
def groupsOf {α : Type} (n : Nat) : Nat → List α → List (List α)
  | 0, _ => []
  | f + 1, xs => if xs.isEmpty then [] else xs.take n :: groupsOf n f (xs.drop n)

/-- R193: bits of an output value. -/
def outDepth (outFmt : Nat) (bits : Option Nat) (d : Nat) : Nat := match outFmt with | 0 => 8 | 1 => 16 | _ => bits.getD d

/-- The picture that a PNG image gives. -/
def pngPicture (c : ImgCfg) (bits : Option Nat) (g : Png) : Picture :=
  let n := pngOut c.dropAlpha g
  { width := g.width, height := g.height, channels := n, layout := layoutOf n, depth := outDepth c.outFmt bits g.depth,
    values := (groupsOf (pngChannels g.colour) (g.width * g.height) g.samples).flatMap fun v =>
      ((pngPixel g v).take n).map fun x => (pngConvert c.outFmt (pngDepth g) bits x).getD 0 }

/-- The bytes of a value and of a row of RAW. -/
def ImgCfg.rawSize (c : ImgCfg) : Nat := if c.raw16 then 2 else 1
def ImgCfg.rawRow (c : ImgCfg) : Nat := c.width * c.channels * c.rawSize

/-- R191: the picture of raw pixels. -/
def rawPicture (c : ImgCfg) (bs : Bytes) : Picture :=
  let d := 8 * c.rawSize
  { width := c.width, height := bs.length / c.rawRow, channels := c.channels,
    layout := layoutOf c.channels, depth := outDepth c.outFmt none d,
    values := (leWords c.rawSize bs).map fun x => (pngConvert c.outFmt d none x).getD 0 }

/-- R191, R199, R260: the bytes of RAW, `n` left of those read, after `got`: the first of every 64 is a unit, and a byte of
a pixel or value too many ends them. -/
def rawFrom (c : ImgCfg) (l : ImgLimits) : (n got : Nat) → Dec Unit
  | 0, _ => return
  | n + 1, got => do
    if got % 64 = 0 then unit
    guardDec (decide (c.maxPixels ≤ got / (c.channels * c.rawSize)) || l.beyond (got / c.rawSize + 1)) tooLarge
    rawFrom c l n (got + 1)

/-- R191: the read of a RAW sample; one that ends within a row is ill-formed. -/
def rawScan (c : ImgCfg) (l : ImgLimits) (whole : Bool) : Dec Unit := do
  let n := (← get).data.size
  rawFrom c l n 0
  guardDec (!whole) (stop .short)
  guardDec (n % c.rawRow != 0) syntaxErr

/-- R190: the picture of a fax page. -/
def faxPicture (c : ImgCfg) (bits : Option Nat) (g : FaxPage) : Picture :=
  { width := g.width, height := g.height, channels := 1, layout := 0, depth := outDepth c.outFmt bits 1,
    values := g.black.map fun b => if c.outFmt = 2 then ofBool b else if b then 0 else 255 }

/-! ### The order of conditions (R199) -/

/-- R199, R260: what the read of a sample gives: a void with its reason and DETAIL, or its image, once it is read whole; none
while that needs more bytes. A failed authentication is met where the bytes before it end. -/
def settled {α : Type} (e : Ending) : Except Stop (α × Reader) → Option ((Nat × Nat) ⊕ α)
  | .error .over => some (.inl (0x22, 0))
  | .error (.bad d) => some (.inl (0x20, d))
  | .error .short => match e with | .more => none | .badAuth => some (.inl (0x21, 0)) | .whole => some (.inl (0x20, 3))
  | .ok (x, _) => match e with | .more => none | .badAuth => some (.inl (0x21, 0)) | .whole => some (.inr x)

/-- The outcome of an image sample; a pre-pass writes no pixels (R197). -/
def imgOut {α : Type} (c : ImgCfg) (index : Nat) (p : α → Picture) : Option ((Nat × Nat) ⊕ α) → Option SampleOut
  | none => none
  | some (.inl (r, d)) => some { index := index, reason := r, detail := d, role := c.stage, words := voidWords r d }
  | some (.inr x) =>
    let g := p x
    some { index := index, words := g.words, values := if c.prepass then [] else g.values }

/-- One sample of an image decode job: none while its outcome needs more bytes. `page` is the TIFF page; `vmax` and
`bits` are V_MAX and BITS of TD_OUT[0] where it is named. -/
def decodeImage (c : ImgCfg) (vmax bits : Option Nat) (index page budget : Nat) (bs : Bytes) (e : Ending) : Option SampleOut :=
  let l : ImgLimits := { maxPixels := c.maxPixels, vmax := vmax, colour := c.colour, dropAlpha := c.dropAlpha,
                         plane := if c.outFmt = 2 then some (bits.getD 0) else none }
  if c.isRaw then imgOut c index (fun _ => rawPicture c bs) (settled e ((rawScan c l (e = .whole)).onBytes budget bs))
  else match c.stage with
    | 1 => imgOut c index (jpegPicture c.colour c.linear) (settled e ((jpegScan l).onBytes budget bs))
    | 2 => imgOut c index (pngPicture c bits) (settled e ((pngScan l).onBytes budget bs))
    | _ => imgOut c index (faxPicture c bits) (settled e ((faxScan l c.format c.width page (e = .whole)).onBytes budget bs))

/-- R198: a class C main pass holds a sample to its pre-pass shape: the outcome, and whether it disagrees. -/
def holdShape (e : Nat) (planned : List Nat) (o : SampleOut) : SampleOut × Bool :=
  if o.reason = 0 ∧ o.words.take 3 = planned.take 3 then (o, false)
  else
    let r := if o.reason = 0x21 then 0x21 else 0x20
    let d := if o.reason = 0 then Config.disagreeDetail e o.index % 65536 else o.detail
    ({ o with reason := r, detail := d, role := 0, words := voidWords r d, values := [] }, true)

/-! ### Check 7 (R193, R194) -/

/-- The dtype of OUT_FMT. -/
def outFmtDtype (f : Nat) : Nat := match f with | 0 => 1 | 1 => 3 | _ => 0x10

/-- A u32 tensor of rank 2 and extents (words, ≥ n). -/
def isWords (words n : Nat) : Option Desc → Bool
  | none => false
  | some d => d.dtype == 5 && d.rank == 2 && d.extent 0 == words && decide (n ≤ d.extent 1)

/-- R193, R194: check 7 of an image decode START. -/
def imageOk (r : Run) (p : Snap) (n : Nat) : Bool :=
  let c := imgCfg p
  let mainC := r.cls == 0 && !c.prepass
  p.bodyWords == 3 && p.split == 0 && loopsZero p && !p.streamIn &&
    slotsOnly p [0, 1] [0, 1] [0] &&
    sealedCovers p.sampleFirst n (p.input 0) &&
    present mainC (p.inSlot 1) && (!mainC || (isWords 4 n (p.input 1) && ((p.input 1).map plainSpace).getD false)) &&
    present (!c.prepass && !p.streamOut) (p.outSlot 0) &&
    (p.outSlot 0 == 0xFF || (match p.output 0 with
      | some d => d.dtype == outFmtDtype c.outFmt && d.rank == 2 && d.extent 1 == n
      | none => false)) &&
    present (c.prepass || !p.streamOut) (p.outSlot 1) &&
    (p.outSlot 1 == 0xFF || (match p.output 1 with | some d => d.dtype == 5 && d.shape == [4, n] | none => false)) &&
    (p.idxSlot 0 == 0xFF || (p.stage == 3 && c.format == 0 && isIndex (p.index 0) &&
      (match p.index 0 with | some d => d.rank == 1 | none => false))) &&
    decide (c.outFmt ≤ 2) && decide (c.colour ≤ 2) &&
    (p.stage == 1 || (c.colour == 0 && !c.linear)) && ((p.stage == 2 && c.format == 0) || !c.dropAlpha) &&
    (match p.stage with | 1 => c.format == 0 | 2 => decide (c.format ≤ 1) | _ => true) &&
    (c.outFmt != 1 || p.stage == 2) && (c.outFmt != 2 || (p.stage != 1 && !c.isRaw)) &&
    decide (1 ≤ c.maxPixels) &&
    (if c.format = 0 then p.body 2 == 0 else c.width != 0) &&
    (if c.isRaw then decide (1 ≤ c.channels) && decide (c.channels ≤ 4) else c.channels == 0 && !c.raw16) &&
    -- R197: a pre-pass writes TD_OUT[1] alone
    (!c.prepass || (r.cls == 0 && !p.streamOut))

/-! ### Retiring a sample (R195) -/

/-- The tensors of a decode job take sample `k`: its pixels with the fill beyond them, and its shape words. -/
def State.imgRetire (s : State) (e : Nat) (p : Snap) (k : Nat) (o : SampleOut) : State :=
  let s := match p.output 0 with
    | some d => s.writeElems e p.stage d ((List.range (d.extent 0)).map fun i => ([i, k], o.values.getD i d.fillElem))
    | none => s
  match p.output 1 with
  | some d => s.writeElems e p.stage d ((List.range 4).map fun i => ([i, k], o.words.getD i 0))
  | none => s

/-- The TIFF page of sample `k`: none selects nothing (R157, R194). -/
def State.pageOf (s : State) (e : Nat) (host : HostMem) (p : Snap) (k : Nat) : Option Nat :=
  match p.index 0 with
  | none => some 0
  | some d => s.readIndex e 3 host d (2 ^ 63) k

end Sys2Proof.Machine
end

