-- ==== Sys2Proof/Machine/Nal.lean ====
section
/-!
DEFINITION. NAL units (R215, R221): the Annex B byte stream that H.264 and HEVC share, its units, and the descriptors in
which parameter sets and headers are coded (log 34).
-/

namespace Sys2Proof.Machine

/-- The NAL units of a byte stream as (first byte, byte after the last); `zeros` zeros end at `pos`. The last one is there
only where the stream ends with the bytes read (`whole`). -/
def nalScan (whole : Bool) : (pos : Nat) → (start : Option Nat) → (zeros : Nat) → Bytes → List (Nat × Nat)
  | pos, start, zeros, [] =>
    match start with
    | some a => if whole ∧ a < pos - zeros then [(a, pos - zeros)] else []
    | none => []
  | pos, start, zeros, b :: bs =>
    if b = 0 then nalScan whole (pos + 1) start (zeros + 1) bs
    else if b = 1 ∧ 2 ≤ zeros then
      (match start with | some a => if a < pos - zeros then [(a, pos - zeros)] else [] | none => []) ++
        nalScan whole (pos + 1) (some (pos + 1)) 0 bs
    else nalScan whole (pos + 1) start 0 bs

/-- The payload of a unit without its emulation prevention bytes. -/
def rbspFrom : (zeros : Nat) → Bytes → Bytes
  | _, [] => []
  | zeros, b :: bs =>
    if b = 3 ∧ 2 ≤ zeros then rbspFrom 0 bs
    else b :: rbspFrom (if b = 0 then zeros + 1 else 0) bs

def rbsp (bs : Bytes) : Bytes := rbspFrom 0 bs

/-! ### Descriptors -/

def hbit : Dec Nat := bitHigh nextByte
def hbits (n : Nat) : Dec Nat := bitsHigh hbit n 0
def hflag : Dec Bool := do return (← hbit) == 1

/-- ue(v): zeros, a one, and as many bits. -/
def ueFrom : Nat → (zeros : Nat) → Dec Nat
  | 0, _ => syntaxErr
  | fuel + 1, zeros => do
    if (← hbit) = 1 then return 2 ^ zeros - 1 + (← hbits zeros) else ueFrom fuel (zeros + 1)

def hue : Dec Nat := ueFrom 33 0

/-- ue(v) held to a range. -/
def hueTo (most : Nat) : Dec Nat := do
  let v ← hue
  guardDec (decide (most < v)) syntaxErr
  return v

/-- se(v). -/
def hse : Dec Int := do
  let v ← hue
  return if v % 2 = 1 then ((v + 1) / 2 : Nat) else -((v / 2 : Nat) : Int)

/-- `n` values in turn. -/
def times {α : Type} (n : Nat) (d : Dec α) : Dec (List α) := (List.range n).mapM fun _ => d

/-- A flag, and what it announces, or a default. -/
def whenFlag {α : Type} (d : Dec α) (other : α) : Dec α := do
  if ← hflag then d else return other

/-- More data stands before the trailing bits: a one bit follows that is not the last of the payload. -/
def moreData : Dec Bool := fun r =>
  let rest := (r.data.extract r.pos r.data.size).toList.map BitVec.toNat
  let bits := (List.range r.left).map (fun i => r.cur / 2 ^ (r.left - 1 - i) % 2) ++
    rest.flatMap fun b => (List.range 8).map fun i => b / 2 ^ (7 - i) % 2
  .ok (decide (1 < (bits.reverse.dropWhile (· == 0)).length), r)

/-- What a header gives: nothing where it is ill-formed or ends early. -/
def headerOf {α : Type} (d : Dec α) (bs : Bytes) : Option α :=
  match d.onBytes 0 bs with
  | .ok (x, _) => some x
  | .error _ => none

/-- What both standards say of a coded picture (R215 to R217, R222, R225): its coded size in luma samples and in coding
units (CTUs, or macroblocks of 16), the window that is output, its depth, whether it has chroma, its colour description,
and the limits of the output process: reordering, latency (0: none) and buffers. -/
structure VidForm where
  inSubset : Bool
  width : Nat
  height : Nat
  unitLog : Nat
  left : Nat := 0
  right : Nat := 0
  top : Nat := 0
  bottom : Nat := 0
  depth : Nat := 8
  mono : Bool := false
  matrix : Nat := 2
  full : Bool := false
  reorder : Nat
  latency : Nat := 0
  dpb : Nat
deriving DecidableEq, Repr, Inhabited

/-- Coding units across and down, and the output size. -/
def VidForm.across (f : VidForm) : Nat := (f.width + 2 ^ f.unitLog - 1) / 2 ^ f.unitLog
def VidForm.down (f : VidForm) : Nat := (f.height + 2 ^ f.unitLog - 1) / 2 ^ f.unitLog
def VidForm.outWidth (f : VidForm) : Nat := f.width - f.left - f.right
def VidForm.outHeight (f : VidForm) : Nat := f.height - f.top - f.bottom

end Sys2Proof.Machine
end

