-- ==== Sys2Proof/Machine/Avc.lean ====
section
/-!
DEFINITION. The parameter sets, slice headers, picture order counts and reference lists of H.264 (R215, R216, R221, R225,
R227). What R215 leaves to ITU-T H.264 is taken from it, PRESUMED (log 34).
-/

namespace Sys2Proof.Machine

structure AvcSps where
  form : VidForm
  frameNumBits : Nat
  pocType : Nat
  pocBits : Nat
  alwaysZero : Bool
  offNonRef : Int
  offBottom : Int
  cycle : List Int
  refs : Nat
  gaps : Bool
deriving Inhabited

structure AvcPps where
  sps : Nat
  inSubset : Bool
  cabac : Bool
  bottomPoc : Bool
  refs0 : Nat
  refs1 : Nat
  weighted : Bool
  biWeighted : Nat
  deblock : Bool
deriving Inhabited

/-! ### Parameter sets -/

/-- A scaling list of `n` entries: read and not kept. -/
def avcScaling : (n : Nat) → (last next : Int) → Dec Unit
  | 0, _, _ => return
  | n + 1, last, next => do
    if next = 0 then return
    let d ← hse
    let next := (last + d) % 256
    avcScaling n (if next = 0 then last else next) next

def avcScalings (n : Nat) : Dec Unit := do
  for i in List.range n do
    if ← hflag then avcScaling (if i < 6 then 16 else 64) 8 8

/-- hrd_parameters: read and not kept. -/
def avcHrd : Dec Unit := do
  let n := (← hueTo 31) + 1
  let _ ← hbits 8
  for _ in List.range n do
    let _ ← hue
    let _ ← hue
    let _ ← hbit
  let _ ← hbits 20

/-- vui_parameters: the range, the matrix, and the limits of reordering and buffers (R215, R222, R225, R229). -/
def avcVui : Dec (Bool × Nat × Option (Nat × Nat)) := do
  if ← hflag then
    if (← hbits 8) = 255 then
      let _ ← hbits 32
  if ← hflag then
    let _ ← hbit
  let colour ← whenFlag (do
    let _ ← hbits 3
    let full ← hflag
    let matrix ← whenFlag (do
      let _ ← hbits 16
      hbits 8) 2
    return (full, matrix)) (false, 2)
  if ← hflag then
    let _ ← hue
    let _ ← hue
  if ← hflag then
    let _ ← hbits 65
  let nal ← hflag
  if nal then avcHrd
  let vcl ← hflag
  if vcl then avcHrd
  if nal || vcl then
    let _ ← hbit
  let _ ← hbit
  let limits ← whenFlag (do
    let _ ← hbit
    let _ ← times 4 hue
    let reorder ← hue
    let buffers ← hue
    return some (reorder, buffers)) none
  return (colour.1, colour.2, limits)

/-- MaxDpbMbs of a level; `oneB`: level 1b. -/
def maxDpbMbs (level : Nat) (oneB : Bool) : Nat :=
  if oneB ∨ level ≤ 10 then 396
  else if level ≤ 11 then 900
  else if level ≤ 20 then 2376
  else if level ≤ 21 then 4752
  else if level ≤ 30 then 8100
  else if level ≤ 31 then 18000
  else if level ≤ 32 then 20480
  else if level ≤ 41 then 32768
  else if level ≤ 42 then 34816
  else if level ≤ 50 then 110400
  else 184320

/-- R215: Constrained Baseline, Main or High, up to level 5.2. -/
def avcProfileOk (profile flags level : Nat) : Bool :=
  ((profile == 66 && bitOf flags 6) || profile == 77 || profile == 100) && decide (level ≤ 52)

/-- The profiles whose sequences carry chroma, depth and scaling. -/
def highProfiles : List Nat := [100, 110, 122, 244, 44, 83, 86, 118, 128, 138, 139, 134, 135]

/-- seq_parameter_set_data: its number and what it says. -/
def readAvcSps : Dec (Nat × AvcSps) := do
  let profile ← hbits 8
  let flags ← hbits 8
  let level ← hbits 8
  let id ← hueTo 31
  let deep ← if highProfiles.contains profile then do
      let chroma ← hueTo 3
      if chroma = 3 then
        let _ ← hbit
      let dl ← hueTo 6
      let dc ← hueTo 6
      let _ ← hbit
      if ← hflag then avcScalings (if chroma = 3 then 12 else 8)
      pure (chroma, dl, dc)
    else pure (1, 0, 0)
  let frameNumBits := (← hueTo 12) + 4
  let pocType ← hueTo 2
  let pocBits ← if pocType = 0 then do pure ((← hueTo 12) + 4) else pure 0
  let cyc ← if pocType = 1 then do
      let z ← hflag
      let o ← hse
      let b ← hse
      let n ← hueTo 255
      pure (z, o, b, ← times n hse)
    else pure (true, 0, 0, [])
  let refs ← hueTo 16
  let gaps ← hflag
  let mbs := (← hue) + 1
  let rows := (← hue) + 1
  let framesOnly ← hflag
  if !framesOnly then
    let _ ← hbit
  let _ ← hbit
  let crop ← whenFlag (times 4 hue) [0, 0, 0, 0]
  let vui ← whenFlag avcVui (false, 2, none)
  let w := 16 * mbs
  let h := 16 * rows * (if framesOnly then 1 else 2)
  let step := if deep.1 = 1 ∨ deep.1 = 2 then 2 else 1
  let down := (if deep.1 = 1 then 2 else 1) * (if framesOnly then 1 else 2)
  let oneB := level == 9 || (level == 11 && bitOf flags 4 && profile != 100)
  let most := min 16 (maxDpbMbs level oneB / max 1 (mbs * rows * (if framesOnly then 1 else 2)))
  let form : VidForm :=
    -- R215: 4:2:0 or 4:0:0 of 8 bits, frame pictures alone
    { inSubset := avcProfileOk profile flags level && decide (deep.1 ≤ 1) && deep.2 == (0, 0) && framesOnly,
      width := w, height := h, unitLog := 4, left := crop.getD 0 0 * step, right := crop.getD 1 0 * step,
      top := crop.getD 2 0 * down, bottom := crop.getD 3 0 * down, mono := deep.1 == 0, matrix := vui.2.1, full := vui.1,
      reorder := match vui.2.2 with | some l => l.1 | none => if pocType = 2 then 0 else most,
      dpb := max 1 (max refs (match vui.2.2 with | some l => l.2 | none => most)) }
  guardDec (decide (w ≤ form.left + form.right) || decide (h ≤ form.top + form.bottom)) syntaxErr
  return (id, { form := form, frameNumBits := frameNumBits, pocType := pocType, pocBits := pocBits, alwaysZero := cyc.1,
                offNonRef := cyc.2.1, offBottom := cyc.2.2.1, cycle := cyc.2.2.2, refs := refs, gaps := gaps })

/-- pic_parameter_set_rbsp: its number and what it says. -/
def readAvcPps : Dec (Nat × AvcPps) := do
  let id ← hueTo 255
  let sps ← hueTo 31
  let cabac ← hflag
  let bottomPoc ← hflag
  let groups ← hueTo 7
  -- R215: FMO is outside the subset; what follows it is not read
  if groups ≠ 0 then
    return (id, { sps := sps, inSubset := false, cabac := cabac, bottomPoc := bottomPoc, refs0 := 1, refs1 := 1, weighted := false,
                  biWeighted := 0, deblock := false })
  let refs0 := (← hueTo 31) + 1
  let refs1 := (← hueTo 31) + 1
  let weighted ← hflag
  let biWeighted ← hbits 2
  let _ ← hse
  let _ ← hse
  let _ ← hse
  let deblock ← hflag
  let _ ← hbit
  let redundant ← hflag
  -- the size of the transform, its scaling and the second chroma offset
  if ← moreData then
    let wide ← hbit
    if ← hflag then avcScalings (6 + 2 * wide)
    let _ ← hse
  return (id, { sps := sps, inSubset := !redundant, cabac := cabac, bottomPoc := bottomPoc, refs0 := refs0, refs1 := refs1,
                weighted := weighted, biWeighted := biWeighted, deblock := deblock })

/-! ### Slice headers -/

/-- How decoded pictures are marked: an IDR picture, the sliding window, or operations with their operands. -/
inductive AvcMarking where
  | idr (noPrior long : Bool)
  | sliding
  | ops (ops : List (Nat × Nat × Nat))
deriving DecidableEq, Repr, Inhabited

structure AvcSlice where
  firstMb : Nat := 0
  /-- 0 P, 1 B, 2 I. -/
  kind : Nat := 2
  pps : Nat
  refIdc : Nat
  idr : Bool
  frameNum : Nat := 0
  idrId : Nat := 0
  pocLow : Nat := 0
  deltaBottom : Int := 0
  delta0 : Int := 0
  delta1 : Int := 0
  refs0 : Nat := 0
  refs1 : Nat := 0
  mod0 : List (Nat × Nat) := []
  mod1 : List (Nat × Nat) := []
  marking : AvcMarking := .sliding
deriving DecidableEq, Repr, Inhabited

/-- ref_pic_list_modification, to its end mark. -/
def readMods : Nat → Dec (List (Nat × Nat))
  | 0 => syntaxErr
  | fuel + 1 => do
    let op ← hueTo 3
    if op = 3 then return []
    let v ← hue
    return (op, v) :: (← readMods fuel)

/-- memory_management_control_operations, to their end mark. -/
def readMarks : Nat → Dec (List (Nat × Nat × Nat))
  | 0 => syntaxErr
  | fuel + 1 => do
    let op ← hueTo 6
    if op = 0 then return []
    let a ← if op = 1 ∨ op = 3 then hue else pure 0
    let b ← if op = 2 ∨ op = 3 ∨ op = 6 then hue else if op = 4 then hue else pure 0
    return (op, a, b) :: (← readMarks fuel)

/-- pred_weight_table. -/
def avcWeights (mono : Bool) (counts : List Nat) : Dec Unit := do
  let _ ← hueTo 7
  if !mono then
    let _ ← hueTo 7
  for n in counts do
    for _ in List.range n do
      if ← hflag then
        let _ ← times 2 hse
      if !mono then
        if ← hflag then
          let _ ← times 4 hse

/-- slice_header, up to the slice data. -/
def readAvcSlice (nal refIdc : Nat) (spss : List (Nat × AvcSps)) (ppss : List (Nat × AvcPps)) : Dec AvcSlice := do
  let firstMb ← hue
  let type ← hueTo 9
  let id ← hueTo 255
  match ppss.find? fun p => p.1 == id with
  | none => syntaxErr
  | some (_, p) => match spss.find? fun q => q.1 == p.sps with
    | none => syntaxErr
    | some (_, s) =>
      let idr := nal == 5
      guardDec (decide (s.form.across * s.form.down ≤ firstMb)) syntaxErr
      -- SP and SI slices belong to no profile of R215
      let kind := type % 5
      guardDec (decide (2 < kind) || (idr && (kind != 2 || refIdc == 0))) syntaxErr
      let frameNum ← hbits s.frameNumBits
      guardDec (idr && frameNum != 0) syntaxErr
      let mut h : AvcSlice := { firstMb := firstMb, kind := kind, pps := id, refIdc := refIdc, idr := idr, frameNum := frameNum }
      if idr then h := { h with idrId := ← hueTo 65535 }
      if s.pocType = 0 then
        h := { h with pocLow := ← hbits s.pocBits }
        if p.bottomPoc then h := { h with deltaBottom := ← hse }
      if s.pocType = 1 && !s.alwaysZero then
        h := { h with delta0 := ← hse }
        if p.bottomPoc then h := { h with delta1 := ← hse }
      if kind = 1 then
        let _ ← hbit
      if kind ≠ 2 then
        let change ← hflag
        let n ← if change then do pure ((← hueTo 31) + 1) else pure p.refs0
        let m ← if change && kind == 1 then do pure ((← hueTo 31) + 1) else pure p.refs1
        h := { h with refs0 := n, refs1 := if kind = 1 then m else 0 }
        let a ← whenFlag (readMods 66) []
        let b ← if kind = 1 then whenFlag (readMods 66) [] else pure []
        h := { h with mod0 := a, mod1 := b }
        if (p.weighted && kind == 0) || (p.biWeighted == 1 && kind == 1) then
          avcWeights s.form.mono (if kind = 1 then [n, m] else [n])
      if refIdc ≠ 0 then
        if idr then
          let noPrior ← hflag
          h := { h with marking := .idr noPrior (← hflag) }
        else
          let ops ← whenFlag (do return AvcMarking.ops (← readMarks 66)) .sliding
          h := { h with marking := ops }
      if p.cabac && kind != 2 then
        let _ ← hueTo 2
      let _ ← hse
      if p.deblock then
        let off ← hueTo 2
        if off ≠ 1 then
          let _ ← times 2 hse
      return h

/-- H.264 7.4.1.2.4: a slice belongs to another picture than the one before it. -/
def AvcSlice.startsPicture (a b : AvcSlice) : Bool :=
  a.frameNum != b.frameNum || a.pps != b.pps || (a.refIdc == 0) != (b.refIdc == 0) || a.idr != b.idr ||
    (a.idr && a.idrId != b.idrId) || a.pocLow != b.pocLow || a.deltaBottom != b.deltaBottom || a.delta0 != b.delta0 || a.delta1 != b.delta1

end Sys2Proof.Machine
end

