-- ==== Sys2Proof/Machine/Hevc.lean ====
section
/-!
DEFINITION. The parameter sets, slice headers and reference picture sets of HEVC (R215, R216, R221, R225, R227). What R215
leaves to ITU-T H.265 is taken from it, PRESUMED (log 34).
-/

namespace Sys2Proof.Machine

/-- A short-term reference picture set: the POC differences before and after, nearest first, each with whether the
picture uses it. -/
structure Rps where
  before : List (Int × Bool) := []
  after : List (Int × Bool) := []
deriving DecidableEq, Repr, Inhabited

structure HevcSps where
  form : VidForm
  pocBits : Nat
  sets : List Rps
  longPresent : Bool
  /-- The long-term candidates: POC low bits, and whether the picture uses it. -/
  longs : List (Nat × Bool)
  mvp : Bool
  sao : Bool
deriving Inhabited

structure HevcPps where
  sps : Nat
  inSubset : Bool
  dependent : Bool
  outputFlag : Bool
  extraBits : Nat
  cabacInit : Bool
  refs0 : Nat
  refs1 : Nat
  chromaQp : Bool
  weighted : Bool
  biWeighted : Bool
  /-- The widths and heights of tiles in CTUs where they are not uniform, else their numbers. -/
  tiles : Option (Bool × Nat × Nat × List Nat × List Nat)
  wpp : Bool
  acrossSlices : Bool
  deblockOverride : Bool
  deblockOff : Bool
  listsMod : Bool
  headExt : Bool
deriving Inhabited

/-! ### Parameter sets -/

/-- profile_tier_level: profile, compatibility flags, level. -/
def profileTier (subLayers : Nat) : Dec (Nat × Nat × Nat) := do
  let _ ← hbits 3
  let profile ← hbits 5
  let compat ← hbits 32
  let _ ← hbits 48
  let level ← hbits 8
  let present ← times (subLayers - 1) (do return (← hbit, ← hbit))
  if 1 < subLayers then
    let _ ← hbits (2 * (9 - subLayers))
  for p in present do
    if p.1 = 1 then
      let _ ← hbits 88
    if p.2 = 1 then
      let _ ← hbits 8
  return (profile, compat, level)

/-- scaling_list_data: it is read and not kept. -/
def scalingLists : Dec Unit := do
  for size in List.range 4 do
    for _ in List.range (if size = 3 then 2 else 6) do
      if ← hflag then
        if 1 < size then
          let _ ← hse
        let _ ← times (min 64 (4 ^ (size + 2))) hse
      else
        let _ ← hue

/-- A set predicted from another. -/
def rpsFrom (ref : Rps) (delta : Int) (used use : List Bool) : Rps :=
  let n := ref.before.length
  let m := ref.after.length
  let pick := fun (i : Nat) (d : Int) (ok : Bool) => if ok && use.getD i true then [(d, used.getD i false)] else []
  let b := fun (i : Nat) => (ref.before.getD i (0, false)).1 + delta
  let a := fun (i : Nat) => (ref.after.getD i (0, false)).1 + delta
  { before := ((List.range m).reverse.flatMap fun i => pick (n + i) (a i) (decide (a i < 0))) ++
      pick (n + m) delta (decide (delta < 0)) ++ (List.range n).flatMap fun i => pick i (b i) (decide (b i < 0)),
    after := ((List.range n).reverse.flatMap fun i => pick i (b i) (decide (0 < b i))) ++
      pick (n + m) delta (decide (0 < delta)) ++ (List.range m).flatMap fun i => pick (n + i) (a i) (decide (0 < a i)) }

/-- POC differences from steps. -/
def stepsFrom (sign : Int) : Int → List (Nat × Bool) → List (Int × Bool)
  | _, [] => []
  | at_, (d, u) :: ds => let v := at_ + sign * (d + 1 : Nat); (v, u) :: stepsFrom sign v ds

/-- st_ref_pic_set number `i` of `n`; number `n` is a slice header's own. -/
def readRps (i n : Nat) (sets : List Rps) : Dec Rps := do
  let predicted ← if i ≠ 0 then hflag else pure false
  if predicted then
    let back ← if i = n then hueTo (i - 1) else pure 0
    let neg ← hflag
    let d ← hueTo 32767
    let ref := sets.getD (i - 1 - back) {}
    let flags ← times (ref.before.length + ref.after.length + 1) (do
      let used ← hflag
      let use ← if used then pure true else hflag
      return (used, use))
    return rpsFrom ref (if neg then -(d + 1 : Nat) else (d + 1 : Nat)) (flags.map Prod.fst) (flags.map Prod.snd)
  else
    let nb ← hueTo 16
    let na ← hueTo 16
    let b ← times nb (do return (← hueTo 32767, ← hflag))
    let a ← times na (do return (← hueTo 32767, ← hflag))
    return { before := stepsFrom (-1) 0 b, after := stepsFrom 1 0 a }

/-- The sets of a sequence, `left` of `n` still to read. -/
def readSets (n : Nat) : Nat → List Rps → Dec (List Rps)
  | 0, got => return got
  | left + 1, got => do
    let s ← readRps (n - left - 1) n got
    readSets n left (got ++ [s])

/-- hrd_parameters: read and not kept. -/
def hrdSub (cpbs : Nat) (sub : Bool) : Dec Unit := do
  for _ in List.range cpbs do
    let _ ← hue
    let _ ← hue
    if sub then
      let _ ← hue
      let _ ← hue
    let _ ← hbit

def hevcHrd (subLayers : Nat) : Dec Unit := do
  let nal ← hflag
  let vcl ← hflag
  let mut sub := false
  if nal || vcl then
    sub ← hflag
    if sub then
      let _ ← hbits 19
    let _ ← hbits 8
    if sub then
      let _ ← hbits 4
    let _ ← hbits 15
  for _ in List.range subLayers do
    let general ← hflag
    let within ← if general then pure true else hflag
    let low ← if within then do
        let _ ← hue
        pure false
      else hflag
    let cpbs ← if low then pure 1 else do pure ((← hueTo 31) + 1)
    if nal then hrdSub cpbs sub
    if vcl then hrdSub cpbs sub

/-- vui_parameters: the range and the matrix are kept (R215, R222). -/
def hevcVui (subLayers : Nat) : Dec (Bool × Nat) := do
  if ← hflag then
    if (← hbits 8) = 255 then
      let _ ← hbits 32
  if ← hflag then
    let _ ← hbit
  let colour ← whenFlag (do
    let _ ← hbits 3
    let full ← hflag
    let matrix ← whenFlag (do
      let _ ← hbits 16
      hbits 8) 2
    return (full, matrix)) (false, 2)
  if ← hflag then
    let _ ← hue
    let _ ← hue
  let _ ← hbits 3
  if ← hflag then
    let _ ← times 4 hue
  if ← hflag then
    let _ ← hbits 64
    if ← hflag then
      let _ ← hue
    if ← hflag then hevcHrd subLayers
  if ← hflag then
    let _ ← hbits 3
    let _ ← times 5 hue
  return colour

/-- R215: the profile and level of a sequence are in the subset: Main, Main 10 or Main Still Picture, up to level 6.1. -/
def hevcProfileOk (profile compat level : Nat) : Bool :=
  (decide (1 ≤ profile ∧ profile ≤ 3) || bitOf compat 30 || bitOf compat 29 || bitOf compat 28) && decide (level ≤ 183)

/-- seq_parameter_set_rbsp: its number and what it says. -/
def readHevcSps : Dec (Nat × HevcSps) := do
  let _ ← hbits 4
  let subLayers := (← hbits 3) + 1
  guardDec (decide (7 < subLayers)) syntaxErr
  let _ ← hbit
  let ptl ← profileTier subLayers
  let id ← hueTo 15
  let chroma ← hueTo 3
  if chroma = 3 then
    let _ ← hbit
  let w ← hue
  let h ← hue
  guardDec (w == 0 || h == 0) syntaxErr
  let crop ← whenFlag (times 4 hue) [0, 0, 0, 0]
  let dl ← hueTo 8
  let dc ← hueTo 8
  let pocBits := (← hueTo 12) + 4
  let all ← hflag
  let limits ← times (if all then subLayers else 1) (do return (← hueTo 15, ← hueTo 15, ← hue))
  let lim := limits.getLastD (0, 0, 0)
  let minCb := (← hueTo 3) + 3
  let ctb := minCb + (← hueTo 3)
  guardDec (decide (6 < ctb) || decide (ctb < 4)) syntaxErr
  let minTb := (← hueTo 3) + 2
  let maxTb := minTb + (← hueTo 3)
  guardDec (decide (minCb ≤ minTb) || decide (min ctb 5 < maxTb)) syntaxErr
  guardDec (w % 2 ^ minCb != 0 || h % 2 ^ minCb != 0) syntaxErr
  let _ ← hueTo (ctb - minTb)
  let _ ← hueTo (ctb - minTb)
  if ← hflag then
    if ← hflag then scalingLists
  let _ ← hbit
  let sao ← hflag
  if ← hflag then
    let _ ← hbits 8
    let _ ← hue
    let _ ← hue
    let _ ← hbit
  let n ← hueTo 64
  let sets ← readSets n n []
  let longPresent ← hflag
  let longs ← if longPresent then do
      let k ← hueTo 32
      times k (do return (← hbits pocBits, ← hflag))
    else pure []
  let mvp ← hflag
  let _ ← hbit
  let colour ← whenFlag (hevcVui subLayers) (false, 2)
  let ext ← whenFlag (hbits 8) 0
  let unit := if chroma = 1 ∨ chroma = 2 then 2 else 1
  let down := if chroma = 1 then 2 else 1
  let form : VidForm :=
    -- R215: 4:2:0 of 8 or 10 bits; no range, multilayer, 3D or screen-content extension
    { inSubset := hevcProfileOk ptl.1 ptl.2.1 ptl.2.2 && chroma == 1 && dl == dc && (dl == 0 || dl == 2) && ext / 16 == 0,
      width := w, height := h, unitLog := ctb, left := crop.getD 0 0 * unit, right := crop.getD 1 0 * unit,
      top := crop.getD 2 0 * down, bottom := crop.getD 3 0 * down, depth := 8 + dl, matrix := colour.2, full := colour.1,
      reorder := lim.2.1, latency := if lim.2.2 = 0 then 0 else lim.2.1 + lim.2.2 - 1, dpb := lim.1 + 1 }
  guardDec (decide (w ≤ form.left + form.right) || decide (h ≤ form.top + form.bottom)) syntaxErr
  return (id, { form := form, pocBits := pocBits, sets := sets, longPresent := longPresent, longs := longs, mvp := mvp, sao := sao })

/-- pic_parameter_set_rbsp: its number and what it says. -/
def readHevcPps : Dec (Nat × HevcPps) := do
  let id ← hueTo 63
  let sps ← hueTo 15
  let dependent ← hflag
  let outputFlag ← hflag
  let extraBits ← hbits 3
  let _ ← hbit
  let cabacInit ← hflag
  let refs0 := (← hueTo 14) + 1
  let refs1 := (← hueTo 14) + 1
  let _ ← hse
  let _ ← hbits 2
  if ← hflag then
    let _ ← hue
  let _ ← hse
  let _ ← hse
  let chromaQp ← hflag
  let weighted ← hflag
  let biWeighted ← hflag
  let _ ← hbit
  let tiled ← hflag
  let wpp ← hflag
  let tiles ← if tiled then do
      let cols := (← hue) + 1
      let rows := (← hue) + 1
      guardDec (decide (1024 < cols) || decide (1024 < rows)) syntaxErr
      let uniform ← hflag
      let ws ← if uniform then pure [] else times (cols - 1) (do return (← hue) + 1)
      let hs ← if uniform then pure [] else times (rows - 1) (do return (← hue) + 1)
      let _ ← hbit
      pure (some (uniform, cols, rows, ws, hs))
    else pure none
  let acrossSlices ← hflag
  let deblock ← whenFlag (do
    let change ← hflag
    let off ← hflag
    if !off then
      let _ ← hse
      let _ ← hse
    return (change, off)) (false, false)
  if ← hflag then scalingLists
  let listsMod ← hflag
  let _ ← hue
  let headExt ← hflag
  let ext ← whenFlag (hbits 8) 0
  return (id, { sps := sps, inSubset := ext / 16 == 0, dependent := dependent, outputFlag := outputFlag, extraBits := extraBits,
                cabacInit := cabacInit, refs0 := refs0, refs1 := refs1, chromaQp := chromaQp, weighted := weighted,
                biWeighted := biWeighted, tiles := tiles, wpp := wpp, acrossSlices := acrossSlices,
                deblockOverride := deblock.1, deblockOff := deblock.2, listsMod := listsMod, headExt := headExt })

/-! ### CTUs in tile scan -/

/-- The widths of tile columns, or the heights of rows: `n` of them over `size` CTUs. -/
def tileSizes (uniform : Bool) (n size : Nat) (given : List Nat) : List Nat :=
  if uniform then (List.range n).map fun i => (i + 1) * size / n - i * size / n
  else given ++ [size - given.sum]

/-- Where each of a list of sizes begins. -/
def startsOf : Nat → List Nat → List (Nat × Nat)
  | _, [] => []
  | at_, n :: ns => (at_, n) :: startsOf (at_ + n) ns

/-- The raster addresses of CTUs in decoding order. -/
def ctuOrder (f : VidForm) (p : HevcPps) : List Nat :=
  let grid := match p.tiles with
    | none => ([(0, f.across)], [(0, f.down)])
    | some (u, cols, rows, ws, hs) => (startsOf 0 (tileSizes u cols f.across ws), startsOf 0 (tileSizes u rows f.down hs))
  grid.2.flatMap fun r => grid.1.flatMap fun c =>
    (List.range r.2).flatMap fun y => (List.range c.2).map fun x => (r.1 + y) * f.across + c.1 + x

/-! ### Slice headers -/

structure HevcSlice where
  first : Bool
  noPrior : Bool := false
  pps : Nat
  dependent : Bool := false
  /-- The raster address of its first CTU. -/
  addr : Nat := 0
  /-- 0 B, 1 P, 2 I. -/
  kind : Nat := 2
  output : Bool := true
  pocLow : Nat := 0
  rps : Rps := {}
  /-- Long-term pictures: POC low bits, the difference of high bits where it is sent, whether it is used. -/
  longs : List (Nat × Option Nat × Bool) := []
  refs0 : Nat := 0
  refs1 : Nat := 0
  list0 : List Nat := []
  list1 : List Nat := []
deriving Inhabited

/-- The bits of a number below `n`. -/
def bitsFor (n : Nat) : Nat := if n ≤ 1 then 0 else Nat.log2 (n - 1) + 1

/-- pred_weight_table, for `n` and, in B slices, `m` entries. -/
def weightTable (n : Nat) (b : Bool) (m : Nat) : Dec Unit := do
  let _ ← hueTo 7
  let _ ← hse
  for k in if b then [n, m] else [n] do
    let luma ← times k hflag
    let chroma ← times k hflag
    for (l, c) in luma.zip chroma do
      if l then
        let _ ← hse
        let _ ← hse
      if c then
        let _ ← times 4 hse

/-- The long-term pictures of a slice header; `seen` of them are read, the last with high bits `cycle`. -/
def readLongs (s : HevcSps) (fromSps total : Nat) : Nat → (seen cycle : Nat) → Dec (List (Nat × Option Nat × Bool))
  | 0, _, _ => return []
  | left + 1, seen, cycle => do
    let e ← if seen < fromSps then do
        let i ← hbits (bitsFor s.longs.length)
        pure (s.longs.getD i (0, false))
      else do pure (← hbits s.pocBits, ← hflag)
    let msb ← whenFlag (do return some (← hue)) none
    -- the high bits add up within the entries of the SPS and within those of the header
    let base := if seen = 0 ∨ seen = fromSps then 0 else cycle
    let sum := base + msb.getD 0
    return (e.1, msb.map fun _ => sum, e.2) :: (← readLongs s fromSps total left (seen + 1) sum)

/-- slice_segment_header, up to the slice data. -/
def readHevcSlice (nal : Nat) (spss : List (Nat × HevcSps)) (ppss : List (Nat × HevcPps)) (last : Option HevcSlice) : Dec HevcSlice := do
  let first ← hflag
  let irap := decide (16 ≤ nal) && decide (nal ≤ 23)
  let noPrior ← if irap then hflag else pure false
  let id ← hueTo 63
  match ppss.find? fun p => p.1 == id with
  | none => syntaxErr
  | some (_, p) => match spss.find? fun q => q.1 == p.sps with
    | none => syntaxErr
    | some (_, s) =>
      let units := s.form.across * s.form.down
      let dependent ← if !first && p.dependent then hflag else pure false
      let addr ← if first then pure 0 else hbits (bitsFor units)
      guardDec (decide (units ≤ addr)) syntaxErr
      if dependent then
        match last with
        | none => syntaxErr
        | some h => return { h with first := false, dependent := true, addr := addr }
      else
        let _ ← hbits p.extraBits
        let kind ← hueTo 2
        guardDec (irap && kind != 2 && (nal == 19 || nal == 20)) syntaxErr
        let output ← if p.outputFlag then hflag else pure true
        let mut h : HevcSlice := { first := first, noPrior := noPrior, pps := id, addr := addr, kind := kind, output := output }
        let mut mvp := false
        if nal ≠ 19 ∧ nal ≠ 20 then
          let low ← hbits s.pocBits
          let rps ← if ← hflag then do
              let i ← hbits (bitsFor s.sets.length)
              guardDec (decide (s.sets.length ≤ i)) syntaxErr
              pure (s.sets.getD i {})
            else readRps s.sets.length s.sets.length s.sets
          h := { h with pocLow := low, rps := rps }
          if s.longPresent then
            let a ← if s.longs.isEmpty then pure 0 else hueTo s.longs.length
            let b ← hueTo 32
            let ls ← readLongs s a (a + b) (a + b) 0 0
            h := { h with longs := ls }
          if s.mvp then
            mvp ← hflag
        let saoL ← if s.sao then hflag else pure false
        let saoC ← if s.sao then hflag else pure false
        if kind ≠ 2 then
          let change ← hflag
          let n ← if change then do pure ((← hueTo 14) + 1) else pure p.refs0
          let m ← if change && kind == 0 then do pure ((← hueTo 14) + 1) else pure p.refs1
          let total := ((h.rps.before ++ h.rps.after).filter Prod.snd).length + (h.longs.filter fun l => l.2.2).length
          guardDec (total == 0) syntaxErr
          h := { h with refs0 := n, refs1 := if kind = 0 then m else 0 }
          if p.listsMod && decide (1 < total) then
            let l0 ← whenFlag (times n (hbits (bitsFor total))) []
            let l1 ← if kind = 0 then whenFlag (times m (hbits (bitsFor total))) [] else pure []
            h := { h with list0 := l0, list1 := l1 }
          if kind = 0 then
            let _ ← hbit
          if p.cabacInit then
            let _ ← hbit
          if mvp then
            let from0 ← if kind = 0 then hflag else pure true
            if decide (1 < (if from0 then n else m)) then
              let _ ← hueTo ((if from0 then n else m) - 1)
          if (p.weighted && kind == 1) || (p.biWeighted && kind == 0) then weightTable n (kind == 0) m
          let _ ← hueTo 4
        let _ ← hse
        if p.chromaQp then
          let _ ← hse
          let _ ← hse
        let change ← if p.deblockOverride then hflag else pure false
        let off ← if change then do
            let off ← hflag
            if !off then
              let _ ← hse
              let _ ← hse
            pure off
          else pure p.deblockOff
        if p.acrossSlices && (saoL || saoC || !off) then
          let _ ← hbit
        if p.tiles.isSome || p.wpp then
          let n ← hue
          guardDec (decide (units < n)) syntaxErr
          if n ≠ 0 then
            let len := (← hueTo 31) + 1
            let _ ← times n (hbits len)
        if p.headExt then
          let n ← hueTo 256
          let _ ← hbits (8 * n)
        -- byte_alignment
        guardDec ((← hbit) != 1) syntaxErr
        return h

end Sys2Proof.Machine
end

