-- ==== Sys2Proof/Machine/Vdpb.lean ====
section
/-!
DEFINITION. Decoded pictures (R216, R217, R225 to R228): frame buffers and their marks, the output process, concealment and
activity sums.
-/

namespace Sys2Proof.Machine

/-! ### Pictures -/

/-- A picture as it is output: its number in decoding order, its size, colour description and planes, its marks, and per 16 by 16 block the sums M, E and
I of R228. -/
structure VidPicture where
  num : Nat
  width : Nat
  height : Nat
  depth : Nat
  mono : Bool
  matrix : Nat
  full : Bool
  concealed : Bool
  late : Bool
  y : List Nat
  cb : List Nat
  cr : List Nat
  blocks : List (Nat × Nat × Nat)
deriving Inhabited

/-- R225: a frame buffer: its picture's number in decoding order, POC and FrameNum, the picture, and the marks SHORT, LONG
and OUTPUT. PREV is the mark of the latest number. `real`: a picture that the stream holds. -/
structure VPic where
  num : Nat
  poc : Int := 0
  frameNum : Nat := 0
  form : VidForm
  planes : Config.Planes
  units : List Config.CodedUnit := []
  concealed : Bool := false
  late : Bool := false
  short : Bool := false
  long : Option Nat := none
  output : Bool := false
  latency : Nat := 0
  real : Bool := true
deriving Inhabited

def VPic.isRef (p : VPic) : Bool := p.short || p.long.isSome

/-- The chroma width and height of a coded picture. -/
def VidForm.cw (f : VidForm) : Nat := if f.mono then 0 else f.width / 2
def VidForm.ch (f : VidForm) : Nat := if f.mono then 0 else f.height / 2

/-- R226, R227: a picture of mid-grey. -/
def greyPlanes (f : VidForm) : Config.Planes :=
  let v := 2 ^ (f.depth - 1)
  { y := Array.replicate (f.width * f.height) v, cb := Array.replicate (f.cw * f.ch) v, cr := Array.replicate (f.cw * f.ch) v }

/-! ### Writing units (R226, R227) -/

/-- A square of values written into a plane; what falls outside the picture is dropped. -/
def putSquare (w h x0 y0 size : Nat) (vs : List Nat) (plane : Array Nat) : Array Nat :=
  vs.zipIdx.foldl (fun p (v, i) =>
    let x := x0 + i % size
    let y := y0 + i / size
    if x < w ∧ y < h then p.setIfInBounds (y * w + x) v else p) plane

/-- The square of a plane. -/
def getSquare (w x0 y0 size : Nat) (plane : Array Nat) : List Nat :=
  (List.range (size * size)).map fun i => plane.getD ((y0 + i / size) * w + x0 + i % size) 0

/-- The place of a unit. -/
def VidForm.unitAt (f : VidForm) (addr : Nat) : Nat × Nat := (addr % f.across * 2 ^ f.unitLog, addr / f.across * 2 ^ f.unitLog)

/-- A unit's samples in a picture. -/
def putUnit (f : VidForm) (addr : Nat) (y cb cr : List Nat) (p : Config.Planes) : Config.Planes :=
  let a := f.unitAt addr
  let n := 2 ^ f.unitLog
  { y := putSquare f.width f.height a.1 a.2 n y p.y,
    cb := putSquare f.cw f.ch (a.1 / 2) (a.2 / 2) (n / 2) cb p.cb,
    cr := putSquare f.cw f.ch (a.1 / 2) (a.2 / 2) (n / 2) cr p.cr }

/-- R227: the co-located copy of a unit. -/
def copyUnit (f : VidForm) (addr : Nat) (src p : Config.Planes) : Config.Planes :=
  let a := f.unitAt addr
  let n := 2 ^ f.unitLog
  putUnit f addr (getSquare f.width a.1 a.2 n src.y) (getSquare f.cw (a.1 / 2) (a.2 / 2) (n / 2) src.cb)
    (getSquare f.cw (a.1 / 2) (a.2 / 2) (n / 2) src.cr) p

/-! ### Slices of a picture (R226, R227) -/

/-- A slice of the picture in hand: the place of its first unit in decoding order, the picture of index 0 of list 0 where its
header names one that exists, the units that it decodes, and whether it decodes whole. -/
structure VSlice where
  start : Nat
  source : Option Config.Planes
  units : List Config.CodedUnit
  whole : Bool
deriving Inhabited

/-- R226: the units of a slice within SLICE_BUDGET, a unit's work being its bins and 64: the slice ends as damaged at a unit
beyond the budget, at one that does not decode, and at one outside the picture. -/
def sliceWithin (total budget : Nat) : (spent : Nat) → List Config.CodedUnit → List Config.CodedUnit × Bool
  | _, [] => ([], false)
  | spent, u :: us =>
    let spent := spent + 64 + u.bins
    if budget < spent ∨ !u.good ∨ total ≤ u.addr then ([], false)
    else if u.last then ([u], true)
    else let r := sliceWithin total budget spent us; (u :: r.1, r.2)

/-- R227: what the unit at place `i` of decoding order is copied from, where it is undecoded: the picture that the header of
its damaged slice names, else the picture marked PREV, else mid-grey. -/
def concealFrom (ss : List VSlice) (prev : Option Config.Planes) (grey : Config.Planes) (i : Nat) : Config.Planes :=
  let mine := ss.foldl (fun (b : Option VSlice) s =>
    if s.start ≤ i ∧ (match b with | some x => decide (x.start ≤ s.start) | none => true) = true then some s else b) none
  match mine with
  | some s => if s.whole then prev.getD grey else (s.source.orElse fun _ => prev).getD grey
  | none => prev.getD grey

/-- The planes of a picture: its decoded units after the in-loop filters, and the concealed ones; and whether any is
concealed. `order`: the raster addresses in decoding order. -/
def assemble (codec : Nat) (sps pps : Bytes) (f : VidForm) (order : List Nat) (ss : List VSlice) (prev : Option Config.Planes) :
    Config.Planes × List Config.CodedUnit × Bool :=
  let grey := greyPlanes f
  let units := ss.flatMap fun s => s.units
  let p := units.foldl (fun p u => putUnit f u.addr u.y u.cb u.cr p) grey
  let p := Config.inLoop codec sps pps units p
  let missing := order.zipIdx.filter fun a => !units.any fun u => u.addr == a.1
  (missing.foldl (fun p a => copyUnit f a.1 (concealFrom ss prev grey a.2) p) p, units, !missing.isEmpty)

/-! ### Activity (R228) -/

/-- A sum per 16 by 16 block of the picture that is output; `at_` is a place in the coded picture. -/
def addBlock (f : VidForm) (x y : Nat) (add : Nat × Nat × Nat) (bs : Array (Nat × Nat × Nat)) : Array (Nat × Nat × Nat) :=
  if x < f.left ∨ y < f.top ∨ f.width - f.right ≤ x ∨ f.height - f.bottom ≤ y then bs
  else bs.modify ((y - f.top) / 16 * ((f.outWidth + 15) / 16) + (x - f.left) / 16) fun b =>
    (b.1 + add.1, b.2.1 + add.2.1, b.2.2 + add.2.2)

/-- The sums of a unit: motion and intra sub-blocks, and levels, those of a transform block larger than 16 by 16 shared. -/
def unitSums (f : VidForm) (u : Config.CodedUnit) (bs : Array (Nat × Nat × Nat)) : Array (Nat × Nat × Nat) :=
  let a := f.unitAt u.addr
  let n := 2 ^ f.unitLog / 4
  let bs := (List.range (n * n)).foldl (fun bs i =>
    let m := ((u.motion.getD i []).map fun v => v.1.natAbs + v.2.natAbs).sum
    addBlock f (a.1 + 4 * (i % n)) (a.2 + 4 * (i / n)) (m, 0, ofBool (u.intra.getD i false)) bs) bs
  u.levels.foldl (fun bs (x, y, size, sum) =>
    let k := max 1 (size / 16)
    (List.range (k * k)).foldl (fun bs i => addBlock f (x + 16 * (i % k)) (y + 16 * (i / k)) (0, sum / (k * k), 0) bs) bs) bs

/-- R228: M, E and I of each block; units that were concealed contribute nothing. -/
def blockSums (f : VidForm) (us : List Config.CodedUnit) : List (Nat × Nat × Nat) :=
  (us.foldl (fun bs u => unitSums f u bs) (Array.replicate ((f.outWidth + 15) / 16 * ((f.outHeight + 15) / 16)) (0, 0, 0))).toList

/-! ### Output (R217, R225) -/

/-- A window of a plane. -/
def window (w x0 y0 ww wh : Nat) (plane : Array Nat) : List Nat :=
  (List.range wh).flatMap fun y => (List.range ww).map fun x => plane.getD ((y0 + y) * w + x0 + x) 0

/-- A picture as it is output. -/
def VPic.show (p : VPic) : VidPicture :=
  let f := p.form
  let cw := if f.mono then 0 else (f.outWidth + 1) / 2
  let ch := if f.mono then 0 else (f.outHeight + 1) / 2
  { num := p.num, width := f.outWidth, height := f.outHeight, depth := f.depth, mono := f.mono, matrix := f.matrix, full := f.full,
    concealed := p.concealed, late := p.late,
    y := window f.width f.left f.top f.outWidth f.outHeight p.planes.y,
    cb := window f.cw (f.left / 2) (f.top / 2) cw ch p.planes.cb,
    cr := window f.cw (f.left / 2) (f.top / 2) cw ch p.planes.cr,
    blocks := blockSums f p.units }

/-- The frame buffers of a stream, the picture marked PREV, and what it has output. -/
structure Dpb where
  pics : List VPic := []
  prev : Option Nat := none
  shown : List VidPicture := []
deriving Inhabited

/-- Buffers without a mark go. -/
def Dpb.clean (d : Dpb) : Dpb := { d with pics := d.pics.filter fun p => p.isRef || p.output || (p.real && d.prev == some p.num) }

/-- The pictures of the standards' decoded picture buffer. -/
def Dpb.fullness (d : Dpb) : Nat := (d.pics.filter fun p => p.isRef || p.output).length

/-- The pictures that wait for output. -/
def Dpb.waiting (d : Dpb) : List VPic := d.pics.filter VPic.output

/-- The least POC among those that wait. -/
def Dpb.firstOut (d : Dpb) : Option VPic :=
  d.waiting.foldl (fun b p => match b with | none => some p | some x => if p.poc < x.poc then some p else b) none

/-- The bumping process, once. -/
def Dpb.bump (d : Dpb) : Dpb :=
  match d.firstOut with
  | none => d
  | some x =>
    Dpb.clean { d with pics := d.pics.map fun p => if p.num = x.num ∧ p.real then { p with output := false } else p,
                       shown := d.shown ++ [x.show] }

/-- It is repeated while a condition holds. -/
def Dpb.bumpWhile (c : Dpb → Bool) : Nat → Dpb → Dpb
  | 0, d => d
  | n + 1, d => if c d && !d.waiting.isEmpty then Dpb.bumpWhile c n d.bump else d

/-- Every picture that waits is output. -/
def Dpb.flush (d : Dpb) : Dpb := Dpb.bumpWhile (fun _ => true) (d.pics.length + 1) d

/-- The planes of a buffer that exists. -/
def Dpb.planesOf (d : Dpb) (f : VidForm) (num : Nat) : Option Config.Planes :=
  (d.pics.find? fun p => p.num == num && p.real && p.form.width == f.width && p.form.height == f.height).map VPic.planes

end Sys2Proof.Machine
end

