-- ==== Sys2Proof/Machine/Vdec.lean ====
section
/-!
DEFINITION. The decoding of a video stream (R215 to R217, R221, R225 to R229, R232): NAL units in order, parameter sets,
pictures, reference lists and marking, damage, and the output process. Slice data and in-loop filters are Config's.
-/

namespace Sys2Proof.Machine

/-- What a stream is decoded with: CODEC, SLICE_BUDGET, MAX_PIXELS, whether it is live, the sample's work budget (0: none),
and the late pictures with the bytes read by the end of their windows (R232). -/
structure VidArgs where
  codec : Nat
  sliceBudget : Nat
  maxPixels : Nat
  live : Bool
  budget : Nat
  cuts : List (Nat × Nat)

/-- The picture in hand. -/
structure VCur where
  poc : Int
  frameNum : Nat := 0
  form : VidForm
  sps : Bytes
  pps : Bytes
  order : List Nat
  output : Bool
  isRef : Bool := true
  marking : AvcMarking := .sliding
  slices : List VSlice := []
  late : Bool := false
  /-- A slice names a picture that is absent. -/
  absent : Bool := false
  /-- The sets of R225's marking in HEVC: before, after, long-term. -/
  before : List (Option VPic) := []
  after : List (Option VPic) := []
  longs : List (Option VPic) := []
deriving Inhabited

/-- A decoder in the course of a stream. -/
structure VDec where
  work : Nat := 0
  /-- The parameter sets as they were read, of a sequence at twice its number, of a picture at one more. -/
  raw : List (Nat × Bytes) := []
  hevcSps : List (Nat × HevcSps) := []
  hevcPps : List (Nat × HevcPps) := []
  avcSps : List (Nat × AvcSps) := []
  avcPps : List (Nat × AvcPps) := []
  dpb : Dpb := {}
  cur : Option VCur := none
  /-- Pictures begun. -/
  count : Nat := 0
  damaged : Bool := false
  stopped : Bool := false
  /-- The IRAP pictures (of H.264, the IDR pictures) among them. -/
  iraps : List Nat := []
  /-- No picture has come since the start or an end of sequence. -/
  fresh : Bool := true
  noRasl : Bool := true
  hevcHead : Option HevcSlice := none
  avcHead : Option AvcSlice := none
  /-- POC of the last picture of temporal layer 0; of H.264: the high and low POC of the last reference picture. -/
  pocBase : Int := 0
  pocMsb : Int := 0
  pocLsb : Int := 0
  /-- H.264: FrameNum of the last reference picture and of the last picture, and its offset. -/
  refFrameNum : Nat := 0
  lastFrameNum : Nat := 0
  frameNumOffset : Nat := 0
deriving Inhabited

/-- A void: reason and DETAIL. -/
abbrev VidRes := Except (Nat × Nat) VDec

/-- R221, R260: `n` work units. -/
def VDec.spend (a : VidArgs) (n : Nat) (d : VDec) : VidRes :=
  if a.budget ≠ 0 ∧ a.budget < d.work + n then .error (0x22, 0) else .ok { d with work := d.work + n }

/-- A raw parameter set. -/
def VDec.rawSet (d : VDec) (pps : Bool) (id : Nat) : Bytes := (Tab.find d.raw (2 * id + ofBool pps)).getD []

/-! ### The end of a picture -/

/-- The picture in hand as a frame buffer (R227). -/
def VDec.built (a : VidArgs) (d : VDec) (c : VCur) : VPic :=
  let prev := d.dpb.prev.bind fun n => d.dpb.planesOf c.form n
  let x := assemble a.codec c.sps c.pps c.form c.order c.slices prev
  { num := d.count - 1, poc := c.poc, frameNum := c.frameNum, form := c.form, planes := x.1, units := x.2.1,
    concealed := x.2.2 || c.late, late := c.late, output := c.output }

/-- HEVC C.5.2.3: a decoded picture is stored, and others are output. -/
def hevcStore (d : Dpb) (p : VPic) : Dpb :=
  let f := p.form
  let pics := if p.output then d.pics.map fun q => if q.output && decide (p.poc < q.poc) then { q with latency := q.latency + 1 } else q else d.pics
  let d := Dpb.clean { d with pics := pics ++ [{ p with short := true }], prev := some p.num }
  d.bumpWhile (fun d => decide (f.reorder < d.waiting.length) || (f.latency != 0 && d.waiting.any fun q => decide (f.latency ≤ q.latency)))
    (d.pics.length + 1)

/-- H.264 8.2.4.1: FrameNumWrap of a short-term picture. -/
def frameNumWrap (cur most : Nat) (p : VPic) : Int := if cur < p.frameNum then (p.frameNum : Int) - most else p.frameNum

/-- H.264 8.2.5.3: the sliding window. -/
def slideWindow (refs cur most : Nat) (ps : List VPic) : List VPic :=
  if (ps.filter VPic.isRef).length < max 1 refs then ps
  else
    let least := (ps.filter VPic.short).foldl (fun (b : Option VPic) p =>
      match b with
      | none => some p
      | some x => if frameNumWrap cur most p < frameNumWrap cur most x then some p else b) none
    match least with
    | none => ps
    | some x => ps.map fun p => if p.short && p.frameNum == x.frameNum then { p with short := false } else p

/-- H.264 8.2.5.4: one operation on the pictures before the present one. -/
def markOp (cur most : Nat) (ps : List VPic) (op : Nat × Nat × Nat) : List VPic :=
  let num : Int := (cur : Int) - ((op.2.1 : Int) + 1)
  let hit := fun (p : VPic) => p.short && frameNumWrap cur most p == num
  match op.1 with
  | 1 => ps.map fun p => if hit p then { p with short := false } else p
  | 2 => ps.map fun p => if p.long == some op.2.2 then { p with long := none } else p
  | 3 => ps.map fun p => if hit p then { p with short := false, long := some op.2.2 }
      else if p.long == some op.2.2 then { p with long := none } else p
  | 4 => ps.map fun p => match p.long with | some i => if op.2.2 ≤ i then { p with long := none } else p | none => p
  | 5 => ps.map fun p => { p with short := false, long := none }
  | 6 => ps.map fun p => if p.long == some op.2.2 then { p with long := none } else p
  | _ => ps

/-- The pictures and the present one as its marking leaves them. -/
def avcMark (refs most : Nat) (isRef : Bool) (m : AvcMarking) (p : VPic) (ps : List VPic) : VPic × List VPic :=
  if !isRef then (p, ps)
  else match m with
    | .idr _ long => ({ p with short := !long, long := if long then some 0 else none }, ps.map fun q => { q with short := false, long := none })
    | .sliding => ({ p with short := true }, slideWindow refs p.frameNum most ps)
    | .ops os =>
      let ps := os.foldl (fun ps o => markOp p.frameNum most ps o) ps
      match os.find? fun o => o.1 == 6 with
      | some o => ({ p with long := some o.2.2 }, ps)
      | none => ({ p with short := true }, ps)

/-- H.264 C.4.5: a picture is stored once a buffer is empty; a picture that is no reference and is next to be output needs
none. -/
def avcStore (p : VPic) : Nat → Dpb → Dpb
  | 0, d => Dpb.clean { d with pics := d.pics ++ [p], prev := some p.num }
  | n + 1, d =>
    if d.fullness < p.form.dpb then Dpb.clean { d with pics := d.pics ++ [p], prev := some p.num }
    else if !p.isRef && p.output && d.waiting.all fun q => decide (p.poc < q.poc) then
      Dpb.clean { d with pics := d.pics ++ [{ p with output := false }], prev := some p.num, shown := d.shown ++ [p.show] }
    else if d.waiting.isEmpty then Dpb.clean { d with pics := d.pics ++ [p], prev := some p.num }
    else avcStore p n d.bump

/-- An operation that makes the present picture the first of a sequence. -/
def AvcMarking.resets : AvcMarking → Bool
  | .ops os => os.any fun o => o.1 == 5
  | _ => false

/-- H.264: the picture in hand is marked and stored. -/
def VDec.avcFinish (d : VDec) (c : VCur) (p : VPic) : VDec :=
  match d.avcHead with
  | none => d
  | some h =>
    let s := ((d.avcPps.find? fun x => x.1 == h.pps).bind fun x => d.avcSps.find? fun y => y.1 == x.2.sps).map Prod.snd
    let most := 2 ^ (s.map AvcSps.frameNumBits).getD 4
    let reset := c.marking.resets
    let m := avcMark ((s.map AvcSps.refs).getD 1) most c.isRef c.marking p d.dpb.pics
    let q := if reset then { m.1 with poc := 0, frameNum := 0 } else m.1
    let dpb := { d.dpb with pics := m.2 }
    let dpb := match c.marking with
      | .idr true _ => Dpb.clean { dpb with pics := dpb.pics.map fun p => { p with output := false } }
      | .idr false _ => dpb.flush
      | _ => if reset then dpb.flush else dpb.clean
    { d with dpb := avcStore q (dpb.pics.length + 1) dpb,
             refFrameNum := if c.isRef then q.frameNum else d.refFrameNum,
             lastFrameNum := q.frameNum, frameNumOffset := if reset then 0 else d.frameNumOffset,
             pocMsb := if !c.isRef then d.pocMsb else if reset then 0 else c.poc - h.pocLow - min 0 h.deltaBottom,
             pocLsb := if !c.isRef then d.pocLsb else if reset then max 0 (-h.deltaBottom) else h.pocLow }

/-- The picture in hand ends: it is built and stored. -/
def VDec.finish (a : VidArgs) (d : VDec) : VDec :=
  match d.cur with
  | none => d
  | some c =>
    let p := d.built a c
    let d := { d with cur := none, damaged := d.damaged || p.concealed || c.absent }
    if a.codec = 1 then { d with dpb := hevcStore d.dpb p } else d.avcFinish c p

/-! ### The start of a picture -/

/-- R216, R229: what activating a picture's parameter sets decides: a void, or the end of decoding. -/
def VDec.activate (a : VidArgs) (d : VDec) (inSubset : Bool) (f : VidForm) : Except (Nat × Nat) (VDec × Bool) :=
  if !inSubset then
    if d.count = 0 then .error (0x20, 1) else .ok ({ d with stopped := true, damaged := true }, false)
  else if a.maxPixels < f.width * f.height then .error (0x20, 4)
  else if a.live && f.reorder != 0 then .error (0x20, 1)
  else .ok (d, true)

/-- HEVC 8.3.2: the picture of a short-term or long-term entry among the reference pictures. -/
def Dpb.byPoc (d : Dpb) (poc : Int) : Option VPic := d.pics.find? fun p => p.isRef && p.poc == poc
def Dpb.byLow (d : Dpb) (most : Int) (low : Int) : Option VPic := d.pics.find? fun p => p.isRef && p.poc % most == low

/-- HEVC: a first slice begins a picture: its POC, reference picture set, marking, and the output process before it. -/
def VDec.hevcStart (d : VDec) (nal tid : Nat) (h : HevcSlice) (s : HevcSps) (p : HevcPps) : VDec :=
  let irap := decide (16 ≤ nal) && decide (nal ≤ 23)
  let idr := nal == 19 || nal == 20
  let noRasl := irap && (idr || decide (nal ≤ 18) || d.fresh)
  let most : Int := 2 ^ s.pocBits
  let low : Int := h.pocLow
  let prevLow := d.pocBase % most
  let msb := if noRasl then 0
    else if low < prevLow ∧ most / 2 ≤ prevLow - low then d.pocBase - prevLow + most
    else if prevLow < low ∧ most / 2 < low - prevLow then d.pocBase - prevLow - most
    else d.pocBase - prevLow
  let poc := msb + low
  let dpb : Dpb := if noRasl then { d.dpb with pics := d.dpb.pics.map fun q => { q with short := false, long := none } } else d.dpb
  let before := if idr then [] else h.rps.before.map fun x => (x.2, dpb.byPoc (poc + x.1))
  let after := if idr then [] else h.rps.after.map fun x => (x.2, dpb.byPoc (poc + x.1))
  let longs := if idr then [] else h.longs.map fun x =>
    (x.2.2, match x.2.1 with
      | none => dpb.byLow most x.1
      | some m => dpb.byPoc (poc - m * most - poc % most + x.1))
  let nums := fun (l : List (Bool × Option VPic)) => l.filterMap fun x => x.2.map VPic.num
  let shorts := nums before ++ nums after
  let dpb : Dpb := { dpb with pics := dpb.pics.map fun q =>
    { q with short := q.short && shorts.contains q.num && !(nums longs).contains q.num,
             long := if (nums longs).contains q.num then some 0 else none } }
  let f := s.form
  -- C.5.2.2
  let dpb : Dpb := if noRasl ∧ 0 < d.count then
      (if nal == 21 || h.noPrior then Dpb.clean { dpb with pics := dpb.pics.map fun q => { q with output := false } } else dpb.clean.flush)
    else dpb.clean.bumpWhile (fun x => decide (f.reorder < x.waiting.length) ||
      (f.latency != 0 && x.waiting.any fun q => decide (f.latency ≤ q.latency)) || decide (f.dpb ≤ x.fullness)) (dpb.pics.length + 1)
  let used := fun (l : List (Bool × Option VPic)) => (l.filter Prod.fst).map Prod.snd
  { d with
    dpb := dpb, count := d.count + 1, iraps := if irap then d.iraps ++ [d.count] else d.iraps, fresh := false, noRasl := if irap then noRasl else d.noRasl,
    -- prevTid0Pic: no leading picture, no sub-layer non-reference picture
    pocBase := if tid = 0 ∧ ¬ (6 ≤ nal ∧ nal ≤ 9) ∧ ¬ (nal < 16 ∧ nal % 2 = 0) then poc else d.pocBase,
    cur := some { poc := poc, form := f, sps := d.rawSet false p.sps, pps := d.rawSet true h.pps, order := ctuOrder f p,
                  output := h.output, before := used before, after := used after, longs := used longs } }

/-- H.264 8.2.1: the picture order count of a frame, with FrameNumOffset. -/
def VDec.avcPoc (d : VDec) (h : AvcSlice) (s : AvcSps) : Int × Nat :=
  let most := 2 ^ s.frameNumBits
  let off := if h.idr then 0 else if h.frameNum < d.lastFrameNum then d.frameNumOffset + most else d.frameNumOffset
  match s.pocType with
  | 0 =>
    let m : Int := 2 ^ s.pocBits
    let low : Int := h.pocLow
    let pm := if h.idr then 0 else d.pocMsb
    let pl := if h.idr then 0 else d.pocLsb
    let msb := if low < pl ∧ m / 2 ≤ pl - low then pm + m else if pl < low ∧ m / 2 < low - pl then pm - m else pm
    (msb + low + min 0 h.deltaBottom, off)
  | 1 =>
    let n := s.cycle.length
    let abs := if n = 0 then 0 else off + h.frameNum
    let abs := if h.refIdc = 0 then abs - 1 else abs
    let base := if abs = 0 then 0
      else (((abs - 1) / n : Nat) : Int) * s.cycle.sum + (s.cycle.take ((abs - 1) % n + 1)).sum
    let base := if h.refIdc = 0 then base + s.offNonRef else base
    (base + h.delta0 + min 0 (s.offBottom + h.delta1), off)
  | _ => (if h.idr then 0 else 2 * ((off + h.frameNum : Nat) : Int) - (if h.refIdc = 0 then 1 else 0), off)

/-- H.264 8.2.5.2: the frames of a gap in FrameNum, as far as the window keeps them. -/
def fillGap (s : AvcSps) (f : VidForm) : (n : Nat) → (num : Nat) → List VPic → List VPic
  | 0, _, ps => ps
  | n + 1, num, ps =>
    let most := 2 ^ s.frameNumBits
    fillGap s f n ((num + 1) % most)
      (slideWindow s.refs num most ps ++ [{ num := 0, frameNum := num, form := f, planes := default, short := true, real := false }])

/-- H.264: a first slice begins a picture. -/
def VDec.avcStart (d : VDec) (h : AvcSlice) (s : AvcSps) (p : AvcPps) : VDec :=
  let most := 2 ^ s.frameNumBits
  let f := s.form
  let gap := (h.frameNum + most - (d.refFrameNum + 1) % most) % most
  let pics := if h.idr ∨ d.fresh ∨ h.frameNum = d.refFrameNum ∨ gap = 0 then d.dpb.pics
    else let k := min gap (max 1 s.refs); fillGap s f k ((h.frameNum + most - k) % most) d.dpb.pics
  let x := d.avcPoc h s
  { d with dpb := Dpb.clean { d.dpb with pics := pics }, count := d.count + 1,
           iraps := if h.idr then d.iraps ++ [d.count] else d.iraps, fresh := false, frameNumOffset := x.2,
           cur := some { poc := x.1, frameNum := h.frameNum, form := f, sps := d.rawSet false p.sps, pps := d.rawSet true h.pps,
                         order := List.range (f.across * f.down), output := true, isRef := h.refIdc != 0, marking := h.marking } }

/-! ### Reference lists (R226, R227) -/

/-- HEVC 8.3.4: a list of `n` entries from the sets in turn, modified by `entries`. -/
def hevcList (n : Nat) (sets : List (Option VPic)) (entries : List Nat) : List (Option VPic) :=
  (List.range n).map fun i => if sets.isEmpty then none else sets.getD (entries.getD i i % sets.length) none

/-- Pictures in the order of a key. -/
def sortPics (key : VPic → Int) (ps : List VPic) : List VPic := ps.mergeSort fun a b => decide (key a ≤ key b)

/-- H.264 8.2.4.3: a list modified step by step from entry `i`; `pred` is the picture number predicted. -/
def modifyList (cur most : Nat) (ps : List VPic) : (i : Nat) → (pred : Int) → List (Nat × Nat) → List (Option VPic) → List (Option VPic)
  | _, _, [], l => l
  | i, pred, (op, v) :: ms, l =>
    let pn := if op = 0 then (pred - (v + 1 : Nat)) % (most : Int) else (pred + (v + 1 : Nat)) % (most : Int)
    let want : Int := if (cur : Int) < pn then pn - most else pn
    let x := if op = 2 then ps.find? fun p => p.long == some v else ps.find? fun p => p.short && frameNumWrap cur most p == want
    let same := fun (y : Option VPic) => match y, x with
      | some a, some b => a.num == b.num && a.real == b.real && a.frameNum == b.frameNum
      | _, _ => false
    modifyList cur most ps (i + 1) (if op = 2 then pred else pn) ms (l.take i ++ [x] ++ (l.drop i).filter fun y => !same y)

/-- H.264 8.2.4: the reference lists of a slice. -/
def avcLists (h : AvcSlice) (most : Nat) (poc : Int) (ps : List VPic) : List (Option VPic) × List (Option VPic) :=
  let shorts := ps.filter VPic.short
  let longs := sortPics (fun p => (p.long.getD 0 : Nat)) (ps.filter fun p => p.long.isSome)
  let fix := fun (n : Nat) (ms : List (Nat × Nat)) (l : List VPic) =>
    let l := (l.map some).take n ++ List.replicate (n - l.length) none
    (modifyList h.frameNum most ps 0 h.frameNum ms l).take n
  match h.kind with
  | 0 => (fix h.refs0 h.mod0 ((sortPics (fun p => -frameNumWrap h.frameNum most p) shorts) ++ longs), [])
  | 1 =>
    let real := shorts.filter VPic.real
    let past := sortPics (fun p => -p.poc) (real.filter fun p => decide (p.poc < poc))
    let next := sortPics (fun p => p.poc) (real.filter fun p => decide (poc < p.poc))
    let l0 := past ++ next ++ longs
    let l1 := next ++ past ++ longs
    let l1 := if 1 < l1.length ∧ (past.isEmpty ∨ next.isEmpty) then (l1.drop 1).take 1 ++ l1.take 1 ++ l1.drop 2 else l1
    (fix h.refs0 h.mod0 l0, fix h.refs1 h.mod1 l1)
  | _ => ([], [])

/-! ### Slices -/

/-- What a slice reads of a reference entry: the picture, or mid-grey where it names none (R226). -/
def refOf (f : VidForm) (x : Option VPic) : Config.Planes × List Config.CodedUnit :=
  match x with
  | some p => if p.real then (p.planes, p.units) else (greyPlanes f, [])
  | none => (greyPlanes f, [])

/-- A reference entry names a picture that exists. -/
def refExists (x : Option VPic) : Bool := match x with | some p => p.real | none => false

/-- A slice of the picture in hand is decoded, `at_` being its first unit's raster address; a late one is not (R232), and its
header counts where it was read in time. -/
def VDec.slice (a : VidArgs) (d : VDec) (nal : Bytes) (at_ : Nat) (late headLate : Bool) (l0 l1 : List (Option VPic)) : VDec :=
  match d.cur with
  | none => d
  | some c =>
    let f := c.form
    let before := c.slices.flatMap fun s => s.units
    let us := if late then ([], false)
      else sliceWithin c.order.length a.sliceBudget 0
        (Config.sliceUnits a.codec c.sps c.pps nal (l0.map (refOf f)) (l1.map (refOf f)) before)
    let src := if headLate then none else (l0.head?.join).bind fun p => if p.real then some p.planes else none
    let gone := us.1.any fun u => u.refs.any fun r => !refExists ((if r.1 = 0 then l0 else l1).getD r.2 none)
    { d with cur := some { c with
        slices := c.slices ++ [{ start := c.order.idxOf at_, source := src, units := us.1, whole := us.2 }],
        late := c.late || late, absent := c.absent || gone } }

/-- R232: the bytes of picture `n` that were read by the end of its window, where it is late. -/
def VidArgs.cut (a : VidArgs) (n : Nat) : Option Nat := (a.cuts.find? fun c => c.1 == n).map Prod.snd

/-- A slice that was not wholly read by the end of its picture's window; also the part of it that was. -/
def VidArgs.lateBy (a : VidArgs) (n start end_ : Nat) : Bool × Nat :=
  match a.cut n with
  | some c => if c < end_ then (true, c - start) else (false, end_ - start)
  | none => (false, end_ - start)

/-- R216, R227: a slice header that does not decode: a void before any picture, else a slice that is missing. -/
def VDec.headFault (d : VDec) : VidRes := if d.count = 0 then .error (0x20, 2) else .ok { d with damaged := true }

/-- A NAL unit of an HEVC slice. -/
def VDec.hevcSlice (a : VidArgs) (d : VDec) (type tid start : Nat) (nal : Bytes) : VidRes := do
  let d ← d.spend a 64
  let body := rbsp (nal.drop 2)
  match headerOf (readHevcSlice type d.hevcSps d.hevcPps d.hevcHead) body with
  | none => d.headFault
  | some h =>
    match d.hevcPps.find? fun p => p.1 == h.pps with
    | none => d.headFault
    | some (_, p) => match d.hevcSps.find? fun q => q.1 == p.sps with
      | none => d.headFault
      | some (_, s) =>
        let new := !h.dependent && (h.first || (match d.cur, d.hevcHead with | some _, some g => g.pocLow != h.pocLow | _, _ => true))
        let d := if new then d.finish a else d
        -- R217: RASL pictures of a sequence that begins with their IRAP picture are not output
        if (type = 8 ∨ type = 9) ∧ d.noRasl then .ok d
        else
          let r ← if new then d.activate a (s.form.inSubset && p.inSubset) s.form else .ok (d, true)
          if !r.2 then .ok r.1
          else
            let d := if new then r.1.hevcStart type tid h s p else r.1
            let d := { d with hevcHead := some h }
            match d.cur with
            | none => .ok d
            | some c =>
              let late := a.lateBy (d.count - 1) start (start + nal.length)
              let headLate := late.1 && (headerOf (readHevcSlice type d.hevcSps d.hevcPps d.hevcHead) (rbsp ((nal.take late.2).drop 2))).isNone
              let l0 := hevcList h.refs0 (c.before ++ c.after ++ c.longs) h.list0
              let l1 := hevcList h.refs1 (c.after ++ c.before ++ c.longs) h.list1
              .ok (d.slice a nal h.addr late.1 headLate l0 l1)

/-- A NAL unit of an H.264 slice. -/
def VDec.avcSlice (a : VidArgs) (d : VDec) (type refIdc start : Nat) (nal : Bytes) : VidRes := do
  let d ← d.spend a 64
  let body := rbsp (nal.drop 1)
  match headerOf (readAvcSlice type refIdc d.avcSps d.avcPps) body with
  | none => d.headFault
  | some h =>
    match d.avcPps.find? fun p => p.1 == h.pps with
    | none => d.headFault
    | some (_, p) => match d.avcSps.find? fun q => q.1 == p.sps with
      | none => d.headFault
      | some (_, s) =>
        let new := match d.cur, d.avcHead with | some _, some g => g.startsPicture h | _, _ => true
        let d := if new then d.finish a else d
        let r ← if new then d.activate a (s.form.inSubset && p.inSubset) s.form else .ok (d, true)
        if !r.2 then .ok r.1
        else
          let d := if new then r.1.avcStart h s p else r.1
          let d := { d with avcHead := some h }
          match d.cur with
          | none => .ok d
          | some c =>
            let late := a.lateBy (d.count - 1) start (start + nal.length)
            let headLate := late.1 && (headerOf (readAvcSlice type refIdc d.avcSps d.avcPps) (rbsp ((nal.take late.2).drop 1))).isNone
            let ls := avcLists h (2 ^ s.frameNumBits) c.poc d.dpb.pics
            .ok (d.slice a nal h.firstMb late.1 headLate ls.1 ls.2)

/-- A parameter set replaces the one of its number. -/
def putSet {α : Type} (l : List (Nat × α)) (x : Nat × α) : List (Nat × α) := x :: l.filter fun y => y.1 != x.1

/-- A NAL unit of HEVC; only the base layer is decoded. -/
def VDec.hevcNal (a : VidArgs) (d : VDec) (start : Nat) (nal : Bytes) : VidRes :=
  let type := leAt nal 0 1 / 2 % 64
  let layer := leAt nal 0 1 % 2 * 32 + leAt nal 1 1 / 8
  let body := rbsp (nal.drop 2)
  if layer ≠ 0 ∨ nal.length < 2 then .ok d
  else if type ≤ 9 ∨ (16 ≤ type ∧ type ≤ 21) then d.hevcSlice a type (leAt nal 1 1 % 8 - 1) start nal
  else if type = 33 then
    .ok (match headerOf readHevcSps body with
      | some x => { d with hevcSps := putSet d.hevcSps x, raw := Tab.put d.raw (2 * x.1) body }
      | none => d)
  else if type = 34 then
    .ok (match headerOf readHevcPps body with
      | some x => { d with hevcPps := putSet d.hevcPps x, raw := Tab.put d.raw (2 * x.1 + 1) body }
      | none => d)
  else if type = 36 ∨ type = 37 then .ok { d.finish a with fresh := true }
  else .ok d

/-- A NAL unit of H.264; the units of SVC and MVC are not decoded. -/
def VDec.avcNal (a : VidArgs) (d : VDec) (start : Nat) (nal : Bytes) : VidRes :=
  let type := leAt nal 0 1 % 32
  let body := rbsp (nal.drop 1)
  if type = 1 ∨ type = 5 then d.avcSlice a type (leAt nal 0 1 / 32 % 4) start nal
  else if type = 7 then
    .ok (match headerOf readAvcSps body with
      | some x => { d with avcSps := putSet d.avcSps x, raw := Tab.put d.raw (2 * x.1) body }
      | none => d)
  else if type = 8 then
    .ok (match headerOf readAvcPps body with
      | some x => { d with avcPps := putSet d.avcPps x, raw := Tab.put d.raw (2 * x.1 + 1) body }
      | none => d)
  else .ok d

/-- R221: the NAL units of a stream in order; each 64 bytes of payload begun are a unit. -/
def nalsFrom (a : VidArgs) (bs : Bytes) : List (Nat × Nat) → VDec → VidRes
  | [], d => .ok d
  | (x, y) :: ns, d => do
    if d.stopped then nalsFrom a bs ns d
    else
      let nal := slice bs x (y - x)
      let head := if a.codec = 1 then 2 else 1
      let d ← d.spend a ((y - x - head + 63) / 64)
      let d ← if a.codec = 1 then d.hevcNal a x nal else d.avcNal a x nal
      nalsFrom a bs ns d

/-- A stream decoded up to the bytes read; with `ended`, its last NAL unit ends there and every picture is output. -/
def videoRun (a : VidArgs) (bs : Bytes) (ended : Bool) : VidRes := do
  let d ← nalsFrom a bs (nalScan ended 0 none 0 bs) {}
  if ended then
    let d := d.finish a
    return { d with dpb := d.dpb.flush }
  else return d

/-! ### Where a stream stands -/

/-- The picture in hand has all its slices, each decoded whole. -/
def VCur.complete (c : VCur) : Bool :=
  (c.slices.all fun s => s.whole) && c.order.all fun u => c.slices.any fun s => s.units.any fun v => v.addr == u

/-- A stream after the bytes read, its last NAL unit taken to end there. -/
def videoSoFar (a : VidArgs) (bs : Bytes) : VidRes := nalsFrom a bs (nalScan true 0 none 0 bs) {}

/-- R232: picture `n` has been read: another has begun, or it is complete; nothing is left to read of a stream that is void or has
ended (R216). -/
def pictureRead (a : VidArgs) (n : Nat) (bs : Bytes) : Bool :=
  match videoSoFar a bs with
  | .error _ => true
  | .ok d => d.stopped || decide (n + 1 < d.count) || (d.count == n + 1 && match d.cur with | none => true | some c => c.complete)

/-- Picture `n` has begun. -/
def pictureBegun (a : VidArgs) (n : Nat) (bs : Bytes) : Bool :=
  match videoSoFar a bs with
  | .error _ => false
  | .ok d => decide (n < d.count)

/-- R234: a stream stands between two frames. -/
def atFrameEnd (a : VidArgs) (bs : Bytes) : Bool :=
  match videoSoFar a bs with
  | .error _ => true
  | .ok d => match d.cur with | none => true | some c => c.complete

/-- R239: picture `n` is an IRAP picture. -/
def isIrap (a : VidArgs) (n : Nat) (bs : Bytes) : Bool :=
  match videoSoFar a bs with
  | .error _ => false
  | .ok d => d.iraps.contains n

/-- R233: the slices of picture `n` that have been decoded whole, as the picture in hand. -/
def slicesRead (a : VidArgs) (n : Nat) (bs : Bytes) : Nat :=
  match videoSoFar a bs with
  | .error _ => 0
  | .ok d => if d.count = n + 1 then (d.cur.map fun c => (c.slices.filter fun s => s.whole).length).getD 0 else 0

end Sys2Proof.Machine
end

