-- ==== Sys2Proof/Machine/Venc.lean ====
section
/-!
DEFINITION. The encoder's choices (R236, R237): CUs and their split, skip, inter and intra costs, motion search. Residual
coding, intra prediction and the bitstream are HEVC's, in Config (log 76).
-/

namespace Sys2Proof.Machine

/-! ### Pictures and the motion field -/

/-- What a block of 8 by 8 codes: an intra mode, or a vector in quarter pels. -/
inductive EncBlock where
  | intra (mode : Nat)
  | inter (mv : Int × Int)
deriving DecidableEq, Repr

/-- A picture being encoded: its size and that in whole blocks of 8, its QP, the first CTU row of each slice, its samples,
the picture that it is predicted from with that one's motion, its reconstruction, its blocks and choices so far. -/
structure EncPic where
  width : Nat
  height : Nat
  qp : Nat
  slices : Nat
  source : Config.Planes
  ref : Option (Config.Planes × Array (Option EncBlock))
  recon : Config.Planes
  blocks : Array (Option EncBlock)
  choices : List (List Int) := []
deriving Inhabited

def EncPic.cols (p : EncPic) : Nat := (p.width + 7) / 8
def EncPic.rows (p : EncPic) : Nat := (p.height + 7) / 8
def EncPic.ctuRows (p : EncPic) : Nat := (p.height + 31) / 32

/-- The slice of a CTU row: equal bands. -/
def EncPic.sliceOf (p : EncPic) (row : Nat) : Nat := row * p.slices / max 1 p.ctuRows

/-- The block at a luma place, as a block at row `y` sees it: coded before, within the picture and the same slice. -/
def EncPic.blockAt (p : EncPic) (y : Nat) (nx ny : Int) : Option EncBlock :=
  if nx < 0 ∨ ny < 0 ∨ (p.cols * 8 : Nat) ≤ nx ∨ (p.rows * 8 : Nat) ≤ ny then none
  else if p.sliceOf (ny.toNat / 32) ≠ p.sliceOf (y / 32) then none
  else (p.blocks.getD (ny.toNat / 8 * p.cols + nx.toNat / 8) none)

/-- The vector of a block. -/
def vectorOf : Option EncBlock → Option (Int × Int)
  | some (.inter v) => some v
  | _ => none

/-- A luma sample of the source; beyond the picture it is padding. -/
def EncPic.sample (p : EncPic) (x y : Nat) : Nat :=
  if x < p.width ∧ y < p.height then p.source.y.getD (y * p.width + x) 0 else Config.encPad x y % 256

/-! ### Prediction (R237) -/

/-- HEVC's interpolation filter of a quarter-pel fraction. -/
def lumaTaps (frac : Nat) : List Int :=
  match frac with
  | 1 => [-1, 4, -10, 58, 17, -5, 1, 0]
  | 2 => [-1, 4, -11, 40, 40, -11, 4, -1]
  | 3 => [0, 1, -5, 17, 58, -10, 4, -1]
  | _ => [0, 0, 0, 64, 0, 0, 0, 0]

/-- A luma sample of the reference; beyond an edge, the edge's. -/
def EncPic.refSample (p : EncPic) (x y : Int) : Int :=
  match p.ref with
  | none => 0
  | some r =>
    let clip := fun (n : Nat) (v : Int) => (max 0 (min v ((n : Int) - 1))).toNat
    (r.1.y.getD (clip p.height y * p.width + clip p.width x) 0 : Nat)

/-- The luma sample predicted at (x, y) by a vector: rows are filtered first, and the result rounded to 8 bits. -/
def EncPic.predict (p : EncPic) (mv : Int × Int) (x y : Nat) : Nat :=
  let fx := (mv.1 % 4).toNat
  let fy := (mv.2 % 4).toNat
  let bx := (x : Int) + mv.1 / 4
  let by_ := (y : Int) + mv.2 / 4
  let row := fun (j : Int) => ((lumaTaps fx).zipIdx.map fun t => t.1 * p.refSample (bx + (t.2 : Int) - 3) j).sum
  let v : Int := if fy = 0 then row by_
    else if fx = 0 then ((lumaTaps fy).zipIdx.map fun t => t.1 * p.refSample bx (by_ + (t.2 : Int) - 3)).sum
    else ((lumaTaps fy).zipIdx.map fun t => t.1 * row (by_ + (t.2 : Int) - 3)).sum / 64
  (max 0 (min 255 ((v + 32) / 64))).toNat

/-- R236: D, the sum of absolute differences over a CU (of luma, log 76). -/
def EncPic.sad (p : EncPic) (x y size : Nat) (pred : Nat → Nat → Nat) : Nat :=
  ((List.range size).map fun j => ((List.range size).map fun i =>
    ((p.sample (x + i) (y + j) : Int) - (pred (x + i) (y + j) : Nat)).natAbs).sum).sum

/-- R236: λ. -/
def lambda (qp : Nat) : Nat := [14, 17, 22, 27, 34, 43].getD (qp % 6) 14 * 4 ^ (qp / 6)

/-- R236: J. -/
def EncPic.cost (p : EncPic) (d b : Nat) : Nat := d + lambda p.qp * b / 256

/-- The Exp-Golomb length of a signed number. -/
def golomb (v : Int) : Nat := 2 * Nat.log2 (2 * v.natAbs + (if 0 < v then 0 else 1)) + 1

/-! ### Vector predictors -/

/-- A square block and its neighbours. -/
structure EncCu where
  x : Nat
  y : Nat
  size : Nat

def EncPic.a0 (p : EncPic) (c : EncCu) := vectorOf (p.blockAt c.y ((c.x : Int) - 1) (c.y + c.size : Nat))
def EncPic.a1 (p : EncPic) (c : EncCu) := vectorOf (p.blockAt c.y ((c.x : Int) - 1) ((c.y + c.size : Nat) - 1))
def EncPic.b0 (p : EncPic) (c : EncCu) := vectorOf (p.blockAt c.y (c.x + c.size : Nat) ((c.y : Int) - 1))
def EncPic.b1 (p : EncPic) (c : EncCu) := vectorOf (p.blockAt c.y ((c.x + c.size : Nat) - 1) ((c.y : Int) - 1))
def EncPic.b2 (p : EncPic) (c : EncCu) := vectorOf (p.blockAt c.y ((c.x : Int) - 1) ((c.y : Int) - 1))

/-- The motion of the reference at a place, kept for blocks of 16. -/
def EncPic.refMotion (p : EncPic) (x y : Nat) : Option (Int × Int) :=
  match p.ref with
  | none => none
  | some r => if x < p.cols * 8 ∧ y < p.rows * 8 then vectorOf (r.2.getD (y / 16 * 2 * p.cols + x / 16 * 2) none) else none

/-- The temporal predictor: the block below and to the right, within the CTU row, else the centre. -/
def EncPic.temporal (p : EncPic) (c : EncCu) : Option (Int × Int) :=
  let corner := if (c.y + c.size) / 32 = c.y / 32 then p.refMotion (c.x + c.size) (c.y + c.size) else none
  corner.orElse fun _ => p.refMotion (c.x + c.size / 2) (c.y + c.size / 2)

/-- HEVC's merge candidates of a P slice with one reference picture. -/
def EncPic.merges (p : EncPic) (c : EncCu) : List (Int × Int) :=
  let apart := fun (v : Option (Int × Int)) (others : List (Option (Int × Int))) => if v.isSome && others.contains v then none else v
  let a1 := p.a1 c
  let b1 := apart (p.b1 c) [a1]
  let b0 := apart (p.b0 c) [p.b1 c]
  let a0 := apart (p.a0 c) [a1]
  let four := [a1, b1, b0, a0].filterMap id
  let b2 := if four.length = 4 then none else apart (p.b2 c) [a1, p.b1 c]
  let all := four ++ b2.toList ++ (p.temporal c).toList
  (all ++ List.replicate (5 - all.length) (0, 0)).take 5

/-- HEVC's two predictors of a vector. -/
def EncPic.predictors (p : EncPic) (c : EncCu) : List (Int × Int) :=
  let a := (p.a0 c).orElse fun _ => p.a1 c
  let b := (p.b0 c).orElse fun _ => (p.b1 c).orElse fun _ => p.b2 c
  let spatial := if a = b then a.toList else a.toList ++ b.toList
  let all := if spatial.length = 2 then spatial else spatial ++ (p.temporal c).toList
  (all ++ List.replicate (2 - all.length) (0, 0)).take 2

/-- R236: B of a vector: the lengths of its difference from the better predictor. -/
def EncPic.mvBits (p : EncPic) (c : EncCu) (mv : Int × Int) : Nat :=
  match (p.predictors c).map fun q => golomb (mv.1 - q.1) + golomb (mv.2 - q.2) with
  | b :: bs => bs.foldl min b
  | [] => 0

/-- J of a vector. -/
def EncPic.mvCost (p : EncPic) (c : EncCu) (mv : Int × Int) : Nat :=
  p.cost (p.sad c.x c.y c.size (p.predict mv)) (p.mvBits c mv)

/-! ### Motion search (R237) -/

/-- The earliest of the least cost. -/
def earliestLeast {α : Type} (cost : α → Nat) (first : α) (rest : List α) : α :=
  rest.foldl (fun b v => if cost v < cost b then v else b) first

/-- A vector rounded to whole pels. -/
def wholePel (v : Int × Int) : Int × Int := ((v.1 + 2) / 4 * 4, (v.2 + 2) / 4 * 4)

/-- The small diamond: each step moves to the earliest better point within 64 pels of the start. -/
def EncPic.diamond (p : EncPic) (c : EncCu) (start : Int × Int) : Nat → Int × Int → Int × Int
  | 0, v => v
  | n + 1, v =>
    let near := fun (w : Int × Int) => decide ((w.1 - start.1).natAbs ≤ 256) && decide ((w.2 - start.2).natAbs ≤ 256)
    match ([(v.1 + 4, v.2), (v.1 - 4, v.2), (v.1, v.2 + 4), (v.1, v.2 - 4)] : List (Int × Int)).find? fun w =>
        near w && decide (p.mvCost c w < p.mvCost c v) with
    | some w => p.diamond c start n w
    | none => v

/-- The eight neighbours of a vector at a step, in raster order. -/
def neighbours (step : Int) (v : Int × Int) : List (Int × Int) :=
  ([(-1, -1), (0, -1), (1, -1), (-1, 0), (1, 0), (-1, 1), (0, 1), (1, 1)] : List (Int × Int)).map fun d => (v.1 + step * d.1, v.2 + step * d.2)

/-- R237: the vector of a CU. -/
def EncPic.search (p : EncPic) (steps : Nat) (c : EncCu) : Int × Int :=
  let cost := p.mvCost c
  let start := earliestLeast cost (0, 0) (([p.a1 c, p.b1 c, p.b0 c, p.temporal c].filterMap id).map wholePel)
  let whole := p.diamond c start steps start
  let half := earliestLeast cost whole (neighbours 2 whole)
  earliestLeast cost half (neighbours 1 half)

/-! ### Choices (R236) -/

/-- The intra mode of a neighbour as a most probable mode sees it: DC unless it is intra coded, and above the CTU row. -/
def modeOf (b : Option EncBlock) : Nat := match b with | some (.intra m) => m | _ => 1

/-- HEVC's three most probable modes. -/
def EncPic.mpms (p : EncPic) (c : EncCu) : List Nat :=
  let a := modeOf (p.blockAt c.y ((c.x : Int) - 1) ((c.y + c.size : Nat) - 1))
  let b := if c.y % 32 = 0 then 1 else modeOf (p.blockAt c.y ((c.x + c.size : Nat) - 1) ((c.y : Int) - 1))
  if a = b then (if a < 2 then [0, 1, 26] else [a, 2 + (a + 29) % 32, 2 + (a - 2 + 1) % 32])
  else [a, b, if a ≠ 0 ∧ b ≠ 0 then 0 else if a ≠ 1 ∧ b ≠ 1 then 1 else 26]

/-- R236: J of an intra mode. -/
def EncPic.intraCost (p : EncPic) (c : EncCu) (mode : Nat) : Nat :=
  let pred := (Config.intraPred mode c.x c.y c.size p.recon).toArray
  p.cost (p.sad c.x c.y c.size fun x y => pred.getD ((y - c.y) * c.size + (x - c.x)) 0) (if (p.mpms c).contains mode then 2 else 6)

/-- R236: the choice for a CU that is not split, with its cost: skip before inter, inter before intra. A choice is written
as its kind (0 skip, 1 inter, 2 intra) and its mode or vector. -/
def EncPic.choose (p : EncPic) (steps : Nat) (c : EncCu) : Nat × EncBlock × List Int :=
  let intra := earliestLeast (p.intraCost c) 0 ((List.range 34).map (· + 1))
  let least := (p.intraCost c intra, EncBlock.intra intra, [2, (intra : Int)])
  match p.ref with
  | none => least
  | some _ =>
    let mv := p.search steps c
    let inter := (p.mvCost c mv, EncBlock.inter mv, [1, mv.1, mv.2])
    let skip := fun (v : Int × Int) => p.cost (p.sad c.x c.y c.size (p.predict v)) 0
    let ms := p.merges c
    let sv := earliestLeast skip (ms.headD (0, 0)) (ms.drop 1)
    earliestLeast Prod.fst (skip sv, EncBlock.inter sv, [0, sv.1, sv.2]) [inter, least]

/-- A square of samples written into a plane of width `w` and height `h`. -/
def putBlock (w h x0 y0 size : Nat) (vs : List Nat) (plane : Array Nat) : Array Nat :=
  vs.zipIdx.foldl (fun a (v, i) =>
    if x0 + i % size < w ∧ y0 + i / size < h then a.setIfInBounds ((y0 + i / size) * w + x0 + i % size) (v % 256) else a) plane

/-- A CU is coded by a choice. -/
def EncPic.code (p : EncPic) (c : EncCu) (b : EncBlock) (choice : List Int) : EncPic :=
  let r := Config.encRecon p.qp c.x c.y c.size choice p.source ((p.ref.map Prod.fst).getD default) p.recon
  let half := fun (vs : List Nat) plane => putBlock (p.width / 2) (p.height / 2) (c.x / 2) (c.y / 2) (c.size / 2) vs plane
  { p with
    recon := { y := putBlock p.width p.height c.x c.y c.size r.1 p.recon.y, cb := half r.2.1 p.recon.cb, cr := half r.2.2 p.recon.cr },
    blocks := (List.range (c.size / 8 * (c.size / 8))).foldl (fun a i =>
      a.setIfInBounds ((c.y / 8 + i / (c.size / 8)) * p.cols + c.x / 8 + i % (c.size / 8)) (some b)) p.blocks,
    choices := p.choices ++ [[(c.x : Int), (c.y : Int), (c.size : Int)] ++ choice] }

/-- R236: a CU, split or not, with its cost: it splits where the sum of its four is lower, and where it passes an edge. -/
def EncPic.cu (p : EncPic) (steps : Nat) : (depth : Nat) → EncCu → Nat × EncPic
  | 0, c =>
    let x := p.choose steps c
    (x.1, p.code c x.2.1 x.2.2)
  | depth + 1, c =>
    let h := c.size / 2
    let four := ([(0, 0), (h, 0), (0, h), (h, h)] : List (Nat × Nat)).foldl (fun (a : Nat × EncPic) d =>
      let q : EncCu := { x := c.x + d.1, y := c.y + d.2, size := h }
      if q.x < p.cols * 8 ∧ q.y < p.rows * 8 then
        let r := EncPic.cu a.2 steps depth q
        (a.1 + r.1, r.2)
      else a) (0, p)
    if p.cols * 8 < c.x + c.size ∨ p.rows * 8 < c.y + c.size then four
    else
      let x := p.choose steps c
      if four.1 < x.1 then four else (x.1, p.code c x.2.1 x.2.2)

/-- R236: the CTUs of a picture, 32 by 32, in raster order. -/
def EncPic.ctus (p : EncPic) (steps : Nat) : EncPic :=
  let across := (p.width + 31) / 32
  (List.range (across * p.ctuRows)).foldl (fun p i => (p.cu steps 2 { x := i % across * 32, y := i / across * 32, size := 32 }).2) p

/-- A picture encoded: its reconstruction after deblocking. -/
def EncPic.encoded (p : EncPic) (steps : Nat) : EncPic :=
  let p := p.ctus steps
  { p with recon := Config.encDeblock p.qp p.width p.height p.choices p.recon }

end Sys2Proof.Machine
end

