-- ==== Sys2Proof/Machine/Video.lean ====
section
/-!
DEFINITION. Video (08_video.md, R215 to R238): the SCBs of VDEC and VENC, colour, frame records and their maps, the
outcome of a sample, and the checks. Vdec.lean decodes the stream.
-/

namespace Sys2Proof.Machine

/-! ### The SCB (R218) -/

/-- The fields of a VDEC body. -/
structure VdecCfg where
  prepass : Bool
  codec : Nat
  live : Bool
  par : Nat
  group : Nat
  colour : Nat
  linear : Bool
  out16 : Bool
  mapEn : Bool
  lfc : Nat
  frameStep : Nat
  maxPixels : Nat
  maxFrames : Nat
  sliceBudget : Nat
  auxRoute : Nat
  mvW : Nat
  resW : Nat
  intraW : Nat
deriving DecidableEq, Repr

def vdecCfg (p : Snap) : VdecCfg :=
  { prepass := p.bit 0 0, codec := p.fld 0 1 1, live := p.bit 0 2, par := p.fld 0 4 2, group := 2 ^ p.fld 0 6 2,
    colour := p.fld 0 8 2, linear := p.bit 0 10, out16 := p.bit 0 11, mapEn := p.bit 0 12, lfc := p.fld 0 16 3,
    frameStep := p.fld 0 24 8, maxPixels := p.fld 1 0 28, maxFrames := p.fld 1 32 16, sliceBudget := p.fld 2 0 32,
    auxRoute := p.fld 2 32 16, mvW := p.fld 2 48 4, resW := p.fld 2 52 4, intraW := p.fld 2 56 8 }

/-! ### Colour (R222) -/

/-- R222: G_Y, K_R, K_GB, K_GR, K_B. -/
def vidMatrix (matrix height : Nat) (full : Bool) : List Int :=
  let m := if matrix = 1 then 709 else if matrix = 5 ∨ matrix = 6 then 601 else if matrix = 9 then 2020
    else if 720 ≤ height then 709 else 601
  match m, full with
  | 601, false => [76309, 104597, 25674, 53279, 132201]
  | 601, true => [65536, 91881, 22554, 46802, 116130]
  | 709, false => [76309, 117489, 13975, 34925, 138438]
  | 709, true => [65536, 103206, 12276, 30679, 121609]
  | _, false => [76309, 110014, 12277, 42626, 140364]
  | _, true => [65536, 96639, 10784, 37444, 123299]

/-- R222: a value of depth `b` in the output format. -/
def vidOut (out16 : Bool) (b : Nat) (v : Nat) : Nat :=
  if out16 then (v * 65535 + (2 ^ b - 1) / 2) / (2 ^ b - 1) else if b = 8 then v else min 255 ((v + 2) / 4)

/-- R222: the channels of a pixel: grey, or R, G, B. -/
def vidPixel (k : List Int) (b : Nat) (full mono : Bool) (colour : Nat) (y cb cr : Int) : List Nat :=
  let yo : Int := if full then 0 else 16 * 2 ^ (b - 8)
  let db := cb - 2 ^ (b - 1)
  let dr := cr - 2 ^ (b - 1)
  let g := k.getD 0 0 * (y - yo)
  let clip := fun (v : Int) => (clampInt 0 (2 ^ b - 1) ((v + 2 ^ 15) / 2 ^ 16)).toNat
  if colour = 0 then [clip g]
  else if mono then [clip g, clip g, clip g]
  else [clip (g + k.getD 1 0 * dr), clip (g - k.getD 2 0 * db - k.getD 3 0 * dr), clip (g + k.getD 4 0 * db)]

/-- A value of a plane of width `w` and height `h`; beyond an edge, the edge's. -/
def planeVal (vs : Array Nat) (w h : Nat) (x y : Int) : Int :=
  (vs.getD ((clampInt 0 ((h : Int) - 1) y).toNat * w + (clampInt 0 ((w : Int) - 1) x).toNat) 0 : Nat)

/-- R222: a chroma value at a luma position. -/
def vidChroma (linear : Bool) (vs : Array Nat) (w h x y : Nat) : Int :=
  if linear then upLinear 1 2 y h fun j => upLinear 1 2 x w fun i => planeVal vs w h i j
  else planeVal vs w h (x / 2 : Nat) (y / 2 : Nat)

/-- R217, R222: the values of a picture under COLOUR, with the bytes of a value. -/
def vidValues (c : VdecCfg) (p : VidPicture) : List Nat × Nat :=
  if c.colour = 2 then (p.y ++ p.cb ++ p.cr, if p.depth = 8 then 1 else 2)
  else
    let k := vidMatrix p.matrix p.height p.full
    let cw := (p.width + 1) / 2
    let ch := (p.height + 1) / 2
    let ya := p.y.toArray
    let cba := p.cb.toArray
    let cra := p.cr.toArray
    ((List.range p.height).flatMap fun y => (List.range p.width).flatMap fun x =>
      let cv := fun vs => if p.mono then (0 : Int) else vidChroma c.linear vs cw ch x y
      (vidPixel k p.depth p.full p.mono c.colour (planeVal ya p.width p.height x y) (cv cba) (cv cra)).map
        (vidOut c.out16 p.depth), if c.out16 then 2 else 1)

/-- R222: an 8-bit native value of an AUX record. -/
def auxVal (depth v : Nat) : Nat := if depth = 8 then v else min 255 ((v + 2) / 4)

/-! ### Frame records (R217, R228) -/

/-- R228: the activity of a block. -/
def activity (c : VdecCfg) (b : Nat × Nat × Nat) : Nat := min 65535 (c.mvW * b.1 + c.resW * b.2.1 + c.intraW * b.2.2)

/-- R217: the shape words of a picture. -/
def vidShape (c : VdecCfg) (p : VidPicture) : List Nat :=
  let lay := match c.colour with | 0 => (1, 0) | 1 => (3, 2) | _ => if p.mono then (1, 4) else (3, 4)
  let depth := if c.colour = 2 then p.depth else if c.out16 then 16 else 8
  [p.width, p.height, shapeWord2 lay.1 lay.2 depth, if p.concealed then 9 else 0]

/-- R217: FRAME_NO is emitted. -/
def emits (c : VdecCfg) (n : Nat) : Bool := n % c.frameStep == 0 && decide (n / c.frameStep < c.maxFrames)

/-- R217: the emitted frame count of `n` output pictures. -/
def emittedCount (c : VdecCfg) (n : Nat) : Nat := min c.maxFrames ((n + c.frameStep - 1) / c.frameStep)

/-- R217: the record of picture `n`, with the map of the picture before it. `total`: the pictures of the sample, where they
are known. -/
def vidFrame (c : VdecCfg) (total : Option Nat) (n : Nat) (p : VidPicture) (prev : Option VidPicture) : VFrame :=
  let v := vidValues c p
  let hasMap := c.mapEn && decide (0 < n)
  { no := n, concealed := p.concealed, late := p.late, mapValid := hasMap,
    last := (total.map fun t => n / c.frameStep + 1 == emittedCount c t).getD false,
    shape := vidShape c p, values := v.1, size := v.2,
    mapW := if hasMap then (p.width + 15) / 16 else 0, mapH := if hasMap then (p.height + 15) / 16 else 0,
    map := if hasMap then (match prev with | some q => q.blocks.map (activity c) | none => []) else [] }

/-- R222: the AUX record of a picture: native, 8 bits. -/
def auxFrame (n : Nat) (p : VidPicture) : VFrame :=
  { no := n, concealed := p.concealed,
    shape := [p.width, p.height, shapeWord2 (if p.mono then 1 else 3) 4 8, if p.concealed then 9 else 0],
    values := (p.y ++ p.cb ++ p.cr).map (auxVal p.depth) }

/-- The records of the emitted pictures, made by `f` from the number, the picture and the one before. -/
def vidFrames (c : VdecCfg) (f : Nat → VidPicture → Option VidPicture → VFrame) :
    Nat → Option VidPicture → List VidPicture → List VFrame
  | _, _, [] => []
  | n, prev, p :: ps => if emits c n then f n p prev :: vidFrames c f (n + 1) (some p) ps else vidFrames c f (n + 1) (some p) ps

/-! ### One sample -/

/-- What a sample of a VDEC job is decoded with. -/
def vidArgs (c : VdecCfg) (budget : Nat) (cuts : List (Nat × Nat)) : VidArgs :=
  { codec := c.codec, sliceBudget := c.sliceBudget, maxPixels := c.maxPixels, live := c.live, budget := budget, cuts := cuts }

/-- A void's frame record (R217). -/
def voidFrame (r d : Nat) : VFrame := { no := 0, last := true, shape := voidWords r d }

/-- The void of a VDEC sample. -/
def vidVoid (index r d : Nat) : SampleOut :=
  { index := index, reason := r, detail := d, role := 0x10, words := voidWords r d ++ [0], frames := [voidFrame r d] }

/-- R221: a pre-pass decodes no slice data: it finds nothing damaged, and writes neither frames nor AUX records. -/
def vidWhole (c : VdecCfg) (index : Nat) (d : VDec) : SampleOut :=
  let ps := d.dpb.shown
  let words := (match ps with | p :: _ => if c.prepass then (vidShape c p).take 3 ++ [0] else vidShape c p | [] => [0, 0, 0, 0]) ++
    [emittedCount c ps.length]
  if c.prepass then { index := index, words := words }
  else
    { index := index, words := words, concealed := d.damaged,
      frames := vidFrames c (vidFrame c (some ps.length)) 0 none ps,
      aux := if c.auxRoute = 0xFFFF then [] else vidFrames c (fun n p _ => auxFrame n p) 0 none ps }

/-- One sample of a VDEC job: none while its outcome needs more bytes. -/
def decodeVideo (c : VdecCfg) (cuts : List (Nat × Nat)) (index budget : Nat) (bs : Bytes) (e : Ending) : Option SampleOut :=
  match videoRun (vidArgs c budget cuts) bs (e = .whole) with
  | .error (r, d) => some (vidVoid index r d)
  | .ok x => match e with
    | .more => none
    | .badAuth => some (vidVoid index 0x21 0)
    | .whole => some (vidWhole c index x)

/-- R232, R233: the frame records of a live segment up to picture `n`, as the bytes `bs` give them. -/
def liveFrames (c : VdecCfg) (late : List (Nat × Nat)) (n : Nat) (bs : Bytes) : List VFrame :=
  match videoRun (vidArgs c 0 late) bs true with
  | .error _ => []
  | .ok d => vidFrames c (vidFrame c none) 0 none (d.dpb.shown.filter fun p => decide (p.num ≤ n))

/-- R225: the frame buffers that a stream holds, by the numbers of their pictures, and the bytes of each. -/
def heldBuffers (c : VdecCfg) (budget : Nat) (cuts : List (Nat × Nat)) (bs : Bytes) : List (Nat × Nat) :=
  let size := fun (f : VidForm) => (f.width * f.height + 2 * (f.cw * f.ch)) * (if f.depth = 8 then 1 else 2)
  match videoRun (vidArgs c budget cuts) bs false with
  | .error _ => []
  | .ok d => (d.dpb.pics.filter VPic.real).map (fun p => (p.num, size p.form)) ++ d.cur.toList.map fun x => (d.count - 1, size x.form)

/-- R221: a class C main pass holds a sample to its pre-pass words: each planned frame leaves as pad, under the FRAME_NO that
FRAME_STEP `step` gives it. -/
def holdFrames (e step : Nat) (planned : List Nat) (o : SampleOut) : SampleOut × Bool :=
  if o.reason = 0 ∧ o.words.take 3 = planned.take 3 ∧ o.words.getD 4 0 = planned.getD 4 0 then (o, false)
  else
    let r := if o.reason = 0x21 then 0x21 else 0x20
    let d := if o.reason = 0 then Config.disagreeDetail e o.index % 65536 else o.detail
    let n := planned.getD 4 0
    ({ o with reason := r, detail := d, role := 0, concealed := false, words := voidWords r d ++ [n],
              frames := (List.range n).map fun i => { no := i * step, last := i + 1 == n, shape := voidWords r d }, aux := [] }, true)

/-! ### VENC (R235) -/

/-- The fields of a VENC body. -/
structure VencCfg where
  qpI : Nat
  qpP : Nat
  gop : Nat
  search : Nat
  slices : Nat
deriving DecidableEq, Repr

def vencCfg (p : Snap) : VencCfg :=
  { qpI := p.fld 0 0 6, qpP := p.fld 0 8 6, gop := p.fld 0 16 8, search := p.fld 0 24 4, slices := p.fld 0 28 4 }

/-- The planes of a native record without padding. -/
def nativePlanes (f : VFrame) : Config.Planes :=
  let w := f.shape.getD 0 0
  let h := f.shape.getD 1 0
  let n := w * h
  { y := (f.values.take n).toArray, cb := ((f.values.drop n).take (n / 4)).toArray, cr := (f.values.drop (n + n / 4)).toArray }

/-- R235, R236: a record encoded as picture `n` of its sample, from the picture before it, none for an IDR picture. -/
def encodePicture (c : VencCfg) (n : Nat) (prev : Option EncPic) (f : VFrame) : EncPic :=
  let w := f.shape.getD 0 0
  let h := f.shape.getD 1 0
  let ref := if n % c.gop = 0 then none else (prev.filter fun p => p.width == w && p.height == h).map fun p => (p.recon, p.blocks)
  let zero := fun (k : Nat) => Array.replicate k (0 : Nat)
  let p : EncPic := { width := w, height := h, qp := if ref.isNone then c.qpI else c.qpP, slices := c.slices, source := nativePlanes f, ref := ref,
                      recon := { y := zero (w * h), cb := zero (w * h / 4), cr := zero (w * h / 4) },
                      blocks := Array.replicate ((w + 7) / 8 * ((h + 7) / 8)) none }
  p.encoded c.search

/-- R235: the access units of the native records of a sample, each with its record's FRAME_NO. -/
def encodeFrames (c : VencCfg) : Nat → Option EncPic → List VFrame → List VFrame
  | _, _, [] => []
  | n, prev, f :: fs =>
    let p := encodePicture c n prev f
    let u := Config.accessUnit [c.qpI, c.qpP, c.gop, c.slices, n, p.width, p.height] p.choices p.source ((p.ref.map Prod.fst).getD default)
    { no := f.no, shape := [], values := u.map BitVec.toNat } :: encodeFrames c (n + 1) (some p) fs

/-- R235: a picture that VENC does not take: its DETAIL. -/
def vencVoid (f : VFrame) : Option Nat :=
  let w := f.shape.getD 0 0
  let h := f.shape.getD 1 0
  if w % 2 = 1 ∨ h % 2 = 1 then some 1 else if 2228224 < w * h then some 4 else none

/-- R235: one sample of a VENC job, from the sample of its VDEC: the header words of a record are not values. -/
def encodeVideo (c : VencCfg) (i : SampleOut) : SampleOut :=
  if i.reason ≠ 0 then { index := i.index, reason := i.reason, detail := i.detail, role := i.role }
  else match i.aux.filterMap vencVoid with
    | d :: _ => { index := i.index, reason := 0x20, detail := d, role := 0x11 }
    | [] =>
      let units := encodeFrames c 0 none i.aux
      { index := i.index, frames := units, values := units.flatMap VFrame.values }

/-! ### Check 7 -/

/-- A route's endpoint is a V-core (R42). -/
def isVcore (e : Nat) : Bool := decide (0x120 ≤ e) && decide (e < 0x130)

/-- The routes of the active image. -/
def State.route (s : State) (i : Nat) : Option Route :=
  match s.sil.active with
  | none => none
  | some im => im.routes[i]?

/-- R218 to R220: check 7 of a VDEC START. -/
def State.vdecOk (s : State) (r : Run) (p : Snap) (n : Nat) : Bool :=
  let c := vdecCfg p
  let mainC := r.cls == 0 && !c.prepass
  p.bodyWords == 3 && p.split == 0 && loopsZero p && !p.streamIn &&
    slotsOnly p [0, 1] [1] [] &&
    sealedCovers p.sampleFirst n (p.input 0) &&
    present mainC (p.inSlot 1) && (!mainC || (isWords 5 n (p.input 1) && ((p.input 1).map plainSpace).getD false)) &&
    (!c.prepass || p.outSlot 1 != 0xFF) &&
    (p.outSlot 1 == 0xFF || (match p.output 1 with | some d => d.dtype == 5 && d.shape == [5, n] | none => false)) &&
    decide (c.colour ≤ 2) && decide (1 ≤ c.frameStep) && decide (1 ≤ c.maxPixels) && decide (1 ≤ c.maxFrames) &&
    decide (4096 ≤ c.sliceBudget) &&
    (c.prepass || p.streamOut) && (!c.prepass || (r.cls == 0 && !c.live && !p.streamOut)) && (!c.live || r.cls != 0) &&
    (c.auxRoute == 0xFFFF || (match s.route c.auxRoute with | some x => isVcore x.src && isVcore x.dst | none => false)) &&
    (!c.live || p.sampleSpan == 1)

/-- R235: check 7 of a VENC START. -/
def State.vencOk (s : State) (r : Run) (p : Snap) : Bool :=
  let c := vencCfg p
  p.bodyWords == 1 && p.split == 0 && loopsZero p && p.streamIn && p.streamOut && slotsOnly p [] [] [] &&
    decide (c.qpI ≤ 51) && decide (c.qpP ≤ 51) && decide (1 ≤ c.gop) && decide (1 ≤ c.search) &&
    decide (1 ≤ c.slices) && decide (c.slices ≤ 8) &&
    (match Tab.find s.profiles (s.label r.label).profile with
      | some f => f.scheme != 2 || decide (f.scaleExp + 8 ≤ f.coeffLog)
      | none => true)

/-- The tensor of a VDEC job takes the words of sample `k`. -/
def State.vdecRetire (s : State) (e : Nat) (p : Snap) (k : Nat) (o : SampleOut) : State :=
  match p.output 1 with
  | some d => s.writeElems e 0x10 d ((List.range 5).map fun i => ([i, k], o.words.getD i 0))
  | none => s

end Sys2Proof.Machine
end

