-- ==== Sys2Proof/Machine/Pyramid.lean ====
section
/-!
DEFINITION. The PYRAMID role (R200 to R212): augment records, geometry, resampling, steered crops, photometric steps,
statistics, levels, and its checks. Arithmetic is fp32 with each operation rounded (R203, R207).
-/

namespace Sys2Proof.Machine

/-! ### The SCB (R211) -/

structure PyrCfg where
  outW : Nat
  outH : Nat
  levels : Nat
  filter : Nat
  edge : Bool
  stats : Bool
  dtype : Nat
  channels : Nat
  seed : Nat
  streamId : Nat
  fill : Nat
  scales : List (Nat × Nat)
  split : Nat
deriving DecidableEq, Repr

def pyrCfg (p : Snap) : PyrCfg :=
  let sc := fun (w lo : Nat) => (p.fld w lo 16, p.fld w (lo + 16) 16)
  { outW := p.fld 0 0 16, outH := p.fld 0 16 16, levels := p.fld 0 32 3, filter := p.fld 0 36 2, edge := p.bit 0 38,
    stats := p.bit 0 39, dtype := p.fld 0 40 4, channels := p.fld 0 44 4, seed := p.fld 0 48 4, streamId := p.fld 1 0 16,
    fill := p.fld 1 16 32, scales := [sc 2 0, sc 2 32, sc 3 0, sc 3 32, sc 4 0], split := p.split }

/-- R202: width and height of a level. -/
def PyrCfg.size (c : PyrCfg) (l : Nat) : Nat × Nat :=
  match l with
  | 0 => (c.outW, c.outH)
  | l + 1 => let s := c.scales.getD l (1, 1); (c.outW * s.1 / s.2, c.outH * s.1 / s.2)

/-- R202: the value count E of a record. -/
def PyrCfg.count (c : PyrCfg) : Nat :=
  ((List.range c.levels).map fun l => c.channels * (c.size l).1 * (c.size l).2).sum

/-! ### Augment records (R200, R201) -/

structure Augment where
  flags : Nat
  crop : Nat × Nat × Nat × Nat
  angle : Nat
  shear : Nat
  scale : Nat
  bright : Nat
  contrast : Nat
  sat : Nat
  hue : Nat
  sigma : Nat
  cut : Nat × Nat × Nat × Nat
  cutValue : Nat
  mean : List Nat
  invStd : List Nat
deriving DecidableEq, Repr

def augOf (b : Bytes) : Augment :=
  let w := fun o => leAt b o 4
  { flags := w 0, crop := (w 4, w 8, w 12, w 16), angle := w 20, shear := w 24, scale := w 28, bright := w 32,
    contrast := w 36, sat := w 40, hue := w 44, sigma := w 48, cut := (w 52, w 56, w 60, w 64), cutValue := w 68,
    mean := leWords 4 (slice b 72 16), invStd := leWords 4 (slice b 88 16) }

def Augment.on (a : Augment) (i : Nat) : Bool := bitOf a.flags i
def Augment.rot (a : Augment) : Nat := fieldOf a.flags 2 2
def Augment.affine (a : Augment) : Bool := a.on 4

/-- A finite fp32 within bounds, the bounds given as fractions of 10,000. -/
def fWithin (lo hi : Int) (x : Nat) : Bool :=
  match fp32.rat x with
  | none => false
  | some (n, d) => decide (lo * d ≤ n * 10000) && decide (n * 10000 ≤ hi * d)

/-- R200: a record is admissible. -/
def augOk (b : Bytes) : Bool :=
  let a := augOf b
  let zero := fun (on : Bool) (ok : Bool) (off len : Nat) => if on then ok else allZero (slice b off len)
  a.flags / 2 ^ 11 == 0 && allZero (slice b 104 24) &&
    ((a.crop.2.2.1 == 0) == (a.crop.2.2.2 == 0)) &&
    (!a.on 10 || (a.crop.2.2.1 != 0 && a.crop.2.2.1 % 16 == 0 && a.crop.2.2.2 != 0 && a.crop.2.2.2 % 16 == 0)) &&
    zero a.affine (fWithin (-2618) 2618 a.angle && fWithin (-2500) 2500 a.shear && fWithin 5000 20000 a.scale) 20 12 &&
    zero (a.on 5) (fWithin (-10000) 10000 a.bright && fWithin 0 40000 a.contrast && fWithin 0 40000 a.sat &&
      fWithin (-5000) 5000 a.hue) 32 16 &&
    zero (a.on 8) (fWithin 0 10000 a.sigma) 48 4 &&
    zero (a.on 9) (fFinite a.cutValue) 52 20 &&
    zero (a.on 7) (a.invStd.all fun x => fFinite x && fLt 0 x) 72 32

/-- R201: the record that sample `k` selects: none selects nothing. -/
def State.augBytes (s : State) (e : Nat) (host : HostMem) (p : Snap) (k : Nat) : Option Bytes :=
  match p.input 1 with
  | none => some (zeroBytes 128)
  | some t =>
    let rec_ := fun (i : Nat) => (List.range 128).map fun b => BitVec.ofNat 8 (s.readElem e 5 host t [b, i])
    match p.index 0 with
    | none => some (rec_ k)
    | some d => (s.readIndex e 5 host d (t.extent 1) k).map rec_

/-! ### A source image -/

/-- An image of fp32 values: channels, then rows. -/
structure FImage where
  w : Nat
  h : Nat
  channels : Nat
  vals : Array Nat

/-- R205: a value at a position; outside, the fill or the nearest edge. -/
def FImage.get (m : FImage) (edge : Bool) (fill c : Nat) (x y : Int) : Nat :=
  if edge then
    m.vals.getD (((clampInt 0 ((m.h : Int) - 1) y).toNat * m.w + (clampInt 0 ((m.w : Int) - 1) x).toNat) * m.channels + c) 0
  else if x < 0 ∨ y < 0 ∨ (m.w : Int) ≤ x ∨ (m.h : Int) ≤ y then fill
  else m.vals.getD ((y.toNat * m.w + x.toNat) * m.channels + c) 0

/-- R203: source values: v / 255 or v / 65,535. -/
def sourceImage (w h channels size : Nat) (vs : List Nat) : FImage :=
  { w := w, h := h, channels := channels,
    vals := (vs.map fun (v : Nat) => fDiv (fInt v) (fInt (if size = 1 then 255 else 65535))).toArray }

/-! ### Resampling (R203, R204) -/

def fAbs (x : Nat) : Nat := x % 2 ^ 31

/-- R203: (u, v) turned by quarter turns. -/
def turnUv : Nat → Nat × Nat → Nat × Nat
  | 0, p => p
  | n + 1, (u, v) => turnUv n (v, fNeg u)

/-- R203: the source position of level-0 pixel (x, y) for a crop. -/
def sourcePos (c : PyrCfg) (a : Augment) (crop : Nat × Nat × Nat × Nat) (x y : Nat) : Nat × Nat :=
  let u := fSub (fDiv (fAdd (fInt x) fHalf) (fInt c.outW)) fHalf
  let v := fSub (fDiv (fAdd (fInt y) fHalf) (fInt c.outH)) fHalf
  let p :=
    if a.affine then
      let u := fDiv u a.scale
      let v := fDiv v a.scale
      let cos := fOfFx (fxCos (fxOfF a.angle))
      let sin := fOfFx (fxSin (fxOfF a.angle))
      let u' := fAdd (fMul cos u) (fMul sin v)
      let v' := fAdd (fMul (fNeg sin) u) (fMul cos v)
      (fSub u' (fMul a.shear v'), v')
    else (u, v)
  let p := turnUv a.rot p
  let u := if a.on 0 then fNeg p.1 else p.1
  let v := if a.on 1 then fNeg p.2 else p.2
  (fSub (fAdd (fInt crop.1) (fMul (fAdd u fHalf) (fInt crop.2.2.1))) fHalf,
   fSub (fAdd (fInt crop.2.1) (fMul (fAdd v fHalf) (fInt crop.2.2.2))) fHalf)

/-- R204: the factors in x and y for the source extents. -/
def factors (c : PyrCfg) (a : Augment) (w h : Nat) : Nat × Nat :=
  let ext := fun (n : Nat) => if a.affine then fDiv (fInt n) a.scale else fInt n
  let p := if a.rot % 2 = 1 then (h, w) else (w, h)
  (fMax fOne (fDiv (ext p.1) (fInt c.outW)), fMax fOne (fDiv (ext p.2) (fInt c.outH)))

/-- R204: the filter at t, the nearest fp32 of the exact value at the fp32 t (log 37); area is apart. -/
def kernel (filter t : Nat) : Nat :=
  let x := fxOfF (fAbs t)
  let one := fxOne
  match filter with
  | 1 => if x < one then fOfFx (one - x) else 0
  | 2 =>
    let x2 := fxMul x x
    let x3 := fxMul x2 x
    if x ≤ one then fOfFx ((3 * x3 - 5 * x2) / 2 + one)
    else if x < 2 * one then fOfFx ((-x3 + 5 * x2) / 2 - 4 * x + 2 * one) else 0
  | _ =>
    if x = 0 then fOne
    else if x < 3 * one then
      let px := fxMul fxPi x
      -- the sine of a number below 3π, turned into the first turn
      let s := fxSin px
      let s3 := fxSin (px / 3)
      fOfFx (fxDiv (fxMul s s3) (fxMul px (px / 3)))
    else 0

/-- R204: the radius R·f. -/
def radius (filter f : Nat) : Nat :=
  match filter with
  | 0 => fDiv (fAdd f fOne) (fInt 2)
  | 1 => f
  | 2 => fMul (fInt 2) f
  | _ => fMul (fInt 3) f

/-- R204: the weight of tap `i` before normalisation. -/
def tapWeight (filter f s : Nat) (i : Int) : Nat :=
  if filter = 0 then
    let h := fDiv f (fInt 2)
    fMax 0 (fSub (fMin (fAdd (fInt i) fHalf) (fAdd s h)) (fMax (fSub (fInt i) fHalf) (fSub s h)))
  else kernel filter (fDiv (fSub (fInt i) s) f)

/-- R204: the taps of one axis, ascending, with weights that sum to 1. -/
def taps (filter f s : Nat) : List (Int × Nat) :=
  let r := radius filter f
  let lo := (fxOfF s - fxOfF r) / fxOne
  let n := ((2 * fxOfF r) / fxOne).toNat + 3
  let is := ((List.range n).map fun (k : Nat) => lo + (k : Int)).filter fun i => fLt (fAbs (fSub (fInt i) s)) r
  let ws := is.map (tapWeight filter f s)
  let sum := ws.foldl fAdd 0
  List.zipWith (fun i w => (i, fDiv w sum)) is ws

/-- R204: a resampled value. -/
def resample (m : FImage) (edge : Bool) (fill c : Nat) (tx ty : List (Int × Nat)) : Nat :=
  ty.foldl (fun acc y => tx.foldl (fun acc x => fAdd acc (fMul (fMul y.2 x.2) (m.get edge fill c x.1 y.1))) acc) 0

/-- Level 0 (R203 to R205). -/
def levelZero (c : PyrCfg) (a : Augment) (m : FImage) (crop : Nat × Nat × Nat × Nat) : FImage :=
  let f := factors c a crop.2.2.1 crop.2.2.2
  { w := c.outW, h := c.outH, channels := m.channels,
    vals := ((List.range c.outH).flatMap fun y => (List.range c.outW).flatMap fun x =>
      let s := sourcePos c a crop x y
      let tx := taps c.filter f.1 s.1
      let ty := taps c.filter f.2 s.2
      (List.range m.channels).map fun ch => resample m c.edge c.fill ch tx ty).toArray }

/-- A further level, sampled from level 0 with its edge. -/
def levelNext (c : PyrCfg) (m : FImage) (l : Nat) : FImage :=
  let sz := c.size l
  let fx := fMax fOne (fDiv (fInt c.outW) (fInt sz.1))
  let fy := fMax fOne (fDiv (fInt c.outH) (fInt sz.2))
  let pos := fun (x out n : Nat) => fSub (fMul (fAdd (fInt x) fHalf) (fDiv (fInt out) (fInt n))) fHalf
  { w := sz.1, h := sz.2, channels := m.channels,
    vals := ((List.range sz.2).flatMap fun y => (List.range sz.1).flatMap fun x =>
      let tx := taps c.filter fx (pos x c.outW sz.1)
      let ty := taps c.filter fy (pos y c.outH sz.2)
      (List.range m.channels).map fun ch => resample m true 0 ch tx ty).toArray }

/-! ### Photometric steps (R207 to R210) -/

/-- R207: L. -/
def fLuma (r g b : Nat) : Nat :=
  fAdd (fAdd (fMul (fConst 299 1000) r) (fMul (fConst 587 1000) g)) (fMul (fConst 114 1000) b)

/-- a·x + b·y + c·z with signed thousandths. -/
def fMix (a b c : Int) (x y z : Nat) : Nat :=
  fAdd (fAdd (fMul (fConst a 1000) x) (fMul (fConst b 1000) y)) (fMul (fConst c 1000) z)

/-- R207: SAT and HUE of an RGB pixel. -/
def satHue (a : Augment) (r g b : Nat) : List Nat :=
  let l := fLuma r g b
  let s := fun v => fAdd l (fMul a.sat (fSub v l))
  let r := s r
  let g := s g
  let b := s b
  let y := fLuma r g b
  let i := fMix 596 (-274) (-322) r g b
  let q := fMix 211 (-523) 312 r g b
  let h := (fp32.rat a.hue).getD (0, 1)
  let c := fOfFx (fxCosTurn h.1 h.2)
  let sn := fOfFx (fxSinTurn h.1 h.2)
  let i' := fSub (fMul c i) (fMul sn q)
  let q' := fAdd (fMul sn i) (fMul c q)
  [fAdd (fAdd y (fMul (fConst 956 1000) i')) (fMul (fConst 621 1000) q'),
   fSub (fSub y (fMul (fConst 272 1000) i')) (fMul (fConst 647 1000) q'),
   fAdd (fSub y (fMul (fConst 1106 1000) i')) (fMul (fConst 1703 1000) q')]

/-- The colour channels of a layout; alpha follows them in layouts 1 and 3. -/
def layoutColours (layout : Nat) : Nat := match layout with | 0 | 1 => 1 | 2 | 3 | 4 => 3 | _ => 4

/-- The colour channels of pixel `i`. A native 4:0:0 picture has no chroma, and the spec gives its Cb and Cr no value (log 38). -/
def colourOf (layout : Nat) (m : FImage) (i : Nat) : List Nat :=
  (List.range (layoutColours layout)).map fun k =>
    if layout = 4 ∧ m.channels ≤ k then Config.absentChroma k % 2 ^ 32 else m.vals.getD (i * m.channels + k) 0

/-- R207: COLOUR_EN and GREY on the colour channels of a pixel. -/
def colourStep (a : Augment) (layout : Nat) (v : List Nat) : List Nat :=
  let rgb := layout == 2 || layout == 3
  let v :=
    if a.on 5 then
      let v := v.map fun x => fAdd fHalf (fMul a.contrast (fSub (fAdd x a.bright) fHalf))
      let v := if rgb then satHue a (v.getD 0 0) (v.getD 1 0) (v.getD 2 0) else v
      v.map fun x => fMin fOne (fMax 0 x)
    else v
  if a.on 6 && rgb then let l := fLuma (v.getD 0 0) (v.getD 1 0) (v.getD 2 0); [l, l, l] else v

/-- R207: the channel mapping; none is the void. -/
def mapChannels (layout out : Nat) (v : List Nat) (alpha : Nat) : Option (List Nat) :=
  let g := v.getD 0 0
  match layout, out with
  | 0, 1 => some [g]
  | 0, 3 => some [g, g, g]
  | 0, 4 => some [g, g, g, fOne]
  | 1, 1 => some [g]
  | 1, 3 => some [g, g, g]
  | 1, 4 => some [g, g, g, alpha]
  | 2, 1 => some [fLuma g (v.getD 1 0) (v.getD 2 0)]
  | 2, 3 => some v
  | 2, 4 => some (v ++ [fOne])
  | 3, 1 => some [fLuma g (v.getD 1 0) (v.getD 2 0)]
  | 3, 3 => some v
  | 3, 4 => some (v ++ [alpha])
  | 4, 3 => some v
  | 5, 4 => some v
  | _, _ => none

/-- R207: the output channel `c` is alpha. -/
def isAlpha (layout out c : Nat) : Bool := out == 4 && c == 3 && layout != 5

/-- The values of a level up to the noise step: colour, mapping, noise (R207, R208). -/
def levelValues (c : PyrCfg) (a : Augment) (seed : Bytes) (sample layout l : Nat) (m : FImage) : FImage :=
  let nc := layoutColours layout
  { w := m.w, h := m.h, channels := c.channels,
    vals := ((List.range (m.w * m.h)).flatMap fun i =>
      let px := colourOf layout m i
      let alpha := m.vals.getD (i * m.channels + nc) 0
      let v := (mapChannels layout c.channels (colourStep a layout px) alpha).getD (List.replicate c.channels 0)
      (List.range c.channels).map fun k =>
        let x := v.getD k 0
        if a.on 8 && !isAlpha layout c.channels k then
          let e := i * c.channels + k
          let z := hostBlock seed c.streamId sample 0x05 (l * 2 ^ 28 + e / 8)
          fAdd x (fMul a.sigma (normalDraw (field32 z (2 * (e % 8))) (field32 z (2 * (e % 8) + 1))))
        else x).toArray }

/-- Values added pairwise to one (`fuel` rounds). -/
def pairSums : Nat → List Nat → Nat
  | 0, vs => vs.foldl fAdd 0
  | f + 1, vs =>
    match vs with
    | [] => 0
    | [x] => x
    | _ => pairSums f ((groupsOf 2 vs.length vs).map fun g => match g with | [a, b] => fAdd a b | [a] => a | _ => 0)

/-- R210: the sums of bands of 64 rows over the values of channel `k`, each value through `g`. -/
def bandSums (m : FImage) (k : Nat) (g : Nat → Nat) : List Nat :=
  (List.range ((m.h + 63) / 64)).map fun b =>
    pairSums 6 ((List.range 32).map fun lane =>
      (List.range 64).foldl (fun acc dy =>
        let y := 64 * b + dy
        if y < m.h then
          (List.range ((m.w + 31) / 32)).foldl (fun acc j =>
            let x := 32 * j + lane
            if x < m.w then fAdd acc (g (m.vals.getD ((y * m.w + x) * m.channels + k) 0)) else acc) acc
        else acc) 0)

/-- R210, R213: the tiles over which the bands of a picture go: the number of them for the first `early` bands, and for the
bands after a Fold. -/
structure BandDeal where
  early : Nat
  before : Nat
  after : Nat

/-- The tile of a band. -/
def BandDeal.tile (d : BandDeal) (b : Nat) : Nat := if b < d.early then b % d.before else b % d.after

/-- R210: the total of band sums: in order, or, class F with SPLIT 1, by tiles. -/
def totalSums (byTile : Option BandDeal) (bands : List Nat) : Nat :=
  match byTile with
  | none => bands.foldl fAdd 0
  | some d => ((List.range (max d.before d.after)).map fun i =>
      ((List.range bands.length).filter fun b => d.tile b == i).foldl (fun acc b => fAdd acc (bands.getD b 0)) 0).foldl fAdd 0

/-- R210: mean and inv_std of channel `k` of level 0. -/
def imageStats (byTile : Option BandDeal) (m : FImage) (k : Nat) : Nat × Nat :=
  let n := fInt (m.w * m.h : Nat)
  let mean := fDiv (totalSums byTile (bandSums m k id)) n
  let sq := fDiv (totalSums byTile (bandSums m k fun v => fMul v v)) n
  let var := fMax 0 (fSub sq (fMul mean mean))
  (mean, fDiv fOne (fSqrt (fAdd var (fConst 1 (2 ^ 20)))))

/-- R209: an element of the output dtype. -/
def pyrOut (dtype v : Nat) : Nat :=
  match dtype with
  | 1 =>
    match fp32.read v with
    | .nan => 0
    | .inf neg => if neg then 0 else 255
    | .fin neg m e => let r := finRat neg m e; (clampInt 0 255 (roundEven (r.1 * 255) r.2)).toNat
  | 9 => fp32.convert fp16 v
  | 0xA => fp32.convert bf16 v
  | _ => v

/-- R208: the cutout of a level covers (x, y). -/
def inCutout (c : PyrCfg) (a : Augment) (w h x y : Nat) : Bool :=
  let lo := fun (at_ n out : Nat) => at_ * n / out
  let hi := fun (at_ len n out : Nat) => ((at_ + len) * n + out - 1) / out
  decide (lo a.cut.1 w c.outW ≤ x) && decide (x < hi a.cut.1 a.cut.2.2.1 w c.outW) &&
    decide (lo a.cut.2.1 h c.outH ≤ y) && decide (y < hi a.cut.2.1 a.cut.2.2.2 h c.outH)

/-- R207: normalise, cutout, output conversion of a level. -/
def levelOut (c : PyrCfg) (a : Augment) (stats : List (Nat × Nat)) (layout : Nat) (m : FImage) : List Nat :=
  (List.range (m.w * m.h)).flatMap fun i => (List.range c.channels).map fun k =>
    let v := m.vals.getD (i * c.channels + k) 0
    if isAlpha layout c.channels k then pyrOut c.dtype v
    else
      let v :=
        if !a.on 7 then v
        else if c.stats then let t := stats.getD k (0, 0); fMul (fSub v t.1) t.2
        else fMul (fSub v (a.mean.getD k 0)) (a.invStd.getD k 0)
      pyrOut c.dtype (if a.on 9 && inCutout c a m.w m.h (i % m.w) (i / m.w) then a.cutValue else v)

/-- R202 to R210: the E values of one picture. -/
def pyramid (c : PyrCfg) (a : Augment) (seed : Bytes) (byTile : Option BandDeal) (sample layout : Nat)
    (crop : Nat × Nat × Nat × Nat) (m : FImage) : List Nat :=
  let zero := levelZero c a m crop
  let first := levelValues c a seed sample layout 0 zero
  let stats := if c.stats then (List.range c.channels).map (imageStats byTile first) else []
  levelOut c a stats layout first ++ (List.range (c.levels - 1)).flatMap fun l =>
    levelOut c a stats layout (levelValues c a seed sample layout (l + 1) (levelNext c zero (l + 1)))

/-! ### Steered crops (R206) -/

/-- The sum of activity of a window of blocks. -/
def windowSum (map : Array Nat) (mw w h bx by_ : Nat) : Nat :=
  ((List.range h).map fun j => ((List.range w).map fun i => map.getD ((by_ + j) * mw + bx + i) 0).sum).sum

/-- R206: the window with the greatest sum, lowest b_y then lowest b_x first. -/
def bestWindow (map : List Nat) (mw mh w h : Nat) : Nat × Nat :=
  let m := map.toArray
  let all := (List.range (mh + 1 - h)).flatMap fun y => (List.range (mw + 1 - w)).map fun x => (x, y)
  (all.foldl (fun (best : Option ((Nat × Nat) × Nat)) p =>
    let v := windowSum m mw w h p.1 p.2
    match best with
    | none => some (p, v)
    | some b => if b.2 < v then some (p, v) else best) none |>.map Prod.fst).getD (0, 0)

/-- R203, R206: the crop of a picture of `w` by `h`, with the map of its predecessor if there is one. -/
def cropOf (a : Augment) (w h : Nat) (map : Option (Nat × Nat × List Nat)) : Nat × Nat × Nat × Nat :=
  let own := if a.crop.2.2.1 = 0 then (0, 0, w, h) else a.crop
  if a.on 10 then
    match map with
    | some (mw, mh, vs) =>
      let bw := a.crop.2.2.1 / 16
      let bh := a.crop.2.2.2 / 16
      if vs.any (· != 0) && decide (bw ≤ mw) && decide (bh ≤ mh) then
        let b := bestWindow vs mw mh bw bh
        (16 * b.1, 16 * b.2, a.crop.2.2.1, a.crop.2.2.2)
      else own
    | none => own
  else own

/-! ### One sample -/

/-- What a PYRAMID job reads of a picture: shape words, values, bytes of a value, the map that steers it. -/
structure PyrIn where
  words : List Nat
  values : List Nat
  size : Nat
  map : Option (Nat × Nat × List Nat)
deriving DecidableEq, Repr

def wordChannels (ws : List Nat) : Nat := fieldOf (ws.getD 2 0) 0 4
def wordLayout (ws : List Nat) : Nat := fieldOf (ws.getD 2 0) 4 4
def wordReason (ws : List Nat) : Nat := fieldOf (ws.getD 3 0) 24 8
def wordDetail (ws : List Nat) : Nat := fieldOf (ws.getD 3 0) 0 16

/-- The flat layout of native 4:2:0 planes: each chroma value serves its 2 by 2 luma samples (log 38). -/
def flatOfNative (w h channels : Nat) (vs : List Nat) : List Nat :=
  if channels = 1 then vs
  else
    let a := vs.toArray
    let cw := (w + 1) / 2
    let ch := (h + 1) / 2
    (List.range h).flatMap fun y => (List.range w).flatMap fun x =>
      let c := y / 2 * cw + x / 2
      [a.getD (y * w + x) 0, a.getD (w * h + c) 0, a.getD (w * h + cw * ch + c) 0]

/-- One picture: a void with its reason and DETAIL, or its values with the crop used. -/
def pyrPicture (c : PyrCfg) (a : Augment) (seed : Bytes) (byTile : Option BandDeal) (sample : Nat) (i : PyrIn) :
    Except (Nat × Nat) (List Nat × List Nat) :=
  let layout := wordLayout i.words
  if wordReason i.words ≠ 0 then .error (wordReason i.words, wordDetail i.words)
  else if (mapChannels layout c.channels [] 0).isNone then .error (0x20, 1)
  else
    let w := i.words.getD 0 0
    let h := i.words.getD 1 0
    let crop := cropOf a w h i.map
    let m := sourceImage w h (wordChannels i.words) i.size i.values
    .ok (pyramid c a seed byTile sample layout crop m, [crop.1, crop.2.1, crop.2.2.1, crop.2.2.2])

/-- One sample: its pictures in order; the first void voids it. -/
def pyrSample (c : PyrCfg) (a : Augment) (seed : Bytes) (byTile : Option BandDeal) (index role : Nat) (ps : List PyrIn) : SampleOut :=
  let rs := ps.map (pyrPicture c a seed byTile index)
  match rs.findSome? fun r => match r with | .error x => some x | .ok _ => none with
  | some (r, d) => { index := index, reason := r, detail := d, role := if role = 0 then 5 else role, words := [0, d + 2 ^ 24 * r],
                     parts := ps.map fun _ => [] }
  | none =>
    let ok := rs.filterMap fun r => match r with | .ok x => some x | .error _ => none
    let parts := ok.map Prod.fst
    { index := index, words := [if parts.isEmpty then 0 else c.count, 0], values := parts.flatten, parts := parts,
      crops := ok.map Prod.snd }

/-! ### Check 7 (R201, R202, R209, R211, R212) -/

/-- A tensor in HOST space. -/
def inHost : Option Desc → Bool
  | none => false
  | some d => d.space == 0

/-- R201: the records that the job selects are admissible and suit its output. -/
def State.recordsOk (s : State) (e : Nat) (host : HostMem) (r : Run) (p : Snap) (n : Nat) : Bool :=
  let c := pyrCfg p
  (List.range n).all fun k =>
    match s.augBytes e host p k with
    | none => false
    | some b => augOk b &&
        (c.dtype != 1 || !((augOf b).on 7 || (augOf b).on 8)) &&
        (!(augOf b).on 8 || (Tab.find r.seeds c.seed).isSome)

/-- R211, R212: check 7 of a PYRAMID START. -/
def State.pyramidOk (s : State) (e : Nat) (host : HostMem) (r : Run) (p : Snap) (n : Nat) : Bool :=
  let c := pyrCfg p
  p.bodyWords == 5 && decide (p.split ≤ 1) && loopsZero p &&
    slotsOnly p [0, 1, 2, 3] [0, 1, 2] [0] &&
    present (!p.streamIn) (p.inSlot 0) && present (!p.streamIn) (p.inSlot 3) &&
    (p.streamIn || (
      (match p.input 0 with | some d => (d.dtype == 1 || d.dtype == 3) && d.rank == 2 && decide (n ≤ d.extent 1) && plainSpace d | none => false) &&
      isWords 4 n (p.input 3) && ((p.input 3).map plainSpace).getD false)) &&
    (p.inSlot 1 == 0xFF || (inHost (p.input 1) && (match p.input 1 with | some d => d.dtype == 1 && d.rank == 2 && d.extent 0 == 128 | none => false))) &&
    (p.inSlot 2 == 0xFF || (match p.input 2 with | some d => d.dtype == 3 && d.rank == 3 && d.extent 2 == n && plainSpace d | none => false)) &&
    (p.idxSlot 0 == 0xFF || (inHost (p.index 0) && isIndex (p.index 0) && (match p.index 0 with | some d => d.rank == 1 | none => false))) &&
    present (!p.streamOut) (p.outSlot 0) &&
    (p.outSlot 0 == 0xFF || (match p.output 0 with
      | some d => d.dtype == c.dtype && d.rank == 2 && decide (c.count ≤ d.extent 0) && d.extent 1 == n | none => false)) &&
    (p.outSlot 1 == 0xFF || (match p.output 1 with | some d => d.dtype == 5 && d.shape == [2, n] | none => false)) &&
    (p.outSlot 2 == 0xFF || (match p.output 2 with | some d => d.dtype == 5 && d.shape == [4, n] | none => false)) &&
    (p.streamOut || p.outSlot 1 != 0xFF) &&
    decide (1 ≤ c.outW) && decide (c.outW ≤ 16384) && decide (1 ≤ c.outH) && decide (c.outH ≤ 16384) &&
    decide (1 ≤ c.levels) && decide (c.levels ≤ 6) &&
    (c.dtype == 1 || c.dtype == 9 || c.dtype == 0xA || c.dtype == 0xB) &&
    (c.channels == 1 || c.channels == 3 || c.channels == 4) &&
    ((List.range 5).all fun i =>
      let x := c.scales.getD i (0, 0)
      if i + 1 < c.levels then
        decide (1 ≤ x.1) && decide (x.1 ≤ x.2) && decide (1 ≤ (c.size (i + 1)).1) && decide (1 ≤ (c.size (i + 1)).2)
      else x.1 == 0 && x.2 == 0) &&
    decide (c.count ≤ 2 ^ 28) && s.recordsOk e host r p n

/-- The tensors of a PYRAMID job take sample `k` (R212). TD_OUT[0] and TD_OUT[2] have one place for a sample; of a sample of several
frames they take the first (DESIGN CHOICE, log 74). -/
def State.pyrRetire (s : State) (e : Nat) (p : Snap) (k : Nat) (o : SampleOut) : State :=
  let s := match p.output 0 with
    | some d => s.writeElems e 5 d ((List.range (d.extent 0)).map fun i => ([i, k], (o.parts.headD []).getD i d.fillElem))
    | none => s
  let s := match p.output 1 with
    | some d => s.writeElems e 5 d [([0, k], o.words.getD 0 0), ([1, k], o.words.getD 1 0)]
    | none => s
  match p.output 2 with
  | some d => s.writeElems e 5 d ((List.range 4).map fun i => ([i, k], (o.crops.headD []).getD i 0))
  | none => s

end Sys2Proof.Machine
end

