-- ==== Sys2Proof/Machine/Pack.lean ====
section
/-!
DEFINITION. The PACK role (09_batch_assembly.md, R241 to R259): length items, shuffle, placement, windows, Spawns, the
plan exchange, and its checks.
-/

namespace Sys2Proof.Machine

/-! ### The SCB (R242) -/

structure PackCfg where
  mode : Nat
  marks : Nat
  shuffle : Bool
  backfill : Bool
  lenfmt : Nat
  seed : Nat
  streamId : Nat
  channels : Nat
  spawnRows : Nat
  packWin : Nat
  shufWin : Nat
  rowBase : Nat
  spanBase : Nat
  spanCount : Nat
  itemLen : Nat
  deadline : Nat
  exch : Nat
deriving DecidableEq, Repr

def packCfg (p : Snap) : PackCfg :=
  { mode := p.fld 0 0 2, marks := p.fld 0 2 2, shuffle := p.bit 0 4, backfill := p.bit 0 5, lenfmt := p.fld 0 8 3,
    seed := p.fld 0 12 4, streamId := p.fld 0 16 16, channels := p.fld 0 32 4, spawnRows := p.fld 0 48 16,
    packWin := p.fld 1 0 32, shufWin := p.fld 1 32 32, rowBase := p.body 2, spanBase := p.body 3,
    spanCount := p.fld 4 0 32, itemLen := p.fld 4 32 32, deadline := p.fld 5 0 32, exch := p.body 6 }

/-- The rows per plan row, and the assignment block. -/
def PackCfg.rpr (c : PackCfg) : Nat := 1 + c.marks
def PackCfg.block (c : PackCfg) : Nat := if c.shuffle then c.shufWin else c.packWin

/-! ### Length items (R245, R246) -/

/-- R264: the role that a void carried in by a length input names. -/
def lenRole (fmt : Nat) : Nat := match fmt with | 0 => 4 | 1 => 5 | 3 => 0x10 | 5 => 0x11 | _ => 0

/-- R245: the item of a length record's words. -/
def lenItem (c : PackCfg) (ws : List Nat) : Item :=
  let w := fun i => ws.getD i 0
  let shaped := fun (len : Nat) =>
    if wordReason ws ≠ 0 then { len := 0, reason := wordReason ws, detail := wordDetail ws, role := lenRole c.lenfmt }
    else if (mapChannels (wordLayout ws) c.channels [] 0).isNone then ({ len := 0, reason := 0x20, detail := 1, role := 6 } : Item)
    else { len := len }
  match c.lenfmt with
  | 0 => { len := fieldOf (w 0) 0 24, reason := fieldOf (w 0) 24 8, role := lenRole 0 }
  | 1 => { len := w 0, reason := fieldOf (w 1) 24 8, detail := fieldOf (w 1) 0 16, role := lenRole 1 }
  | 2 => shaped c.itemLen
  | 3 => shaped (w 4 * c.itemLen)
  | 4 => { len := fieldOf (w 0) 0 32, reason := fieldOf (w 0) 32 8, detail := fieldOf (w 0) 40 16 }
  | _ => { len := w 0, reason := w 1, detail := w 2, role := lenRole 5 }

/-- R246: the position limit of a profile. -/
def Profile.posLimit (f : Profile) : Nat := if f.scheme = 2 then 2 ^ 28 else f.t

/-- R246: with MARKS 2 a sample beyond the position limit is voided. -/
def limitItem (c : PackCfg) (limit : Nat) (i : Item) : Item :=
  if c.marks = 2 ∧ i.reason = 0 ∧ limit < i.len then { len := 0, reason := 0x24, role := 6 } else i

/-- R245: the 8 bytes of an item. -/
def Item.bytes (i : Item) : Bytes := leBytes 4 i.len ++ leBytes 1 i.reason ++ leBytes 2 i.detail ++ [0]

/-- The values that an item places: none of a voided sample. -/
def Item.places (i : Item) : Nat := if i.reason = 0 then i.len else 0

/-! ### Shuffle (R247) -/

/-- R247: the swaps from position `i` down. -/
def shuffleGo (x : Nat → Nat) : Nat → Array Nat → Array Nat
  | 0, a => a
  | i + 1, a =>
    let j := x (i + 1) * (i + 2) / 2 ^ 32
    let u := a.getD (i + 1) 0
    let v := a.getD j 0
    shuffleGo x i ((a.setIfInBounds (i + 1) v).setIfInBounds j u)

/-- R247: a shuffle window of `n` samples from `first` on. -/
def shuffleWindow (seed : Bytes) (streamId first n : Nat) : List Nat :=
  let x := fun i => field32 (hostBlock seed streamId (first % 2 ^ 48) 0x06 (i / 16)) (i % 16)
  (shuffleGo x (n - 1) ((List.range n).map fun k => first + k).toArray).toList

/-- The shuffled order of `n` samples from `first` on (`fuel` bounds the windows). -/
def shuffledFrom (c : PackCfg) (seed : Bytes) : Nat → Nat → Nat → List Nat
  | 0, _, _ => []
  | f + 1, first, n =>
    if n = 0 then []
    else if c.shuffle then
      let k := min n (max c.shufWin 1)
      shuffleWindow seed c.streamId first k ++ shuffledFrom c seed f (first + k) (n - k)
    else (List.range n).map fun k => first + k

def shuffled (c : PackCfg) (seed : Bytes) (first n : Nat) : List Nat := shuffledFrom c seed (n + 1) first n

/-! ### Placement (R249) -/

/-- A segment of a plan row being built: place in the window, first position in the sample, offset, length. -/
structure Seg where
  k : Nat
  pos : Nat
  off : Nat
  len : Nat
deriving DecidableEq, Repr

/-- The filled slots of a row. -/
def rowFill (r : List Seg) : Nat := (r.map Seg.len).sum

/-- The piece takes the lowest row that holds it, else a new one. -/
def placePiece (l : Nat) (s : Seg) : List (List Seg) → List (List Seg)
  | [] => [[{ s with off := 0 }]]
  | r :: rs =>
    if s.len ≤ l - rowFill r ∧ r.length < 65535 then (r ++ [{ s with off := rowFill r }]) :: rs
    else r :: placePiece l s rs

/-- Pieces by length descending, then by place ascending. -/
def insertPiece (s : Seg) : List Seg → List Seg
  | [] => [s]
  | x :: xs => if x.len < s.len then s :: x :: xs else x :: insertPiece s xs

/-- R249: the plan rows of a window from its lengths in shuffled order. -/
def planWindow (l : Nat) (lens : List Nat) : List (List Seg) :=
  let at_ := fun k => lens.getD k 0
  let ks := List.range lens.length
  let whole := ks.flatMap fun k => (List.range (at_ k / l)).map fun i => [({ k := k, pos := i * l, off := 0, len := l } : Seg)]
  let pieces := (ks.filter fun k => at_ k % l != 0).foldl (fun ps k =>
    insertPiece { k := k, pos := at_ k / l * l, off := 0, len := at_ k % l } ps) []
  whole ++ pieces.foldl (fun rows p => placePiece l p rows) []

/-- R250: the value, SEG_ID and SEG_POS of the slots that the segments from number `n` on fill. `vals` gives the
values of a sample of the window, none for one that arrived voided. -/
def fillSlots (vals : Nat → Option (Array Nat)) : Nat → List Seg → List (Nat × Nat × Nat)
  | _, [] => []
  | n, s :: ss =>
    ((List.range s.len).map fun i =>
      match vals s.k with
      | some v => (v.getD (s.pos + i) 0, n, s.pos + i)
      | none => (0, 0, 0)) ++ fillSlots vals (n + 1) ss

/-- R250, R251: a plan row of `l` slots with its segments by sample. -/
def planRow (l g : Nat) (samples : List Nat) (vals : Nat → Option (Array Nat)) (segs : List Seg) : PlanRow :=
  let fs := fillSlots vals 1 segs
  let pad := List.replicate (l - fs.length) 0
  { g := g, data := fs.map (fun x => x.1) ++ pad, segId := fs.map (fun x => x.2.1) ++ pad, segPos := fs.map (fun x => x.2.2) ++ pad,
    segs := segs.map fun s => (samples.getD s.k 0, s.off, s.len) }

/-- R265: where the samples of a window stand: per sample the data row and offset of its first value, and the rows it
touches. -/
def placeWindow (base rpr : Nat) (samples : List Nat) (rows : List (List Seg)) : List (Nat × Nat × Nat × Nat) :=
  (List.range samples.length).filterMap fun k =>
    let mine := (List.range rows.length).filter fun r => (rows.getD r []).any fun s => s.k == k
    match (List.range rows.length).findSome? fun r => ((rows.getD r []).find? fun s => s.k == k && s.pos == 0).map fun s => (r, s.off) with
    | some (r, off) => some (samples.getD k 0, base + rpr * r, off, mine.length)
    | none => none

/-! ### Windows (R248, R258, R259) -/

/-- The samples of the present window. -/
def Packing.front (k : Packing) (c : PackCfg) : List Nat := k.waiting.take c.packWin

/-- The present window is the job's last. -/
def Packing.isLast (k : Packing) (c : PackCfg) : Bool := decide (k.waiting.length ≤ c.packWin)

/-- R258: the tick at which the window's first sample retired. -/
def Packing.t0 (k : Packing) (c : PackCfg) : Option Nat :=
  ((k.front c).filterMap fun i => Tab.find k.arrived i).foldl (fun m t => match m with | none => some t | some x => some (min x t)) none

/-- R258: the end of the window's deadline. -/
def Packing.windowEnd (k : Packing) (c : PackCfg) : Option Nat :=
  if c.deadline = 0 ∨ k.isLast c = true then none else (k.t0 c).map (· + c.deadline)

/-- R258: the sample has retired in time for the window. -/
def Packing.inTime (k : Packing) (c : PackCfg) (i : Nat) : Bool :=
  match Tab.find k.arrived i, k.windowEnd c with
  | none, _ => false
  | some _, none => true
  | some t, some e => decide (t < e)

/-- R258: the window packs: each of its samples has retired. -/
def Packing.ready (k : Packing) (c : PackCfg) : Bool := !k.waiting.isEmpty && (k.front c).all (k.inTime c)

/-- R259: a voided sample leaves its window; the first sample of the later windows takes its place. Gives whether one
moved up. -/
def Packing.backfillOne (k : Packing) (c : PackCfg) (i : Nat) : Packing × Bool :=
  match k.waiting.findIdx? (· == i) with
  | none => (k, false)
  | some p =>
    let q := (p / c.packWin + 1) * c.packWin
    if q < k.waiting.length then ({ k with waiting := (k.waiting.set p (k.waiting.getD q 0)).eraseIdx q }, true)
    else ({ k with waiting := k.waiting.eraseIdx p }, false)

/-- R258: at a deadline's end the window keeps the samples in time; the others move to the head of the next. Gives the
number moved. -/
def Packing.moveLate (k : Packing) (c : PackCfg) : Packing × Nat :=
  let late := (k.front c).filter fun i => !k.inTime c i
  ({ k with waiting := (k.front c).filter (k.inTime c) ++ late ++ k.waiting.drop c.packWin }, late.length)

/-- The window of `samples` packs at base `base`: its rows join those that wait for a Spawn. -/
def Packing.packWindow (k : Packing) (c : PackCfg) (l base : Nat) (planned : Bool) (samples : List Nat) : Packing :=
  let item := fun i => Tab.getD k.items i { len := 0 }
  let rows := planWindow l (samples.map fun i => (item i).places)
  let vals := fun n =>
    let i := samples.getD n 0
    match Tab.find k.values i with
    | some v => some v.toArray
    | none => none
  { k with
    waiting := k.waiting.drop samples.length,
    window := k.window + 1,
    used := if planned then k.used else k.used + c.rpr * rows.length,
    rows := k.rows ++ (List.range rows.length).map fun r => planRow l (base + c.rpr * r) samples vals (rows.getD r []),
    placed := (placeWindow base c.rpr samples rows).foldl (fun t x => Tab.put t x.1 x.2) k.placed }

/-- R253: a Spawn is due: more plan rows wait than one holds, or every window has packed and the LAST Spawn has not left. -/
def Packing.due (k : Packing) (c : PackCfg) : Bool :=
  !k.finished && (decide (c.spawnRows < k.rows.length) || k.waiting.isEmpty)

/-- R253: the header of a Spawn record. -/
def spawnHead (x : Label) (r : Run) (first : Nat) (rows : List PlanRow) (rpr dtype : Nat) (last : Bool) : Bytes :=
  leBytes 8 r.step ++ leBytes 8 first ++ leBytes 4 rows.length ++ leBytes 1 rpr ++ leBytes 1 dtype ++ leBytes 2 r.label ++
    leBytes 1 r.gen ++ leBytes 1 x.profile ++ leBytes 1 (ofBool last) ++ zeroBytes 5 ++
    leBytes 4 ((rows.map fun w => ((w.segId.filter (· != 0)).eraseDups).length).sum) ++ zeroBytes 28

/-! ### The plan exchange (R255, R256) -/

/-- R255: the message of a MODE 1 job. -/
def exchMessage (c : PackCfg) (step first : Nat) (items : List Item) : Bytes :=
  let body := items.flatMap Item.bytes
  asciiBytes "HYNUSPLX" ++ leBytes 8 step ++ leBytes 8 c.spanBase ++ leBytes 8 first ++ leBytes 4 items.length ++
    leBytes 4 c.packWin ++ leBytes 4 c.shufWin ++ zeroBytes 4 ++ sha256 body ++ zeroBytes 48 ++ body

/-- R255: the messages of a global length list from `first` on: their items, none when a rule fails (`fuel` bounds
the messages). -/
def parseExch (c : PackCfg) (step : Nat) : Nat → Nat → Bytes → Option (List Bytes)
  | 0, _, _ => none
  | f + 1, first, b =>
    let n := leAt b 32 4
    let body := slice b 128 (8 * n)
    let rest := b.drop (128 + 8 * n)
    let last := first + n == c.spanBase + c.spanCount
    if b.length < 128 + 8 * n ∨ slice b 0 8 ≠ asciiBytes "HYNUSPLX" ∨ leAt b 8 8 ≠ step ∨ leAt b 16 8 ≠ c.spanBase ∨
        leAt b 24 8 ≠ first ∨ leAt b 36 4 ≠ c.packWin ∨ leAt b 40 4 ≠ c.shufWin ∨ leAt b 44 4 ≠ 0 ∨
        slice b 48 32 ≠ sha256 body ∨ allZero (slice b 80 48) = false ∨
        ((chunks 8 body).any fun i => leAt i 7 1 != 0) = true ∨ c.block = 0 ∨ (first - c.spanBase) % c.block ≠ 0 ∨
        (rest.isEmpty = false ∧ n % c.block ≠ 0) then none
    else if rest.isEmpty then (if last then some (chunks 8 body) else none)
    else (parseExch c step f (first + n) rest).map (chunks 8 body ++ ·)

/-- The bytes of a rank 1 u8 tensor. -/
def State.tensorBytes (s : State) (e stage : Nat) (host : HostMem) (d : Desc) : Bytes :=
  (List.range (d.extent 0)).map fun i => BitVec.ofNat 8 (s.readElem e stage host d [i])

/-- R255: the items of the global length list that TD_IN[3] holds. -/
def State.globalList (s : State) (e : Nat) (host : HostMem) (c : PackCfg) (step : Nat) (p : Snap) : Option (List Bytes) :=
  match p.input 3 with
  | none => none
  | some d => let b := s.tensorBytes e 6 host d; parseExch c step (b.length / 128 + 1) c.spanBase b

/-- R256: the global row index of the first data row of each window of the span. -/
def planBases (l rpr : Nat) : Nat → List (List Nat) → List Nat
  | _, [] => []
  | base, w :: ws => base :: planBases l rpr (base + rpr * (planWindow l w).length) ws

/-- R256: the windows' lengths of a span from its items. -/
def spanWindows (c : PackCfg) (seed : Bytes) (limit : Nat) (items : List Bytes) : List (List Nat) :=
  let a := (items.map fun b => (limitItem c limit (lenItem { c with lenfmt := 4 } [leNat b])).places).toArray
  let order := shuffled c seed c.spanBase c.spanCount
  groupsOf c.packWin order.length (order.map fun i => a.getD (i - c.spanBase) 0)

/-- R256: the receipt. -/
def planReceipt (c : PackCfg) (step : Nat) (items : List Bytes) : Bytes :=
  asciiBytes "HYNUSPLR" ++ leBytes 8 step ++ leBytes 8 c.spanBase ++ leBytes 4 c.spanCount ++ zeroBytes 4 ++ sha256 items.flatten

/-! ### Lists of voids and places (R264, R265) -/

/-- R264: an entry of the void list. -/
def voidEntry (index reason detail role : Nat) : Bytes :=
  leBytes 8 index ++ leBytes 1 reason ++ [0] ++ leBytes 2 detail ++ leBytes 1 role ++ zeroBytes 3

/-- R265: an entry of the placement map. -/
def placeEntry (p : Option (Nat × Nat × Nat)) : Bytes :=
  match p with
  | none => zeroBytes 16
  | some (g, off, n) => leBytes 8 g ++ leBytes 4 off ++ leBytes 4 n

/-- A u8 tensor of EXTENT (16, n) takes entries. -/
def State.writeEntries (s : State) (e : Nat) (d : Desc) (es : List Bytes) : State :=
  s.writeElems e 6 d ((List.range es.length).flatMap fun k =>
    (List.range 16).map fun i => ([i, k], ((es.getD k []).getD i 0).toNat))

/-! ### Check 7 (R243, R244) -/

/-- R243: the length input of a job. -/
def lenInputOk (c : PackCfg) (n : Nat) (d : Option Desc) : Bool :=
  match d with
  | none => false
  | some x =>
    x.dtype == 5 && plainSpace x &&
    (match c.lenfmt with
      | 0 => x.rank == 1 && decide (n ≤ x.extent 0)
      | 1 => isWords 2 n d
      | 2 => isWords 4 n d
      | 3 => isWords 5 n d
      | _ => false)

/-- A route ends at an entry of a role (R42, R146). -/
def State.entryRole (s : State) (ep : Nat) : Option Nat :=
  match s.sil.active with
  | none => none
  | some im => if ep < 144 then some (im.roles.getD ep (0, 0)).1 else none

/-- R242 to R244: check 7 of a PACK START; `first` is the global index of its first sample, `n` their number. -/
def State.packOk (s : State) (e : Nat) (host : HostMem) (r : Run) (p : Snap) (first n : Nat) : Bool :=
  let c := packCfg p
  let classC := r.cls == 0
  let m0 := c.mode == 0
  let shaped := c.lenfmt == 2 || c.lenfmt == 3
  p.bodyWords == 7 && p.split == 0 && loopsZero p &&
    slotsOnly p [0, 1, 2, 3] [0, 1, 2] [] &&
    decide (c.mode ≤ 2) && decide (c.marks ≤ 2) && decide (c.lenfmt ≤ 5) &&
    (m0 || classC) && (!classC || (!c.backfill && c.deadline == 0)) &&
    (m0 || (!p.streamIn && !p.streamOut && p.routeIn == 0xFFFF && p.routeOut == 0xFFFF)) &&
    (if m0 then
      (if classC then c.lenfmt == 0 || shaped else c.lenfmt == 0 || c.lenfmt == 1 || (c.lenfmt == 5 && p.streamIn &&
        (match s.route p.routeIn with | some x => isVcore x.src | none => false)))
     else if c.mode = 1 then c.lenfmt == 0 || shaped else c.lenfmt == 4) &&
    ((c.itemLen != 0) == shaped) && (if shaped then c.channels == 1 || c.channels == 3 || c.channels == 4 else c.channels == 0) &&
    (c.shuffle || (c.seed == 0 && c.streamId == 0)) &&
    decide (1 ≤ c.packWin) && decide (c.packWin ≤ 65536) &&
    (if c.shuffle then c.shufWin != 0 && c.shufWin % c.packWin == 0 && decide (c.shufWin ≤ 2 ^ 20) else c.shufWin == 0) &&
    (if m0 then decide (1 ≤ c.spawnRows) && decide (c.spawnRows ≤ 4096) else c.spawnRows == 0) && (c.mode != 1 || c.rowBase == 0) &&
    (if classC then
      decide (1 ≤ c.spanCount) && decide (c.spanCount ≤ 2 ^ 28) && decide (c.spanBase ≤ first) &&
        (first - c.spanBase) % c.block == 0 && decide (first + n ≤ c.spanBase + c.spanCount) &&
        ((first + n - c.spanBase) % c.block == 0 || first + n == c.spanBase + c.spanCount)
     else c.spanBase == 0 && c.spanCount == 0) &&
    (if m0 then c.exch == 0 else c.exch % 64 == 0) &&
    present (m0 && !p.streamIn) (p.inSlot 0) &&
    (p.inSlot 0 == 0xFF || (match p.input 0 with
      | some d => !d.isPlane && d.rank == 2 && d.extent 1 == n && plainSpace d | none => false)) &&
    present ((m0 && (classC || !p.streamIn)) || c.mode == 1) (p.inSlot 1) &&
    (p.inSlot 1 == 0xFF || lenInputOk c n (p.input 1)) &&
    present (m0 && classC) (p.inSlot 2) &&
    (p.inSlot 2 == 0xFF || (match p.input 2 with | some d => d.dtype == 7 && d.rank == 1 && plainSpace d | none => false)) &&
    present (c.mode == 2) (p.inSlot 3) &&
    (p.inSlot 3 == 0xFF || (inHost (p.input 3) && (match p.input 3 with | some d => d.dtype == 1 && d.rank == 1 | none => false))) &&
    present (c.mode == 2) (p.outSlot 0) &&
    (p.outSlot 0 == 0xFF || (match p.output 0 with
      | some d => d.dtype == 7 && d.shape == [(c.spanCount + c.packWin - 1) / c.packWin] | none => false)) &&
    (p.outSlot 1 == 0xFF || (m0 && (match p.output 1 with | some d => d.dtype == 1 && d.shape == [16, n] | none => false))) &&
    (p.outSlot 2 == 0xFF || (m0 && (match p.output 2 with | some d => d.dtype == 1 && d.shape == [16, n] | none => false))) &&
    (!m0 || (p.streamOut && (match s.route p.routeOut with | some x => s.entryRole x.dst == some 8 | none => false))) &&
    (c.mode != 2 || (s.globalList e host c r.step p).isSome)

end Sys2Proof.Machine
end

