-- ==== Sys2Proof/Machine/Recorder.lean ====
section
/-!
DEFINITION. The event recorder (20_event_recorder.md): record bytes, the end of a flush, window reads, and the
clearing of channels. Records and flush starts themselves are in Ops.lean.
-/

namespace Sys2Proof.Machine

/-! ### Record bytes (R471) -/

/-- A record of channel `c` as the ring, a flush and a window give it. -/
def Record.bytes (r : Record) (c : Nat) : Bytes :=
  leBytes 1 (r.payload.length / 4) ++ leBytes 1 (c + 16 * r.severity) ++ leBytes 2 r.code ++ leBytes 2 r.rep ++
    leBytes 1 r.gen ++ leBytes 1 (ofBool r.gap) ++ leBytes 4 r.pcc ++ leBytes 6 r.optime ++ leBytes 6 r.last ++
    leBytes 8 r.seq ++ r.payload

/-! ### Reads by cursor (R479, R480) -/

/-- The held record with the lowest SEQ that is at least the cursor. -/
def Channel.at? (ch : Channel) (cursor : Nat) : Option Record := ch.records.find? fun r => decide (cursor ≤ r.seq)

/-- R479: the cursor is lower than the oldest SEQ held. -/
def Channel.gapAt (ch : Channel) (cursor : Nat) : Bool :=
  match ch.records with
  | [] => false
  | r :: _ => decide (cursor < r.seq)

/-- A record that a port has read is marked so. -/
def markRead (panel : Bool) (n : Nat) (rs : List Record) : List Record :=
  rs.map fun r => if r.seq = n then (if panel then { r with panelRead := true } else { r with hostRead := true }) else r

/-- R479: a LOAD of the host window at its cursor. -/
def State.windowLoad (s : State) : State :=
  let c := s.erw.winChan.toNat
  let cur := s.erw.cursor.toNat
  let ch := s.chan c
  if (c = 3 ∨ c = 4) ∧ s.cus.dbgUnlocked = false then
    (s.modErw fun e =>
      { e with winValid := false, winGap := false, winDenied := true, winGen := 0, winSeq := 0, winNext := 0,
               winData := [] }).custodyRecord 0x040B 1 (leBytes 1 c)
  else match ch.at? cur with
    | none =>
      (s.modChan c fun x => { x with hostArmed := true }).modErw fun e =>
        { e with winValid := false, winGap := ch.gapAt cur, winDenied := false, winGen := ch.hostGen,
                 winSeq := Config.emptyWinSeq cur, winNext := cur, winData := [] }
    | some r =>
      (s.modChan c fun x => { x with hostArmed := true, records := markRead false r.seq x.records }).modErw fun e =>
        { e with winValid := true, winGap := ch.gapAt cur, winDenied := false, winGen := ch.hostGen,
                 winSeq := r.seq, winNext := r.seq + 1, winData := r.bytes c }

/-- A write of ERW_WIN_CTL: the channel, and LOAD. -/
def State.writeWinCtl (s : State) (v : Nat) : State :=
  let s := s.modErw fun e => { e with winChan := BitVec.ofNat 3 v }
  if bitOf v 8 then s.windowLoad else s

/-- WINDOW_LOAD (R479). -/
def execWindowLoad (t : Nat) (value : BitVec 32) (s : State) := act t s fun s => s.writeWinCtl value.toNat

/-- The whole records from the cursor on that fit in `room` bytes. -/
def fitRecords (c room : Nat) : List Record → List Record
  | [] => []
  | r :: rs => if r.size ≤ room then r :: fitRecords c (room - r.size) rs else []

/-- R479: the records that a WINDOW_READ of the panel returns. -/
def Channel.panelRecords (ch : Channel) (c cursor maximum : Nat) : List Record :=
  fitRecords c (min maximum 1015) (ch.records.filter fun r => decide (cursor ≤ r.seq))

/-- R475: the panel's cursor frees the records below it that the panel has read. -/
def State.panelFree (s : State) (c cursor : Nat) : State :=
  if c = 3 ∨ c = 4 then
    s.modChan c fun ch =>
      { ch with records := ch.records.map fun r => if r.panelRead && decide (r.seq < cursor) then { r with free := true } else r }
  else s

/-- R479: WINDOW_DATA: generation, next cursor, records. -/
def State.windowData (s : State) (c cursor maximum : Nat) : Bytes :=
  let ch := s.chan c
  let rs := ch.panelRecords c cursor maximum
  let next := match rs.getLast? with | none => cursor | some r => r.seq + 1
  leBytes 1 ch.panelGen ++ leBytes 8 next ++ rs.flatMap fun r => r.bytes c

/-- R480: the panel has read these records. -/
def State.panelMark (s : State) (c cursor maximum : Nat) : State :=
  let rs := (s.chan c).panelRecords c cursor maximum
  s.modChan c fun ch =>
    { ch with panelArmed := true,
              records := rs.foldl (fun (acc : List Record) (r : Record) => markRead true r.seq acc) ch.records }

/-! ### Clearing (R481, R482) -/

/-- R480: a clear is a change for both ports. -/
def Channel.cleared (ch : Channel) : Channel :=
  { ch with
    records := [], gen := (ch.gen + 1) % 256,
    hostGen := if ch.hostArmed then (ch.hostGen + 1) % 256 else ch.hostGen, hostArmed := false,
    panelGen := if ch.panelArmed then (ch.panelGen + 1) % 256 else ch.panelGen, panelArmed := false }

/-- The highest SEQ that a channel holds. -/
def Channel.highest (ch : Channel) (c : Nat) : Nat :=
  match ch.records.getLast? with
  | none => Config.highestOfNone c
  | some r => r.seq

/-- R482: the channel is cleared under an authority (0 panel, 1 token). -/
def State.clearChannel (s : State) (c authority : Nat) : State :=
  let ch := s.chan c
  let n := ch.records.length
  let s := s.modChan c Channel.cleared
  let s := s.modErw fun e => { e with evt := e.evt.set 5 s.now }
  let s := s.record c 0x0001 1 (leBytes 4 n ++ leBytes 8 (ch.highest c) ++ leBytes 1 authority)
  s.record 4 0x0504 1 (leBytes 1 c ++ leBytes 4 n ++ leBytes 1 authority)

/-- R481 checks 3 to 5 for a token; 0 when it passes. -/
def State.tokenStatus (s : State) (c : Nat) (k : Bytes) : Nat :=
  if slice k 0 8 ≠ asciiBytes "HYNUSCLR" ∨ leAt k 8 2 ≠ 1 ∨ leAt k 10 1 ≠ c ∨ leAt k 11 1 ≠ 0 ∨
      allZero (slice k 72 56) = false ∨ allZero (slice k 224 32) = false then 0x12
  else match (s.sil.tokenKeys.find? fun x => x.1 == leAt k 12 4) with
    | none => 0x83
    | some key =>
      if verify384 (decodePoint curveP384 key.2) (slice k 0 128) (slice k 128 96) = false then 0x83
      else if slice k 16 48 ≠ s.cus.sessionFp ∨ leAt k 64 8 ≤ s.now ∨ (s.erw.tokens.contains (sha384 k)) = true then 0x32
      else if 256 ≤ s.erw.tokens.length then 0x40
      else 0

/-- R481: the status of RECORDER_CLEAR, 0 when every check passes. -/
def State.clearStatus (s : State) (b token : Bytes) : Nat :=
  let c := fieldOf (entLen b) 0 3
  if 4 < c ∨ ¬ ((entCount b = 256 ∧ entAddr b ≠ 0) ∨ (entCount b = 0 ∧ entAddr b = 0)) then 0x12
  else if 2 < c then 0x32
  else if entCount b = 256 then s.tokenStatus c token
  else if s.cus.clearGranted && decide (s.now < s.cus.grantEnd) then 0
  else 0x32

/-- A clear that passed takes its authority: the token is used, or the grant is consumed. -/
def State.takeAuthority (s : State) (b token : Bytes) : State :=
  if entCount b = 256 then s.modErw fun e => { e with tokens := e.tokens ++ [sha384 token] }
  else s.modCus fun c => { c with clearGranted := false }

/-- R481: the token's VERIFY runs: its form is good and its signer known. -/
def State.tokenAsks (s : State) (b token : Bytes) : Bool :=
  let st := s.clearStatus b token
  entCount b == 256 && (st == 0 || st == 0x83 || st == 0x32 || st == 0x40) && decide (fieldOf (entLen b) 0 3 ≤ 2) &&
    s.sil.tokenKeys.any fun x => x.1 == leAt token 12 4

/-- R482: a clear that passed its checks; while a flush runs, the clear runs after it (R483). -/
def State.clearPassed (s : State) (b token : Bytes) : State :=
  let c := fieldOf (entLen b) 0 3
  let authority := ofBool (entCount b == 256)
  let s := s.takeAuthority b token
  if s.erw.flush.isSome then s.adminWaits b (.clear c authority)
  else (s.endAdmin.clearChannel c authority).adminDone b 0 0

/-- RECORDER_CLEAR (R481, R482): a token's VERIFY is run by the PK engine. -/
def execRecorderClear (t : Nat) (token : Bytes) (s : State) :=
  act t s fun s => s.adminRow 0x30 fun b s =>
    if s.tokenAsks b token then s.pkAsk b .verify .recorder [] (.verify token)
    else if s.clearStatus b token ≠ 0 then s.adminDone b (s.clearStatus b token) 0
    else s.clearPassed b token

/-- R481: check 4 and those after it, once the token's VERIFY has run; a job that fails twice is a signature that does not
verify (R400). -/
def State.tokenVerified (s : State) (b token : Bytes) (aborted : Bool) : State :=
  let st := if aborted then 0x83 else s.clearStatus b token
  if st ≠ 0 then s.finishAdmin st 0 else s.clearPassed b token

/-! ### Flushes (R477, R478) -/

/-- RECORDER_FLUSH (R478). -/
def execRecorderFlush (t : Nat) (s : State) :=
  act t s fun s => s.adminRow 0x31 fun b s =>
    if s.pwr.inhibitRail ≠ 0 then s.adminDone b 0x72 0
    else
      let s := s.joinFlush 4
      if s.erw.flush.isSome then s.adminWaits b .flush else s.adminDone b 0 0

/-- R477: the flush header. -/
def Flush.header (f : Flush) (overrun : Bool) (bytes : Nat) : Bytes :=
  asciiBytes "HYNUSREC" ++ leBytes 2 1 ++ leBytes 2 (ofBool overrun) ++ leBytes 1 f.trigger ++ zeroBytes 3 ++
    leBytes 8 f.number ++ leBytes 4 f.pcc ++ leBytes 4 bytes ++ leBytes 8 f.optime ++ leBytes 8 f.opsNext ++
    leBytes 8 f.custodyNext ++ leBytes 8 f.auditNext

/-- The records that a flush took have free space from now on. -/
def State.freeTaken (s : State) (f : Flush) : State :=
  clearable.foldl (fun s c => s.modChan c fun ch =>
    { ch with records := ch.records.map fun r =>
        if f.taken.any fun x => x.1 == c && x.2.seq == r.seq then { r with free := true } else r }) s

/-- The command that waited for the flush goes on. -/
def State.flushWaiters (s : State) : State :=
  match s.waiting with
  | some .flush => s.finishAdmin 0 0
  | some (.clear c a) => (s.clearChannel c a).finishAdmin 0 0
  | _ => s

/-- R476: a further flush that was noted begins now. -/
def State.nextFlush (s : State) : State :=
  match s.erw.wait with
  | none => s
  | some tr => if s.pwr.inhibitRail ≠ 0 then s else (s.modErw fun e => { e with wait := none }).issueFlush tr

/-- R477: the end of a flush: its records and then its header are in the buffer. -/
def State.endFlush (s : State) (f : Flush) : State :=
  let data := f.taken.flatMap fun x => x.2.bytes x.1
  let overrun := bitOf s.erw.unacked.toNat f.buffer
  let s := if data.isEmpty then s else s.emit (.interior ((f.addr + 64) % 2 ^ 64) data)
  let s := s.emit (.interior f.addr (f.header overrun data.length))
  let s := s.freeTaken f
  let s := s.modErw fun e =>
    { e with flush := none, flushes := satAdd 16 e.flushes 1, unacked := setBit e.unacked f.buffer,
             evt := if overrun then (e.evt.set 0 s.now).set 1 s.now else e.evt.set 0 s.now }
  let s := if s.pwr.flushActive then
    s.modPwr fun p => { p with flushActive := false, flushDone := true, evt := p.evt.set 3 s.now } else s
  s.flushWaiters.nextFlush

/-- FLUSH_END (R477). -/
def execFlushEnd (t : Nat) (s : State) :=
  act t s fun s => match s.erw.flush with
    | none => s
    | some f => s.endFlush f

/-- R477: a write of ERW_FLUSH_ACK. -/
def State.flushAck (s : State) (v : Nat) : State :=
  s.modErw fun e =>
    let u := if bitOf v 0 then clearBit e.unacked 0 else e.unacked
    { e with unacked := if bitOf v 1 then clearBit u 1 else u }

/-- FLUSH_ACK (R477). -/
def execFlushAck (t : Nat) (value : BitVec 32) (s : State) := act t s fun s => s.flushAck value.toNat

end Sys2Proof.Machine
end

