-- ==== Sys2Proof/Machine/Halt.lean ====
section
/-!
DEFINITION. Entry into Halt-safe (R461) and the abort of PK jobs (R401).
-/

namespace Sys2Proof.Machine

/-- R401: the running PK job is Tail dropped; key slots that waited for its end are emptied (R391). -/
def State.abortPk (s : State) : State :=
  match s.pke.running with
  | none => s
  | some j =>
    let s := s.modPke fun p =>
      { p with running := none, clearing := [], keys := p.clearing.foldl Tab.del p.keys }
    if j.client = .manifests then
      s.modPke fun p => { p with held := Tab.del p.held j.manifest, lastManifest := true, ended := true }
    else s

/-- The admin command that waits and that Halt-safe ends: RECORDER_FLUSH goes on (R462), and a CLOSE_MATTER
follows the erasure of its label (R96). -/
def State.haltAdmin (s : State) : State :=
  match s.waiting with
  | none => s
  | some .flush => s
  | some (.erase _) => s
  | some _ => (s.modPke Pke.leave).finishAdmin 0x73 0

/-- R461: HALT_SAFE_ENTRY with its cause (R470). -/
def State.haltEntry (s : State) (cause : Nat) : State :=
  if s.faults.halt then s
  else
    let s := { s with faults := { s.faults with halt := true, haltCause := cause } }
    let s := (s.eraseAll 3).abortPk.haltAdmin
    let s := s.modSil fun x => { x with activating := false }
    (s.joinFlush 5).faultRecord 0x0106 4 0 0 (leBytes 1 cause)

end Sys2Proof.Machine
end

