-- ==== Sys2Proof/Machine/Image.lean ====
section
/-!
DEFINITION. Structure images (02_structure_image.md): parsing, the refusal checks, binding, the switch, microcode
reloads, and claims.
-/

namespace Sys2Proof.Machine

/-- What a port read of `n` bytes delivers. -/
def portRead (n : Nat) (data : Bytes) : Bytes := padTo n data

/-! ### Layout (R38 to R49) -/

/-- A directory entry: TYPE, reserved, COUNT, OFFSET, LENGTH. -/
structure Section where
  type : Nat
  rsv : Nat
  count : Nat
  off : Nat
  len : Nat
deriving DecidableEq, Repr

/-- The directory entry of section `i` (types 1 to 7). -/
def imgSection (d : Bytes) (i : Nat) : Section :=
  let o := 64 + 16 * (i - 1)
  { type := leAt d o 2, rsv := leAt d (o + 2) 2, count := leAt d (o + 4) 4, off := leAt d (o + 8) 4, len := leAt d (o + 12) 4 }

/-- The bytes of section `i`. -/
def imgBytes (d : Bytes) (i : Nat) : Bytes := slice d (imgSection d i).off (imgSection d i).len

/-- The fixed length of a section, if its type fixes one. DESIGN CHOICE (log 66): R39 gives COUNT no meaning for the
sections of one length (GRADE, ROLE_MAP, BUDGETS, SIGNATURE), and any COUNT is accepted there. -/
def sectionLen (i count : Nat) : Option Nat :=
  match i with
  | 1 => some 64
  | 2 => some 1152
  | 3 => some (16 * count)
  | 5 => some (8 * count)
  | 6 => some 128
  | 7 => some 128
  | _ => none

/-- R39 for section `i`, which may begin at `lo`. -/
def sectionOk (d : Bytes) (i lo : Nat) : Bool :=
  let x := imgSection d i
  x.type == i && x.off % 64 == 0 && decide (lo ≤ x.off) && decide (x.off + x.len ≤ d.length) &&
    (match sectionLen i x.count with | none => true | some n => x.len == n) &&
    (i != 7 || x.off + x.len == d.length)

/-- The first section that breaks R39, from section `i` on (`fuel` are left). -/
def badSection (d : Bytes) : Nat → Nat → Nat → Option Nat
  | 0, _, _ => none
  | f + 1, i, lo =>
    if sectionOk d i lo then badSection d f (i + 1) ((imgSection d i).off + (imgSection d i).len) else some i

/-- The number of indices of a claim kind (R63). -/
def kindIndices (k : Nat) : Nat :=
  match k with
  | 1 => 16
  | 2 => 4
  | 3 => 2
  | 4 => 1
  | 5 => 8
  | 6 => 64
  | _ => 0

/-- ARG is zero for CMP, SYL and TRACE. -/
def argless (k : Nat) : Bool := k == 2 || k == 3 || k == 4

/-- R46 for one claim entry of 8 bytes. -/
def claimOk (c : Bytes) : Bool :=
  let k := leAt c 0 1
  let i := leAt c 1 1
  decide (1 ≤ k) && decide (k ≤ 6) && (i == 0xFF || decide (i < kindIndices k)) && leAt c 2 2 == 0 &&
    (!argless k || leAt c 4 4 == 0)

/-- The place of the first element that fails. -/
def firstBad {α : Type} (ok : α → Bool) (xs : List α) : Option Nat := xs.findIdx? fun x => !ok x

/-- A refusal: reason, section, entry (R56). A section or an entry that the spec does not name is a free value
(log 45). -/
structure Refused where
  reason : Nat
  section_ : Nat := (Config.openSection reason).toNat
  entry : Nat := (Config.openEntry reason).toNat
deriving DecidableEq, Repr

/-- R56: the status of a reason. -/
def reasonStatus (r : Nat) : Nat :=
  if r = 1 ∨ r = 7 ∨ r = 0xA ∨ r = 0xC then 0x12
  else if r = 2 then 0x11
  else if r = 3 ∨ r = 4 then 0x83
  else if r = 0xE then 0x42
  else 0x40

/-- R56: RESULT. -/
def Refused.result (r : Refused) : Nat := r.reason + 2 ^ 8 * r.section_ + 2 ^ 16 * (r.entry % 65536)

/-- Reason 0x01: R38, R39, R46 and the length. -/
def imgFormat (d : Bytes) : Option Refused :=
  if d.length < 256 ∨ 67108864 < d.length ∨ slice d 0 8 ≠ asciiBytes "HYNUSIMG" ∨ leAt d 8 2 ≠ 1 ∨
      leAt d 10 2 ≠ 256 ∨ leAt d 12 4 ≠ d.length then some { reason := 1 }
  else match badSection d 7 1 256 with
    | some i => some { reason := 1, section_ := i }
    | none =>
      if 256 < (imgSection d 5).count then some { reason := 1, section_ := 5, entry := 256 }
      else match firstBad claimOk (chunks 8 (imgBytes d 5)) with
        | some i => some { reason := 1, section_ := 5, entry := i }
        | none => none

/-- A MICROCODE entry: ROLE, reserved, LENGTH, code. -/
structure MicroEntry where
  role : Nat
  rsv : Nat
  len : Nat
  code : Bytes
  /-- The section holds all of the entry, its padding too. -/
  whole : Bool
deriving DecidableEq, Repr

/-- The MICROCODE entries: the code of each is padded to a multiple of 64. -/
def microEntries : Nat → Bytes → List MicroEntry
  | 0, _ => []
  | f + 1, bs =>
    let n := leAt bs 4 4
    let size := 8 + (n + 63) / 64 * 64
    { role := leAt bs 0 1, rsv := leAt bs 1 3, len := n, code := slice bs 8 n, whole := decide (size ≤ bs.length) } ::
      microEntries f (bs.drop size)

/-- The MICROCODE entries of an image. -/
def imgMicro (d : Bytes) : List MicroEntry := microEntries (min (imgSection d 4).count 65536) (imgBytes d 4)

/-- Reason 0x02: the first reserved field or flag that is not zero. -/
def imgReserved (d : Bytes) : Option Refused :=
  if 2 ≤ leAt d 20 4 ∨ allZero (slice d 32 32) = false ∨ allZero (slice d 208 48) = false then some { reason := 2 }
  else match (List.range 7).find? fun i => (imgSection d (i + 1)).rsv != 0 with
    | some i => some { reason := 2, section_ := i + 1 }
    | none =>
      if allZero ((imgBytes d 1).drop 4) = false then some { reason := 2, section_ := 1 }
      else match firstBad (fun e => leAt e 1 1 == 0 && leAt e 4 4 == 0) (chunks 8 (imgBytes d 2)) with
        | some i => some { reason := 2, section_ := 2, entry := i }
        | none => match firstBad (fun e => leAt e 8 8 == 0) (chunks 16 (imgBytes d 3)) with
          | some i => some { reason := 2, section_ := 3, entry := i }
          | none => match firstBad (fun m => m.rsv == 0) (imgMicro d) with
            | some i => some { reason := 2, section_ := 4, entry := i }
            | none =>
              if allZero ((imgBytes d 6).drop 66) = false then some { reason := 2, section_ := 6 }
              else if allZero ((imgBytes d 7).drop 96) = false then some { reason := 2, section_ := 7 }
              else none

/-- Reasons 0x03 and 0x04: the signature over the bytes before the SIGNATURE section. -/
def imgSigned (keys : List (Nat × Bytes)) (signer : Nat) (body sig : Bytes) : Option Nat :=
  match keys.find? fun k => k.1 == signer with
  | none => some 3
  | some k => if verify384 (decodePoint curveP384 k.2) body sig then none else some 4

/-- The image that the bytes give, with its digest. -/
def imgParse (d : Bytes) : Image :=
  let g := imgBytes d 1
  let b := imgBytes d 6
  { requireSpare := bitOf (leAt d 20 4) 0, gradeReq := leAt g 0 1, stepLetter := leAt g 1 1, stepDigit := leAt g 2 1,
    regionMask := BitVec.ofNat 8 (leAt g 3 1),
    roles := (chunks 8 (imgBytes d 2)).map fun e => (leAt e 0 1, leAt e 2 2),
    routes := (chunks 16 (imgBytes d 3)).map fun e =>
      { src := leAt e 0 2, dst := leAt e 2 2, stream := leAt e 4 1, live := leAt e 5 1 == 1, rate := leAt e 6 2 },
    micro := (imgMicro d).map fun m => (m.role, m.code),
    claims := (chunks 8 (imgBytes d 5)).map fun c => { kind := leAt c 0 1, index := leAt c 1 1, arg := leAt c 4 4 },
    budgets := leWords 4 (slice b 0 64), maxLogN := leAt b 64 1, maxLimbs := leAt b 65 1,
    digest := sha384 d }

/-! ### The checks against the die (reasons 0x05 to 0x0E) -/

/-- Reasons 0x05 and 0x06. -/
def State.imgGrade (s : State) (im : Image) : Option Refused :=
  if s.sil.certOk = false ∨ ¬ (im.gradeReq = 7 ∨ (im.gradeReq = 9 ∧ s.sil.grade = 9)) then
    some { reason := 5, section_ := 1 }
  else if im.stepLetter < 0x41 ∨ 0x5A < im.stepLetter ∨ 9 < im.stepDigit ∨
      s.sil.stepLetter < im.stepLetter ∨ (s.sil.stepLetter = im.stepLetter ∧ s.sil.stepDigit < im.stepDigit) then
    some { reason := 6, section_ := 1 }
  else none

/-- The slot, region and kind of a role map index. -/
def slotOf (i : Nat) : Nat := i % 9
def regionOf (i : Nat) : Nat := i % 72 / 9
def kindOf (i : Nat) : Nat := i / 72

/-- A role that bears work: neither NONE nor SPARE. -/
def bears (role : Nat) : Bool := role != 0 && role != 0x0F

/-- R41 for the entry at index `i`, and R40's rule for slot 7. -/
def roleOk (gradeReq : Nat) (roles : List (Nat × Nat)) (i : Nat) : Bool :=
  let e := roles.getD i (0, 0)
  let kindOk := e.1 == 0 || (e.1 == 0x0F) || (kindOf i == 0 && decide (e.1 ≤ 8)) || (kindOf i == 1 && e.1 == 9)
  kindOk && ((slotOf i == 8) == (e.1 == 0x0F)) &&
    (if bears e.1 then (roles.take i).all fun x => x.1 != e.1 || x.2 == e.2 else e.2 == 0xFFFF) &&
    (gradeReq != 7 || slotOf i != 7 || e.1 == 0)

/-- Reason 0x07. -/
def imgRoles (im : Image) : Option Refused :=
  match (List.range 144).find? fun i => !roleOk im.gradeReq im.roles i with
  | some i => some { reason := 7, section_ := 2, entry := i }
  | none => none

/-- The TILE_ID of a kind, region and slot (R4). -/
def tileId (kind region slot : Nat) : Nat := 128 * kind + 16 * region + slot

/-- R52: a physical tile that can be bound: enabled, passed, neither failed, retired nor marked since. -/
def State.tileUsable (s : State) (id : Nat) : Bool :=
  let t := (s.tile id).state
  t == .unbound || t == .spare || t == .bound

/-- R52: the entries of one kind and region bound in ascending slot order: the lowest usable physical slots,
then the spare. Gives the pairs (index, TILE_ID), or the index that finds no tile. -/
def bindSlots (requireSpare spareOk : Bool) : List Nat → List Nat → Nat → List (Nat × Nat) → Except Nat (List (Nat × Nat))
  | [], _, _, acc => .ok acc
  | i :: is, free, spare, acc =>
    match free with
    | t :: ts => bindSlots requireSpare spareOk is ts spare (acc ++ [(i, t)])
    | [] => if requireSpare || !spareOk then .error i else bindSlots requireSpare false is [] spare (acc ++ [(i, spare)])

/-- R52 for one kind and region. -/
def State.bindRegion (s : State) (im : Image) (kind r : Nat) : Except Nat (List (Nat × Nat)) :=
  let entries := (List.range 8).filterMap fun k =>
    let i := kind * 72 + r * 9 + k
    if bears (im.roles.getD i (0, 0)).1 then some i else none
  let free := ((List.range 8).map fun k => tileId kind r k).filter s.tileUsable
  let spare := tileId kind r 8
  bindSlots im.requireSpare (s.tileUsable spare) entries free spare []

/-- R52 for both kinds of the listed regions. DESIGN CHOICE (log 66): where several entries find no tile, the one reported is
the first by region, then M before S, then slot. -/
def State.bindRegions (s : State) (im : Image) : List Nat → Except Nat (List (Nat × Nat))
  | [] => .ok []
  | r :: rs =>
    match s.bindRegion im 0 r, s.bindRegion im 1 r, s.bindRegions im rs with
    | .ok a, .ok b, .ok c => .ok (a ++ b ++ c)
    | .error i, _, _ => .error i
    | _, .error i, _ => .error i
    | _, _, .error i => .error i

/-- R52: the whole binding, over the regions in service. -/
def State.bindAll (s : State) (im : Image) : Except Nat (List (Nat × Nat)) :=
  s.bindRegions im (regionNumbers.filter s.inService)

/-- Reasons 0x08 and 0x09. -/
def State.imgBinds (s : State) (im : Image) : Option Refused :=
  match s.bindAll im with
  | .error i => some { reason := 8, section_ := 2, entry := i }
  | .ok _ =>
    if regionNumbers.any fun r => bitOf im.regionMask.toNat r && !s.inService r then some { reason := 9, section_ := 1 }
    else none

/-- R42: a good endpoint. -/
def endpointOk (roles : List (Nat × Nat)) (e : Nat) : Bool :=
  if e < 144 then bears (roles.getD e (0, 0)).1
  else e == 0x100 || e == 0x101 || e == 0x102 || (decide (0x110 ≤ e) && decide (e < 0x118)) ||
    (decide (0x120 ≤ e) && decide (e < 0x130))

/-- The role at an endpoint; none for a port. -/
def roleAtEnd (roles : List (Nat × Nat)) (e : Nat) : Option Nat :=
  if e < 144 then some (roles.getD e (0, 0)).1 else none

/-- R42 and R44 for one route entry of 16 bytes among all of them. DESIGN CHOICE (log 66): a tile counts as fed by a live
route where any live route ends at it, so live routes that feed each other in a ring are accepted. -/
def routeOk (im : Image) (raw : Bytes) (r : Route) : Bool :=
  endpointOk im.roles r.src && endpointOk im.roles r.dst && r.dst != 0x100 && r.src != 0x101 &&
    decide (leAt raw 5 1 ≤ 1) &&
    (roleAtEnd im.roles r.src != some 8 || roleAtEnd im.roles r.dst == some 6) &&
    (!r.live || r.src == 0x100 || (decide (0x120 ≤ r.src) && decide (r.src < 0x130)) ||
      (decide (r.src < 144) && im.routes.any fun x => x.live && x.dst == r.src))

/-- Reason 0x0A. -/
def imgRoutes (im : Image) (d : Bytes) : Option Refused :=
  if 4096 < im.routes.length then some { reason := 0xA, section_ := 3, entry := 4096 }
  else match firstBad (fun x => routeOk im x.1 x.2) ((chunks 16 (imgBytes d 3)).zip im.routes) with
    | some i => some { reason := 0xA, section_ := 3, entry := i }
    | none => none

/-- The region of an endpoint; none for the spine units. -/
def regionAtEnd (e : Nat) : Option Nat :=
  if e < 144 then some (regionOf e)
  else if 0x110 ≤ e ∧ e < 0x118 then some (e - 0x110)
  else if 0x120 ≤ e ∧ e < 0x130 then some ((e - 0x120) / 2)
  else none

/-- The links: ports out of and into each endpoint, combined ports, and the spine links up and down. -/
def linkOut (e : Nat) : Nat := if e = 0x102 ∨ (0x110 ≤ e ∧ e < 0x118) then 4 * e else 4 * e + 1
def linkIn (e : Nat) : Nat := if e = 0x102 ∨ (0x110 ≤ e ∧ e < 0x118) then 4 * e else 4 * e + 2
def linkUp (r : Nat) : Nat := 0x1000 + r
def linkDown (r : Nat) : Nat := 0x1010 + r

/-- The links that a route uses (R42). -/
def routeLinks (r : Route) : List Nat :=
  [linkOut r.src, linkIn r.dst] ++
    (match regionAtEnd r.src, regionAtEnd r.dst with
      | some a, some b => if a = b then [] else [linkUp a, linkDown b]
      | some a, none => [linkUp a]
      | none, some b => [linkDown b]
      | none, none => [])

/-- R43: the capacity of a link in units of 0.1 GB/s. -/
def linkCapacity (l : Nat) : Nat :=
  if 0x1000 ≤ l then 15360
  else
    let e := l / 4
    if e < 72 then 384
    else if e < 144 then 960
    else if e = 0x100 then 12000
    else if e = 0x101 then 60000
    else if e = 0x102 then 120000
    else if e < 0x118 then 15360
    else 240

/-- R43: the sum of the rates over a link. -/
def linkLoad (im : Image) (l : Nat) : Nat := ((im.routes.filter fun r => (routeLinks r).contains l).map Route.rate).sum

/-- R43: a route of an endpoint whose two ends share a combined link crosses it twice. -/
def linkLoadTwice (im : Image) (l : Nat) : Nat :=
  linkLoad im l + ((im.routes.filter fun r => linkOut r.src == l && linkIn r.dst == l).map Route.rate).sum

/-- Reason 0x0B. The spec names no failing entry for a sum (log 45). -/
def imgRates (im : Image) : Option Refused :=
  if im.routes.all fun r => (routeLinks r).all fun l => decide (linkLoadTwice im l ≤ linkCapacity l) then none
  else some { reason := 0xB, section_ := 3 }

/-- The roles that an image's map uses. -/
def usesRole (im : Image) (c : Nat) : Bool := im.roles.any fun e => e.1 == c

/-- R45 for the MICROCODE entry `m`, which follows the entries `before`. -/
def microOk (im : Image) (before : List MicroEntry) (m : MicroEntry) : Bool :=
  bears m.role && usesRole im m.role && m.whole && decide (m.len ≤ 32768) && microcodeOk m.code &&
    !(before.any fun x => x.role == m.role)

/-- Reason 0x0C. -/
def imgMicrocode (im : Image) (ms : List MicroEntry) : Option Refused :=
  match firstBad (fun p => microOk im (ms.take p.2) p.1) (ms.zipIdx) with
  | some i => some { reason := 0xC, section_ := 4, entry := i }
  | none =>
    if im.roles.all fun e => !bears e.1 || (match im.micro[e.2]? with | some m => m.1 == e.1 | none => false)
    then none else some { reason := 0xC, section_ := 4, entry := im.micro.length }

/-- R47 for the budget of role code `c`: zero where the map does not use the role; the roles of kind M and SEAL have bounds;
NONE and SPARE, where the map uses them, have none. -/
def budgetOk (im : Image) (c : Nat) : Bool :=
  let b := im.budgets.getD c 0
  if usesRole im c = false then b == 0
  else if c = 9 then decide (b ≤ 8388608) && decide (56 * 2 ^ im.maxLogN ≤ b)
  else decide (c = 0 ∨ c = 0x0F ∨ b ≤ 2097152)

/-- The reservations granted in a region to claims of CLAIM commands. -/
def State.queueReserved (s : State) (r : Nat) : Nat :=
  ((List.range 8).map fun k => match s.claimOf 6 (8 * r + k) with
    | some c => if c.holder = 0 then 0 else c.arg
    | none => 0).sum

/-- R46, R63: the claims of an image in order, each with its index; the place of the first that finds its
resource held. -/
def grantClaims (held : Nat → Bool) : List ClaimEntry → Nat → List (Nat × Nat) → Except Nat (List (Nat × Nat))
  | [], _, acc => .ok acc
  | c :: cs, i, acc =>
    let taken := fun k => held k || acc.any fun a => a.1 == k
    let idx := if c.index = 0xFF then (List.range (kindIndices c.kind)).find? fun k => !taken (claimKey c.kind k)
      else if taken (claimKey c.kind c.index) then none else some c.index
    match idx with
    | none => .error i
    | some k => grantClaims held cs (i + 1) (acc ++ [(claimKey c.kind k, c.arg)])

/-- R46: where the claims of an image stand: the index that an entry names, or with 0xFF the lowest that no claim has taken;
an entry that finds none free stands nowhere. -/
def claimPlaces (held : Nat → Bool) : List ClaimEntry → List (Nat × Nat) → List (Nat × Nat)
  | [], acc => acc
  | c :: cs, acc =>
    let idx := if c.index = 0xFF then
        (List.range (kindIndices c.kind)).find? fun k => !(held (claimKey c.kind k) || acc.any fun a => a.1 == claimKey c.kind k)
      else some c.index
    claimPlaces held cs (match idx with | none => acc | some k => acc ++ [(claimKey c.kind k, c.arg)])

/-- A resource that a CLAIM command's claim holds. -/
def State.heldByQueue (s : State) (k : Nat) : Bool :=
  match Tab.find s.sil.claims k with
  | some c => c.holder != 0
  | none => false

/-- The reservation cells that granted claims put into a region. -/
def grantedIn (gs : List (Nat × Nat)) (r : Nat) : Nat :=
  ((gs.filter fun g => g.1 / 256 == 6 && g.1 % 256 / 8 == r).map Prod.snd).sum

/-- R363: the regions that the role map gives work. -/
def imgChain (im : Image) : Bool :=
  decide (4 < (regionNumbers.filter fun r => (List.range 144).any fun i =>
    regionOf i == r && bears (im.roles.getD i (0, 0)).1).length)

/-- R63, R366: the reservations of a region, with `n` cells of the image's own, fit. -/
def State.reservesFit (s : State) (chain : Bool) (r n : Nat) : Bool :=
  let total := s.queueReserved r + n
  decide (total ≤ 3072) && (chain || decide (splitCells s.pool.split + total ≤ 4096))

/-- Reason 0x0D. -/
def State.imgBudgets (s : State) (im : Image) : Option Refused :=
  if im.maxLogN < 13 ∨ 17 < im.maxLogN ∨ im.maxLimbs < 1 ∨ 48 < im.maxLimbs then some { reason := 0xD, section_ := 6 }
  else match (List.range 16).find? fun c => !budgetOk im c with
    | some c => some { reason := 0xD, section_ := 6, entry := c }
    | none =>
      if regionNumbers.all fun r => s.reservesFit (imgChain im) r (grantedIn (claimPlaces s.heldByQueue im.claims []) r) then none
      else some { reason := 0xD, section_ := 5 }

/-- Reason 0x0E, against the claims that `held` says are held. -/
def imgClaims (held : Nat → Bool) (im : Image) : Option Refused :=
  match grantClaims held im.claims 0 [] with
  | .error i => some { reason := 0xE, section_ := 5, entry := i }
  | .ok _ => none

/-- The first refusal of a list. -/
def firstSome {α : Type} : List (Option α) → Option α
  | [] => none
  | none :: xs => firstSome xs
  | some x :: _ => some x

/-- R51: the refusal of LOAD_IMAGE, if any, for the bytes read. -/
def State.loadRefusal (s : State) (d : Bytes) : Option Refused :=
  match imgFormat d with
  | some r => some r
  | none =>
    let im := imgParse d
    let sig := imgBytes d 7
    let body := d.take (imgSection d 7).off
    firstSome [
      imgReserved d,
      (imgSigned s.sil.imageKeys (leAt d 16 4) body sig).map fun n =>
        if n = 4 then { reason := n, section_ := 7 } else { reason := n },
      s.imgGrade im, imgRoles im, s.imgBinds im, imgRoutes im d, imgRates im,
      imgMicrocode im (imgMicro d), s.imgBudgets im, imgClaims (fun _ => false) im]

/-- R56: a refusal is reported in SIL_REFUSAL and completes the command. -/
def State.refuse (s : State) (b : Bytes) (r : Refused) : State :=
  (s.modSil fun x => { x with reason := r.reason, section_ := r.section_, entry := r.entry % 65536 }).adminDone b
    (reasonStatus r.reason) r.result

/-- The PK engine ran the VERIFY of a record whose refusal, if any, is `r`. -/
def verified (r : Option Refused) : Bool :=
  match r with
  | none => true
  | some r => decide (4 ≤ r.reason)

/-- R51: the image is refused, and STAGED is empty. -/
def State.refuseImage (s : State) (b : Bytes) (r : Refused) : State := (s.modSil fun x => { x with staged := none }).refuse b r

/-- LOAD_IMAGE (R51): the checks before the image's VERIFY, which the PK engine runs. -/
def execLoadImage (t : Nat) (data : Bytes) (s : State) :=
  act t s fun s => s.adminRow 0x08 fun b s =>
    let d := portRead (entLen b) data
    match (s.loadRefusal d).filter fun r => !verified (some r) with
    | some r => s.refuseImage b r
    | none => s.pkAsk b .verify .sil [] (.verify d)

/-- R51: the checks from the signature on, once the VERIFY has run; a job that fails twice is a signature that does not verify
(R400). -/
def State.imageVerified (s : State) (b d : Bytes) (aborted : Bool) : State :=
  let s' := s.endAdmin
  match if aborted then some { reason := 4, section_ := 7 } else s.loadRefusal d with
  | some r => s'.refuseImage b r
  | none =>
    let im := imgParse d
    (s'.modSil fun x => { x with staged := some im }).adminDone b 0 (leNat (im.digest.take 8))

/-! ### Activation (R53 to R55) -/

/-- R53, reason 0x10: a work queue has a taken entry whose completion has not been written. -/
def State.queuesActive (s : State) : Bool := s.qg.queues.any fun q => !q.2.taken.isEmpty

/-- R53: self-test has ended in every region. -/
def State.allTested (s : State) : Bool :=
  regionNumbers.all fun r => (s.region r).test == .passed || (s.region r).test == .outOfService

/-- R346: entries of class F whose list starts a role whose tile count differs from the queue's reference are
marked. -/
def State.shiftUpdate (s : State) : State :=
  let now := s.tileCounts
  { s with runs := Tab.mapVals (fun _ r =>
      let q := s.queue r.queue
      if q.cls = 2 ∧ ((r.planned.map StartPlan.stage).any fun c => decide (1 ≤ c) && decide (c ≤ 9) && now.getD (c - 1) 0 != q.ref.getD (c - 1) 0) = true
      then { r with shifted := true } else r) s.runs }

/-- R54, R469: the states of a region's tiles follow the binding. -/
def State.tileBindings (s : State) (im : Image) (bind : List (Nat × Nat)) : State :=
  (List.range 144).foldl (fun s n =>
    let id := tileId (kindOf n) (regionOf n) (slotOf n)
    if !s.tileUsable id then s
    else match bind.find? fun p => p.2 == id with
      | some p => s.modTile id fun t =>
          { t with state := .bound, role := (im.roles.getD p.1 (0, 0)).1, lslot := slotOf p.1 }
      | none => s.modTile id fun t =>
          { t with state := if slotOf n = 8 then .spare else .unbound, role := 0, lslot := 0 }) s

/-- R470: SPARE_M_USED and SPARE_S_USED follow the binding. -/
def State.spareFlags (s : State) : State :=
  regionNumbers.foldl (fun s r => s.modRegion r fun g =>
    { g with spareM := s.sil.bind.any fun p => p.2 == tileId 0 r 8, spareS := s.sil.bind.any fun p => p.2 == tileId 1 r 8 }) s

/-- A table from pairs. -/
def tabOf (ps : List (Nat × Nat)) : Tab Nat := ps.foldl (fun t p => Tab.put t p.1 p.2) []

/-- R54: at the switch bank `v` becomes active for every role, with the image's code where it has the role. Generation 0 is
the image's own code. A reload that waits in bank `v` is discarded; one in the other bank stays there, valid and not
swapped in (R66), and is not current (log 58). -/
def switchBanks (im : Image) (v : Nat) (banks : Tab RoleBanks) : Tab RoleBanks :=
  (List.range 16).foldl (fun t c =>
    let b : RoleBanks := Tab.getD t c {}
    let b := match im.micro.find? fun m => m.1 == c with
      | some m => b.write v (some m.2)
      | none => b
    Tab.put t c { b with active := v, activeGen := 0, gen := 0,
                         unswapped := if b.unswapped = some v then none else b.unswapped }) banks

/-- R55, R524: the image's claims are granted and the previous image's released; timers released lose their
counts, timers granted count from now. DESIGN CHOICE (log 66): a feature that uses a
released claim (an attached lane, an armed comparator, HY_TRACE) is left as it is. -/
def State.switchClaims (s : State) (gs : List (Nat × Nat)) : State :=
  let old := s.sil.claims.filter fun c => c.2.holder == 0
  let kept := s.sil.claims.filter fun c => c.2.holder != 0
  let s := s.modSil fun x =>
    { x with claims := gs.foldl (fun t g => Tab.put t g.1 { holder := 0, arg := g.2, tick := s.now }) kept }
  s.modTime fun m => { m with timers := old.foldl (fun t c => if c.1 / 256 = 1 then Tab.del t (c.1 % 256) else t) m.timers }

/-- R54: the switch to an image with its binding and claims. -/
def State.switchTo (s : State) (im : Image) (host : Bool) (bind gs : List (Nat × Nat)) : State :=
  let v := 1 - s.sil.bankV
  let s := s.switchClaims gs
  let s := s.modSil fun x =>
    { x with active := some im, actHost := host, staged := if host then none else x.staged, bind := tabOf bind,
             bankV := v, banks := switchBanks im v x.banks,
             locked := x.locked || host, activating := false, actFailed := false, progDigest := im.digest }
  let s := s.tileBindings im bind
  let s := s.spareFlags
  let s := s.modPool fun p => { p with chain := imgChain im }
  regionNumbers.foldl State.spillUpdate s.shiftUpdate

/-- R53: the refusal of ACTIVATE_IMAGE against the die as it stands. -/
def State.activateRefusal (s : State) (im : Image) (profileTooBig : Bool) : Option Refused :=
  firstSome [
    s.imgGrade im, imgRoles im, s.imgBinds im, imgRates im, s.imgBudgets im, imgClaims s.heldByQueue im,
    if s.queuesActive then some { reason := 0x10 } else none,
    if profileTooBig then some { reason := 0x11, section_ := 6 } else none]

end Sys2Proof.Machine
end

