-- ==== Sys2Proof/Machine/Points.lean ====
section
/-!
DEFINITION. Chorus points (R351, R352): a local point leaves on its lane and is compared with its partner; frames that
arrive; points whose partner is missing.
-/

namespace Sys2Proof.Machine

/-- A Chorus lane. -/
def State.lane (s : State) (l : Nat) : Chorus := Tab.getD s.det.lanes l {}
def State.modLane (s : State) (l : Nat) (f : Chorus → Chorus) : State :=
  s.modDet fun d => { d with lanes := Tab.put d.lanes l (f (Tab.getD d.lanes l {})) }

/-- R352: the key of a point. -/
def ChorusPoint.key (p : ChorusPoint) : Nat × Nat × Nat := (p.step, p.stage, p.index)

/-- R351: the 4 MiB buffer of a lane holds 65,536 points; a full one stalls its queue. -/
def Chorus.withStall (c : Chorus) : Chorus := { c with stalled := decide (65536 ≤ c.here.length) }

/-- R351: the message of a point. -/
def State.pointMessage (s : State) (matter : Nat) (p : ChorusPoint) : Bytes :=
  leBytes 4 s.gctl.die.toNat ++ leBytes 8 matter ++ leBytes 8 p.step ++ leBytes 8 p.index ++ leBytes 1 p.stage ++
    zeroBytes 3 ++ padTo 32 p.digest

/-- R492: the frame of a message. -/
def syncFrame (dest l : Nat) (msg : Bytes) : Bytes :=
  let body := leBytes 4 dest ++ leBytes 1 l ++ zeroBytes 3 ++ msg
  body ++ leBytes 4 (crc32With 0xedb88320 body) ++ zeroBytes 4

/-- Two points of one key were compared: a difference is a divergence of the local entry. -/
def State.comparePoints (s : State) (here remote : ChorusPoint) : State :=
  if here.digest = remote.digest then s
  else s.modRun here.serial fun r =>
    { r with divs := r.divs ++ [{ step := here.step, stage := here.stage, index := here.index, tile := here.tile, missing := false }] }

/-- R351: a stage job of entry `e` produces a point on tile `unit` (where the spec does not say which, Config.pointTile, log 43). -/
def State.point (s : State) (e stage index : Nat) (digest : Bytes) (unit : Option Nat := none) : State :=
  match Tab.find s.runs e with
  | none => s
  | some r =>
    match (s.queue r.queue).chorus with
    | none => s
    | some l =>
      let p : ChorusPoint :=
        { step := r.step, index := index, stage := stage, digest := digest, tile := unit.getD (Config.pointTile e stage index % 512), serial := e }
      let s := s.modRun e fun r => { r with lastPoint := s.now }
      let s := s.emit (.sync (syncFrame (s.lane l).partner l (s.pointMessage (s.label r.label).matter p)))
      match (s.lane l).remote.find? fun q => q.key == p.key with
      | some q =>
        (s.comparePoints p q).modLane l fun c =>
          { c with remote := c.remote.filter fun x => x.key != p.key, compared := p.key :: c.compared }
      | none => s.modLane l fun c => ({ c with here := c.here ++ [p] }).withStall

/-- R351: the queue's stages stall at their output while the lane's buffer is full. -/
def State.chorusStalled (s : State) (r : Run) : Bool :=
  match (s.queue r.queue).chorus with
  | none => false
  | some l => (s.lane l).stalled

/-- The point that a message holds. -/
def pointOf (m : Bytes) : ChorusPoint :=
  { step := leAt m 12 8, index := leAt m 20 8, stage := leAt m 28 1, digest := slice m 32 32 }

/-- R351, R354: a message is discarded with one OPS record. -/
def State.discardPoint (s : State) (l src : Nat) : State := s.record 0 0x0206 1 (leBytes 1 l ++ leBytes 4 src)

/-- R351, R352, R354: a message that reached its lane. -/
def State.takePoint (s : State) (l : Nat) (m : Bytes) : State :=
  let c := s.lane l
  let q := s.queue c.queue
  let p := pointOf m
  if c.partner ≠ leAt m 0 4 ∨ (s.label q.label).matter ≠ leAt m 4 8 then s.discardPoint l (leAt m 0 4)
  else if c.compared.contains p.key ∨ (c.remote.any fun x => x.key == p.key) = true then s.discardPoint l (leAt m 0 4)
  else match c.here.find? fun x => x.key == p.key with
    | some h =>
      let s := s.modLane l fun c =>
        ({ c with here := c.here.filter fun x => x.key != p.key, compared := p.key :: c.compared }).withStall
      (s.comparePoints h p).settleRun h.serial
    | none => s.modLane l fun c => { c with remote := c.remote ++ [p] }

/-- R492: an arriving frame. -/
def State.chorusFrame (s : State) (l : Nat) (f : Bytes) : State :=
  let f := padTo 80 f
  if leAt f 0 4 ≠ s.gctl.die.toNat ∨ leAt f 72 4 ≠ crc32With 0xedb88320 (slice f 0 72) ∨ (s.lane l).queue = 0 then
    s.opsRule 492 (Config.ruleArg 492 s.now)
  else s.takePoint l (slice f 8 64)

/-- R352: the entry's local points without a partner 100 ms after its last local point are missing. -/
def State.missingOf (s : State) (l e : Nat) : State :=
  match Tab.find s.runs e with
  | none => s
  | some r =>
    if r.ended && decide (r.lastPoint + 10 ^ 8 ≤ s.now) then
      let ps := (s.lane l).here.filter fun p => p.serial == e
      let s := s.modRun e fun r =>
        { r with divs := r.divs ++ ps.map fun p => { step := p.step, stage := p.stage, index := p.index, tile := p.tile, missing := true } }
      let s := s.modLane l fun c => ({ c with here := c.here.filter fun p => p.serial != e }).withStall
      s.settleRun e
    else s

/-- R352, R410: the waits of a lane's local points that end at or before this tick close. -/
def State.missingOn (s : State) (l : Nat) : State :=
  (((s.lane l).here.map ChorusPoint.serial).eraseDups).foldl (fun s e => s.missingOf l e) s

end Sys2Proof.Machine
end

