-- ==== Sys2Proof/Machine/Rings.lean ====
section
/-!
DEFINITION. Ring profiles and the ENCODE role (10_ring_profiles_and_encoding.md, R269 to R285): the record and its
load checks, roots, evaluation order, slot encoding, rounding, and LOAD_RING_PROFILE.
-/

namespace Sys2Proof.Machine

/-! ### Numbers -/

/-- R272: Miller–Rabin with the twelve bases, exact below 2^64. -/
def isPrime64 (n : Nat) : Bool :=
  if n < 2 then false
  else if n < 38 then [2, 3, 5, 7, 11, 13, 17, 19, 23, 29, 31, 37].contains n
  else [2, 3, 5, 7, 11, 13, 17, 19, 23, 29, 31, 37].all fun b => mrRound n b

/-- The smallest quadratic non-residue of a prime from `c` on (`fuel` bounds the search). -/
def nonResidue (q : Nat) : Nat → Nat → Nat
  | 0, c => c
  | f + 1, c => if powMod q c ((q - 1) / 2) = q - 1 then c else nonResidue q f (c + 1)

/-- The least of x, x·y, x·y², ... (`n` of them). -/
def leastPower (q y : Nat) : Nat → Nat → Nat → Nat
  | 0, _, least => least
  | n + 1, x, least => leastPower q y n (x * y % q) (min least x)

/-- R274: the smallest g with g^N ≡ −1 mod q. -/
def smallestRoot (q n : Nat) : Nat :=
  let x := powMod q (nonResidue q 1000 2) ((q - 1) / (2 * n))
  leastPower q (x * x % q) n x x

/-- The product of a list. -/
def prod (qs : List Nat) : Nat := qs.foldl (· * ·) 1

/-! ### The record (R270) -/

def rpfScheme (d : Bytes) : Nat := leAt d 10 1
def rpfLogN (d : Bytes) : Nat := leAt d 11 1
def rpfLimbs (d : Bytes) : Nat := leAt d 12 1
def rpfFlag (d : Bytes) (i : Nat) : Bool := bitOf (leAt d 13 1) i
def rpfCdtLen (d : Bytes) : Nat := leAt d 14 2
def rpfT (d : Bytes) : Nat := leAt d 16 4
def rpfOmega (d : Bytes) : Nat := leAt d 20 4
def rpfScale (d : Bytes) : Nat := leAt d 24 1
def rpfBound (d : Bytes) : Nat := leAt d 25 1
def rpfQ (d : Bytes) : List Nat := leWords 8 (slice d 64 (8 * rpfLimbs d))
def rpfPsi (d : Bytes) : List Nat := leWords 8 (slice d (64 + 8 * rpfLimbs d) (8 * rpfLimbs d))
def rpfCdt (d : Bytes) : List Nat := leWords 8 (slice d (64 + 16 * rpfLimbs d) (8 * rpfCdtLen d))

/-- R272 checks 1 and 2. -/
def rpfFormOk (len : Nat) (d : Bytes) : Bool :=
  len == 64 + 16 * rpfLimbs d + 8 * rpfCdtLen d && slice d 0 8 == asciiBytes "HYNUSRPF" && leAt d 8 2 == 1 &&
    decide (rpfScheme d ≤ 2) && rpfCdtLen d % 2 == 0 && decide (2 ≤ rpfCdtLen d) && decide (rpfCdtLen d ≤ 256)

def rpfReservedOk (d : Bytes) : Bool :=
  let ckks := rpfScheme d == 2
  leAt d 13 1 / 8 == 0 && allZero (slice d 26 38) &&
    (if ckks then rpfT d == 0 && !rpfFlag d 1 && rpfOmega d == 0 else rpfScale d == 0 && rpfBound d == 0) &&
    (rpfFlag d 1 || rpfOmega d == 0) && (rpfFlag d 0 || (rpfPsi d).all (· == 0))

/-- R272 checks 5 to 9. -/
def rpfPrimesOk (d : Bytes) : Bool :=
  let n := 2 ^ rpfLogN d
  (rpfQ d).all (fun q => decide (2 ^ 29 ≤ q) && decide (q < 2 ^ 60) && q % (2 * n) == 1 && isPrime64 q) && (rpfQ d).Nodup

def rpfPlainOk (d : Bytes) : Bool :=
  let n := 2 ^ rpfLogN d
  let t := rpfT d
  rpfScheme d == 2 || (decide (2 ≤ t) && decide (t < 2 ^ 30) && t % (2 * n) == 1 && isPrime64 t && !(rpfQ d).contains t &&
    (rpfScheme d != 0 || decide (t < prod (rpfQ d))))

def rpfScaleOk (d : Bytes) : Bool :=
  rpfScheme d != 2 || (decide (20 ≤ rpfScale d) && decide (rpfScale d ≤ 60) && decide (rpfScale d + 1 ≤ rpfBound d) &&
    decide (rpfBound d ≤ 126) && decide (rpfBound d < bitLen (prod (rpfQ d)) - 1))

def isRoot (q n g : Nat) : Bool := decide (1 < g) && decide (g < q) && powMod q g n == q - 1

def rpfRootsOk (d : Bytes) : Bool :=
  let n := 2 ^ rpfLogN d
  (!rpfFlag d 0 || (List.zipWith (fun q g => isRoot q n g) (rpfQ d) (rpfPsi d)).all id) &&
    (!rpfFlag d 1 || isRoot (rpfT d) n (rpfOmega d))

def rpfCdtOk (d : Bytes) : Bool :=
  (List.zipWith (fun a b => decide (a ≤ b)) (rpfCdt d) ((rpfCdt d).drop 1)).all id && (rpfCdt d).getLastD 0 != 0

/-- R272 check 4. -/
def State.rpfLimitsOk (s : State) (d : Bytes) : Bool :=
  match s.sil.active with
  | none => false
  | some im => decide (rpfLogN d ≤ im.maxLogN) && decide (rpfLimbs d ≤ im.maxLimbs)

/-- R272 check 10. -/
def State.rpfUnbound (s : State) (slot : Nat) (d : Bytes) : Bool :=
  !(s.cus.labels.any fun x => x.2.state.live && x.2.profile == slot) &&
    !(s.dictSlots.any fun b => match Tab.find s.dicts b.2 with
      | some x => x.profile == slot && (rpfScheme d == 2 || decide (rpfT d ≤ x.highest))
      | none => false)

/-- R272: the status of a load, 0 when every check passes. -/
def State.profileStatus (s : State) (len slot : Nat) (d : Bytes) : Nat :=
  if !rpfFormOk len d then 0x12
  else if !rpfReservedOk d then 0x11
  else if decide (13 ≤ rpfLogN d) && decide (rpfLogN d ≤ 17) && decide (1 ≤ rpfLimbs d) && decide (rpfLimbs d ≤ 48) &&
      s.rpfLimitsOk d && rpfPrimesOk d && rpfPlainOk d && rpfScaleOk d && rpfRootsOk d && rpfCdtOk d &&
      s.rpfUnbound slot d then 0
  else 0x43

/-- R273: the contents of a slot with its derived constants. -/
def profileOf (d : Bytes) : Profile :=
  let n := 2 ^ rpfLogN d
  let q := rpfQ d
  { record := d, digest := sha384 d, scheme := rpfScheme d, logN := rpfLogN d, limbs := rpfLimbs d, outCoeff := rpfFlag d 2,
    t := rpfT d,
    omega := if rpfScheme d = 2 then 0 else if rpfFlag d 1 then rpfOmega d else smallestRoot (rpfT d) n,
    scaleExp := rpfScale d, coeffLog := rpfBound d, q := q,
    psi := if rpfFlag d 0 then rpfPsi d else q.map fun p => smallestRoot p n,
    cdt := rpfCdt d,
    delta := if rpfScheme d = 0 then q.map fun p => prod q / rpfT d % p else [] }

/-- LOAD_RING_PROFILE (R269, R272, R273). -/
def execLoadRingProfile (t : Nat) (data : Bytes) (s : State) :=
  act t s fun s => s.adminRow 0x18 fun b s =>
    let d := padTo (entLen b) data
    let slot := fieldOf (entStep b) 0 4
    let st := s.profileStatus (entLen b) slot d
    if st ≠ 0 then s.adminDone b st 0
    else
      let f := profileOf d
      { s with profiles := Tab.put s.profiles slot f }.adminDone b 0 (leAt f.digest 0 8)

/-! ### Evaluation order (R275) -/

/-- The lowest `bits` bits of `j` reversed. -/
def brv : Nat → Nat → Nat
  | 0, _ => 0
  | b + 1, j => (j % 2) * 2 ^ b + brv b (j / 2)

/-- a(x) mod q. -/
def evalAt (q x : Nat) (a : List Nat) : Nat := a.foldr (fun c acc => (c + acc * x) % q) 0

/-- R275: the evaluation form of a polynomial of degree below 2^logN. -/
def evalForm (q psi logN : Nat) (a : List Nat) : List Nat :=
  (List.range (2 ^ logN)).map fun j => evalAt q (powMod q psi (2 * brv logN j + 1)) a

/-! ### Slots (R276 to R279) -/

/-- R276: the exponent of the point of slot p in a BFV or BGV row. -/
def slotExp (n p : Nat) : Nat :=
  if p < n / 2 then powMod (2 * n) 5 p else 2 * n - powMod (2 * n) 5 (p - n / 2)

/-- R277: m(X) from the slots: m_k = N^(−1) · Σ s_p · point_p^(−k) mod t. -/
def slotsToPoly (t omega n : Nat) (s : List Nat) : List Nat :=
  let inv := invMod t n
  let pts := (List.range n).map fun p => invMod t (powMod t omega (slotExp n p))
  let ps := pts.zip s
  (List.range n).map fun k => (ps.foldl (fun acc x => (acc + x.2 * powMod t x.1 k) % t) 0) * inv % t

/-- R278: the value of an element times 2^160, exact; none where it is not finite. -/
def exactValue (dtype v : Nat) : Option Int :=
  match fmtOf dtype with
  | some f => (f.rat v).map fun r => r.1 * (2 ^ 160 / r.2 : Nat)
  | none => some (elemInt dtype (8 * (dtypeSize dtype).getD 1) v * 2 ^ 160)

/-- R278: the twiddles w_0 to w_(2N−1). -/
def ckksTwiddles (n : Nat) : Array Int :=
  ((List.range (2 * n)).map fun (r : Nat) => roundNear (2 ^ 62 * fxCosTurn r (2 * n)) (2 ^ 256)).toArray

/-- R278: y_k as a fraction over 2^222·N/2, from the Z_j times 2^160. -/
def ckksNum (n : Nat) (w : Array Int) (es : List Nat) (z : List Int) (k : Nat) : Int :=
  (List.zipWith (fun e v => v * w.getD (k * e % (2 * n)) 0) es z).sum

/-- R279: rounding; `x` is the window of a stochastic draw. -/
def roundCoeff (num : Int) (den : Nat) (x : Option Nat) : Int :=
  match x with
  | none => roundEven num den
  | some x => num / (den : Int) + (if (x : Int) * den < num % (den : Int) * 2 ^ 64 then 1 else 0)

/-- R279: the window of coefficient k of a row. -/
def roundWindow (seed : Bytes) (streamId g k : Nat) : Nat :=
  window64 (hostBlock seed streamId (g % 2 ^ 48) 0x08 (k / 8)) (k % 8)

/-- R277 to R280: the coefficients of a row, none where it is voided. `round` is the seed and stream id of ROUND 1. -/
def encodeRow (f : Profile) (round : Option (Bytes × Nat)) (g dtype : Nat) (vals : List Nat) : Option (List Int) :=
  let n := 2 ^ f.logN
  if f.scheme = 2 then
    if dtype = 0xC ∨ (dtypeSize dtype).isNone then none
    else
      let zs := vals.map fun v => (exactValue dtype v).map fun x => x * 2 ^ f.scaleExp
      if zs.any fun z => match z with | none => true | some x => decide ((2 ^ (f.coeffLog + 160) : Nat) ≤ x.natAbs) then none
      else
        let z := zs.map fun x => x.getD 0
        let w := ckksTwiddles n
        let es := (List.range (n / 2)).map fun j => powMod (2 * n) 5 j
        let cs := (List.range n).map fun k =>
          roundCoeff (ckksNum n w es z k) (2 ^ 222 * (n / 2)) (round.map fun r => roundWindow r.1 r.2 g k)
        if cs.any fun c => decide (2 ^ f.coeffLog ≤ c.natAbs) then none else some cs
  else if dtype = 0 ∨ 8 < dtype then none
  else
    let vs := vals.map (elemInt dtype (8 * (dtypeSize dtype).getD 1))
    if vs.any fun v => decide (v < -((f.t / 2 : Nat) : Int)) || decide ((f.t : Int) - 1 < v) then none
    else some ((slotsToPoly f.t f.omega n (vs.map fun v => (v % (f.t : Int)).toNat)).map Int.ofNat)

/-- R284: the words of an encoded row, and its digest (R28). -/
def rowBytes (f : Profile) (cs : List Int) : Bytes :=
  if f.scheme = 2 then cs.flatMap fun c => leBytes 16 (wordOf 128 c) else cs.flatMap fun c => leBytes 4 c.toNat

/-- R281: coefficient residues of the plaintext term of limb `i`. -/
def plainTerm (f : Profile) (i : Nat) (cs : List Int) : List Nat :=
  let q := f.q.getD i 2
  cs.map fun c => if f.scheme = 0 then f.delta.getD i 0 * c.toNat % q else (c % (q : Int)).toNat

/-! ### The ENCODE stage (R282 to R284) -/

def encRound (p : Snap) : Bool := p.bit 0 0
def encSeed (p : Snap) : Nat := p.fld 0 4 4
def encStream (p : Snap) : Nat := p.fld 0 16 16

/-- R282, R283: check 7 of an ENCODE START. -/
def State.encodeOk (s : State) (r : Run) (p : Snap) : Bool :=
  let ckks := match Tab.find s.profiles (s.label r.label).profile with | some f => f.scheme == 2 | none => false
  p.bodyWords == 1 && p.split == 0 && loopsZero p && slotsOnly p [] [] [] && p.streamIn && p.streamOut &&
    (match s.route p.routeIn with | some x => s.entryRole x.src == some 6 | none => false) &&
    (match s.route p.routeOut with | some x => s.entryRole x.dst == some 6 | none => false) &&
    p.sampleFirst == 0 && p.sampleSpan == 0 &&
    (if encRound p then ckks else encSeed p == 0 && encStream p == 0)

/-- R284: an encoded plan row: the rows in the order data, SEG_ID, SEG_POS, or the first that is voided. -/
def encodePlanRow (f : Profile) (round : Option (Bytes × Nat)) (dtype rpr : Nat) (r : PlanRow) : EncRow :=
  let srcs := ([(r.data, dtype), (r.segId, 3), (r.segPos, 5)] : List (List Nat × Nat)).take rpr
  let es := (List.range srcs.length).map fun i =>
    let x := srcs.getD i ([], 0)
    encodeRow f round (r.g + i) x.2 x.1
  match es.findIdx? Option.isNone with
  | some i => { g := r.g, status := 0x24, voidRow := i, segs := r.segs }
  | none =>
    { g := r.g, status := 0, segs := r.segs,
      rows := es.map fun e => let cs := e.getD []; (cs, sha256 (rowBytes f cs)) }

/-- R284: the bytes of the plan rows of an encoded record behind its header, for a profile. -/
def encRowsSize (f : Profile) (rows : List EncRow) : Nat :=
  (rows.map fun x => 16 + x.rows.length * ((if f.scheme = 2 then 16 else 4) * 2 ^ f.logN + 32)).sum

/-- R284: the header of an encoded record: the Spawn's, with the word code and ENCODED. -/
def encodedHead (f : Profile) (h : Bytes) : Bytes :=
  (h.set 21 (if f.scheme = 2 then 0x20 else 0x05)).set 26 (h.getD 26 0 ||| 2)

/-- R284: an encoded record. -/
def encodeRecord (f : Profile) (round : Option (Bytes × Nat)) (pack : Nat) (sp : Spawn) : Encoded :=
  { head := encodedHead f sp.head, pack := pack, rpr := sp.rpr, last := sp.last, rows := sp.rows.map (encodePlanRow f round sp.dtype sp.rpr) }

end Sys2Proof.Machine
end

