-- ==== Sys2Proof/Machine/Streams.lean ====
section
/-!
DEFINITION. The jobs of an entry and the streams between them (R141 to R145, R301): access to jobs, which job feeds
which, whether an entry may work, and the Tadpoles of an entry (R99).
-/

namespace Sys2Proof.Machine

/-! ### Access -/

/-- R89, R142: the entry's matter is live and not fenced, and the engine is not in Halt-safe. -/
def State.mayWork (s : State) (r : Run) : Bool :=
  let l := s.label r.label
  (l.state == .opened || l.state == .closing) && l.gen == r.gen && !s.faults.halt

/-- The profile of an entry's matter. -/
def State.profileOf (s : State) (r : Run) : Option Profile := Tab.find s.profiles (s.label r.label).profile

/-- The global index of the first sample of a job. -/
def jobBase (r : Run) (j : Job) : Nat := r.base + j.first

/-- R27, R261: ticks for which the label has been fenced, up to now. -/
def State.fencedSoFar (s : State) (l : Nat) : Nat :=
  let x := s.label l
  x.fencedTicks + (if x.state = .fenced then s.now - x.fencedAt else 0)

/-! ### Which job feeds which (R145) -/

/-- What a START plans. -/
def startPlan (p : Snap) : StartPlan :=
  { stage := p.stage, mode := if p.stage = 6 then p.fld 0 0 2 else 0, routeIn := p.routeIn, routeOut := p.routeOut,
    streamIn := p.streamIn, streamOut := p.streamOut, aux := if p.stage = 0x10 then p.fld 2 32 16 else 65535 }

/-- The places among the planned STARTs that satisfy `f`. -/
def placesOf (f : StartPlan → Bool) (ps : List StartPlan) : List Nat :=
  (List.range ps.length).filter fun i => match ps[i]? with | some p => f p | none => false

/-- The job at a place of its entry's STARTs. -/
def State.jobAt (s : State) (e i : Nat) : Option (Nat × Job) := (s.jobsOf e)[i]?

/-- The producers of a route: a route number leads from the jobs that stream out on it, or as AUX. -/
def feeds (route : Nat) (p : StartPlan) : Bool := (p.streamOut && p.routeOut == route) || p.aux == route

/-- The consumers of a route. -/
def takes (route : Nat) (p : StartPlan) : Bool := p.streamIn && p.routeIn == route

/-- The producer of the sample stream that a job takes: consumers and producers of one route are paired in order. -/
def State.producer (s : State) (j : Nat) (x : Job) : Option (Nat × Job) :=
  match Tab.find s.runs x.run with
  | none => none
  | some r =>
    let route := x.snap.routeIn
    let k := (placesOf (takes route) r.planned).idxOf (s.placeOf x.run j)
    match (placesOf (feeds route) r.planned)[k]? with
    | none => none
    | some i => s.jobAt x.run i

/-- R284: the PACK STARTs whose Spawns an ENCODE START takes: the one of its own place on the route, and, for the
last ENCODE of the route, all that follow. -/
def packPlaces (ps : List StartPlan) (enc : Nat) : List Nat :=
  match ps[enc]? with
  | none => []
  | some p =>
    let packs := placesOf (fun q => q.stage == 6 && feeds p.routeIn q) ps
    let encs := placesOf (fun q => q.stage == 8 && takes p.routeIn q) ps
    let k := encs.idxOf enc
    if k + 1 = encs.length then packs.drop k else (packs.drop k).take 1

/-- R301: the SEAL START that the records of an ENCODE START reach: the first whose ROUTE_IN begins where the ENCODE's
ROUTE_OUT ends, else the first. -/
def State.sealPlace (s : State) (ps : List StartPlan) (enc : Nat) : Option Nat :=
  match ps[enc]? with
  | none => none
  | some p =>
    let seals := placesOf (fun q => q.stage == 9) ps
    let dst := (s.route p.routeOut).map Route.dst
    match seals.find? fun i => match ps[i]? with
        | some q => (s.route q.routeIn).map Route.src == dst
        | none => false with
    | some i => some i
    | none => seals.head?

/-- R301: the PACK STARTs whose rows reach a SEAL START. -/
def State.packsOfSeal (s : State) (ps : List StartPlan) (seat : Nat) : List Nat :=
  (placesOf (fun q => q.stage == 8) ps).flatMap fun enc => if s.sealPlace ps enc = some seat then packPlaces ps enc else []

/-! ### Samples of an entry -/

/-- R121, R347: a sample of an entry is affected. -/
def State.affect (s : State) (e sample reason : Nat) (lost : Bool) : State :=
  s.modRun e fun r => r.affect sample reason lost

/-- R422: a sample is voided: it counts once for the entry and for the statistics. -/
def State.voidSample (s : State) (e sample reason : Nat) : State :=
  match Tab.find s.runs e with
  | none => s
  | some r =>
    let s := if r.voided.contains sample then s else s.modStw fun w => { w with voided := w.voided + 1 }
    s.affect e sample reason true

/-- R99: a Tadpole begins: the sample's first chunk has verified. -/
def State.tadpoleBegin (s : State) (e sample : Nat) : State :=
  s.modRun e fun r => { r with tadpoles := Tab.put r.tadpoles sample { start := s.now } }

/-- R99: the stage that held a sample retires it: the Tadpole lives on while rows carry its values or a later stage
holds it. -/
def State.tadpoleRelease (s : State) (e sample : Nat) : State :=
  s.modRun e fun r =>
    match Tab.find r.tadpoles sample with
    | none => r
    | some t =>
      if t.rows = 0 then { r with tadpoles := Tab.del r.tadpoles sample }
      else { r with tadpoles := Tab.put r.tadpoles sample { t with held := false } }

/-- R99: a sample's values stand in `n` more plan rows. -/
def State.tadpoleRows (s : State) (e sample n : Nat) : State :=
  s.modRun e fun r =>
    match Tab.find r.tadpoles sample with
    | none => r
    | some t => { r with tadpoles := Tab.put r.tadpoles sample { t with rows := t.rows + n } }

/-- R99, R306: a row that carries the sample's values is sealed or voided. -/
def State.tadpoleRowDone (s : State) (e sample : Nat) : State :=
  s.modRun e fun r =>
    match Tab.find r.tadpoles sample with
    | none => r
    | some t =>
      if t.rows ≤ 1 ∧ t.held = false then { r with tadpoles := Tab.del r.tadpoles sample }
      else { r with tadpoles := Tab.put r.tadpoles sample { t with rows := t.rows - 1 } }

/-- The samples with a segment in a row, each once. -/
def segSamples (segs : List (Nat × Nat × Nat)) : List Nat := (segs.map fun x => x.1).eraseDups

/-! ### Tiles and V-cores (R4, R41, R143, R223, R298) -/

/-- The kind, region and slot of a TILE_ID (R4). -/
def tileKind (id : Nat) : Nat := id / 128
def tileRegion (id : Nat) : Nat := id / 16 % 8
def tileSlot (id : Nat) : Nat := id % 16

/-- The V-cores in service, two in each region, in ascending VC number. -/
def State.coreList (s : State) : List Nat :=
  regionNumbers.flatMap fun r =>
    if s.inService r then ([0, 1].filter fun i => bitOf (s.region r).vcPass.toNat i).map fun i => 2 * r + i else []

/-- A stage of the V-cores. -/
def isCoreStage (stage : Nat) : Bool := stage == 0x10 || stage == 0x11

/-- The units over which a stage's work is dealt: the tiles bound to its role in ascending logical order, or the V-cores in
service. -/
def State.unitsAt (s : State) (stage : Nat) : List Nat := if isCoreStage stage then s.coreList else s.unitsOf stage

/-- R143: the place among a stage's units of the one to which share `k` of job `j` is dealt; the spec does not say which
(log 43). -/
def State.unitFor (s : State) (stage j k : Nat) : Nat :=
  let n := (s.unitsAt stage).length
  if n ≤ 1 then 0 else Config.dealtTo j k % n

/-- R143: the unit to which share `k` of job `j` is dealt. -/
def State.unitAt (s : State) (stage j k : Nat) : Option Nat := (s.unitsAt stage)[s.unitFor stage j k]?

/-- The region of a unit. -/
def unitRegion (stage u : Nat) : Nat := if isCoreStage stage then u / 2 else tileRegion u

/-- R450, R451: a tile works: it is bound, and it is not a spare that is still receiving its role. -/
def State.tileReady (s : State) (id : Nat) : Bool := (s.tile id).state == .bound && !(s.tile id).leapIn

/-- R450: the unit of share `k` works. -/
def State.unitReady (s : State) (stage j k : Nat) : Bool :=
  match s.unitAt stage j k with
  | none => false
  | some u => isCoreStage stage || s.tileReady u

/-- The tiles of a region bound to a role, in ascending logical order. -/
def State.roleTiles (s : State) (r role : Nat) : List Nat :=
  (s.sil.bind.filter fun b => regionOf b.1 == r && s.roleAt b.1 == role).map Prod.snd

/-- R449, R294, R62: a unit of work of a role is done: what its tiles remember of a retry of that unit is forgotten (log 39), and
their sequencers have run it. -/
def State.unitDone (s : State) (role : Nat) : State :=
  (s.unitsOf role).foldl (fun s id => s.modTile id fun t => { t with retried := false, residue := false, seq := s.runUnit id }) s

/-! ### Dealing Spawns (R22, R311) -/

/-- R22: the region that the next Spawn is dealt to: the next in round-robin order that is in service and has an
active S-tile. -/
def State.dealRegion (s : State) : Option Nat :=
  ((List.range 8).map fun i => (s.dealt + 1 + i) % 8).find? fun r => s.inService r && !(s.roleTiles r 9).isEmpty

/-- R311: the unfinished Spawns of a region that folds are dealt whole to regions in service. -/
def State.rehomeSeals (s : State) (r : Nat) : State :=
  ((s.seals.filter fun x => x.2.region == r).map Prod.fst).foldl (fun s n =>
    match Tab.find s.seals n, s.dealRegion with
    | some x, some d =>
      { s with dealt := d,
               seals := Tab.put s.seals n
                 { x with region := d, batch := 0, pass := 0, started := false, total := x.rows.length,
                          rows := (List.range x.rows.length).filterMap fun i => (x.rows[i]?).map fun w => { w with pos := i, limbs := [], kRow := none } } }
    | _, _ => s) s

end Sys2Proof.Machine
end

