-- ==== Sys2Proof/Machine/Seal.lean ====
section
/-!
DEFINITION. The seal fabric (11_seal_fabric.md, R289 to R311): the limb equations, LOAD_PUBLIC_KEY, the dealing of
Spawns, limb passes, ciphertext headers and sealed-output manifests.
-/

namespace Sys2Proof.Machine

/-! ### Transforms (R292) -/

/-- R292: Psi. -/
def psiTable (q psi logN : Nat) : Array Nat := ((List.range (2 ^ logN)).map fun k => powMod q psi (brv logN k)).toArray

/-- R292: one pass over blocks of 2h words. -/
def nttPass (q : Nat) (tab : Array Nat) (n h : Nat) (a : Array Nat) : Array Nat :=
  let m := n / (2 * h)
  ((List.range n).map fun j =>
    let w := tab.getD (m + j / (2 * h)) 0
    if j % (2 * h) < h then (a.getD j 0 + w * a.getD (j + h) 0) % q
    else (a.getD (j - h) 0 + (q - w * a.getD j 0 % q)) % q).toArray

/-- The passes from block half `2^k` down to 1. -/
def nttGo (q : Nat) (tab : Array Nat) (n : Nat) : Nat → Array Nat → Array Nat
  | 0, a => nttPass q tab n 1 a
  | k + 1, a => nttGo q tab n k (nttPass q tab n (2 ^ (k + 1)) a)

/-- R292: NTT_i. -/
def ntt (q psi logN : Nat) (a : List Nat) : List Nat :=
  if logN = 0 then a else (nttGo q (psiTable q psi logN) (2 ^ logN) (logN - 1) a.toArray).toList

/-- The inverse of one pass. -/
def inttPass (q half : Nat) (tab : Array Nat) (n h : Nat) (a : Array Nat) : Array Nat :=
  let m := n / (2 * h)
  ((List.range n).map fun j =>
    if j % (2 * h) < h then (a.getD j 0 + a.getD (j + h) 0) * half % q
    else (a.getD (j - h) 0 + (q - a.getD j 0)) * half % q * tab.getD (m + j / (2 * h)) 0 % q).toArray

/-- The inverse passes from block half `2^k`, `fuel` of them. -/
def inttGo (q half : Nat) (tab : Array Nat) (n : Nat) : Nat → Nat → Array Nat → Array Nat
  | 0, _, a => a
  | f + 1, k, a => inttGo q half tab n f (k + 1) (inttPass q half tab n (2 ^ k) a)

/-- R292: INTT_i. -/
def intt (q psi logN : Nat) (a : List Nat) : List Nat :=
  let tab := psiTable q (invMod q psi) logN
  (inttGo q (invMod q 2) tab (2 ^ logN) logN 0 a.toArray).toList

/-! ### Noise (R271, R324, R325) -/

/-- R271: the sample of a window. -/
def cdtSample (cdt : List Nat) (w : Nat) : Int :=
  match cdt.findIdx? fun c => decide (w < c) with
  | some i => (i : Int) - (cdt.length / 2 : Nat)
  | none => (cdt.length / 2 : Nat)

/-- R324: the key of a row's noise. -/
def rowKey (kNoise : Bytes) (g : Nat) (digest : Bytes) : Bytes :=
  hkdf384 (zeroBytes 48) kNoise (asciiBytes "HYNUS-K-ROW-1" ++ leBytes 8 g ++ digest) 32

/-- R325: a block of a noise stream. -/
def noiseBlock (key : Bytes) (id counter : Nat) : Nat := blockOf key counter (leBytes 12 id)

/-- R318: the ternary value of a 2-bit field. -/
def ternary (f : Nat) : Int := match f with | 2 => 1 | 3 => -1 | _ => 0

/-- R325: u, e0 and e1 of a row. -/
def drawU (key : Bytes) (n : Nat) : List Int :=
  (List.range ((n + 255) / 256)).flatMap fun b =>
    let z := noiseBlock key 1 b
    (List.range (min 256 (n - 256 * b))).map fun k => ternary (field2 z k)
def drawE (key : Bytes) (cdt : List Nat) (id n : Nat) : List Int :=
  (List.range ((n + 7) / 8)).flatMap fun b =>
    let z := noiseBlock key id b
    (List.range (min 8 (n - 8 * b))).map fun k => cdtSample cdt (window64 z k)

/-! ### One limb (R281, R291) -/

/-- The least non-negative residue of an integer. -/
def residue (q : Nat) (x : Int) : Nat := (x % (q : Int)).toNat

/-- R291: limb `i` of c0 and c1 for given noise. -/
def limbWith (f : Profile) (pk : PubKey) (i : Nat) (cs u e0 e1 : List Int) : List Nat × List Nat :=
  let q := f.q.getD i 2
  let psi := f.psi.getD i 1
  let scale := fun (x : Int) => if f.scheme = 1 then (f.t : Int) * x else x
  let a := List.zipWith (fun (p : Nat) (e : Int) => residue q ((p : Int) + scale e)) (plainTerm f i cs) e0
  let e1 := e1.map fun x => residue q (scale x)
  let uh := ntt q psi f.logN (u.map (residue q))
  let mul := fun pk => List.zipWith (fun x y => x * y % q) pk uh
  let add := List.zipWith fun x y => (x + y) % q
  let p0 := mul (pk.pk0.getD i [])
  let p1 := mul (pk.pk1.getD i [])
  if f.outCoeff then (add (intt q psi f.logN p0) a, add (intt q psi f.logN p1) e1)
  else (add p0 (ntt q psi f.logN a), add p1 (ntt q psi f.logN e1))

/-- R291, R325: limb `i` of a row under its K_row. -/
def limbOf (f : Profile) (pk : PubKey) (key : Bytes) (cs : List Int) (i : Nat) : List Nat × List Nat :=
  let n := 2 ^ f.logN
  limbWith f pk i cs (drawU key n) (drawE key f.cdt 2 n) (drawE key f.cdt 3 n)

/-- The bytes of a limb. -/
def limbBytes (ws : List Nat) : Bytes := ws.flatMap (leBytes 8)

/-! ### LOAD_PUBLIC_KEY (R296, R297) -/

/-- R296: the words of limb `i` of pk0 (`which` 0) or pk1. -/
def pubLimb (d : Bytes) (n l which i : Nat) : List Nat := leWords 8 (slice d (64 + 8 * n * (which * l + i)) (8 * n))

/-- R297: the status of a load before its cells are looked for, 0 when all is well so far. -/
def State.publicKeyStatus (s : State) (b d : Bytes) : Nat :=
  let x := s.label (entMatter b)
  let n := 2 ^ leAt d 10 1
  let l := leAt d 11 1
  if ¬ (entLen b = 64 + 16 * n * l ∧ slice d 0 8 = asciiBytes "HYNUSPUB" ∧ leAt d 8 2 = 1) then 0x12
  else if allZero (slice d 12 4) = false then 0x11
  else match Tab.find s.profiles x.profile with
    | none => 0x43
    | some f =>
      if ¬ (slice d 16 48 = f.digest ∧ leAt d 10 1 = f.logN ∧ l = f.limbs) then 0x43
      else if (List.range l).any fun i =>
          let q := f.q.getD i 0
          (pubLimb d n l 0 i).any (fun w => decide (q ≤ w)) || (pubLimb d n l 1 i).any (fun w => decide (q ≤ w)) then 0x12
      else if sha384 d ≠ x.fingerprint then 0x44
      else 0

/-- LOAD_PUBLIC_KEY (R297). -/
def execLoadPublicKey (t : Nat) (data : Bytes) (s : State) :=
  act t s fun s => s.adminRow 0x19 fun b s =>
    let d := padTo (entLen b) data
    let l := entMatter b
    let st := s.publicKeyStatus b d
    if st ≠ 0 then s.adminDone b st 0
    else if (Tab.find s.keyCache l).isSome then s.adminDone b 0 (leAt (s.label l).fingerprint 0 8)
    else match s.takeEnc ((d.length + 65535) / 65536) with
      | none => s.adminDone b 0x41 0
      | some cs =>
        let n := 2 ^ leAt d 10 1
        let k := leAt d 11 1
        let pk : PubKey :=
          { gen := (s.label l).gen, cells := cs,
            pk0 := (List.range k).map (pubLimb d n k 0), pk1 := (List.range k).map (pubLimb d n k 1) }
        let s := s.holdCells 0 true cs
        { s with keyCache := Tab.put s.keyCache l pk }.adminDone b 0 (leAt (s.label l).fingerprint 0 8)

/-! ### The SEAL stage (R301 to R304) -/

def sealK (p : Snap) : Nat := if p.fld 0 0 7 = 0 then 32 else p.fld 0 0 7
def sealMan (p : Snap) : Bool := p.bit 0 8
def sealBase (p : Snap) : Nat := p.body 1
def sealManAddr (p : Snap) : Nat := p.body 2
def sealManRows (p : Snap) : Nat := p.fld 3 0 32
def sealManCap (p : Snap) : Nat := p.fld 3 32 32

/-- R303: the ciphertext size of a profile. -/
def Profile.ctSize (f : Profile) : Nat := 16 * 2 ^ f.logN * f.limbs + 64

/-- R302, R303: check 7 of a SEAL START, apart from the uniqueness of its route. -/
def State.sealOk (s : State) (r : Run) (p : Snap) : Bool :=
  p.bodyWords == 4 && p.split == 0 && loopsZero p && p.sampleFirst == 0 && p.sampleSpan == 0 &&
    p.streamIn && !p.streamOut &&
    (match s.route p.routeIn with | some x => s.entryRole x.src == some 6 | none => false) &&
    slotsOnly p [] [0] [] &&
    (match p.output 0, s.profileOf r with
      | some d, some f =>
        d.space == 0 && d.dtype == 1 && d.rank == 2 && d.addr % 64 == 0 && d.extent 0 == f.ctSize && d.stride 0 == 1 &&
          d.stride 1 % 64 == 0 && decide ((f.ctSize : Int) ≤ d.stride 1)
      | _, _ => false) &&
    decide (p.fld 0 0 7 ≤ 64) &&
    (if sealMan p then
      sealManAddr p % 64 == 0 && decide (1024 ≤ sealManRows p) && decide (sealManRows p ≤ 65536) && decide (1 ≤ sealManCap p)
     else sealManAddr p == 0 && sealManRows p == 0 && sealManCap p == 0)

/-! ### Egress -/

/-- R305: the header of a ciphertext. -/
def ctHeader (f : Profile) (x : Label) (step kind g : Nat) : Bytes :=
  asciiBytes "HYNUSCTX" ++ leBytes 2 1 ++ leBytes 1 f.scheme ++ leBytes 1 f.logN ++ leBytes 1 f.limbs ++
    leBytes 1 (ofBool f.outCoeff) ++ leBytes 1 kind ++ [0] ++ leBytes 8 x.matter ++ leBytes 4 x.epoch ++ zeroBytes 4 ++
    leBytes 8 g ++ leBytes 8 step ++ slice f.digest 0 8 ++ slice x.fingerprint 0 8

/-- A limb pair is written to its places in the column (R305, R306). -/
def State.writeLimbs (s : State) (f : Profile) (column i : Nat) (c : List Nat × List Nat) : State :=
  let n := 2 ^ f.logN
  (s.emit (.interior (column + 64 + 8 * n * i) (limbBytes c.1))).emit
    (.interior (column + 64 + 8 * n * (f.limbs + i)) (limbBytes c.2))

/-! ### Manifests (R308, R309) -/

/-- The sealed list with one more ciphertext, in ascending GLOBAL_ROW. -/
def insertSealed (g : Nat) (d : Bytes) : List (Nat × Bytes) → List (Nat × Bytes)
  | [] => [(g, d)]
  | x :: xs => if g < x.1 then (g, d) :: x :: xs else x :: insertSealed g d xs

/-- The least of a list, if it has one. -/
def leastOf : List Nat → Option Nat
  | [] => none
  | x :: xs => match leastOf xs with | none => some x | some y => some (min x y)

/-- The least row index that a PACK job can still bring: its rows not yet encoded, else what follows those that it has
emitted (class C: windows stand in ascending order; log 41). -/
def packFloor (j : Job) (c : PackCfg) : Option Nat :=
  let left := ((j.spawns.drop j.encTaken).flatMap fun x => x.rows.map PlanRow.g) ++ j.pack.rows.map PlanRow.g
  if j.pack.finished ∧ left = [] then none
  else match leastOf left with
    | some g => some g
    | none => some (c.rowBase + j.pack.used)

/-- R308: the least row index that can still be sealed by a SEAL job: rows dealt to it, and rows to come. -/
def State.sealFloor (s : State) (e j : Nat) (r : Run) : Option Nat :=
  let dealt := (s.seals.filter fun x => x.2.job == j).flatMap fun x => x.2.rows.map SealRow.g
  let packs := s.packsOfSeal r.planned (s.placeOf e j)
  let coming := packs.filterMap fun i =>
    match s.jobAt e i with
    | some (_, x) => if r.cls = 0 ∧ x.spawns = [] ∧ x.pack.rows = [] ∧ x.pack.finished = false then some 0 else packFloor x (packCfg x.snap)
    | none => some 0
  leastOf (dealt ++ coming)

/-- R308: the bytes of manifest `k` up to its signature. -/
def State.manifestBody (s : State) (r : Run) (k : Nat) (es : List (Nat × Bytes)) : Bytes :=
  let x := s.label r.label
  asciiBytes "HYNUSMAN" ++ leBytes 2 1 ++ zeroBytes 2 ++ leBytes 4 es.length ++ leBytes 8 x.matter ++ leBytes 4 x.epoch ++
    leBytes 4 k ++ leBytes 8 r.step ++ leBytes 2 r.cid ++ leBytes 2 r.queue ++ zeroBytes 4 ++ padTo 48 s.cus.sessionFp ++
    padTo 48 s.sil.progDigest ++ zeroBytes 16 ++ es.flatMap fun e => leBytes 8 e.1 ++ e.2

/-- R308: the size of a manifest's place. -/
def manStride (rows : Nat) : Nat := (288 + 40 * rows + 63) / 64 * 64

/-- R304, R309: an output of a SEAL job is dropped. -/
def State.sealDrop (s : State) (e number : Nat) : State :=
  let q := match Tab.find s.runs e with | none => 0 | some r => r.queue
  (s.modRun e fun r => { r with drops := r.drops + 1 }).record 0 0x0205 2 (leBytes 2 q ++ leBytes 8 number)

/-- R308, R309: manifest `k` of a job closes. -/
def State.closeManifest (s : State) (e j : Nat) (r : Run) (p : Snap) (k : Nat) (es : List (Nat × Bytes)) : State :=
  let s := s.modJob j fun x => { x with closed := k + 1 }
  if sealManCap p ≤ k then s.sealDrop e k
  else
    let m : Manifest := { run := e, number := k, addr := sealManAddr p + k * manStride (sealManRows p), body := s.manifestBody r k es }
    s.modPke fun w =>
      { w with held := Tab.put w.held w.nextManifest m, manifests := w.manifests ++ [w.nextManifest], nextManifest := w.nextManifest + 1 }

/-- R308: the entries of the next manifest of a SEAL job, when it can close; with `final` every entry left is listed. -/
def State.closable (s : State) (e j : Nat) (final : Bool) : Option (List (Nat × Bytes)) :=
  match Tab.find s.runs e, Tab.find s.jobs j with
  | some r, some x =>
    let rows := sealManRows x.snap
    let es := (x.sealed.drop (x.closed * rows)).take rows
    let safe := match s.sealFloor e j r with
      | none => true
      | some g => match es.getLast? with | some l => decide (l.1 < g) | none => false
    if sealMan x.snap && !es.isEmpty && (final || (es.length == rows && safe)) then some es else none
  | _, _ => none

/-- R387: a manifest that could close, and is not dropped (R309), waits for room among the 256 of the manifest stream. -/
def State.manifestStalls (s : State) (e j : Nat) (final : Bool) : Bool :=
  decide (256 ≤ s.pke.manifests.length) && (s.closable e j final).isSome &&
    (match Tab.find s.jobs j with | some x => decide (x.closed < sealManCap x.snap) | none => false)

/-- R308, R387: the manifests that can close do, while their stream has room (`fuel` bounds them). -/
def State.closeManifests (s : State) (e j : Nat) (final : Bool) : Nat → State
  | 0 => s
  | f + 1 =>
    match s.closable e j final, Tab.find s.runs e, Tab.find s.jobs j with
    | some es, some r, some x =>
      if s.manifestStalls e j final then s else (s.closeManifest e j r x.snap x.closed es).closeManifests e j final f
    | _, _, _ => s

/-! ### Rows of an entry -/

/-- R349: the digest of a plan row at SEAL: of its ciphertext digests, or of the byte 0x24 when it is unsealed. -/
def RowLeft.digest (x : RowLeft) : Bytes := sha256 (if x.unsealed then [0x24#8] else x.digests.flatten)

/-- R99, R263: an encoded row of a plan row is sealed, with its ciphertext digest, or left unsealed. With the last of them the
plan row is done. -/
def State.rowDone (s : State) (e dataRow : Nat) (digest : Option Bytes) : State :=
  match Tab.find s.runs e with
  | none => s
  | some r =>
    match Tab.find r.planRows dataRow with
    | none => s
    | some x =>
      let x := { x with left := x.left - 1, digests := x.digests ++ digest.toList, unsealed := x.unsealed || digest.isNone }
      if x.left = 0 then
        let s := s.modRun e fun r => { r with planRows := Tab.del r.planRows dataRow }
        (x.samples.foldl (fun s i => s.tadpoleRowDone e i) s).point e 9 dataRow x.digest
      else s.modRun e fun r => { r with planRows := Tab.put r.planRows dataRow x }

/-- R304: the column of a row in TD_OUT[0], if it has one. -/
def columnOf (p : Snap) (g : Nat) : Option Nat :=
  match p.output 0 with
  | none => none
  | some d =>
    if sealBase p ≤ g ∧ g - sealBase p < d.extent 1 then some (d.addr + (g - sealBase p) * (d.stride 1).toNat) else none

/-- The rows of an encoded plan row as they enter the seal fabric. -/
def sealRows (p : Snap) (x : EncRow) : List SealRow :=
  (List.range x.rows.length).filterMap fun i =>
    let c := x.rows.getD i ([], [])
    (columnOf p (x.g + i)).map fun a =>
      { g := x.g + i, kind := i, dataRow := x.g, coeffs := c.1, digest := c.2, column := a }

/-- R304: the rows of an encoded plan row that have no column. -/
def columnless (p : Snap) (x : EncRow) : List Nat :=
  ((List.range x.rows.length).map fun i => x.g + i).filter fun g => (columnOf p g).isNone

/-- R263: an encoded plan row whose status is ENCODE_RANGE voids its samples; one that is whole waits to be sealed. -/
def State.enterPlanRow (s : State) (e : Nat) (x : EncRow) : State :=
  let samples := segSamples x.segs
  if x.status = 0 then
    s.modRun e fun r => { r with planRows := Tab.put r.planRows x.g { samples := samples, left := x.rows.length } }
  else (samples.foldl (fun s i => (s.voidSample e i 0x24).tadpoleRowDone e i) s).point e 9 x.g (sha256 [0x24#8])

/-- R304: the rows without a column count as dropped. -/
def State.dropColumnless (s : State) (e r : Nat) (p : Snap) (x : EncRow) : State :=
  (columnless p x).foldl (fun s g =>
    ((s.sealDrop e g).modRegion r fun w => { w with sealDropped := w.sealDropped.add 8 1 s.now }).rowDone e x.g none) s

/-- R301: a SEAL job has one more LAST Spawn behind it. -/
def State.lastSpawn (s : State) (j : Nat) (last : Bool) : State :=
  if last then s.modJob j fun x => { x with lastSealed := x.lastSealed + 1 } else s

/-- R22, R254, R304: an encoded record is dealt to region `r` for SEAL job `j`. -/
def State.dealRecord (s : State) (e j r : Nat) (p : Snap) (size : Nat) (x : Encoded) : State :=
  let s := x.rows.foldl (fun s w => (s.enterPlanRow e w).dropColumnless e r p w) s
  let rows := x.rows.flatMap (sealRows p)
  let s := { s with dealt := r }
  if rows.isEmpty then ((s.freeUse (.encoded s.nextSeal)).lastSpawn j x.last).closeManifests e j false 4096
  else { s with seals := Tab.put s.seals s.nextSeal { run := e, job := j, region := r, last := x.last, size := size, total := rows.length,
                                                      rows := (List.range rows.length).filterMap fun i => (rows[i]?).map fun w => { w with pos := i } },
                nextSeal := s.nextSeal + 1 }

/-! ### Passes (R298 to R300) -/

/-- The Spawn that a region seals: the one dealt to it first. -/
def State.frontSpawn (s : State) (r : Nat) : Option (Nat × SealSpawn) := s.seals.find? fun x => x.2.region == r

/-- R290: the second key area exists. -/
def State.overlap (s : State) (logN : Nat) : Bool :=
  match s.sil.active with
  | none => false
  | some im => decide (72 * 2 ^ logN ≤ im.budgets.getD 9 0)

/-- R299, R300: the tile's key areas hold a limb pair, `areas` of them at most; loading one counts in its region. Areas of another
label or generation are moulted first. -/
def State.keyLoad (s : State) (id : Nat) (areas : Nat) (key : Nat × Nat × Nat) : State :=
  let ks := (s.tile id).keys.filter fun k => k.1 == key.1 && k.2.1 == key.2.1
  if ks.contains key then s.modTile id fun t => { t with keys := key :: ks.filter (· != key) }
  else (s.modTile id fun t => { t with keys := (key :: ks).take areas }).modRegion (tileRegion id) fun w =>
    { w with sealKeyload := w.sealKeyload.add 32 1 s.now }

/-- R298: the rows of the batch under way: those at places b·K to b·K + K − 1. -/
def SealSpawn.batchRows (x : SealSpawn) (k : Nat) : List SealRow := x.rows.filter fun w => w.pos / k == x.batch

/-- R298: the number of the next limb pass of a Spawn, b·L + i. -/
def SealSpawn.passNo (x : SealSpawn) (limbs : Nat) : Nat := x.batch * limbs + x.pass

/-- R298: the S-tile to which a pass of a region goes. -/
def State.passTile (s : State) (r n : Nat) : Option Nat :=
  let tiles := s.roleTiles r 9
  tiles[n % tiles.length]?

/-- R326: the row-key unit derives K_row once. -/
def SealRow.key (w : SealRow) (kNoise : Bytes) : Bytes := w.kRow.getD (rowKey kNoise w.g w.digest)

/-- A row with one more limb of `n`, made under its K_row, which is moulted with the last (R326). -/
def sealLimb (n : Nat) (key : Bytes) (c : List Nat × List Nat) (w : SealRow) : SealRow :=
  { w with touched := true, limbs := w.limbs ++ [(sha256 (limbBytes c.1), sha256 (limbBytes c.2))],
           kRow := if w.limbs.length + 1 < n then some key else none }

/-- R298: one pass: limb `i` of every row of the batch, in row order. -/
def State.passRows (s : State) (n : Nat) (f : Profile) (pk : PubKey) (kNoise : Bytes) (i : Nat) (batch : List SealRow) : State :=
  batch.foldl (fun s w =>
    let c := limbOf f pk (w.key kNoise) w.coeffs i
    let s := s.writeLimbs f w.column i c
    match Tab.find s.seals n with
    | none => s
    | some x => { s with seals := Tab.put s.seals n { x with rows := x.rows.map fun v => if v.g = w.g ∧ v.limbs.length = i then sealLimb f.limbs (w.key kNoise) c v else v } }) s

/-- R294: a residue mismatch counts for the region and for the tile. -/
def State.countMismatch (s : State) (id n : Nat) : State :=
  (s.modTile id fun t => { t with mismatch := t.mismatch.add 8 n s.now, residue := true }).modRegion (tileRegion id) fun w =>
    { w with sealMismatch := w.sealMismatch.add 16 n s.now }

/-- R294: the rows of a batch up to the first limb-row whose repeat mismatches too, and whether there is one. -/
def cleanRows (residues : List ResidueFault) (batch : List SealRow) : List SealRow × Bool :=
  let bad := fun (w : SealRow) => residues.any fun f => f.row == w.g && f.again
  (batch.takeWhile fun w => !bad w, batch.any bad)

/-- R294: the mismatches that count in a pass: one for each row met, two for the row that ends it. -/
def mismatches (residues : List ResidueFault) (clean : List SealRow) (ended : Bool) : Nat :=
  (clean.filter fun w => residues.any fun f => f.row == w.g).length + (if ended then 2 else 0)

/-- R299: the bytes of a Spawn's encoded rows that passes are still to read. -/
def SealSpawn.unread (x : SealSpawn) (f : Profile) (k : Nat) : Nat :=
  (x.total - (x.batch + 1) * k) * ((if f.scheme = 2 then 16 else 4) * 2 ^ f.logN)

/-- R298: a pass is done: the next pass stands in the Spawn, and with the last of a batch its encoded rows' cells are moulted. -/
def State.passDone (s : State) (n k : Nat) (f : Profile) : State :=
  match Tab.find s.seals n with
  | none => s
  | some y =>
    if y.pass + 1 < f.limbs then { s with seals := Tab.put s.seals n { y with started := true, pass := y.pass + 1 } }
    else ({ s with seals := Tab.put s.seals n { y with started := true, pass := 0, batch := y.batch + 1 } }.shrinkWork (.encoded n) (y.unread f k))

/-- R290, R299: with a second key area the limb pair of the tile's following pass of the Spawn loads during this one. -/
def State.loadNext (s : State) (x : SealSpawn) (f : Profile) (k r id : Nat) (label gen : Nat) : State :=
  let n := x.passNo f.limbs + (s.roleTiles r 9).length
  if s.overlap f.logN && decide (n < (x.total + k - 1) / k * f.limbs) then s.keyLoad id 2 (label, gen, n % f.limbs) else s

/-- SEAL_PASS: the next limb pass of the Spawn that region `r` seals, on its S-tile. A limb-row whose repeat mismatches ends the
pass there, and marks the tile when `mark` does; the pass is then made again. -/
def State.sealPass (s : State) (r : Nat) (residues : List ResidueFault) (mark : Nat → State → State) : State :=
  match s.frontSpawn r with
  | none => s
  | some (n, x) =>
    match Tab.find s.runs x.run, Tab.find s.jobs x.job with
    | some run, some job =>
      match s.profileOf run, Tab.find s.keyCache run.label with
      | some f, some pk =>
        let k := sealK job.snap
        let batch := x.batchRows k
        match s.passTile r (x.passNo f.limbs) with
        | none => s
        | some id =>
          if !s.mayWork run || !s.inService r || batch.isEmpty || (s.tile id).state != .bound then s
          else
            let s := s.keyLoad id (if s.overlap f.logN then 2 else 1) (run.label, run.gen, x.pass)
            let s := (s.loadNext x f k r id run.label run.gen).modRun x.run fun g =>
              { g with keyTiles := if g.keyTiles.contains id then g.keyTiles else id :: g.keyTiles }
            let s := s.modRegion r fun w =>
              { w with sealBusy := true, sealLabel := run.label, sealProfile := (s.label run.label).profile, sealK := k,
                       sealBatch := x.batch, sealPass := x.pass }
            let c := cleanRows residues batch
            let met := mismatches residues c.1 c.2
            let s := if met = 0 then s else s.countMismatch id met
            let s := s.passRows n f pk (s.label run.label).kNoise x.pass c.1
            if c.2 then mark id s
            else (s.passDone n k f).modTile id fun t => { t with retried := false, residue := false, seq := s.runUnit id }
      | _, _ => s
    | _, _ => s

/-! ### Headers (R306, R307) -/

/-- A Spawn whose rows are all sealed leaves its region. -/
def State.spawnDone (s : State) (n : Nat) : State :=
  match Tab.find s.seals n with
  | none => s
  | some x =>
    if x.rows.isEmpty then
      let s := { s with seals := Tab.del s.seals n }.freeUse (.encoded n)
      (s.lastSpawn x.job x.last).modRegion x.region fun w => { w with sealBusy := false }
    else s

/-- R306: row `w` of Spawn `n` is sealed: its header is written, and what counts ciphertexts counts it. -/
def State.sealRow (s : State) (n : Nat) (x : SealSpawn) (run : Run) (f : Profile) (w : SealRow) : State :=
  let h := ctHeader f (s.label run.label) run.step w.kind w.g
  let digest := sha256 (h ++ w.limbs.flatMap (fun l => l.1) ++ w.limbs.flatMap fun l => l.2)
  let s := s.emit (.interior w.column h)
  let s := s.modRegion x.region fun g => { g with sealCt := (g.sealCt + 1) % 2 ^ 64 }
  let s := s.modStw fun g => { g with sealed := g.sealed + 1 }
  let s := s.modRun x.run fun g => { g with ciphertexts := g.ciphertexts + 1 }
  let s := s.modJob x.job fun g => { g with sealed := insertSealed w.g digest g.sealed }
  let s := s.modQueue run.queue fun g => { g with rowCursor := max g.rowCursor (w.g + 1) }
  let s := { s with seals := Tab.put s.seals n { x with rows := x.rows.erase w } }
  (s.rowDone x.run w.dataRow (some digest)).spawnDone n

/-- The first row of a Spawn whose limbs are all written. -/
def SealSpawn.whole (x : SealSpawn) (f : Profile) : Option SealRow := x.rows.find? fun w => w.limbs.length == f.limbs

/-- CIPHERTEXT_HEADER_WRITE: the header of the first row of region `r` whose limbs are all written, and the manifests that this
lets close. A row that would close a manifest stalls while their stream is full (R387). -/
def State.headerWrite (s : State) (r : Nat) : State :=
  match s.frontSpawn r with
  | none => s
  | some (n, x) =>
    match Tab.find s.runs x.run with
    | none => s
    | some run =>
      match s.profileOf run, (s.profileOf run).bind x.whole with
      | some f, some w =>
        if !s.mayWork run || !s.inService r || s.chorusStalled run then s
        else
          let s' := s.sealRow n x run f w
          if s'.manifestStalls x.run x.job false then s else s'.closeManifests x.run x.job false 4096
      | _, _ => s

/-- CIPHERTEXT_HEADER_WRITE (R306). -/
def execCiphertextHeaderWrite (t : Nat) (region : BitVec 3) (s : State) := act t s fun s => s.headerWrite region.toNat

end Sys2Proof.Machine
end

