-- ==== Sys2Proof/Machine/ListCheck.lean ====
section
/-!
DEFINITION. The checks of a command list before anything runs (R139 to R161): the header rules of an SCB, the COPY role's
rules, the tag and conflict rules, and the nine checks in their order.
-/

namespace Sys2Proof.Machine

/-! ### Check 2 (R139) -/

/-- A mask of the bits `lo` to `lo + n − 1` for each (lo, n). -/
def bitsOf (fs : List (Nat × Nat)) : Nat := (fs.map fun f => (2 ^ f.2 - 1) * 2 ^ f.1).foldl (· ||| ·) 0

/-- The named bits of body word `w` of a role; every bit of a word that no list names is named or lies beyond the body. -/
def bodyMask (stage w : Nat) : Nat :=
  match stage, w with
  | 4, 0 => bitsOf [(0, 3), (4, 3), (8, 8), (16, 16), (32, 21)]
  | 4, 1 => bitsOf [(0, 32), (32, 25), (57, 1)]
  | 4, 2 => bitsOf [(0, 48)]
  | 4, 3 => bitsOf [(0, 48)]
  | 1, 0 => bitsOf [(0, 1), (4, 10)]
  | 1, 1 => bitsOf [(0, 28)]
  | 1, 2 => bitsOf [(0, 21)]
  | 2, 0 => bitsOf [(0, 1), (4, 10)]
  | 2, 1 => bitsOf [(0, 28)]
  | 2, 2 => bitsOf [(0, 21)]
  | 3, 0 => bitsOf [(0, 1), (4, 10)]
  | 3, 1 => bitsOf [(0, 28)]
  | 3, 2 => bitsOf [(0, 21)]
  | 5, 0 => bitsOf [(0, 35), (36, 4), (40, 12)]
  | 5, 1 => bitsOf [(0, 48)]
  | 5, 4 => bitsOf [(0, 32)]
  | 6, 0 => bitsOf [(0, 6), (8, 3), (12, 24), (48, 16)]
  | 6, 5 => bitsOf [(0, 32)]
  | 7, 0 => bitsOf [(0, 4), (8, 3)]
  | 8, 0 => bitsOf [(0, 1), (4, 4), (16, 16)]
  | 9, 0 => bitsOf [(0, 7), (8, 1)]
  | 0x10, 0 => bitsOf [(0, 3), (4, 9), (16, 3), (24, 8)]
  | 0x10, 1 => bitsOf [(0, 28), (32, 16)]
  | 0x11, 0 => bitsOf [(0, 6), (8, 6), (16, 16)]
  | _, _ => ones64

/-- The number of body words of a role. -/
def bodyLen (stage : Nat) : Nat :=
  match stage with
  | 1 | 2 | 3 | 0x10 => 3
  | 4 | 9 => 4
  | 5 => 5
  | 6 => 7
  | _ => 1

/-- R145: the reserved parts of an SCB. -/
def scbReservedOk (p : Snap) : Bool :=
  p.byte 29 / 4 == 0 && p.half 30 == 0 && decide (p.split ≤ 2) && ((List.range 20).all fun i => p.byte (44 + i) == 0) &&
    (List.range (bodyLen p.stage)).all fun i => within (p.body i) (bodyMask p.stage i)

/-- Check 2 for a START: its SCB and the descriptors that it names. -/
def startReservedOk (p : Snap) : Bool := scbReservedOk p && p.descs.all fun d => (descOf d.2.1 d.2.2).reservedOk

/-! ### Check 3 -/

/-- R148, R83: host-space outputs: the ciphertexts of SEAL, and shape metadata where it is granted. -/
def hostOutputOk (stage mode i : Nat) (shapeMeta : Bool) : Bool :=
  (stage == 9 && i == 0) ||
    (shapeMeta && (((stage == 1 || stage == 2 || stage == 3 || stage == 0x10) && i == 1) ||
      (stage == 5 && (i == 1 || i == 2)) || (stage == 6 && mode == 0 && (i == 1 || i == 2))))

/-- R196: the inputs that hold shape words or PYRAMID lengths. -/
def holdsShapes (p : Snap) (i : Nat) : Bool :=
  ((p.stage == 1 || p.stage == 2 || p.stage == 3 || p.stage == 0x10) && i == 1) || (p.stage == 5 && i == 3) ||
    (p.stage == 6 && i == 1 && (p.fld 0 8 3 == 1 || p.fld 0 8 3 == 2 || p.fld 0 8 3 == 3))

/-- R148, R368: the footprint of a tensor lies in what it names. -/
def State.footOk (s : State) (stage : Nat) (d : Desc) : Bool :=
  match d.space with
  | 2 =>
    match Tab.find s.pool.buffers d.handle with
    | none => false
    | some b => !b.lost && (match d.foot with | none => true | some f => decide (0 ≤ f.lo) && decide (f.hi ≤ b.size))
  | 3 =>
    let budget := match s.sil.active with | none => 0 | some im => im.budgets.getD stage 0
    match d.foot with | none => true | some f => decide (0 ≤ f.lo) && decide (f.hi ≤ budget)
  | _ => true

/-- Check 3 for one named slot. -/
def State.slotOk (s : State) (p : Snap) (output : Bool) (k : Nat) : Bool :=
  k == 0xFF || (match p.descAt k with
    | none => false
    | some d => d.rulesOk output && s.footOk p.stage d)

/-- Check 3 for a START. -/
def State.startDescsOk (s : State) (r : Run) (p : Snap) : Bool :=
  (List.range 4).all fun i =>
    s.slotOk p false (p.inSlot i) && s.slotOk p true (p.outSlot i) && s.slotOk p false (p.idxSlot i) &&
      (match p.input i with
        | none => true
        | some d => d.space != 0 || !holdsShapes p i || (s.label r.label).shapeMeta) &&
      (match p.output i with
        | none => true
        | some d => d.space != 0 || hostOutputOk p.stage (p.fld 0 0 2) i (s.label r.label).shapeMeta)

/-! ### Check 4 -/

/-- The V-cores in service. -/
def State.coresIn (s : State) : Nat := s.coreList.length

/-- A START of a live channel. -/
def isLiveStart (p : Snap) : Bool := p.stage == 0x10 && p.bit 0 2

/-- The live jobs of the engine that have not ended. -/
def State.liveJobs (s : State) : Nat := (s.jobs.filter fun j => isLiveStart j.2.snap && !j.2.ended).length

/-- The host seed slot that a START draws from, if it draws. -/
def seedOf (p : Snap) : Option Nat :=
  match p.stage with
  | 4 => if (tokCfg p).sampling || (tokCfg p).masking then some (tokCfg p).seed else none
  | 6 => if (packCfg p).shuffle then some (packCfg p).seed else none
  | 8 => if encRound p then some (encSeed p) else none
  | _ => none

/-- R63, R230: the frame clock is claimed by the queue or by the image. -/
def State.clockHeld (s : State) (q lfc : Nat) : Bool :=
  match s.claimOf 5 lfc with
  | none => false
  | some c => c.holder == 0 || c.holder == q

/-- Check 4 for a START: its units, its key, its seed, its frame clock. -/
def State.startResources (s : State) (r : Run) (p : Snap) : Bool :=
  !(p.stage == 0x11 && s.basking) && (if p.stage = 0x10 ∨ p.stage = 0x11 then s.coresIn != 0 else s.tileCount p.stage != 0) &&
    (p.stage != 9 || (Tab.find s.keyCache r.label).isSome) &&
    (p.stage != 4 || (match s.sil.active with | none => false | some im => decide (262144 ≤ im.budgets.getD 4 0))) &&
    (match seedOf p with | none => true | some k => (Tab.find r.seeds k).isSome) &&
    (!isLiveStart p || s.clockHeld r.queue (vdecCfg p).lfc)

/-! ### Checks 5 and 6 -/

/-- Check 5: the buffers that a START names are the matter's. -/
def State.startMatter (s : State) (r : Run) (p : Snap) : Bool :=
  p.descs.all fun d =>
    let x := descOf d.2.1 d.2.2
    x.space != 2 || (match Tab.find s.pool.buffers x.handle with
      | none => true
      | some b => b.label == r.label && b.gen == r.gen)

/-- R83, R220: the modality of a decode stage, as a bit of MODALITIES. -/
def modalityOf (p : Snap) : Option Nat :=
  match p.stage with
  | 4 => some 0
  | 1 | 2 | 3 => some 1
  | 0x10 => if p.bit 0 2 then some 3 else some 2
  | 0x11 => some 3
  | _ => none

def State.startModality (s : State) (r : Run) (p : Snap) : Bool :=
  match modalityOf p with
  | none => true
  | some b => bitOf (s.label r.label).modalities.toNat b

/-! ### Check 7 -/

/-- R146: an endpoint of a route belongs to a stage. -/
def State.endsAt (s : State) (stage ep : Nat) : Bool :=
  if stage = 0x10 ∨ stage = 0x11 then isVcore ep else s.entryRole ep == some stage

/-- R145, R146: the header rules. -/
def State.headerOk (s : State) (r : Run) (p : Snap) : Bool :=
  p.role == p.stage && p.byte 1 == 1 && decide (p.bodyWords ≤ 56) && decide (p.sampleFirst + p.sampleSpan ≤ r.count) &&
    p.streamIn == (p.routeIn != 0xFFFF) && p.streamOut == (p.routeOut != 0xFFFF) &&
    (p.routeIn == 0xFFFF || (match s.route p.routeIn with | some x => s.endsAt p.stage x.dst | none => false)) &&
    (p.routeOut == 0xFFFF || (match s.route p.routeOut with | some x => s.endsAt p.stage x.src | none => false))

/-- Two tensors agree in every extent but those listed. -/
def sameBut (ds : List Nat) (a b : Desc) : Bool :=
  a.rank == b.rank && (List.range 6).all fun i => ds.contains i || a.extent i == b.extent i

/-- R158: the shape rules of a COPY between two tensors. -/
def copyShapeOk (mode dim : Nat) (src dst : Desc) (idx : Option Desc) : Bool :=
  let indexed := fun (n : Nat) =>
    match idx with
    | some i => isIndex idx && i.rank == 1 && i.extent 0 == n
    | none => false
  match mode with
  | 0 => sameBut [] src dst
  | 1 => !src.isPlane && !dst.isPlane && decide (2 ≤ src.rank) && sameBut [0, 1] src dst &&
      dst.extent 0 == src.extent 1 && dst.extent 1 == src.extent 0
  | 2 => !src.isPlane && !dst.isPlane && sameBut [dim] src dst && indexed (dst.extent dim)
  | _ => !src.isPlane && !dst.isPlane && sameBut [dim] src dst && indexed (src.extent dim)

/-- R158, R159: check 7 of a COPY START. -/
def copyOk (p : Snap) : Bool :=
  let mode := copyMode p
  let dimOk := fun (d : Option Desc) => match d with | some x => decide (copyDim p < x.rank) | none => true
  p.bodyWords == 1 && slotsOnly p [0] [0] [0] && decide (mode ≤ 3) &&
    (mode == 0 || (!p.streamIn && !p.streamOut)) &&
    present (!p.streamIn) (p.inSlot 0) && present (!p.streamOut) (p.outSlot 0) && present (decide (2 ≤ mode)) (p.idxSlot 0) &&
    dimOk (p.input 0) && dimOk (p.output 0) &&
    ((p.input 0).map plainSpace).getD true && ((p.output 0).map plainSpace).getD true &&
    (match p.input 0, p.output 0 with
      | some a, some b => copyShapeOk mode (copyDim p) a b (p.index 0) && convListed a b
      | _, _ => true)

/-- Check 7 for a START of entry `e`. -/
def State.startOk (s : State) (e : Nat) (host : HostMem) (r : Run) (p : Snap) : Bool :=
  let n := p.samples r.count
  s.headerOk r p &&
    (match p.stage with
      | 1 | 2 | 3 => imageOk r p n
      | 4 => s.tokeniserOk r p n
      | 5 => s.pyramidOk e host r p n
      | 6 => s.packOk e host r p (r.base + p.sampleFirst) n
      | 7 => copyOk p
      | 8 => s.encodeOk r p
      | 9 => s.sealOk r p
      | 0x10 => s.vdecOk r p n
      | _ => s.vencOk r p)

/-- R303: no two SEAL STARTs name one ROUTE_IN. -/
def sealRoutesOk (ps : List Snap) : Bool :=
  let routes := (ps.filter fun p => p.stage == 9).map Snap.routeIn
  routes.eraseDups.length == routes.length

/-- R244: a PACK START with LENFMT 5 takes its stream from VENC. -/
def vencFeedOk (ps : List Snap) : Bool :=
  let plans := ps.map startPlan
  (List.range ps.length).all fun i =>
    match ps[i]? with
    | none => true
    | some p =>
      p.stage != 6 || (packCfg p).mode != 0 || (packCfg p).lenfmt != 5 ||
        (match (placesOf (feeds p.routeIn) plans)[(placesOf (takes p.routeIn) plans).idxOf i]? with
          | some k => (match ps[k]? with | some q => q.stage == 0x11 | none => false)
          | none => false)

/-! ### Checks 8 and 9 -/

/-- The footprints of tensors in the named slots of a START. -/
def footsIn (p : Snap) (slots : List Nat) : List Foot := slots.filterMap fun k => (p.descAt k).bind Desc.foot

def outFoots (p : Snap) : List Foot := footsIn p ((List.range 4).map p.outSlot)
def allFoots (p : Snap) : List Foot :=
  outFoots p ++ footsIn p ((List.range 4).map p.inSlot ++ (List.range 4).map p.idxSlot)

/-- R142: footprints of two jobs conflict: in TILE space only on the same stage. -/
def footsClash (same : Bool) (xs ys : List Foot) : Bool :=
  xs.any fun a => ys.any fun b => a.meets b && (a.space != 3 || same)

/-- R142: two jobs conflict. -/
def conflicts (a b : Snap) : Bool :=
  let same := a.stage == b.stage
  footsClash same (outFoots a) (allFoots b) || footsClash same (outFoots b) (allFoots a)

/-- Check 8: no two concurrent jobs conflict. -/
def concurrentOk : List Started → Bool
  | [] => true
  | x :: xs => (xs.all fun y => y.after.contains x.index || !conflicts x.snap y.snap) && concurrentOk xs

/-- Check 9 (R161): the destination of a COPY meets neither its source nor its index. -/
def overlapOk (p : Snap) : Bool :=
  p.stage != 7 || (match p.output 0 with
    | none => true
    | some b =>
      let clear := fun (d : Option Desc) => match d.bind Desc.foot, b.foot with | some x, some y => !x.meets y | _, _ => true
      clear (p.index 0) && (clear (p.input 0) || (match p.input 0 with | some a => inPlace p a b | none => true)))

/-! ### The nine checks -/

/-- R139: the status of a list, none where every check passes. -/
def State.listStatus (s : State) (e : Nat) (host : HostMem) (r : Run) (cs : List ListCmd) : Option Nat :=
  let w := walkList cs
  let ps := w.starts.map Started.snap
  let live := (ps.filter isLiveStart).length
  if !(cs.all cmdReservedOk && ps.all startReservedOk) then some 0x11
  else if !ps.all (s.startDescsOk r) then some 0x12
  else if !ps.all (s.startResources r) || (live != 0 && decide (16 < live + s.liveJobs)) then some 0x40
  else if !ps.all (s.startMatter r) then some 0x13
  else if !ps.all (s.startModality r) then some 0x32
  else if !(ps.all (s.startOk e host r) && sealRoutesOk ps && vencFeedOk ps) then some 0x12
  else if !(w.tagsOk && concurrentOk w.starts) then some 0x12
  else if !ps.all overlapOk then some 0x14
  else none

/-- R139: the checks of a list, the first of them over its bytes. -/
def State.checkList (s : State) (e : Nat) (host : HostMem) (r : Run) (list : Bytes) : Except Nat (List ListCmd) :=
  match parseList list with
  | none => .error 0x12
  | some cs => match s.listStatus e host r cs with | some st => .error st | none => .ok cs

end Sys2Proof.Machine
end

