-- ==== Sys2Proof/Machine/Records.lean ====
section
/-!
DEFINITION. The records that stages send on their routes (R179, R195, R212, R217, R235, R253), which Chorus and replay digest
(R349), and the backlogs that they make at their consumers (R378).
-/

namespace Sys2Proof.Machine

/-! ### Records -/

/-- The bytes of elements. -/
def elems (size : Nat) (vs : List Nat) : Bytes := vs.flatMap (leBytes size)

/-- R179. -/
def tokRecord (o : SampleOut) : Bytes :=
  leBytes 8 o.index ++ leBytes 4 (o.words.getD 0 0) ++ zeroBytes 4 ++ elems 4 o.values ++ elems 4 o.labels

/-- R195. -/
def imgRecord (c : ImgCfg) (o : SampleOut) : Bytes :=
  leBytes 8 o.index ++ elems 4 ((List.range 4).map fun i => o.words.getD i 0) ++ zeroBytes 8 ++
    (if o.reason ≠ 0 then [] else if c.outFmt = 2 then Config.planeRecord o.index (fieldOf (o.words.getD 2 0) 8 5) o.values
     else elems (if c.outFmt = 1 then 2 else 1) o.values)

/-- R212, R217: an output record for each record of a sample that came in; a voided one is its header alone. -/
def pyrRecord (c : PyrCfg) (o : SampleOut) : Bytes :=
  let head := fun (len word : Nat) => leBytes 8 o.index ++ leBytes 4 len ++ leBytes 4 word ++ zeroBytes 16
  if o.reason ≠ 0 then (List.replicate (max 1 o.parts.length) (head 0 (o.words.getD 1 0))).flatten
  else o.parts.flatMap fun vs => head vs.length 0 ++ elems ((dtypeSize c.dtype).getD 1) vs

/-- R217. -/
def frameRecord (index : Nat) (f : VFrame) : Bytes :=
  let flags := ofBool f.concealed + 2 * ofBool f.last + 4 * ofBool f.mapValid + 8 * ofBool f.late
  let map := elems 2 f.map
  leBytes 8 index ++ leBytes 4 f.no ++ leBytes 4 flags ++ elems 4 ((List.range 4).map fun i => f.shape.getD i 0) ++
    leBytes 2 f.mapW ++ leBytes 2 f.mapH ++ leBytes 4 (f.values.length * f.size) ++ zeroBytes 24 ++
    padTo ((map.length + 63) / 64 * 64) map ++ elems f.size f.values

/-- R235. -/
def vencRecord (o : SampleOut) : Bytes :=
  if o.reason ≠ 0 then Config.vencVoidRecord o.index o.reason o.detail
  else o.frames.flatMap fun f => leBytes 8 o.index ++ leBytes 4 f.no ++ leBytes 4 f.values.length ++ elems 1 f.values

/-- R349: what a stage sends for a sample. -/
def sampleBytes (p : Snap) (o : SampleOut) : Bytes :=
  match p.stage with
  | 4 => tokRecord o
  | 5 => pyrRecord (pyrCfg p) o
  | 0x10 => o.frames.flatMap (frameRecord o.index)
  | 0x11 => vencRecord o
  | _ => imgRecord (imgCfg p) o

/-- R253: the rows of a plan row as a Spawn record carries them. -/
def planRowBytes (dtype rpr : Nat) (r : PlanRow) : Bytes :=
  (([elems ((dtypeSize dtype).getD 1) r.data, elems 2 r.segId, elems 4 r.segPos] : List Bytes).take rpr).flatten

/-- R284, R349: the row digests of a plan row, or the byte 0x24. -/
def encRowBytes (x : EncRow) : Bytes := if x.status = 0 then (x.rows.map Prod.snd).flatten else [0x24#8]

/-! ### Backlogs (R378) -/

/-- The consumers of a job's streams: of its ROUTE_OUT, and of the AUX route of a VDEC. -/
def State.consumersOf (s : State) (j : Nat) (x : Job) : List (Nat × Job) :=
  (s.jobsOf x.run).filter fun c =>
    !c.2.ended && c.2.snap.streamIn &&
      (if c.2.stage = 8 then
        (match Tab.find s.runs x.run with
          | some r => (packPlaces r.planned (s.placeOf x.run c.1)).contains (s.placeOf x.run j)
          | none => false)
       else match s.producer c.1 c.2 with | some p => p.1 == j | none => false)

/-- R253: a Spawn record. -/
def spawnSize (sp : Spawn) : Nat := 64 + (sp.rows.map fun w => (planRowBytes sp.dtype sp.rpr w).length).sum

/-- The records that wait for a consumer, by number and size. -/
def State.waitingFor (s : State) (j : Nat) (x : Job) : List (Nat × Nat) :=
  if x.stage = 8 then
    match Tab.find s.runs x.run with
    | none => []
    | some r => (packPlaces r.planned (s.placeOf x.run j)).flatMap fun i =>
        match s.jobAt x.run i with
        | none => []
        | some (_, p) => (List.range p.spawns.length).filterMap fun k =>
            if k < p.encTaken then none
            else (p.spawns[k]?).map fun sp => (k, spawnSize sp)
  else match s.producer j x with
    | none => []
    | some (_, p) => (p.outs.filter fun o => decide (x.outs.length ≤ o.1)).map fun o => (o.1, (sampleBytes p.snap o.2).length)

/-- R378: the backlog of unit `u` of a stage in bytes. -/
def State.backlogOf (s : State) (stage u : Nat) : Nat :=
  (s.jobs.flatMap fun c =>
    if c.2.stage = stage ∧ c.2.snap.streamIn = true ∧ c.2.ended = false then
      (s.waitingFor c.1 c.2).filterMap fun w => if s.unitFor stage c.1 w.1 = u then some w.2 else none
    else []).sum

/-- The backlog of a region's seal sequencer: the encoded records of the Spawns dealt to it that it has not begun. -/
def State.sealBacklog (s : State) (r : Nat) : Nat :=
  ((s.seals.filter fun x => x.2.region == r && !x.2.started).map fun x => x.2.size).sum

/-- R382: GREEN, AMBER and RED of a consumer's thresholds in bytes. -/
def State.waterOf (s : State) (role : Nat) : Nat × Nat × Nat :=
  let w := Tab.getD s.pool.water role (1024, 2048, 8192)
  (w.1 * 1024, w.2.1 * 1024, w.2.2 * 1024)

/-- The entry of the threshold table that serves a stage. -/
def waterRole (stage : Nat) : Nat := if stage = 0x10 ∨ stage = 0x11 then 0x0A else stage

/-- A consumer's key among the backlogs: seal sequencers stand at stage 0x0B. -/
def backKey (stage u : Nat) : Nat := stage * 4096 + u

/-- R378: what a consumer's backlog sets off. -/
def State.noteLevel (s : State) (key role b : Nat) : State :=
  let w := s.waterOf role
  s.modPool fun p =>
    let x := Tab.getD p.backlogs key {}
    let y : Backlog :=
      { spilling := decide (w.2.1 ≤ b) || (x.spilling && decide (w.1 ≤ b)),
        stalled := decide (w.2.2 ≤ b) || (x.stalled && decide (w.2.1 ≤ b)) }
    { p with backlogs := Tab.put p.backlogs key y }

/-- R378: a consumer has taken a record: a backlog below GREEN ends its spilling; its producers resume with BACKLOG_RESUME. -/
def State.noteTake (s : State) (key role b : Nat) : State :=
  if b < (s.waterOf role).1 then
    s.modPool fun p => { p with backlogs := Tab.put p.backlogs key { Tab.getD p.backlogs key {} with spilling := false } }
  else s

/-- R26, R378: the producers of a consumer stall. -/
def State.stallsAt (s : State) (key role b : Nat) : Bool :=
  (Tab.getD s.pool.backlogs key {}).stalled || decide ((s.waterOf role).2.2 ≤ b)

/-- The backlog that a consumer's record `k` joins: its key, the role of its thresholds, its bytes. -/
def State.backlogAt (s : State) (c : Nat) (y : Job) (k : Nat) : Nat × Nat × Nat :=
  let u := s.unitFor y.stage c k
  (backKey y.stage u, waterRole y.stage, s.backlogOf y.stage u)

/-- R26, R351: a job stalls at its output for `k`: a consumer's unit is at RED, or its queue's Chorus buffer is full. -/
def State.outputStalls (s : State) (r : Run) (j : Nat) (x : Job) (k : Nat) : Bool :=
  s.chorusStalled r || (s.consumersOf j x).any fun c =>
    let b := s.backlogAt c.1 c.2 k
    s.stallsAt b.1 b.2.1 b.2.2

/-- After a job's output for `k` the levels at its consumers are judged. -/
def State.noteOutput (s : State) (j : Nat) (x : Job) (k : Nat) : State :=
  (s.consumersOf j x).foldl (fun s c => let b := s.backlogAt c.1 c.2 k; s.noteLevel b.1 b.2.1 b.2.2) s

/-- A consumer has taken record `k`. -/
def State.noteTaken (s : State) (c : Nat) (y : Job) (k : Nat) : State :=
  if y.snap.streamIn then let b := s.backlogAt c y k; s.noteTake b.1 b.2.1 b.2.2 else s

/-- R378: every level that has a backlog is judged again, as new thresholds stand. -/
def State.noteAll (s : State) : State :=
  s.pool.backlogs.foldl (fun s x =>
    let stage := x.1 / 4096
    s.noteLevel x.1 (if stage = 0x0B then 0x0B else waterRole stage)
      (if stage = 0x0B then s.sealBacklog (x.1 % 4096) else s.backlogOf stage (x.1 % 4096))) s

end Sys2Proof.Machine
end

