-- ==== Sys2Proof/Machine/Lanes.lean ====
section
/-!
DEFINITION. Lanes and V-cores at work: which units a job's samples are on (R143, R223), stalls and the ticks they take
(R26, R27), the cells that records wait in (R262, R371, R378), and units of work that run again (R448).
-/

namespace Sys2Proof.Machine

/-! ### V-cores (R223, R229, R234, R238) -/

/-- The V-cores in use: those of recorded lanes, of live channels and of encoders. -/
def State.coresUsed (s : State) : List Nat :=
  s.jobs.flatMap fun j => if j.2.running then j.2.core.toList ++ j.2.lanes.flatMap fun l => l.2.cores else []

/-- The lowest V-core in service that is free. -/
def State.freeCore (s : State) : Option Nat := s.coreList.find? fun c => !s.coresUsed.contains c

/-- The largest power of two up to `n`, at most `g` (a power of two). -/
def groupSize : Nat → Nat → Nat → Nat
  | 0, _, _ => 1
  | f + 1, g, n => if g ≤ n ∨ g ≤ 1 then g else groupSize f (g / 2) n

/-- The lists of `g` in a list; what is left over forms none. -/
def groupsIn (g : Nat) : Nat → List Nat → List (List Nat)
  | 0, _ => []
  | f + 1, cs => if cs.length < g ∨ g = 0 then [] else cs.take g :: groupsIn g f (cs.drop g)

/-- R223: the first free group of a job. -/
def State.freeGroup (s : State) (x : Job) : Option (List Nat) :=
  let cs := s.coreList
  (groupsIn (groupSize 8 (vdecCfg x.snap).group cs.length) cs.length cs).find? fun g => g.all fun c => !s.coresUsed.contains c

/-! ### Stalls (R26, R27, R262, R371) -/

/-- A request of a lane for cells waits. -/
def State.laneWaits (s : State) (j k : Nat) : Bool :=
  s.pool.requests.any fun q => match q.use with
    | .coefficients j' k' => j' == j && k' == k
    | .picture j' k' _ => j' == j && k' == k
    | _ => false

/-- R27: a lane is stalled: its stage at its output, for want of cells, or for want of room in the reorder buffer. -/
def State.laneStalls (s : State) (r : Run) (j : Nat) (x : Job) (k : Nat) (l : Lane) : Bool :=
  l.out.isSome || s.laneWaits j k || s.outputStalls r j x k

/-- R27, R261: ticks that a lane has been stalled, ticks of a fence apart. -/
def State.stallTicks (s : State) (r : Run) (l : Lane) : Nat :=
  l.stall + (match l.stalledFrom with
    | none => 0
    | some (t, f) => (s.now - t) - (s.fencedSoFar r.label - f))

/-- The stall of a lane begins or ends. -/
def State.laneClock (s : State) (r : Run) (j : Nat) (x : Job) (k : Nat) (l : Lane) : Lane :=
  match l.stalledFrom, s.laneStalls r j x k l with
  | none, true => { l with stalledFrom := some (s.now, s.fencedSoFar r.label) }
  | some _, false => { l with stall := s.stallTicks r l, stalledFrom := none }
  | _, _ => l

/-- R27: the stalls of all lanes, as they stand now. -/
def State.stallClock (s : State) : State :=
  { s with jobs := Tab.mapVals (fun j x =>
      match Tab.find s.runs x.run with
      | none => x
      | some r => { x with lanes := Tab.mapVals (fun k l => s.laneClock r j x k l) x.lanes }) s.jobs }

/-- The frame of a command after which a stall may have begun or ended. -/
def actStalls (t : Nat) (s : State) (f : State → State) : Host.Outcome State Fault Refusal := act t s fun s => (f s).stallClock

/-! ### Cells of records (R262, R371, R378) -/

/-- The pool of the cells of a job's record `k`: the region of the unit that takes it, the enclave pool while that backlog
spills, or the region of the unit that makes it where no stage takes it. -/
def State.recordPool (s : State) (j : Nat) (x : Job) (k : Nat) : Nat :=
  match s.consumersOf j x with
  | (c, y) :: _ =>
    if (Tab.getD s.pool.backlogs (s.backlogAt c y k).1 {}).spilling then 8
    else match s.unitAt y.stage c k with | some u => unitRegion y.stage u | none => 8
  | [] => match s.unitAt x.stage j k with | some u => unitRegion x.stage u | none => 8

/-- A stage asks for `bytes` bytes in pool `p` for a use; none are asked for nothing. -/
def State.askUse (s : State) (e : Nat) (r : Run) (p bytes : Nat) (u : CellUse) : State × Bool :=
  if bytes = 0 then (s, true) else s.askCells (workRequest e r p bytes u)

/-- A stage asks for the cells of its record for sample `k`. -/
def State.askRecord (s : State) (r : Run) (j : Nat) (x : Job) (k : Nat) (o : SampleOut) : State × Bool :=
  s.askUse x.run r (s.recordPool j x k) (sampleBytes x.snap o).length (.record j k)

/-- A record that its consumers have all taken gives its cells back. -/
def State.freeRecord (s : State) (j k : Nat) : State :=
  match s.job? j with
  | none => s
  | some x => if (s.consumersOf j x).all fun c => decide (k < c.2.outs.length) then s.freeUse (.record j k) else s

/-- A consumer has taken record `k` of its stream. -/
def State.takeRecord (s : State) (j : Nat) (x : Job) (k : Nat) : State :=
  if x.snap.streamIn then
    match s.producer j x with
    | none => s
    | some (p, _) => (s.noteTaken j x k).freeRecord p k
  else s

/-- R225: the frame buffers of a lane that satisfy `f` are wiped and given back, and are no longer asked for. -/
def State.freeBuffers (s : State) (j k : Nat) (f : Nat → Bool) : State :=
  let mine := fun (u : CellUse) => match u with | .picture j' k' n => j' == j && k' == k && f n | _ => false
  (s.freeWork fun w => mine w.use).modPool fun p => { p with requests := p.requests.filter fun q => !mine q.use }

/-! ### Units of work that run again (R448, R452, R239) -/

/-- R448: a lane drops its partial unit and starts its sample again on a unit. -/
def State.restartLane (s : State) (j k : Nat) (tile : Nat) (cores : List Nat) : State :=
  let s := s.freeWork fun w => match w.use with
    | .coefficients j' k' => j' == j && k' == k
    | .picture j' k' _ => j' == j && k' == k
    | _ => false
  let s := (s.modPool fun p => { p with requests := p.requests.filter fun q => match q.use with
    | .coefficients j' k' => !(j' == j && k' == k)
    | .picture j' k' _ => !(j' == j && k' == k)
    | _ => true }).freeUse (.record j k)
  s.modJob j fun x => { x with lanes := Tab.put x.lanes k { tile := tile, cores := cores, start := s.now, fenced := 0, again := true } }

/-- The lanes that satisfy `f`, as (job, sample). -/
def State.lanesWhere (s : State) (f : Job → Lane → Bool) : List (Nat × Nat) :=
  s.jobs.flatMap fun j => (j.2.lanes.filter fun l => f j.2 l.2).map fun l => (j.1, l.1)

/-- R448, R452: the samples of a tile's lanes run again on tile `dst`. -/
def State.restartTile (s : State) (src dst : Nat) : State :=
  (s.lanesWhere fun x l => !isCoreStage x.stage && l.tile == src).foldl (fun s p => s.restartLane p.1 p.2 dst []) s

/-- R452, R456: the samples on the tiles of a folding region run again on tiles left in service. -/
def State.restartRegion (s : State) (r : Nat) : State :=
  let s := (s.lanesWhere fun x l => !isCoreStage x.stage && tileRegion l.tile == r).foldl (fun s p =>
    match s.job? p.1 with
    | none => s
    | some x => s.restartLane p.1 p.2 ((s.unitAt x.stage p.1 p.2).getD 0) []) s
  -- R239: recorded samples of its V-cores run again; live channels and encoders take another core when one is free
  let s := (s.lanesWhere fun x l => isCoreStage x.stage && x.clock.isNone && l.cores.any fun c => c / 2 == r).foldl
    (fun s p => s.restartLane p.1 p.2 0 []) s
  { s with jobs := Tab.mapVals (fun _ x =>
      if (match x.core with | some c => c / 2 == r | none => false) then
        { x with core := none, wantsCore := true, live := x.live.map fun v => { v with resync := true },
                 lanes := Tab.mapVals (fun _ l => { l with cores := [] }) x.lanes }
      else x) s.jobs }

/-- A live channel takes a core. -/
def State.giveCore (s : State) (j c : Nat) : State :=
  s.modJob j fun x => { x with core := some c, wantsCore := false, lanes := Tab.mapVals (fun _ l => { l with cores := [c] }) x.lanes }

/-- R234, R239: live channels that wait for a V-core take those that are free; then recorded lanes that hold none take the free
groups; those of earlier jobs and samples first. -/
def State.regroup (s : State) : State :=
  let s := ((s.jobs.filter fun y => y.2.running && !y.2.ended && y.2.clock.isSome && y.2.wantsCore).map Prod.fst).foldl (fun s j =>
    match s.freeCore with | some c => s.giveCore j c | none => s) s
  (s.lanesWhere fun x l => x.stage == 0x10 && x.clock.isNone && l.cores.isEmpty).foldl (fun s p =>
    match s.job? p.1 with
    | none => s
    | some x => match s.freeGroup x with
      | none => s
      | some g => s.modJob p.1 fun y =>
          { y with lanes := match Tab.find y.lanes p.2 with | none => y.lanes | some l => Tab.put y.lanes p.2 { l with cores := g } }) s

end Sys2Proof.Machine
end

