-- ==== Sys2Proof/Machine/Jobs.lean ====
section
/-!
DEFINITION. RUN_LIST and the commands of a list (R118, R136, R141), the start of stage jobs and their hazards (R143, R144), and
the end of jobs with what they write then (COPY, the plan exchange, void lists and placement maps).
-/

namespace Sys2Proof.Machine

/-! ### RUN_LIST (R118) -/

/-- R171: the versions that the slots of a matter hold. -/
def State.dictsOf (s : State) (l g : Nat) : Tab Nat :=
  s.dictSlots.filter fun b => match Tab.find s.dicts b.2 with | some d => d.label == l && d.gen == g | none => false

/-- A RUN_LIST entry as it is taken: what it binds (R58, R171, R323). -/
def State.newRun (s : State) (q : Nat) (b : Bytes) (mem : HostMem) : Run :=
  let x := s.queue q
  { queue := q, label := x.label, gen := x.gen, cls := x.cls, step := entStep b, base := entBase b, count := entCount b,
    budget := entBudget b, cid := entCid b, tick := s.now, stamp := (match x.cache with | c :: _ => c.stamp | [] => 0),
    seeds := x.seeds, dicts := s.dictsOf x.label x.gen, host := mem, folded := s.foldingCount != 0 }

/-- R58, R59: the bank that a role's jobs of an entry run from, and the banks after its start: the first list of a new
generation swaps them. -/
def RoleBanks.forEntry (b : RoleBanks) (stamp : Nat) : RoleBanks × Nat :=
  if stamp ≤ b.activeGen then (b, 1 - b.active)
  else if b.gen ≠ b.activeGen ∧ b.gen < stamp then ({ b with active := 1 - b.active, activeGen := b.gen, unswapped := none }, 1 - b.active)
  else (b, b.active)

/-- The banks of the roles that a list starts. -/
def State.bindBanks (s : State) (stamp : Nat) : List Nat → State × List (Nat × Nat)
  | [] => (s, [])
  | c :: cs =>
    let x := (s.banks c).forEntry stamp
    let r := (s.modSil fun g => { g with banks := Tab.put g.banks c x.1 }).bindBanks stamp cs
    (r.1, (c, x.2) :: r.2)

/-- R348: the ledger record of an entry that starts; its count comes with its completion. -/
def State.ledgerOf (s : State) (r : Run) (b : Bytes) (ps : List Snap) : Ledger :=
  let slots := ps.flatMap fun p =>
    if p.stage = 4 then (if p.idxSlot 0 = 0xFF then [(tokCfg p).dict] else r.dicts.map Prod.fst) else []
  { entry := b, prog := s.sil.progDigest,
    seeds := sha256 ((List.range 16).flatMap fun k => padTo 32 (Tab.getD r.seeds k [])),
    dicts := slots.eraseDups.filterMap fun k => (s.boundDict r k).map fun d => (k, d.digest),
    tiles := s.tileCounts, ndc := 0 }

/-- The handles that the STARTs of a list name. -/
def handlesOf (ps : List Snap) : List Nat :=
  (ps.flatMap fun p => p.descs.filterMap fun d =>
    let x := descOf d.2.1 d.2.2
    if x.space = 2 then some x.handle else none).eraseDups

/-- A taken entry changed. -/
def State.modTaken (s : State) (q e : Nat) (f : Taken → Taken) : State :=
  s.modQueue q fun x => { x with taken := x.taken.map fun t => if t.serial = e then f t else t }

/-- An entry whose list passed every check starts to run. -/
def State.beginRun (s : State) (q e : Nat) (b : Bytes) (r : Run) (cs : List ListCmd) : State :=
  let ps := (walkList cs).starts.map Started.snap
  let roles := ((ps.map Snap.stage).filter fun c => decide (c ≤ 9)).eraseDups
  let led := s.ledgerOf r b ps
  let x := s.bindBanks r.stamp roles
  let s := x.1
  let s := s.modTaken q e fun t => { t with ran := true, ledger := some led, names := handlesOf ps, dicts := r.dicts.map Prod.snd }
  { s with runs := Tab.put s.runs e { r with cmds := cs, planned := ps.map startPlan, snaps := ps, banks := x.2 } }.shiftUpdate

/-- RUN_LIST (R118, R139): the front entry of a queue is taken; its list is read and checked, and runs or is refused. -/
def State.runList (s : State) (q : Nat) (list : Bytes) (mem : HostMem) (b : Bytes) : State :=
  let e := s.qg.nextSerial
  let r := s.newRun q b mem
  let list := padTo (entLen b) list
  match s.checkList e mem r list with
  | .error st => s.takeFront q b false (some (complOf b st 0))
  | .ok cs => (s.takeFront q b false none).beginRun q e b r cs

/-- RUN_LIST (R118). -/
def execRunList (t : Nat) (q : BitVec 12) (list : Bytes) (mem : HostMem) (s : State) :=
  act t s fun s => s.workRow q.toNat 0x80 fun b s => s.runList q.toNat list mem b

/-! ### The commands of a list (R141) -/

/-- NOPs at the front act at once. -/
def dropNops : List ListCmd → Nat → List ListCmd × Nat
  | [], n => ([], n)
  | c :: cs, n => if c.op = 0 then dropNops cs (n + 1) else (c :: cs, n)

/-- The front command has acted. -/
def State.advance (s : State) (e : Nat) : State := s.modRun e fun r => { r with cmds := r.cmds.drop 1, pos := r.pos + 1 }

/-- The frame of the list commands: the front command of entry `e` acts in the row of its opcode. -/
def State.listRow (s : State) (e op : Nat) (f : Run → ListCmd → State → State) : State :=
  match Tab.find s.runs e with
  | none => s
  | some r =>
    if !s.mayWork r || r.ended then s
    else match dropNops r.cmds r.pos with
      | ([], _) => s
      | (c :: cs, n) =>
        if c.op = op then
          f { r with cmds := c :: cs, pos := n } c (s.modRun e fun r => { r with cmds := c :: cs, pos := n })
        else s

/-- DESC, LOAD_SCB and WRITE_REG change the list's slots and contexts. -/
def State.listWrite (s : State) (e op : Nat) : State :=
  s.listRow e op fun _ c s => (s.modRun e fun r => { r with ctx := r.ctx.apply r.pos c }).advance e

/-- DESC (R136). -/
def execDesc (t : Nat) (e : Nat) (s : State) := act t s fun s => s.listWrite e 1
/-- LOAD_SCB (R136). -/
def execLoadScb (t : Nat) (e : Nat) (s : State) := act t s fun s => s.listWrite e 2
/-- WRITE_REG (R136). -/
def execWriteReg (t : Nat) (e : Nat) (s : State) := act t s fun s => s.listWrite e 3

/-- R143: a START was accepted before another: at an earlier tick, or in one tick for the lower queue number. -/
def State.acceptedBefore (s : State) (a b : Nat × Job) : Bool :=
  let q := fun (j : Nat × Job) => match Tab.find s.runs j.2.run with | some r => r.queue | none => 0
  decide (a.2.tick < b.2.tick) || (a.2.tick == b.2.tick && (decide (q a < q b) || (q a == q b && decide (a.1 < b.1))))

/-- A job among jobs in the order of acceptance. -/
def State.insertJob (s : State) (a : Nat × Job) : List (Nat × Job) → List (Nat × Job)
  | [] => [a]
  | b :: bs => if s.acceptedBefore a b then a :: b :: bs else b :: s.insertJob a bs

/-- R143: the jobs that wait on a stage, in the order of acceptance. -/
def State.queuedOn (s : State) (stage : Nat) : List (Nat × Job) :=
  (s.jobs.filter fun j => j.2.stage == stage && !j.2.running && !j.2.ended).foldl (fun js j => s.insertJob j js) []

/-- START (R141, R143): a snapshot becomes a job of the stage, unless the stage's queue is full. -/
def State.listStart (s : State) (e : Nat) : State :=
  s.listRow e 4 fun r c s =>
    if 32 ≤ (s.queuedOn c.stage).length then s
    else
      let tag := c.arg % 256
      let p := r.ctx.snap c.stage tag
      let j : Job :=
        { run := e, stage := c.stage, tag := tag, snap := p, first := p.sampleFirst, count := p.samples r.count, tick := s.now,
          clock := if isLiveStart p then some (vdecCfg p).lfc else none }
      let n := s.nextJob
      ({ s with jobs := Tab.put s.jobs n j, nextJob := n + 1 }.modRun e fun r =>
        { r with tags := Tab.put r.tags tag n, started := r.started ++ [n] }).advance e

/-- START (R141). -/
def execStart (t : Nat) (e : Nat) (s : State) := act t s fun s => s.listStart e

/-- A job has ended. -/
def State.jobEnded (s : State) (j : Nat) : Bool := match s.job? j with | some x => x.ended | none => true

/-- WAIT (R140, R141): it stops the list until the tagged job, or every job started so far, has ended. -/
def State.listWait (s : State) (e : Nat) : State :=
  s.listRow e 5 fun r c s =>
    if bitOf c.arg 8 then
      if r.started.all s.jobEnded then (s.modRun e fun r => { r with tags := [] }).advance e else s
    else match Tab.find r.tags (c.arg % 256) with
      | none => s
      | some j => if s.jobEnded j then (s.modRun e fun r => { r with tags := Tab.del r.tags (c.arg % 256) }).advance e else s

/-- WAIT (R141). -/
def execWait (t : Nat) (e : Nat) (s : State) := act t s fun s => s.listWait e

/-- END (R141): it waits for every job of the list; then the entry completes once its writes are done. -/
def State.listFinish (s : State) (e : Nat) : State :=
  s.listRow e 7 fun r _ s =>
    if r.started.all s.jobEnded then ((s.modRun e fun r => { r with ended := true }).advance e).settleRun e else s

/-- END (R141). -/
def execListEnd (t : Nat) (e : Nat) (s : State) := act t s fun s => s.listFinish e

/-! ### The start of a job (R143, R144) -/

/-- R144: an entry was taken before another: at an earlier tick, or in one tick from the lower queue number. -/
def State.takenBefore (s : State) (a b : Nat) : Bool :=
  match Tab.find s.runs a, Tab.find s.runs b with
  | some x, some y =>
    decide (x.tick < y.tick) || (x.tick == y.tick && (decide (x.queue < y.queue) || (x.queue == y.queue && decide (a < b))))
  | _, _ => false

/-- R144: a job waits for the conflicting jobs of earlier-taken entries of its matter, those whose START is still to come among
them. -/
def State.hazard (s : State) (x : Job) : Bool :=
  match Tab.find s.runs x.run with
  | none => true
  | some r => s.runs.any fun z =>
      z.2.label == r.label && z.2.gen == r.gen && s.takenBefore z.1 x.run &&
        ((s.jobsOf z.1).any (fun y => !y.2.ended && conflicts y.2.snap x.snap) ||
          (z.2.snaps.drop z.2.started.length).any fun p => conflicts p x.snap)

/-- A stage whose samples are dealt to tiles in shares. A job that takes its input as it comes is dealt nothing beforehand. -/
def Job.dealt (x : Job) : Bool := (decide (1 ≤ x.stage) && decide (x.stage ≤ 6)) && !x.snap.streamIn

/-- R143: a tile has finished sample `k` of a job. -/
def Job.finishedSample (x : Job) (k : Nat) : Bool :=
  decide (k < x.outs.length) || (Tab.find x.done k).isSome

/-- R143: the unit at place `u` has finished its share of a job. -/
def State.shareDone (s : State) (j : Nat) (x : Job) (u : Nat) : Bool :=
  (List.range x.count).all fun k => s.unitFor x.stage j k != u || x.finishedSample k

/-- R143: the unit at place `u` has finished its shares of the jobs of a stage that started before job `j`. -/
def State.turnOf (s : State) (j : Nat) (x : Job) (u : Nat) : Bool :=
  s.jobs.all fun y =>
    y.1 == j || !(y.2.stage == x.stage && y.2.running && y.2.dealt) ||
      decide (x.began < y.2.began) || (x.began == y.2.began && x.running && decide (j < y.1)) || s.shareDone y.1 y.2 u

/-- R143: a job finds its stage: a tile that has finished its share of the jobs before it; for recorded video, no earlier job with
a sample that no group has taken; for an encoder, a free V-core. Jobs that take a stream, COPY, ENCODE, SEAL and live channels wait
for no earlier job. -/
def State.stageFree (s : State) (j : Nat) (x : Job) : Bool :=
  if x.stage = 0x11 then s.freeCore.isSome
  else if x.stage = 0x10 then
    x.clock.isSome || !(s.jobs.any fun y => y.2.stage == 0x10 && y.2.running && y.2.clock.isNone && decide (y.2.next < y.2.count))
  else !x.dealt || (List.range (s.unitsAt x.stage).length).any (s.turnOf j { x with began := s.now })

/-- What a job holds when it starts: PACK's samples in shuffled order (R247). -/
def State.packAtStart (r : Run) (x : Job) : Packing :=
  if x.stage = 6 ∧ (packCfg x.snap).mode = 0 then
    let c := packCfg x.snap
    { waiting := shuffled c (Tab.getD r.seeds c.seed []) (jobBase r x) x.count }
  else {}

/-- R162: the gather caches are cleared. -/
def State.clearGather (s : State) : State := (s.unitsAt 7).foldl (fun s id => s.modTile id fun t => { t with gather := [] }) s

/-- STAGE_JOB_START (R143, R144): the first waiting job of a stage that no hazard holds starts. -/
def State.jobStart (s : State) (j : Nat) (mem : HostMem) : State :=
  match s.job? j with
  | none => s
  | some x =>
    match Tab.find s.runs x.run with
    | none => s
    | some r =>
      let first := (s.queuedOn x.stage).find? fun y => !s.hazard y.2
      if x.running || x.ended || !s.mayWork r || first.map Prod.fst != some j ||
          !s.stageFree j x then s
      else
        let s := s.judgeReads r x.snap.reads
        let core := if x.clock.isSome ∨ x.stage = 0x11 then s.freeCore else none
        let s := (s.unitsOf x.stage).foldl (fun s id =>
          s.modTile id fun t => { t with seq := Sequencer.load ((List.range 4).map x.snap.loop) }) s
        let s := if x.stage = 7 then s.clearGather else s
        let copy := if x.stage = 7 then s.copyPlan j x (r.host ++ mem) else ([], 0)
        s.modJob j fun x =>
          { x with running := true, began := s.now, host := r.host ++ mem, pack := State.packAtStart r x, core := core,
                   wantsCore := x.clock.isSome && core.isNone, tiles := s.tileCount 5, copy := copy.1, copyLost := copy.2 }

/-- STAGE_JOB_START (R143). -/
def execStageJobStart (t : Nat) (job : Nat) (mem : HostMem) (s : State) := actStalls t s fun s => s.jobStart job mem

/-! ### What jobs write as they end -/

/-- R162: a line joins a gather cache of 256: the least recently used one leaves. -/
def touchLine (line : Nat) (c : List Nat) : List Nat := (line :: c.filter (· != line)).take 256

/-- R162: the source lines of 64 bytes that a gather reads, element by element, pass the caches of the tiles that the blocks are
dealt to. -/
def State.gatherLines (s : State) (j : Nat) (x : Job) : State :=
  match x.snap.input 0, x.snap.output 0 with
  | some src, some dst =>
    if copyMode x.snap ≠ 2 then s
    else (positions dst.shape).foldl (fun s c =>
      match s.copyIndex x x.host (c.getD (copyDim x.snap) 0), s.unitAt 7 j (blockNo false dst.shape c) with
      | some k, some id =>
        (match src.localCoords (withCoord (ints c) (copyDim x.snap) k) with
          | some l => s.modTile id fun t => { t with gather := touchLine (((src.addr : Int) + src.linear l).toNat / 64) t.gather }
          | none => s)
      | _, _ => s) s
  | _, _ => s

/-- R158 to R164: a COPY job writes its blocks. -/
def State.runCopy (s : State) (j : Nat) (x : Job) : State :=
  ((s.gatherLines j x).putCopy x fun _ => true).countOob x.run x.copyLost

/-- The length words of sample `k` in TD_IN[1]. -/
def State.lenWords (s : State) (x : Job) (k : Nat) : List Nat :=
  match x.snap.input 1 with
  | none => []
  | some d =>
    if d.rank = 1 then [s.readElem x.run x.stage x.host d [k]]
    else (List.range (d.extent 0)).map fun i => s.readElem x.run x.stage x.host d [i, k]

/-- R246: the position limit of an entry's profile. -/
def State.limitOf (s : State) (r : Run) : Nat := match s.profileOf r with | some f => f.posLimit | none => 0

/-- R255: a MODE 1 job sends its exchange message; samples that its items void are voided. -/
def State.runExchange (s : State) (r : Run) (x : Job) : State :=
  let c := packCfg x.snap
  let items := (List.range x.count).map fun k => limitItem c (s.limitOf r) (lenItem c (s.lenWords x k))
  let s := s.emit (.interior c.exch (exchMessage c r.step (jobBase r x) items))
  (List.range items.length).foldl (fun s k =>
    let i := items.getD k { len := 0 }
    if i.reason = 0 then s else s.voidSample x.run (jobBase r x + k) i.reason) s

/-- R256: a MODE 2 job writes the row base table and its receipt. -/
def State.runPlan (s : State) (r : Run) (x : Job) : State :=
  let c := packCfg x.snap
  match s.globalList x.run x.host c r.step x.snap, s.profileOf r, x.snap.output 0 with
  | some items, some f, some d =>
    let ws := spanWindows c (Tab.getD r.seeds c.seed []) (s.limitOf r) items
    let bases := planBases f.slots c.rpr c.rowBase ws
    let s := s.writeElems x.run 6 d ((List.range bases.length).map fun w => ([w], bases.getD w 0))
    s.emit (.interior c.exch (planReceipt c r.step items))
  | _, _, _ => s

/-- R264: the void list's entry for a sample, if it has one. -/
def voidEntryOf (r : Run) (x : Job) (k : Nat) : Option Bytes :=
  let idx := jobBase r x + k
  let o := Tab.getD x.outs k { index := idx }
  if o.reason ≠ 0 then some (voidEntry idx o.reason o.detail o.role)
  else match r.affected.find? fun a => a.1 == idx with
    | none => none
    | some a =>
      if r.voided.contains idx then some (voidEntry idx a.2 0 8)
      else some (voidEntry idx a.2 9 0x10)

/-- R264, R265: a MODE 0 job writes its void list and its placement map. -/
def State.writeLists (s : State) (r : Run) (x : Job) : State :=
  let s := match x.snap.output 1 with
    | none => s
    | some d =>
      let es := (List.range x.count).filterMap (voidEntryOf r x)
      s.writeEntries x.run d (es ++ List.replicate (x.count - es.length) (zeroBytes 16))
  match x.snap.output 2 with
  | none => s
  | some d => s.writeEntries x.run d ((List.range x.count).map fun k => placeEntry (Tab.find x.pack.placed (jobBase r x + k)))

/-! ### The end of a job -/

/-- An ENCODE START takes the Spawns of a PACK job. -/
def State.encodesOf (r : Run) (place : Nat) : Bool :=
  (placesOf (fun q => q.stage == 8) r.planned).any fun enc => (packPlaces r.planned enc).contains place

/-- All the work of a running job is done. -/
def State.jobDone (s : State) (r : Run) (j : Nat) (x : Job) : Bool :=
  match x.stage with
  | 6 =>
    (packCfg x.snap).mode != 0 ||
      (x.pack.finished && x.outs.length == x.count &&
        (x.snap.outSlot 1 == 0xFF || x.encTaken == x.spawns.length || !State.encodesOf r (s.placeOf x.run j)))
  | 7 => (!x.snap.streamOut || (List.range x.count).all fun k => !s.outputStalls r j x k) && (!x.snap.streamIn || (match s.producer j x with | some p => p.2.ended | none => true))
  | 8 => (packPlaces r.planned (s.placeOf x.run j)).all fun i =>
      match s.jobAt x.run i with | some (_, p) => p.pack.finished && p.encTaken == p.spawns.length | none => false
  | 9 => decide ((s.packsOfSeal r.planned (s.placeOf x.run j)).length ≤ x.lastSealed) &&
      !(s.seals.any fun y => y.2.job == j)
  | _ => x.outs.length == x.count

/-- A COPY job that streams out sends a record for each of its samples. -/
def State.copyRecords (s : State) (j : Nat) (r : Run) (x : Job) : State :=
  if x.snap.streamOut then
    let s := s.modJob j fun y => { y with outs := (List.range x.count).map fun k =>
      (k, { index := jobBase r x + k, values := Config.copyOut x.run (s.placeOf x.run j) k }) }
    (List.range x.count).foldl (fun s k => match s.job? j with | some y => s.noteOutput j y k | none => s) s
  else s

/-- What a job does as it ends. -/
def State.jobFinish (s : State) (r : Run) (j : Nat) (x : Job) : State :=
  match x.stage with
  | 6 => match (packCfg x.snap).mode with
    | 0 => s.writeLists r x
    | 1 => s.runExchange r x
    | _ => s.runPlan r x
  | 7 => (s.runCopy j x).copyRecords j r x
  | 9 => s.closeManifests x.run j true 4194304
  | _ => s

/-- A COPY job has taken every record of its stream. -/
def State.takeAll (s : State) (j : Nat) (x : Job) : State :=
  if x.stage = 7 then (List.range x.count).foldl (fun s k => s.takeRecord j x k) s else s

/-- JOB_END (R141): a running job whose work is done ends. A SEAL job whose last manifests find no room stalls (R387). -/
def State.endJob (s : State) (j : Nat) : State :=
  match s.job? j with
  | none => s
  | some x =>
    match Tab.find s.runs x.run with
    | none => s
    | some r =>
      if x.running && !x.ended && s.mayWork r && s.jobDone r j x then
        let s := s.jobFinish r j x
        if s.manifestStalls x.run j true then s
        else ((s.modJob j fun y => { y with running := false, ended := true, lanes := [], done := [] }).takeAll j x).unitDone x.stage
      else s

/-- JOB_END (R141). -/
def execJobEnd (t : Nat) (job : Nat) (s : State) := actStalls t s fun s => s.endJob job

end Sys2Proof.Machine
end

