-- ==== Sys2Proof/Machine/Samples.lean ====
section
/-!
DEFINITION. Samples in work (R86, R87, R181 to R183, R198, R221, R242 to R262): lanes and their chunks, budgets, the order of
retirement, and what each stage makes of a sample as it retires.
-/

namespace Sys2Proof.Machine

/-! ### What a lane reads (R86, R87, R148) -/

/-- The stages whose lanes read sealed samples. -/
def readsSealed (stage : Nat) : Bool := stage == 1 || stage == 2 || stage == 3 || stage == 4 || stage == 0x10

/-- R148: the table entry of a sample: the address and length of its chunk run. -/
def Job.tableEntry (x : Job) (k : Nat) : Nat × Nat :=
  match x.snap.input 0 with
  | none => (0, 0)
  | some d =>
    -- R155, R156: an entry that another shard holds is outside the tensor
    match d.localCoords [((x.first + k : Nat) : Int)] with
    | none => (0, 0)
    | some l =>
      let b := (List.range 16).map fun i => hostByte x.host (((d.addr : Int) + d.linear l).toNat + i)
      (leAt b 0 8, leAt b 8 4)

/-- A body word says that the job is a length pre-pass. -/
def Job.isPrepass (x : Job) : Bool :=
  match x.stage with
  | 4 => (tokCfg x.snap).prepass
  | 0x10 => (vdecCfg x.snap).prepass
  | _ => x.snap.bit 0 0

/-- A class C main pass reads planned words (R183, R198, R221). -/
def Job.planned (r : Run) (x : Job) : Bool := r.cls == 0 && !x.isPrepass

/-- The planned words of a sample. -/
def State.plannedWords (s : State) (x : Job) (k : Nat) : List Nat := s.lenWords x k

/-- The void reason that words carry: of a token length, or of shape words. -/
def plannedReason (stage : Nat) (ws : List Nat) : Nat :=
  if stage = 4 then fieldOf (ws.getD 0 0) 24 8 else wordReason ws

/-- A class C main pass does not decode a sample that its plan voids: its words are the planned ones (R183, R198, R221). -/
def State.plannedVoid (s : State) (r : Run) (x : Job) (k : Nat) : Option SampleOut :=
  let ws := s.plannedWords x k
  if x.planned r && plannedReason x.stage ws != 0 then
    some { index := jobBase r x + k, reason := plannedReason x.stage ws, detail := if x.stage = 4 then 0 else wordDetail ws, role := x.stage,
           words := ws, frames := if x.stage = 0x10 then [{ no := 0, last := true, shape := ws.take 4 }] else [] }
  else none

/-- A sample that is void before any of it is read: for want of a dictionary (R181), for want of a page (R194). -/
def State.skipped (s : State) (r : Run) (x : Job) (k : Nat) : Option SampleOut :=
  let idx := jobBase r x + k
  match x.stage with
  | 4 => if (s.dictOf r x.run x.host x.snap k).isSome then none
      else some { index := idx, reason := 0x20, role := 4, words := [0x20 * 2 ^ 24] }
  | 3 => if (s.pageOf x.run x.host x.snap k).isSome then none
      else some { index := idx, reason := 0x20, detail := 7, role := 3, words := voidWords 0x20 7 }
  | _ => none

/-- What a stage makes of the bytes read so far: none while it needs more. -/
def State.evalSample (s : State) (r : Run) (x : Job) (k : Nat) (data : Bytes) (cuts : List (Nat × Nat)) (e : Ending) :
    Option SampleOut :=
  let idx := jobBase r x + k
  let budget := if r.cls = 0 then r.budget else 0
  match x.stage with
  | 4 =>
    match s.dictOf r x.run x.host x.snap k with
    | none => none
    | some d => tokenise (tokCfg x.snap) d (Tab.getD r.seeds (tokCfg x.snap).seed []) idx budget data e
  | 0x10 => decodeVideo (vdecCfg x.snap) cuts idx budget data e
  | _ =>
    let out := x.snap.output 0
    let bits := match out with | some d => if d.isPlane then some d.bits else none | none => none
    decodeImage (imgCfg x.snap) (out.map fun d => d.extent 0) bits idx ((s.pageOf x.run x.host x.snap k).getD 0) budget data e

/-- A class C main pass holds an outcome to its plan; a disagreement adds one OPS record 0x0204. -/
def State.holdOut (s : State) (r : Run) (x : Job) (k : Nat) (o : SampleOut) : State × SampleOut :=
  if x.planned r then
    let ws := s.plannedWords x k
    let h := match x.stage with
      | 4 => holdToPlan (ws.getD 0 0) o
      | 0x10 => holdFrames x.run (vdecCfg x.snap).frameStep ws o
      | _ => holdShape x.run ws o
    (if h.2 then s.record 0 0x0204 2 (leBytes 2 r.queue ++ leBytes 8 o.index) else s, h.1)
  else (s, o)

/-- A chunk: its plaintext with LAST, or none when it fails (R87). -/
def State.openChunk (s : State) (r : Run) (index no : Nat) (c : Bytes) : Option (Bytes × Bool) :=
  let len := fieldOf (leAt c 20 4) 0 31
  let x := s.label r.label
  if leAt c 0 8 ≠ x.matter ∨ leAt c 8 8 ≠ index ∨ leAt c 16 4 ≠ no ∨ len = 0 ∨ 65536 < len then none
  else
    (gcmOpen x.kData (leBytes 8 index ++ leBytes 4 no) (slice c 0 24) (slice c 24 len) (slice c (24 + len) 16)).map fun p =>
      (p, bitOf (leAt c 20 4) 31)

/-- The void of a sample that its stage stops: its words and, for video, its one record. -/
def voidOut (stage index reason : Nat) : SampleOut :=
  { index := index, reason := reason, role := stage,
    words := if stage = 4 then [reason * 2 ^ 24] else if stage = 0x10 then voidWords reason 0 ++ [0] else voidWords reason 0,
    frames := if stage = 0x10 then [{ no := 0, last := true, shape := voidWords reason 0 }] else [] }

/-! ### Retirement of read samples (R262) -/

/-- A sample's values go on to a later stage of its entry: by a stream, or to a PACK that reads them from a tensor. -/
def keepsTadpole (r : Run) (x : Job) (o : SampleOut) : Bool :=
  o.reason == 0 && !(readsSealed x.stage && x.isPrepass) &&
    (x.snap.streamOut || r.planned.any fun q => q.stage == 6 && q.mode == 0 && !q.streamIn)

/-- What every stage does as a sample retires: its place in order, its void or concealment, its tensors, its point, its cells,
and what it takes from the stage before. -/
def State.retire (s : State) (r : Run) (j : Nat) (x : Job) (k : Nat) (o : SampleOut) (write : State → State) : State :=
  let idx := jobBase r x + k
  let s := s.modJob j fun y => { y with done := Tab.del y.done k, outs := Tab.put y.outs k o, tiles := s.tileCount 5 }
  let s := if o.reason ≠ 0 then s.voidSample x.run idx o.reason
    else if o.concealed then s.affect x.run idx 0x23 false else s
  let s := write s
  let s := if keepsTadpole r x o then s else s.tadpoleRelease x.run idx
  let s := if (readsSealed x.stage && x.isPrepass) || x.stage == 6 then s else s.point x.run x.stage idx (sha256 (sampleBytes x.snap o)) (if isCoreStage x.stage then none else s.unitAt x.stage j k)
  let s := if x.snap.streamOut && x.stage != 6 then s.noteOutput j x k else s.freeUse (.record j k)
  (s.unitDone x.stage).takeRecord j x k

/-- The tensors of a job that reads samples. -/
def State.readRetire (s : State) (x : Job) (k : Nat) (o : SampleOut) : State :=
  match x.stage with
  | 4 => s.tokRetire x.run x.snap k o
  | 0x10 => s.vdecRetire x.run x.snap k o
  | _ => s.imgRetire x.run x.snap k o

/-- R262: a void retires at the tick at which it is decided, once the samples before it have (log 73); so do the voids that
follow it (`fuel` bounds them). -/
def State.retireVoids (s : State) (r : Run) (j : Nat) : Nat → State
  | 0 => s
  | f + 1 =>
    match s.job? j with
    | none => s
    | some x =>
      let k := x.outs.length
      match Tab.find x.done k with
      | some o =>
        if o.reason = 0 || s.outputStalls r j x k then s
        else (s.retire r j x k o fun s => s.readRetire x k o).retireVoids r j f
      | none => s

/-- R262: the completed samples in a job's reorder buffer: those that wait for an earlier one. -/
def Job.buffered (x : Job) : Nat := (x.done.filter fun d => d.1 != x.outs.length && d.2.reason == 0).length

/-- R262: the sample of a lane that is complete leaves it: for the reorder buffer, of at most 1,024 samples in pool cells, when an
earlier sample is still in work; else the lane stalls with it. -/
def State.leaveLane (s : State) (r : Run) (j k : Nat) : State :=
  match s.job? j with
  | none => s
  | some x =>
    match (Tab.find x.lanes k).bind Lane.out with
    | none => s
    | some o =>
      let free := k = x.outs.length ∨ o.reason ≠ 0
      if ¬ free ∧ 1024 ≤ x.buffered then s
      else
        let a := if free then (s, true) else s.askRecord r j x k o
        if a.2 then
          a.1.modJob j fun y => { y with lanes := Tab.del y.lanes k, done := Tab.put y.done k o }
        else a.1

/-- R262: the samples that stalled in their lanes leave them as they can, and the voids that are next retire. -/
def State.settleJob (s : State) (r : Run) (j : Nat) : State :=
  match s.job? j with
  | none => s
  | some x =>
    let s := (x.lanes.map Prod.fst).foldl (fun s k => s.leaveLane r j k) s
    s.retireVoids r j (x.count + 1)

/-- R262: a lane is done with a sample; a lane moults what it held. -/
def State.laneDone (s : State) (r : Run) (j : Nat) (x : Job) (k : Nat) (o : SampleOut) : State :=
  let h := s.holdOut r x k o
  let s := (h.1.freeUse (.coefficients j k)).freeBuffers j k fun _ => true
  let s := s.modJob j fun y =>
    { y with lanes := match Tab.find y.lanes k with | none => y.lanes | some l => Tab.put y.lanes k { l with data := [], out := some h.2 } }
  s.settleJob r j

/-- A sample that no lane works on is void. -/
def State.voidUnread (s : State) (r : Run) (j k : Nat) (o : SampleOut) : State :=
  (s.modJob j fun y => { y with done := Tab.put y.done k o }).settleJob r j

/-! ### Chunks (R86, R87) -/

/-- R188: the bytes of the coefficient store that a lane needs for what it has read: none without a progressive image. -/
def Job.storeBytes (x : Job) (data : Bytes) : Nat := if x.stage = 1 then progressiveBytes (imgCfg x.snap).maxPixels data else 0

/-- The late pictures of a live segment. -/
def Job.cuts (x : Job) : List (Nat × Nat) := match x.live with | some v => v.late | none => []

/-- R225: a stream's frame buffers follow what it has read, as cell chains of enclave cells; true where it holds them all. -/
def State.askBuffers (s : State) (r : Run) (j k : Nat) (x : Job) (l : Lane) : State × Bool :=
  if x.stage ≠ 0x10 ∨ x.isPrepass then (s, true)
  else
    let held := heldBuffers (vdecCfg x.snap) (if r.cls = 0 then r.budget else 0) x.cuts l.data
    let s := s.freeBuffers j k fun n => !(held.map Prod.fst).contains n
    held.foldl (fun a p => if a.2 then a.1.askUse x.run r 8 p.2 (.picture j k p.1) else a) (s, true)

/-- What a lane has read is decoded: the outcome, or nothing while it needs more. A progressive image first takes its
coefficient store (R188), a stream its frame buffers (R225), and the lane stalls while they wait. -/
def State.settleLane (s : State) (r : Run) (j k : Nat) : State :=
  match s.job? j with
  | none => s
  | some x =>
    match Tab.find x.lanes k with
    | none => s
    | some l =>
      if l.out.isSome then s
      else
        let pool := match s.unitAt x.stage j k with | some u => unitRegion x.stage u | none => 8
        let a := s.askUse x.run r pool (x.storeBytes l.data) (.coefficients j k)
        let a := if a.2 then a.1.askBuffers r j k x l else a
        if a.2 then
          match a.1.evalSample r x k l.data x.cuts l.ending with
          | some o => a.1.laneDone r j x k o
          | none => a.1
        else a.1

/-- A lane reads its next chunk: `chunk` is what the read returns. The first opens its budget window (R261) and, once it
verifies, its Tadpole (R99). -/
def State.readChunk (s : State) (r : Run) (j k : Nat) (chunk : Bytes) : State :=
  match s.job? j with
  | none => s
  | some x =>
    match Tab.find x.lanes k with
    | none => s
    | some l =>
      let idx := jobBase r x + k
      let l := if l.chunks = 0 then { l with start := s.now, fenced := s.fencedSoFar r.label, stall := 0, stalledFrom := none, again := false } else l
      let room := (x.tableEntry k).2 - l.taken
      let c := padTo (40 + fieldOf (leAt (padTo 24 chunk) 20 4) 0 31) chunk
      let settle := fun (s : State) (l : Lane) => (s.modJob j fun y => { y with lanes := Tab.put y.lanes k l }).settleLane r j k
      if room < 24 ∨ room < c.length then (if x.clock.isSome then s else settle s { l with ending := .badAuth })
      else match s.openChunk r idx l.chunks c with
        | none => settle s { l with ending := .badAuth }
        | some (p, last) =>
          let s := if l.chunks = 0 ∧ (Tab.find r.tadpoles idx).isNone then s.tadpoleBegin x.run idx else s
          settle s
            { l with chunks := l.chunks + 1, taken := l.taken + c.length, data := l.data ++ p,
                     ending := if last then .whole else if x.clock.isNone ∧ room = c.length then .badAuth else .more }

/-! ### Lanes (R261) -/

/-- The lanes of a tile that hold a sample: 32 at most. -/
def State.lanesOn (s : State) (id : Nat) : Nat := (s.lanesWhere fun x l => !isCoreStage x.stage && l.tile == id).length

/-- R143, R223: where sample `k` of a job is worked on, if its unit is free for it: a tile, or V-cores. -/
def State.placeFor (s : State) (j : Nat) (x : Job) (k : Nat) : Option (Nat × List Nat) :=
  if x.stage = 0x10 then
    if x.clock.isSome then (if x.lanes.isEmpty then x.core.map fun c => (0, [c]) else none)
    else (s.freeGroup x).map fun g => (0, g)
  else match s.unitAt x.stage j k with
    | none => none
    | some id =>
      if s.tileReady id && decide (s.lanesOn id < 32) && s.turnOf j x (s.unitFor x.stage j k) then some (id, []) else none

/-- R231, R232: window 0 of a live segment is set as its first chunk is read: the first window that starts at or after that tick;
each read is noted with its tick. -/
def State.noteRead (s : State) (j k : Nat) : State :=
  match s.job? j with
  | none => s
  | some x =>
    match x.clock, Tab.find x.lanes k with
    | some c, some l =>
      if l.chunks = 0 ∨ l.out.isSome then s
      else
        let p := match s.claimOf 5 c with | some q => max 1 q.arg | none => 1
        let v := x.live.getD { window0 := (s.now + p - 1) / p * p }
        s.modJob j fun y => { y with live := some { v with reads := v.reads ++ [(s.now, l.data.length)] } }
    | _, _ => s

/-- SAMPLE_START (R261): a lane takes the job's next sample and reads its first chunk. -/
def State.sampleStart (s : State) (j : Nat) (chunk : Bytes) : State :=
  let s := s.regroup
  match s.job? j with
  | none => s
  | some x =>
    match Tab.find s.runs x.run with
    | none => s
    | some r =>
      let k := x.next
      if !x.running || !readsSealed x.stage || decide (x.count ≤ k) || !s.mayWork r then s
      else match s.placeFor j x k with
        | none => s
        | some (id, cores) =>
          let s := s.modJob j fun y => { y with next := k + 1 }
          match s.plannedVoid r x k, s.skipped r x k with
          | some o, _ => s.voidUnread r j k o
          | none, some o => let h := s.holdOut r x k o; h.1.voidUnread r j k h.2
          | none, none =>
            let s := s.modJob j fun y => { y with lanes := Tab.put y.lanes k { tile := id, cores := cores, start := s.now, fenced := 0 } }
            (s.readChunk r j k chunk).noteRead j k

/-- SAMPLE_START (R261). -/
def execSampleStart (t : Nat) (job : Nat) (chunk : Bytes) (s : State) := actStalls t s fun s => s.sampleStart job chunk

/-- R261: the end of a sample's budget window, if it has one; a sample that starts again has none until it reads its first
chunk (R448). -/
def State.windowOver (s : State) (r : Run) (l : Lane) : Bool :=
  r.cls != 0 && r.budget != 0 && !l.again &&
    decide (l.start + r.budget + (s.fencedSoFar r.label - l.fenced) + s.stallTicks r l ≤ s.now)

/-- A lane takes a chunk: it works, on a unit, and waits for no cells. -/
def State.laneReads (s : State) (r : Run) (j : Nat) (x : Job) (k : Nat) (l : Lane) : Bool :=
  s.mayWork r && !s.windowOver r l && l.out.isNone && l.ending == .more && !s.laneWaits j k &&
    (if isCoreStage x.stage then !l.cores.isEmpty else s.tileReady l.tile)

/-- CHUNK_READ (R87): the next chunk of sample `k` of a job returns. -/
def State.chunkRead (s : State) (j k : Nat) (chunk : Bytes) : State :=
  let s := s.regroup
  match s.job? j with
  | none => s
  | some x =>
    match Tab.find s.runs x.run, Tab.find x.lanes k with
    | some r, some l => if s.laneReads r j x k l then (s.readChunk r j k chunk).noteRead j k else s
    | _, _ => s

/-- CHUNK_READ (R87). `sample` is the sample's place in its job. -/
def execChunkRead (t : Nat) (job sample : Nat) (chunk : Bytes) (s : State) := actStalls t s fun s => s.chunkRead job sample chunk

/-- BUDGET_WINDOW_END (R261): a class S or F sample whose lane still works is voided and counted. -/
def State.budgetEnd (s : State) (j k : Nat) : State :=
  match s.job? j with
  | none => s
  | some x =>
    match Tab.find s.runs x.run, Tab.find x.lanes k with
    | some r, some l =>
      if s.windowOver r l && l.out.isNone && !s.faults.halt && !((s.label r.label).state == .fenced) then
        ((s.addNdc x.run).freeUse (.coefficients j k)).modJob j (fun y => { y with lanes := Tab.del y.lanes k }) |>.voidUnread r j k
          (voidOut x.stage (jobBase r x + k) 0x22)
      else s
    | _, _ => s

/-- BUDGET_WINDOW_END (R261). -/
def execBudgetWindowEnd (t : Nat) (job sample : Nat) (s : State) := actStalls t s fun s => s.budgetEnd job sample

/-! ### PYRAMID and VENC (R212, R235) -/

/-- The inputs of a PYRAMID sample from the record of an image stage or the frame records of a VDEC. -/
def pyrInputs (p : Snap) (o : SampleOut) : List PyrIn :=
  if p.stage = 0x10 then
    o.frames.map fun f =>
      let flat := if fieldOf (f.shape.getD 2 0) 4 4 = 4 then
          flatOfNative (f.shape.getD 0 0) (f.shape.getD 1 0) (fieldOf (f.shape.getD 2 0) 0 4) f.values
        else f.values
      { words := f.shape, values := flat, size := f.size, map := if f.mapValid then some (f.mapW, f.mapH, f.map) else none }
  else [{ words := o.words, values := o.values, size := if (imgCfg p).outFmt = 1 then 2 else 1, map := none }]

/-- The map that TD_IN[2] holds for sample `k`. -/
def State.mapOf (s : State) (x : Job) (k : Nat) : Option (Nat × Nat × List Nat) :=
  match x.snap.input 2 with
  | none => none
  | some d =>
    some (d.extent 0, d.extent 1, (List.range (d.extent 1)).flatMap fun v => (List.range (d.extent 0)).map fun u =>
      s.readElem x.run 5 x.host d [u, v, k])

/-- The input of PYRAMID sample `k`: the pictures, the role of a void and whether it was concealed; none while the producer
has not retired it. -/
def State.pyrSource (s : State) (j : Nat) (x : Job) (k : Nat) : Option (List PyrIn × Nat × Bool) :=
  if x.snap.streamIn then
    match s.producer j x with
    | none => none
    | some (_, p) => (Tab.find p.outs k).map fun o => (pyrInputs p.snap o, o.role, o.concealed)
  else
    match x.snap.input 0, x.snap.input 3 with
    | some d, some w =>
      let ws := (List.range 4).map fun i => s.readElem x.run 5 x.host w [i, k]
      let n := ws.getD 0 0 * ws.getD 1 0 * wordChannels ws
      some ([{ words := ws, values := (List.range n).map fun i => s.readElem x.run 5 x.host d [i, k],
               size := if d.dtype = 3 then 2 else 1, map := s.mapOf x k }], 0, false)
    | _, _ => none

/-- One sample of a PYRAMID job. -/
def State.pyrWork (s : State) (r : Run) (j : Nat) (x : Job) (k : Nat) : Option SampleOut :=
  (s.pyrSource j x k).map fun i =>
    let c := pyrCfg x.snap
    let a := augOf ((s.augBytes x.run x.host x.snap k).getD (zeroBytes 128))
    let byTile := if r.cls = 2 ∧ c.split = 1 then
        some { early := if x.tiles = s.tileCount 5 then 0 else Config.bandsBefore x.run k, before := x.tiles, after := s.tileCount 5 }
      else none
    { pyrSample c a (Tab.getD r.seeds c.seed []) byTile (jobBase r x + k) i.2.1 i.1 with concealed := i.2.2 }

/-- One sample of a VENC job. -/
def State.vencWork (s : State) (j : Nat) (x : Job) (k : Nat) : Option SampleOut :=
  match s.producer j x with
  | none => none
  | some (_, p) => (Tab.find p.outs k).map fun o => { encodeVideo (vencCfg x.snap) o with concealed := o.concealed }

/-! ### PACK (R245 to R259) -/

/-- The dtype of the rows of a PACK job (R250). -/
def State.rowDtype (s : State) (j : Nat) (x : Job) : Nat :=
  match x.snap.input 0 with
  | some d => d.dtype
  | none =>
    match s.producer j x with
    | none => 5
    | some (_, p) =>
      match p.stage with
      | 4 => 5
      | 5 => (pyrCfg p.snap).dtype
      | 0x11 => 1
      | _ => outFmtDtype (imgCfg p.snap).outFmt

/-- What arrives at PACK for sample `k`: its item, and its values where it has them. -/
structure Arrival where
  item : Item
  values : Option (List Nat)
  concealed : Bool
deriving DecidableEq, Repr

/-- R245, R264: the arrival by stream; a void that it carries names the role of the length form. -/
def streamArrival (c : PackCfg) (limit : Item → Item) (o : SampleOut) : Arrival :=
  let i := limit (if o.reason = 0 then { len := if c.lenfmt = 0 then fieldOf (o.words.getD 0 0) 0 24 else o.values.length } else { len := 0, reason := o.reason, detail := o.detail, role := lenRole c.lenfmt })
  { item := i, values := if i.reason = 0 then some o.values else none, concealed := o.concealed }

/-- R245: the arrival from the tensors. -/
def State.tensorArrival (s : State) (c : PackCfg) (limit : Item → Item) (x : Job) (k : Nat) : Arrival :=
  let i := limit (lenItem c (s.lenWords x k))
  let vs := match x.snap.input 0 with
    | some d => (List.range i.len).map fun n => s.readElem x.run 6 x.host d [n, k]
    | none => []
  { item := i, values := if i.reason = 0 then some vs else none, concealed := false }

/-- The arrival of sample `k`; none while the producer has not retired it. In class C the position limit acts in the plan alone
(R246). -/
def State.arrivalOf (s : State) (r : Run) (j : Nat) (x : Job) (k : Nat) : Option Arrival :=
  let c := packCfg x.snap
  let limit := if r.cls = 0 then id else limitItem c (s.limitOf r)
  if x.snap.streamIn then
    match s.producer j x with
    | none => none
    | some (_, p) => (Tab.find p.outs k).map (streamArrival c limit)
  else some (s.tensorArrival c limit x k)

/-- R257: the arrival under the plan: the item that places it, the outcome, and whether it disagrees. -/
def planArrival (planned : Item) (a : Arrival) : Item × Item × Bool :=
  if planned.reason ≠ 0 then (planned, planned, false)
  else if a.item.reason ≠ 0 then (planned, a.item, false)
  else if a.item.len = planned.len then (planned, a.item, false)
  else (planned, { len := 0, reason := 0x20, role := 6 }, true)

/-- R251: the global row index at which the present window starts. -/
def State.windowBase (s : State) (r : Run) (x : Job) : Nat :=
  let c := packCfg x.snap
  if r.cls = 0 then
    match x.snap.input 2 with
    | some d => s.readElem x.run 6 x.host d [(jobBase r x - c.spanBase) / c.packWin + x.pack.window]
    | none => 0
  else c.rowBase + x.pack.used

/-- The rows that a sample of a packed window stands in. -/
def rowsOfSample (rows : List PlanRow) (i : Nat) : Nat := (rows.filter fun w => w.segs.any fun g => g.1 == i).length

/-- A window of `samples` packs: its rows, its Tadpoles; the cells that its samples waited in are free. -/
def State.packOne (s : State) (r : Run) (j : Nat) (samples : List Nat) : State :=
  match s.job? j, s.profileOf r with
  | some x, some f =>
    let c := packCfg x.snap
    let k := x.pack.packWindow c f.slots (s.windowBase r x) (r.cls == 0) samples
    let new := k.rows.drop x.pack.rows.length
    let s := s.modJob j fun y => { y with pack := { k with values := k.values.filter fun v => !samples.contains v.1 } }
    samples.foldl (fun s i =>
      ((s.freeUse (.waiting j (i - jobBase r x))).tadpoleRows x.run i (rowsOfSample new i)).tadpoleRelease x.run i) s
  | _, _ => s

/-- R253: the Spawn that is due, with the rows that stay behind. -/
def State.dueSpawn (s : State) (r : Run) (j : Nat) (x : Job) : Spawn × List PlanRow :=
  let c := packCfg x.snap
  let rows := x.pack.rows.take c.spawnRows
  let last := decide (x.pack.rows.length ≤ c.spawnRows)
  let dtype := s.rowDtype j x
  let first := match rows with | w :: _ => w.g | [] => Config.emptyFirstRow x.run (s.placeOf x.run j) % 2 ^ 64
  ({ head := spawnHead (s.label r.label) r first rows c.rpr dtype last, rows := rows, rpr := c.rpr, dtype := dtype, last := last },
    x.pack.rows.drop c.spawnRows)

/-- R253: a Spawn that is due leaves in cells of its own, unless PACK stalls at its output; each of its rows is a point. -/
def State.emitSpawn (s : State) (r : Run) (j : Nat) (x : Job) : State × Bool :=
  let n := x.spawns.length
  if !x.pack.due (packCfg x.snap) || s.outputStalls r j x n then (s, false)
  else
    let d := s.dueSpawn r j x
    let a := s.askUse x.run r (s.recordPool j x n) (spawnSize d.1) (.spawn j n)
    if a.2 then
      let s := a.1.modJob j fun y =>
        { y with spawns := y.spawns ++ [d.1], pack := { y.pack with rows := d.2, finished := d.1.last } }
      let s := d.1.rows.foldl (fun s w => s.point x.run 6 w.g (sha256 (planRowBytes d.1.dtype d.1.rpr w))) s
      (s.noteOutput j x n, true)
    else (a.1, false)

/-- R253: the Spawns that are due leave, one after another (`fuel` bounds them). -/
def State.emitSpawns (s : State) (r : Run) (j : Nat) : Nat → State
  | 0 => s
  | f + 1 =>
    match s.job? j with
    | none => s
    | some x => let a := s.emitSpawn r j x; if a.2 then a.1.emitSpawns r j f else a.1

/-- The Spawns of a PACK job leave as they can. -/
def State.packEmit (s : State) (r : Run) (j : Nat) : State :=
  match s.job? j with
  | none => s
  | some x => if x.running && x.stage == 6 && (packCfg x.snap).mode == 0 then s.emitSpawns r j (x.pack.rows.length + 1) else s

/-- R258: windows pack while the present one is ready (`fuel` bounds them). -/
def State.packReady (s : State) (r : Run) (j : Nat) : Nat → State
  | 0 => s
  | n + 1 =>
    match s.job? j with
    | none => s
    | some x =>
      let c := packCfg x.snap
      if x.pack.ready c then (s.packOne r j (x.pack.front c)).packReady r j n else s

/-- R259: a voided sample leaves its window, and a moved one counts. -/
def State.backfill (s : State) (r : Run) (j i : Nat) : State :=
  match s.job? j with
  | none => s
  | some x =>
    let c := packCfg x.snap
    if c.backfill ∧ r.cls ≠ 0 then
      let b := x.pack.backfillOne c i
      let s := s.modJob j fun y => { y with pack := b.1 }
      if b.2 then s.addNdc x.run else s
    else s

/-- Sample `k` retires to PACK, and waits in cells until its window packs (R262). -/
def State.packArrive (s : State) (r : Run) (j : Nat) (x : Job) (k : Nat) (a : Arrival) : State :=
  let c := packCfg x.snap
  let idx := jobBase r x + k
  let p := if r.cls = 0 then planArrival (limitItem c (s.limitOf r) (lenItem c (s.lenWords x k))) a else (a.item, a.item, false)
  let vs := if p.2.1.reason = 0 then a.values else none
  let size := (vs.map List.length).getD 0 * (dtypeSize (s.rowDtype j x)).getD 1
  let cells := s.askUse x.run r (match s.unitAt 6 j k with | some u => unitRegion 6 u | none => 8) size (.waiting j k)
  if !cells.2 then cells.1
  else
    let s := cells.1
    let s := if p.2.2 then s.record 0 0x0204 2 (leBytes 2 r.queue ++ leBytes 8 idx) else s
    let o : SampleOut := { index := idx, reason := p.2.1.reason, detail := p.2.1.detail, role := p.2.1.role, concealed := a.concealed }
    let s := s.retire r j x k o fun s => s.modJob j fun y =>
      { y with pack := { y.pack with
          items := Tab.put y.pack.items idx p.1, arrived := Tab.put y.pack.arrived idx s.now,
          values := match vs with | some v => Tab.put y.pack.values idx v | none => y.pack.values } }
    let s := if p.1.reason ≠ 0 then s.backfill r j idx else s
    (s.packReady r j (x.pack.waiting.length + 1)).packEmit r j

/-- WIN_DEADLINE_END (R258): the window packs what has arrived in time; the rest moves on, each counted. -/
def State.deadlineEnd (s : State) (j : Nat) : State :=
  match s.job? j with
  | none => s
  | some x =>
    match Tab.find s.runs x.run with
    | none => s
    | some r =>
      let c := packCfg x.snap
      match x.pack.windowEnd c with
      | none => s
      | some e =>
        if !x.running || x.stage != 6 || !s.mayWork r || decide (s.now < e) || x.pack.ready c then s
        else
          let inTime := (x.pack.front c).filter (x.pack.inTime c)
          let m := x.pack.moveLate c
          let s := s.modJob j fun y => { y with pack := m.1 }
          let s := (List.range m.2).foldl (fun s _ => s.addNdc x.run) s
          ((s.packOne r j inTime).packReady r j (x.pack.waiting.length + 1)).packEmit r j

/-- WIN_DEADLINE_END (R258). -/
def execWinDeadlineEnd (t : Nat) (job : Nat) (s : State) := actStalls t s fun s => s.deadlineEnd job

/-! ### SAMPLE_RETIRE (R262) -/

/-- A sample that a stage has made leaves: with STREAM_OUT in cells of its own (R371). -/
def State.retireOut (s : State) (r : Run) (j : Nat) (x : Job) (k : Nat) (o : SampleOut) (write : State → State) : State :=
  let a := if x.snap.streamOut ∧ o.reason = 0 then s.askRecord r j x k o else (s, true)
  if a.2 then (a.1.retire r j x k o write).settleJob r j else a.1

/-- R238: an encoder that lost its V-core takes a free one. -/
def State.takeCore (s : State) (j : Nat) (x : Job) : State :=
  if x.stage = 0x11 ∧ x.core.isNone then s.modJob j fun y => { y with core := s.freeCore } else s

/-- The unit of sample `k` works: for an encoder its V-core. -/
def State.worksOnSample (s : State) (j : Nat) (x : Job) (k : Nat) : Bool :=
  if x.stage = 0x11 then x.core.isSome
  else s.unitReady x.stage j k && (!x.dealt || s.turnOf j x (s.unitFor x.stage j k))

/-- The next sample of a PACK job in MODE 0 arrives, once no Spawn that is due stalls it. -/
def State.packNext (s : State) (r : Run) (j : Nat) : State :=
  let s := s.packEmit r j
  match s.job? j with
  | none => s
  | some x =>
    let k := x.outs.length
    if x.pack.due (packCfg x.snap) || decide (x.count ≤ k) || !s.worksOnSample j x k then s
    else match s.arrivalOf r j x k with
      | none => s
      | some a => s.packArrive r j x k a

/-- The next sample of a job retires, in the order of global indices. -/
def State.sampleRetire (s : State) (j : Nat) : State :=
  match s.job? j with
  | none => s
  | some x =>
    match Tab.find s.runs x.run with
    | none => s
    | some r =>
      let s := s.takeCore j x
      let x := (s.job? j).getD x
      let k := x.outs.length
      if !x.running || !s.mayWork r then s
      else if x.stage = 6 ∧ (packCfg x.snap).mode = 0 then s.packNext r j
      else if s.outputStalls r j x k || decide (x.count ≤ k) then s
      else match x.stage with
        | 5 => if s.worksOnSample j x k then
            (match s.pyrWork r j x k with
              | none => s
              | some o => s.retireOut r j x k o fun s => s.pyrRetire x.run x.snap k o)
          else s
        | 0x11 => if s.worksOnSample j x k then
            (match s.vencWork j x k with
              | none => s
              | some o => s.retireOut r j x k o id)
          else s
        | 6 | 7 | 8 | 9 => s
        | _ => match Tab.find x.done k with
          | none => s
          | some o => s.retireOut r j x k o fun s => s.readRetire x k o

/-- SAMPLE_RETIRE (R262). -/
def execSampleRetire (t : Nat) (job : Nat) (s : State) := actStalls t s fun s => s.sampleRetire job

/-! ### ENCODE_SPAWN (R284) -/

/-- The first PACK job of an ENCODE that has a Spawn to take, with the Spawn. -/
def State.nextSpawn (s : State) (r : Run) (j : Nat) (x : Job) : Option (Nat × Job × Spawn) :=
  (packPlaces r.planned (s.placeOf x.run j)).findSome? fun i =>
    match s.jobAt x.run i with
    | none => none
    | some (n, p) => (p.spawns[p.encTaken]?).map fun sp => (n, p, sp)

/-- Encoded rows that no SEAL job takes end here: a plan row of status ENCODE_RANGE voids its samples (R263). -/
def State.encodedEnds (s : State) (e : Nat) (x : Encoded) : State :=
  x.rows.foldl (fun s w =>
    (segSamples w.segs).foldl (fun s i => (if w.status = 0 then s else s.voidSample e i 0x24).tadpoleRowDone e i) s) s

/-- R284: an ENCODE job takes a Spawn, whose cells are free, and makes its encoded record. -/
def State.takeSpawn (s : State) (j : Nat) (x : Job) (n : Nat) (p : Job) (c : Encoded) : State :=
  let s := s.modJob n fun y => { y with encTaken := p.encTaken + 1 }
  let s := (s.modJob j fun y => { y with encoded := y.encoded ++ [c] }).freeUse (.spawn n p.encTaken)
  let s := c.rows.foldl (fun s w => s.point x.run 8 w.g (sha256 (encRowBytes w))) s
  (s.unitDone 8).noteTaken j x p.encTaken

/-- ENCODE_SPAWN: an ENCODE job takes a Spawn whole and sends its encoded record, in cells of the region that it is dealt to
(R371), or in enclave cells while that region's backlog spills (R378). -/
def State.encodeSpawn (s : State) (j : Nat) : State :=
  match s.job? j with
  | none => s
  | some x =>
    match Tab.find s.runs x.run with
    | none => s
    | some r =>
      match s.profileOf r, s.nextSpawn r j x with
      | some f, some (n, p, sp) =>
        if x.stage != 8 || !x.running || !s.mayWork r || s.chorusStalled r then s
        else
          let round := if encRound x.snap then some (Tab.getD r.seeds (encSeed x.snap) [], encStream x.snap) else none
          let c := encodeRecord f round n sp
          match s.sealPlace r.planned (s.placeOf x.run j) with
          | none => (s.takeSpawn j x n p c).encodedEnds x.run c
          | some i =>
            match s.jobAt x.run i, s.dealRegion with
            | some (m, y), some d =>
              if !y.running || s.stallsAt (backKey 0x0B d) 0x0B (s.sealBacklog d) then s
              else
                let size := 64 + encRowsSize f c.rows
                let pool := if (Tab.getD s.pool.backlogs (backKey 0x0B d) {}).spilling then 8 else d
                let a := s.askUse x.run r pool (if c.rows.all fun w => w.rows.isEmpty then 0 else size) (.encoded s.nextSeal)
                if a.2 then
                  let s := (a.1.takeSpawn j x n p c).dealRecord x.run m d y.snap size c
                  s.noteLevel (backKey 0x0B d) 0x0B (s.sealBacklog d)
                else a.1
            | _, _ => s
      | _, _ => s

/-- ENCODE_SPAWN (R284). -/
def execEncodeSpawn (t : Nat) (job : Nat) (s : State) := actStalls t s fun s => s.encodeSpawn job

/-! ### TADPOLE_LIMIT (R99) -/

/-- A Tadpole at its limit Tail-drops its entry: one count, the event, one CUSTODY record. -/
def State.tadpoleLimit (s : State) (e i : Nat) : State :=
  match Tab.find s.runs e with
  | none => s
  | some r =>
    match Tab.find r.tadpoles i with
    | none => s
    | some t =>
      if s.now < t.start + s.cus.tadpoleLimit.toNat * 10 ^ 6 then s
      else
        let s := s.addNdc e
        let s := s.modCus fun c => { c with evt := c.evt.set 7 s.now }
        (s.custodyRecord 0x040A 2 (leBytes 2 r.queue ++ leBytes 2 r.label)).dropRun e

/-- TADPOLE_LIMIT (R99). `sample` is the global index of the Tadpole's sample. -/
def execTadpoleLimit (t : Nat) (e sample : Nat) (s : State) := actStalls t s fun s => s.tadpoleLimit e sample

end Sys2Proof.Machine
end

