-- ==== Sys2Proof/Machine/Det.lean ====
section
/-!
DEFINITION. Determinism (13_determinism.md): launch, pause, saved queue contexts, Chorus lanes, replay, and the host seed
slots (R333).
-/

namespace Sys2Proof.Machine

/-- An admin command completes with completion flags. -/
def State.adminDoneFlags (s : State) (b : Bytes) (status result flags : Nat) : State :=
  s.modQg fun g => { g with due := g.due ++ [{ complOf b status result with flags := flags }] }

/-! ### PAUSE and RESUME (R336, R340, R341) -/

/-- R336: a queue stands at a step boundary. An entry that is posted and not yet fetched has no STEP to judge by. -/
def Queue.atBoundary (x : Queue) : Bool :=
  x.taken.isEmpty && (x.posted == 0 || (match x.lastTaken with
    | none => true
    | some n => match x.cache with
      | [] => false
      | c :: _ => (match c.entry with | none => true | some b => entStep b != n)))

/-- The queue pauses. -/
def State.pauseNow (s : State) (q : Nat) : State := s.modQueue q fun x => { x with paused := true, pausePending := false }

/-- PAUSE (R340). -/
def execPause (t : Nat) (s : State) :=
  act t s fun s => s.adminRow 0x20 fun b s =>
    let q := entQueue b
    let x := s.queue q
    if x.paused || x.launchHeld then (s.pauseNow q).adminDone b 0 x.lastDone
    else if x.state != .enabled then s.adminDone b 0x40 0
    else if s.queueFenced x then s.adminDone b 0x30 0
    else if x.atBoundary then (s.pauseNow q).adminDone b 0 x.lastDone
    else (s.modQueue q fun x => { x with pausePending := true }).adminWaits b (.boundary q)

/-- The boundary that a PAUSE waits for is reached. -/
def State.boundaryReached (s : State) (q : Nat) : State :=
  match s.waiting with
  | some (.boundary p) =>
    if p = q ∧ (s.queue q).atBoundary = true then (s.pauseNow q).finishAdmin 0 (s.queue q).lastDone else s
  | _ => s

/-- PAUSE_BOUNDARY_REACHED (R340). -/
def execPauseBoundaryReached (t : Nat) (q : BitVec 12) (s : State) := act t s fun s => s.boundaryReached q.toNat

/-- R341: a write of DET_Q_CTL. -/
def State.writeQCtl (s : State) (v : Nat) : State :=
  if bitOf v 0 then
    let q := s.det.qSel.toNat
    if (s.queue q).paused && q != 0 then s.modQueue q fun x => { x with paused := false } else s.opsWrite 0x2400C v
  else s

/-- RESUME (R341). -/
def execResume (t : Nat) (value : BitVec 32) (s : State) := act t s fun s => s.writeQCtl value.toNat

/-! ### Seeds (R333) -/

/-- The queue whose slots the seed registers write takes seeds. -/
def State.seedQueueOk (s : State) : Bool :=
  let q := s.det.seedQueue.toNat
  q != 0 && (s.queue q).state != .absent && (s.queue q).state != .disabled

/-- A write of DET_SEED_CTL that changes a slot. -/
def State.seedWrite (s : State) (v : Nat) (f : Tab Bytes → Tab Bytes) (g : Det → Det) : State :=
  if (bitOf v 0 && bitOf v 1) || !s.seedQueueOk then s.opsWrite 0x25004 v
  else (s.modQueue s.det.seedQueue.toNat fun x => { x with seeds := f x.seeds }).modDet g

/-- The staging buffer as a seed. -/
def State.stagedSeed (s : State) : Bytes := (List.range 8).flatMap fun i => leBytes 4 (Tab.getD s.det.staging i 0#32).toNat

/-- A write of DET_SEED_CTL with COMMIT set. -/
def State.seedCommit (s : State) (v : Nat) : State :=
  if bitOf v 0 then s.seedWrite v (fun x => Tab.put x s.det.seedSlot.toNat s.stagedSeed) fun d => { d with staging := [] }
  else s

/-- A write of DET_SEED_CTL with CLEAR alone set. -/
def State.seedClear (s : State) (v : Nat) : State :=
  if bitOf v 1 && !bitOf v 0 then s.seedWrite v (fun x => Tab.del x s.det.seedSlot.toNat) id else s

/-- A write of DET_SEED_CTL that sets neither: one that names a queue without slots adds its OPS record. -/
def State.seedNothing (s : State) (v : Nat) : State := if s.seedQueueOk then s else s.opsWrite 0x25004 v

/-- SEED_COMMIT (R333). -/
def execSeedCommit (t : Nat) (value : BitVec 32) (s : State) := act t s fun s => s.seedCommit value.toNat

/-- SEED_CLEAR (R333). -/
def execSeedClear (t : Nat) (value : BitVec 32) (s : State) := act t s fun s => s.seedClear value.toNat

/-! ### Launch (R337 to R339) -/

/-- A comparator. -/
def State.comparator (s : State) (n : Nat) : Comparator := Tab.getD s.time.cmp n {}

/-- R338: the queues that a comparator holds leave their hold. -/
def State.releaseHeld (s : State) (n : Nat) : State :=
  s.modQg fun g =>
    { g with queues := Tab.mapVals (fun _ q => if q.cmp = n then { q with launchHeld := false } else q) g.queues }

/-- A comparator set. -/
def State.setComparator (s : State) (n : Nat) (c : Comparator) : State :=
  s.modTime fun m => { m with cmp := Tab.put m.cmp n c }

/-- ARM_LAUNCH (R337, R338). -/
def execArmLaunch (t : Nat) (s : State) :=
  act t s fun s => s.adminRow 0x23 fun b s =>
    let n := fieldOf (entLen b) 0 2
    let T := entStep b
    if s.now + 10 ^ 10 < T then s.adminDone b 0x12 0
    else if (s.claimOf 2 n).isNone || (s.comparator n).armed then s.adminDone b 0x40 0
    else if T ≤ s.now then
      ((s.setComparator n { t := T, armed := false, late := true }).releaseHeld n).adminDone b 0x50 s.now
    else (s.setComparator n { t := T, armed := true, late := false }).adminWaits b (.launch n false)

/-- R338: an armed comparator fires. -/
def State.fire (s : State) (n : Nat) : State :=
  let c := s.comparator n
  if c.armed && decide (c.t ≤ s.now) then
    let s := (s.setComparator n { c with armed := false }).releaseHeld n
    match s.waiting with
    | some (.launch k _) => if k = n then s.finishAdmin 0 s.now else s
    | _ => s
  else s

/-- LAUNCH (R338). -/
def execLaunch (t : Nat) (n : BitVec 2) (s : State) := act t s fun s => s.fire n.toNat

/-! ### Chorus lanes (R350) -/

/-- A lane leaves its queue; its latch stays. -/
def State.detachLane (s : State) (l : Nat) : State :=
  s.modLane l fun c => { c with queue := 0, partner := 0, here := [], remote := [], compared := [], stalled := false }

/-- A lane is attached to a queue, which it had not served with this partner. -/
def State.attachLane (s : State) (q l partner : Nat) : State :=
  let s := match (s.queue q).chorus with | none => s | some k => if k = l then s else s.detachLane k
  (s.modLane l fun c => { c with queue := q, partner := partner }).modQueue q fun x => { x with chorus := some l }

/-- CHORUS_CONFIG (R350). -/
def execChorusConfig (t : Nat) (s : State) :=
  act t s fun s => s.adminRow 0x24 fun b s =>
    let q := entQueue b
    let l := fieldOf (entLen b) 16 1
    let enable := bitOf (entLen b) 17
    let partner := entBase b
    let held := match s.claimOf 3 l with | none => false | some c => c.holder == 0 || c.holder == q
    if !held || ((s.lane l).queue != 0 && (s.lane l).queue != q) then s.adminDone b 0x40 0
    else if enable then
      (if partner = s.gctl.die.toNat then s.adminDone b 0x12 0 else (s.attachLane q l partner).adminDone b 0 0)
    else if (s.lane l).queue = 0 then s.adminDone b 0 0
    else if (s.queue q).taken.isEmpty then
      ((s.detachLane l).modQueue q fun x => { x with chorus := none }).adminDone b 0 0
    else s.adminWaits b (.detach q l)

/-! ### Saved contexts (R342, R343) -/


/-- The bits of the seed slots that hold a seed. -/
def seedBits (seeds : Tab Bytes) : Nat :=
  ((List.range 16).map fun k => ofBool (Tab.find seeds k).isSome * 2 ^ k).sum

/-- R342: the context of a queue up to its signature. -/
def State.contextBody (s : State) (x : Queue) : Bytes :=
  let l := s.label x.label
  let cert := (Config.sessionCert s.cus.sessionPub).take 768
  let n := up64 (867 + cert.length)
  padTo n
    (asciiBytes "HYNUSCTS" ++ leBytes 2 1 ++ leBytes 1 x.cls ++ [0] ++ leBytes 4 (n + 128) ++ leBytes 8 l.matter ++
      leBytes 4 l.epoch ++ zeroBytes 4 ++ leBytes 8 x.lastDone ++ leBytes 8 x.entries ++ leBytes 8 x.ndc ++
      leBytes 8 x.sampleCursor ++ leBytes 8 x.rowCursor ++ leBytes 8 (packCounts x.ref) ++ leBytes 2 (seedBits x.seeds) ++
      zeroBytes 46 ++ padTo 48 s.sil.progDigest ++ zeroBytes 80 ++
      ((List.range 16).flatMap fun k => padTo 32 (Tab.getD x.seeds k [])) ++ leBytes 2 cert.length ++
      padTo 97 s.cus.sessionPub ++ cert)

/-- SAVE_CONTEXT (R342). -/
def execSaveContext (t : Nat) (s : State) :=
  act t s fun s => s.adminRow 0x21 fun b s =>
    let x := s.queue (entQueue b)
    if s.queueFenced x then s.adminDone b 0x30 0
    else if !x.paused then s.adminDone b 0x40 0
    else if entCount b < 16384 then s.adminDone b 0x12 0
    else
      let body := s.contextBody x
      s.pkAsk b .sign .context (sha384 body) (.sign body)

/-- R342: the context is signed and written; a job that fails twice is a refusal (R400, log 61). -/
def State.contextSigned (s : State) (b body : Bytes) (aborted : Bool) : State :=
  if aborted then s.finishAdmin 0x40 0
  else
    let bytes := body ++ sign384 s.cus.sessionD body ++ zeroBytes 32
    (s.emit (.interior (entAddr b) bytes)).finishAdmin 0 bytes.length

/-- R343: the fields of a context. -/
def ctxCertLen (d : Bytes) : Nat := leAt d 768 2
def ctxCounts (d : Bytes) : List Nat := (List.range 9).map fun c => fieldOf (leAt d 72 8) (7 * c) 7
def ctxSeeds (d : Bytes) : Tab Bytes :=
  (List.range 16).filterMap fun k => if bitOf (leAt d 80 2) k then some (k, slice d (256 + 32 * k) 32) else none

/-- The certificate of a context verifies. -/
def ctxCertOk (d : Bytes) : Bool := Config.certValid (slice d 770 97) (slice d 867 (ctxCertLen d))

/-- The signature of a context verifies under the key that it carries. -/
def ctxSigned (d : Bytes) : Bool :=
  let n := up64 (867 + ctxCertLen d)
  verify384 (decodePoint curveP384 (slice d 770 97)) (d.take n) (slice d n 96)

/-- R343: the checks of a context before its certificate: the status, 0 when all pass. -/
def ctxForm (b d : Bytes) : Nat :=
  if ¬ (entCount b = leAt d 12 4 ∧ entCount b ≤ 16384 ∧ slice d 0 8 = asciiBytes "HYNUSCTS" ∧ leAt d 8 2 = 1 ∧ ctxCertLen d ≤ 768) then 0x12
  else if ¬ (slice d 11 1 = zeroBytes 1 ∧ slice d 28 4 = zeroBytes 4 ∧ slice d 82 46 = zeroBytes 46 ∧ slice d 176 80 = zeroBytes 80 ∧
      allZero (slice d (up64 (867 + ctxCertLen d) + 96) 32) = true ∧ leAt d 72 8 < 2 ^ 63) then 0x11
  else 0

/-- R343: the checks 4 to 6. -/
def State.ctxFits (s : State) (b d : Bytes) : Nat :=
  let x := s.queue (entQueue b)
  let l := s.label x.label
  if ¬ (leAt d 16 8 = l.matter ∧ leAt d 24 4 = l.epoch ∧ leAt d 10 1 = x.cls) then 0x13
  else if !x.paused || !x.taken.isEmpty || slice d 128 48 != padTo 48 s.sil.progDigest then 0x40
  else if x.cls = 2 ∧ s.tileCounts ≠ ctxCounts d ∧ bitOf (entFlags b) 1 = false then 0x51
  else 0

/-- R343: a context takes hold. -/
def State.applyContext (s : State) (q : Nat) (d : Bytes) : State :=
  s.modQueue q fun x =>
    { x with seeds := ctxSeeds d, ndc := leAt d 48 8, entries := leAt d 40 8, ref := ctxCounts d, ledger := [] }

/-- RESTORE_CONTEXT (R343). -/
def execRestoreContext (t : Nat) (data : Bytes) (s : State) :=
  act t s fun s => s.adminRow 0x22 fun b s =>
    let d := padTo (min (entCount b) 16384) data
    let x := s.queue (entQueue b)
    if s.queueFenced x then s.adminDone b 0x30 0
    else if ctxForm b d ≠ 0 then s.adminDone b (ctxForm b d) 0
    else s.pkAsk b .verify .context [] (.certificate d)

/-- R343: check 3: the certificate's VERIFY has run; the signature's is asked for. -/
def State.certificateVerified (s : State) (b d : Bytes) (aborted : Bool) : State :=
  if aborted || !ctxCertOk d then s.finishAdmin 0x83 0 else s.pkAsk b .verify .context [] (.verify d)

/-- R343: the checks from the signature on, and the context takes hold. -/
def State.contextVerified (s : State) (b d : Bytes) (aborted : Bool) : State :=
  let x := s.queue (entQueue b)
  if aborted || !ctxSigned d then s.finishAdmin 0x83 0
  else if s.queueFenced x then s.finishAdmin 0x30 0
  else if s.ctxFits b d ≠ 0 then s.finishAdmin (s.ctxFits b d) 0
  else
    let shifted := x.cls == 2 && s.tileCounts != ctxCounts d
    (s.endAdmin.applyContext (entQueue b) d).adminDoneFlags b 0 0 (ofBool shifted)

/-! ### Replay (R348, R349) -/

/-- The bytes at a host address as the command's reads find them. -/
def hostRead (m : HostMem) (a n : Nat) : Bytes := (List.range n).map fun i => hostByte m (a + i)

/-- A chunk as the reads of a replay find it. -/
def replayChunk (x : Job) (k taken : Nat) : Bytes :=
  let a := (x.tableEntry k).1 + taken
  hostRead x.host a (40 + min 65537 (fieldOf (leAt (hostRead x.host a 24) 20 4) 0 31))

/-- The chunk does not authenticate. -/
def State.chunkFails (s : State) (r : Run) (x : Job) (k no taken : Nat) (c : Bytes) : Bool :=
  let room := (x.tableEntry k).2 - taken
  decide (room < 24) || decide (room < c.length) || (s.openChunk r (jobBase r x + k) no c).isNone

/-- A replay: a copy of the engine in which the list of one entry runs alone, and the samples a chunk of which fails
authentication. -/
structure Replay where
  s : State
  failed : List Nat := []

/-- R349: the commands of a list without the STARTs of SEAL and the WAITs on them: the replay makes ciphertext digests from
the encoded rows. `tags` are the tags of SEAL jobs. -/
def withoutSeal (tags : List Nat) : List ListCmd → List ListCmd
  | [] => []
  | c :: cs =>
    let tag := c.arg % 256
    if c.op = 4 ∧ c.stage = 9 then withoutSeal (tag :: tags) cs
    else if c.op = 4 then c :: withoutSeal (tags.filter (· != tag)) cs
    else if c.op = 5 ∧ bitOf c.arg 8 = false ∧ tags.contains tag = true then withoutSeal (tags.filter (· != tag)) cs
    else c :: withoutSeal tags cs

/-- The copy in which entry `e` of queue `q` runs again, with every cell free. -/
def State.replayStart (s : State) (q e : Nat) (entry : Bytes) (mem : HostMem) (cs : List ListCmd) : State :=
  let ps := (walkList cs).starts.map Started.snap
  let r := { s.newRun q entry mem with cmds := withoutSeal [] cs, planned := (ps.filter fun p => p.stage != 9).map startPlan }
  let z := (s.modQueue q fun x => { x with chorus := none }).modPool fun p =>
    { p with backlogs := [], used := [], encUsed := [], dirty := [], work := [], requests := [] }
  { z with jobs := [], seals := [], runs := [(e, r)] }

/-- The front command of the list acts, if it can; a live segment is read like a recorded one. -/
def Replay.list (p : Replay) (e : Nat) : Replay :=
  let s := ((((p.s.listWrite e 1).listWrite e 2).listWrite e 3).listStart e).listWait e
  { p with s := { s with jobs := Tab.mapVals (fun _ j => { j with clock := none }) s.jobs } }

/-- A lane takes the next sample of a job, and reads its first chunk. -/
def Replay.begin_ (p : Replay) (j : Nat) : Replay :=
  match p.s.job? j with
  | none => p
  | some x =>
    match Tab.find p.s.runs x.run with
    | none => p
    | some r =>
      let k := x.next
      let c := replayChunk x k 0
      let s := p.s.sampleStart j c
      let read := readsSealed x.stage && (match s.job? j with | some y => decide (k < y.next) | none => false) &&
        (p.s.skipped r x k).isNone
      { s := s, failed := if read && p.s.chunkFails r x k 0 0 c then (jobBase r x + k) :: p.failed else p.failed }

/-- A lane reads its next chunk. -/
def Replay.chunk (p : Replay) (j k : Nat) : Replay :=
  match p.s.job? j with
  | none => p
  | some x =>
    match Tab.find p.s.runs x.run, Tab.find x.lanes k with
    | some r, some l =>
      let c := replayChunk x k l.taken
      { s := p.s.chunkRead j k c,
        failed := if p.s.chunkFails r x k l.chunks l.taken c then (jobBase r x + k) :: p.failed else p.failed }
    | _, _ => p

/-- One job does what it can do next. -/
def Replay.job (p : Replay) (mem : HostMem) (j : Nat) : Replay :=
  let p := { p with s := (p.s.modPool fun w => { w with backlogs := [] }).jobStart j mem }
  let p := p.begin_ j
  let ks := match p.s.job? j with | some x => x.lanes.map Prod.fst | none => []
  let p := ks.foldl (fun p k => p.chunk j k) p
  { p with s := ((p.s.sampleRetire j).encodeSpawn j).endJob j }

/-- The list stands at its END, and every job has ended. -/
def Replay.finished (p : Replay) (e : Nat) : Bool :=
  match Tab.find p.s.runs e with
  | none => false
  | some r =>
    (match (dropNops r.cmds r.pos).1 with | [] => true | c :: _ => c.op == 7) && p.s.jobs.all fun j => j.2.ended

/-- The list runs until it is finished, or nothing of it can act (`fuel` bounds the rounds). -/
def Replay.run (mem : HostMem) (e : Nat) : Nat → Replay → Replay
  | 0, p => p
  | f + 1, p =>
    if p.finished e then p
    else
      let p' := (p.s.jobs.map Prod.fst).foldl (fun p j => p.job mem j) (p.list e)
      if p'.s = p.s then p else Replay.run mem e f p'

/-- The jobs of a stage whose samples include global index `i`. -/
def Replay.jobsWith (p : Replay) (r : Run) (stage i : Nat) : List Job :=
  (p.s.jobs.map Prod.snd).filter fun x =>
    x.stage == stage && decide (jobBase r x ≤ i) && decide (i < jobBase r x + x.count)

/-- R349: what a stage made of a sample: its main pass, else its pre-pass. -/
def Replay.sampleDigest (p : Replay) (r : Run) (stage i : Nat) : Option Bytes :=
  let xs := p.jobsWith r stage i
  let x := match xs.find? fun x => !(readsSealed stage && x.isPrepass) with | some x => some x | none => xs.head?
  match x with
  | none => none
  | some x => (Tab.find x.outs (i - jobBase r x)).map fun o => sha256 (sampleBytes x.snap o)

/-- R349: the digests of the plan rows that hold a value of sample `i`, for PACK. -/
def Replay.packRows (p : Replay) (i : Nat) : List (Nat × Bytes) :=
  p.s.jobs.flatMap fun j => if j.2.stage = 6 then
    j.2.spawns.flatMap fun sp => (sp.rows.filter fun w => (segSamples w.segs).contains i).map fun w =>
      (w.g, sha256 (planRowBytes sp.dtype sp.rpr w))
  else []

/-- The encoded plan rows that hold a value of sample `i`, with the ENCODE's place among the STARTs. -/
def Replay.encRows (p : Replay) (e i : Nat) : List (Nat × EncRow) :=
  p.s.jobs.flatMap fun j => if j.2.stage = 8 then
    j.2.encoded.flatMap fun x => (x.rows.filter fun w => (segSamples w.segs).contains i).map fun w => (p.s.placeOf e j.1, w)
  else []

/-- R307: the digest of a ciphertext. -/
def State.ctDigest (s : State) (r : Run) (f : Profile) (pk : PubKey) (g kind : Nat) (digest : Bytes) (cs : List Int) : Bytes :=
  let x := s.label r.label
  let limbs := (List.range f.limbs).map (limbOf f pk (rowKey x.kNoise g digest) cs)
  sha256 (ctHeader f x r.step kind g ++ limbs.flatMap (fun l => sha256 (limbBytes l.1)) ++ limbs.flatMap fun l => sha256 (limbBytes l.2))

/-- R349: the SEAL digest of an encoded plan row under the SEAL STARTs of its list. -/
def State.sealRowDigest (s : State) (r : Run) (f : Profile) (pk : PubKey) (seat : Option Snap) (w : EncRow) : Bytes :=
  match seat with
  | none => sha256 [0x24#8]
  | some p =>
    if w.status ≠ 0 ∨ (columnless p w).isEmpty = false then sha256 [0x24#8]
    else sha256 ((List.range w.rows.length).flatMap fun k =>
      let c := w.rows.getD k ([], [])
      s.ctDigest r f pk (w.g + k) k c.2 c.1)

/-- The SEAL START that an ENCODE reaches: the place of an ENCODE among the STARTs without SEAL leads to its place among
all of them. -/
def State.sealOfEncode (s : State) (ps : List Snap) (enc : Nat) : Option Snap :=
  let all := ps.map startPlan
  match (placesOf (fun q => q.stage != 9) all)[enc]? with
  | none => none
  | some i => (s.sealPlace all i).bind fun k => ps[k]?

/-- R349: the digest of a replay that ran; none where the stage has no output for the sample. -/
def Replay.digest (p : Replay) (e stage i : Nat) (ps : List Snap) : Option Bytes :=
  match Tab.find p.s.runs e with
  | none => none
  | some r =>
    let joined := fun (rows : List (Nat × Bytes)) =>
      sha256 ((rows.foldl (fun acc x => insertSealed x.1 x.2 acc) []).flatMap Prod.snd)
    match stage with
    | 6 => if p.finished e then some (joined (p.packRows i)) else none
    | 8 => if p.finished e then some (joined ((p.encRows e i).map fun x => (x.2.g, sha256 (encRowBytes x.2)))) else none
    | 9 =>
      match p.s.profileOf r, Tab.find p.s.keyCache r.label with
      | some f, some pk =>
        if p.finished e then
          some (joined ((p.encRows e i).map fun x => (x.2.g, p.s.sealRowDigest r f pk (p.s.sealOfEncode ps x.1) x.2)))
        else none
      | _, _ => none
    | _ => p.sampleDigest r stage i

/-- R349: the samples that a digest needs: the sample itself, or the whole packing window that holds it. -/
def Replay.needed (p : Replay) (e stage i : Nat) : List Nat :=
  match Tab.find p.s.runs e with
  | none => [i]
  | some r =>
    if stage = 6 ∨ stage = 8 ∨ stage = 9 then
      [i] ++ (p.jobsWith r 6 i).flatMap fun x =>
        let c := packCfg x.snap
        let order := shuffled c (Tab.getD r.seeds c.seed []) (jobBase r x) x.count
        (order.drop (order.idxOf i / c.packWin * c.packWin)).take c.packWin
    else [i]

/-- R349: the codes of the stages that have a digest. -/
def replayStage (k : Nat) : Bool := (decide (1 ≤ k) && decide (k ≤ 6)) || k == 8 || k == 9 || k == 0x10 || k == 0x11

/-- R349: the latest ledger record of a step whose sample range holds `i`. -/
def latestLedger (step i : Nat) (ls : List Ledger) : Option Ledger :=
  ls.reverse.find? fun l => entStep l.entry == step && decide (entBase l.entry ≤ i) && decide (i < entBase l.entry + entCount l.entry)

/-- R349: check 3. -/
def State.ledgerCurrent (s : State) (x : Queue) (l : Ledger) : Bool :=
  l.prog == s.sil.progDigest &&
    l.seeds == sha256 ((List.range 16).flatMap fun k => padTo 32 (Tab.getD x.seeds k [])) &&
    l.dicts.all fun d => match Tab.find (s.dictsOf x.label x.gen) d.1 with
      | none => false
      | some n => (match Tab.find s.dicts n with | some v => v.digest == d.2 | none => false)

/-- The rounds that a replay may take. -/
def replayFuel : Nat := 2 ^ 40

/-- R349: a replay that passed its checks ends: its status, its digest, and whether tile counts moved. -/
def State.replay (s : State) (b : Bytes) (mem : HostMem) (l : Ledger) (cs : List ListCmd) : State :=
  let q := entQueue b
  let stage := fieldOf (entLen b) 16 8
  let i := entBase b
  let e := s.qg.nextSerial
  let p := Replay.run mem e replayFuel { s := s.replayStart q e l.entry mem cs }
  if (p.needed e stage i).any fun n => p.failed.contains n then s.adminDone b 0x21 0
  else match p.digest e stage i ((walkList cs).starts.map Started.snap) with
    | none => s.adminDone b 0x40 0
    | some d =>
      (s.emit (.interior (entAddr b) d)).adminDoneFlags b 0 (leNat (d.take 8))
        (ofBool ((s.queue q).cls == 2 && l.tiles != s.tileCounts))

/-- REPLAY_DIGEST (R349). -/
def execReplayDigest (t : Nat) (mem : HostMem) (s : State) :=
  act t s fun s => s.adminRow 0x25 fun b s =>
    let x := s.queue (entQueue b)
    let stage := fieldOf (entLen b) 16 8
    if s.queueFenced x then s.adminDone b 0x30 0
    else if !replayStage stage then s.adminDone b 0x12 0
    else match latestLedger (entStep b) (entBase b) x.ledger with
      | none => s.adminDone b 0x40 0
      | some l =>
        match parseList (hostRead mem (entAddr l.entry) (entLen l.entry)) with
        | none => s.adminDone b 0x12 0
        | some cs =>
          if !((walkList cs).starts.any fun y => y.snap.stage == stage) then s.adminDone b 0x12 0
          else if !s.ledgerCurrent x l || (x.cls != 0 && (stage == 6 || stage == 8 || stage == 9) && l.ndc != 0) then
            s.adminDone b 0x40 0
          else s.replay b mem l cs

end Sys2Proof.Machine
end

