-- ==== Sys2Proof/Machine/Claims.lean ====
section
/-!
DEFINITION. Claims of shared resources (R63 to R65, R526) and microcode reloads (R58, R59, R61).
-/

namespace Sys2Proof.Machine

/-! ### CLAIM and RELEASE_CLAIM (R526) -/

/-- The operand fields of CLAIM and RELEASE_CLAIM. -/
def clKind (b : Bytes) : Nat := fieldOf (entLen b) 0 4
def clIndex (b : Bytes) : Nat := fieldOf (entLen b) 8 8
def clHolder (b : Bytes) : Nat := fieldOf (entLen b) 16 12
def clArg (b : Bytes) : Nat := entCount b

/-- R526: check 1. -/
def State.claimForm (s : State) (b : Bytes) (any : Bool) : Bool :=
  decide (1 ≤ clKind b) && decide (clKind b ≤ 6) && s.queueExists (clHolder b) &&
    (decide (clIndex b < kindIndices (clKind b)) || (any && clIndex b == 0xFF))

/-- R64: the index that a claim takes, if it is free. -/
def State.claimIndex? (s : State) (b : Bytes) : Option Nat :=
  if clIndex b = 0xFF then (List.range (kindIndices (clKind b))).find? fun i => (s.claimOf (clKind b) i).isNone
  else if (s.claimOf (clKind b) (clIndex b)).isNone then some (clIndex b) else none

/-- R63, R366: a reservation of `n` more cells fits a region. -/
def State.reserveFits (s : State) (r n : Nat) : Bool :=
  let total := s.resGranted r + n
  decide (total ≤ 3072) && (s.pool.chain || decide (splitCells s.pool.split + total ≤ 4096))

/-- A claim is granted. A timer counts from its grant (R524). -/
def State.grantClaim (s : State) (kind i : Nat) (c : Claim) : State :=
  let s := s.modSil fun x => { x with claims := Tab.put x.claims (claimKey kind i) c }
  if kind = 1 then s.modTime fun m => { m with timers := Tab.del m.timers i }
  else if kind = 6 then s.spillUpdate (i / 8)
  else s

/-- A claim is released. -/
def State.releaseClaim (s : State) (kind i : Nat) : State :=
  let s := s.modSil fun x => { x with claims := Tab.del x.claims (claimKey kind i) }
  if kind = 1 then s.modTime fun m => { m with timers := Tab.del m.timers i }
  else if kind = 6 then s.spillUpdate (i / 8)
  else s

/-- CLAIM (R526). -/
def execClaim (t : Nat) (s : State) :=
  act t s fun s => s.adminRow 0x2C fun b s =>
    if !s.claimForm b true then s.adminDone b 0x12 0
    else if argless (clKind b) && clArg b != 0 then s.adminDone b 0x12 0
    else if clKind b == 4 && !s.dbgAllowed then s.adminDone b 0x32 0
    else match s.claimIndex? b with
      | none => s.adminDone b 0x42 0
      | some i =>
        if clKind b == 6 && !s.reserveFits (i / 8) (clArg b) then s.adminDone b 0x41 0
        else (s.grantClaim (clKind b) i { holder := clHolder b, arg := clArg b, tick := s.now }).adminDone b 0 i

/-- R65: a feature uses a resource. -/
def State.resourceUsed (s : State) (kind i : Nat) : Bool :=
  match kind with
  | 2 => (s.comparator i).armed || s.qg.queues.any fun q => q.2.launchHeld && q.2.cmp == i
  | 3 => (s.lane i).queue != 0
  | 4 => s.cus.tap == .hyTrace
  | 5 => s.jobs.any fun j => j.2.clock == some i && !j.2.ended
  | 6 => s.pool.buffers.any fun x => x.2.res == some i
  | _ => false

/-- RELEASE_CLAIM (R526). -/
def execReleaseClaim (t : Nat) (s : State) :=
  act t s fun s => s.adminRow 0x2D fun b s =>
    if !s.claimForm b false then s.adminDone b 0x12 0
    else match s.claimOf (clKind b) (clIndex b) with
      | none => s.adminDone b 0x40 0
      | some c =>
        if c.holder != clHolder b || s.resourceUsed (clKind b) (clIndex b) then s.adminDone b 0x42 0
        else (s.releaseClaim (clKind b) (clIndex b)).adminDone b 0 0

/-! ### RELOAD_MICROCODE (R58, R59, R61) -/

/-- R58: the refusal of a record, if any, in reason order. -/
def State.reloadRefusal (s : State) (len : Nat) (d : Bytes) : Option Refused :=
  firstSome [
    if len = mcEnd d + 128 ∧ slice d 0 8 = asciiBytes "HYNUSMCR" ∧ mcBank d ≤ 1 then none else some { reason := 1 },
    if allZero (slice d 10 2) && allZero (slice d 20 12) && allZero (slice d 80 48) && allZero (slice d (mcEnd d + 96) 32) then none
    else some { reason := 2 },
    (imgSigned s.sil.imageKeys (leAt d 16 4) (d.take (mcEnd d)) (slice d (mcEnd d) 128)).map fun n => { reason := n },
    if bears (mcRole d) && decide (mcLen d ≤ 32768) && microcodeOk (slice d 128 (mcLen d)) then none else some { reason := 0xC },
    if (s.sil.active.map Image.digest) = some (slice d 32 48) then none else some { reason := 0x12 },
    if s.tileCount (mcRole d) = 0 then some { reason := 0x13 } else none]

/-- R58: a bank of a role is in use. -/
def State.bankUsed (s : State) (role bank : Nat) : Bool :=
  (s.banks role).active == bank || s.runs.any fun r => r.2.banks.contains (role, bank)

/-- RELOAD_MICROCODE (R58): the checks before the record's VERIFY, which the PK engine runs. -/
def execReloadMicrocode (t : Nat) (data : Bytes) (s : State) :=
  act t s fun s => s.adminRow 0x0A fun b s =>
    let d := portRead (min (entLen b) 67108864) data
    match (s.reloadRefusal (entLen b) d).filter fun r => !verified (some r) with
    | some r => s.refuse b r
    | none => s.pkAsk b .verify .sil [] (.verify d)

/-- R58: the checks from the signature on, once the VERIFY has run; with every check passed the bank's valid bit clears and the
code is being written; the next row of the admin stream finds it written (reloadEnd), unless a fault or a Steward
restart aborts it first (R59). -/
def State.recordVerified (s : State) (b d : Bytes) (aborted : Bool) : State :=
  match if aborted then some { reason := 4 } else s.reloadRefusal (entLen b) d with
  | some r => s.endAdmin.refuse b r
  | none =>
    if s.bankUsed (mcRole d) (mcBank d) then s.endAdmin.adminDone b 0x45 0 else (s.clearBank d).adminWaits b (.reload d)

end Sys2Proof.Machine
end

