-- ==== Sys2Proof/Machine/Mailbox.lean ====
section
/-!
DEFINITION. The Steward's mailbox (R427): queries from the host, which change no state of the engine but the
mailbox registers.
-/

namespace Sys2Proof.Machine

/-- The low and the high 32 bits of a number. -/
def lowHigh (n : Nat) : List Nat := [n % 2 ^ 32, n / 2 ^ 32 % 2 ^ 32]

/-- The numbers of the pseudo-channels that are retired. -/
def State.retiredPcs (s : State) : List Nat := (List.range 384).filter fun p => (s.pc p).state == 2

/-- R427: the RESULT and the response of a query. -/
def State.mailboxAnswer (s : State) (code : Nat) : Nat × List Nat :=
  let arg := (Tab.getD s.stw.args 0 0).toNat
  match code with
  | 1 => (0, [Config.firmwareVersion 0 % 2 ^ 32, s.stw.count])
  | 2 =>
    if 8 ≤ arg then (0x12, [])
    else
      let g := s.region arg
      (0, [g.mPass.toNat + 2 ^ 16 * g.sPass.toNat, g.vcPass.toNat, Config.regionRetired arg s.retiredPcs % 2 ^ 32,
           ofBool (s.inService arg)])
  | 3 => (0, lowHigh s.stw.snapGcnt ++ lowHigh s.stw.snapSealed ++ lowHigh s.stw.snapVoided ++
      [if s.stw.shedding then 2 else 0, ofBool s.stw.shedding])
  | _ => (0x10, [])

/-- The Steward answers the query that is in progress. -/
def State.answerMailbox (s : State) : State :=
  if s.stw.busy then
    let a := s.mailboxAnswer s.stw.code
    s.modStw fun w => { w with busy := false, result := a.1, rsp := a.2 ++ List.replicate (8 - a.2.length) 0 }
  else s

/-- The Steward's firmware runs. -/
def State.stewardUp (s : State) : Bool := s.stw.running && !s.stw.restarting

/-- R427: a write of STW_MBX_CTL. The Steward answers within the row when it runs, and otherwise once it runs. -/
def State.writeMailbox (s : State) (v : Nat) : State :=
  if !bitOf v 8 then s
  else if s.stw.busy then s.opsWrite 0x20020 v
  else
    let s := s.modStw fun w => { w with busy := true, code := fieldOf v 0 8 }
    if s.stewardUp then s.answerMailbox else s

/-- A mailbox row: a GO whose CODE is the row's. -/
def State.mailboxRow (s : State) (code : Nat) (v : BitVec 32) : State :=
  if fieldOf v.toNat 0 8 = code then s.writeMailbox v.toNat else s

/-- IDENT (R427). -/
def execIdent (t : Nat) (value : BitVec 32) (s : State) := act t s fun s => s.mailboxRow 1 value
/-- SELFTEST (R427). -/
def execSelftest (t : Nat) (value : BitVec 32) (s : State) := act t s fun s => s.mailboxRow 2 value
/-- STATS (R427). -/
def execStats (t : Nat) (value : BitVec 32) (s : State) := act t s fun s => s.mailboxRow 3 value

end Sys2Proof.Machine
end

