-- ==== Sys2Proof/Machine/Resume.lean ====
section
/-!
DEFINITION. What lets stalled stages work on (R26): a backlog below AMBER, new thresholds, cells, and points of Chorus that are
matched.
-/

namespace Sys2Proof.Machine

/-- R26: what a job held back at its output, or for want of cells, leaves as it can. -/
def State.resumeJob (s : State) (j : Nat) : State :=
  match s.job? j with
  | none => s
  | some x =>
    match Tab.find s.runs x.run with
    | none => s
    | some r =>
      if x.running && s.mayWork r then
        (((x.lanes.map Prod.fst).foldl (fun s k => s.settleLane r j k) s).settleJob r j).packEmit r j
      else s

/-- R26: stalled stages resume. -/
def State.resumeAll (s : State) : State := (s.jobs.map Prod.fst).foldl State.resumeJob s

/-- BACKLOG_RESUME (R378): a backlog is below AMBER; its producers resume. -/
def State.backlogResume (s : State) (key : Nat) : State :=
  let stage := key / 4096
  let b := if stage = 0x0B then s.sealBacklog (key % 4096) else s.backlogOf stage (key % 4096)
  s.noteLevel key (if stage = 0x0B then 0x0B else waterRole stage) b

/-- BACKLOG_RESUME (R378). -/
def execBacklogResume (t : Nat) (unit_ : Nat) (s : State) := actStalls t s fun s => (s.backlogResume unit_).resumeAll

/-- POOL_CELL_GRANT (R371, R32): the request that is first for its pool finds its cells; the lane that waited for them works on. A
request that is not waiting is a stage's new request, for cells that no rule names (log 57). -/
def State.grantRequest (s : State) (q : WorkRequest) : State :=
  if !s.pool.requests.contains q && q.use != .other then s
  else
    let a := s.askCells q
    if a.2 then a.1.resumeAll else a.1

/-- POOL_CELL_GRANT (R371). -/
def execPoolCellGrant (t : Nat) (req : WorkRequest) (s : State) := actStalls t s fun s => s.grantRequest req

/-- POOL_CONFIG (R382). -/
def execPoolConfig (t : Nat) (data : Bytes) (s : State) :=
  actStalls t s fun s => s.adminRow 0x40 fun b s =>
    let st := s.poolRecordStatus b data
    if st = 0 then
      ((regionNumbers.foldl State.spillUpdate (s.applyPoolRecord data)).noteAll.resumeAll).adminDone b 0 0
    else s.adminDone b st 0

/-- CHORUS_MESSAGE (R351): a wait that ended before the message's tick has closed (R410, R412). -/
def execChorusMessage (t : Nat) (lane : Bool) (frame : Bytes) (s : State) :=
  actStalls t s fun s => ((s.missingOn (ofBool lane)).chorusFrame (ofBool lane) frame).resumeAll

/-- CHORUS_MISSING_TIMEOUT (R352). -/
def execChorusMissingTimeout (t : Nat) (lane : Bool) (s : State) :=
  actStalls t s fun s => (s.missingOn (ofBool lane)).resumeAll

end Sys2Proof.Machine
end

