-- ==== Sys2Proof/Machine/Repair.lean ====
section
/-!
DEFINITION. Faults and repair (19_faults_and_repair.md): tile marks, Leapfrog, Fold, links, audits, and the
repair commands.
-/

namespace Sys2Proof.Machine

/-! ### Tiles -/

/-- R448: a tile holds a unit of work of a job: a sample in a lane, or the piece that is next in its stage and dealt to it: a
PYRAMID sample whose input is there, a plan row, a block, a limb pass. -/
def State.holdsUnit (s : State) (id j : Nat) (x : Job) : Bool :=
  x.running && (x.lanes.any (fun l => !isCoreStage x.stage && l.2.tile == id) ||
    (match x.stage with
      | 5 => s.unitAt 5 j x.outs.length == some id && decide (x.outs.length < x.count) && (s.pyrSource j x x.outs.length).isSome
      | 6 => s.unitAt 6 j x.outs.length == some id && (!x.pack.rows.isEmpty || !x.pack.items.isEmpty)
      | 7 => (s.unitsAt 7).contains id
      | 8 => s.unitAt 8 j x.encoded.length == some id &&
          (match Tab.find s.runs x.run with | some r => (s.nextSpawn r j x).isSome | none => false)
      | 9 => s.seals.any fun y => y.2.job == j && tileRegion id == y.2.region &&
          (match Tab.find s.runs y.2.run with
            | some r => (match s.profileOf r with | some f => s.passTile y.2.region (y.2.passNo f.limbs) == some id | none => false)
            | none => false)
      | _ => false))

/-- R452: the entries with a unit of work on a tile are marked as redone. -/
def State.markRedone (s : State) (id : Nat) : State :=
  { s with runs := Tab.mapVals (fun e r =>
      if s.jobs.any fun j => j.2.run == e && s.holdsUnit id j.1 j.2 then { r with retried := true } else r) s.runs }

/-- R458: a stage has no tile, or no V-core, left. -/
def State.stageGone (s : State) (stage : Nat) : Bool :=
  if stage = 0x10 ∨ stage = 0x11 then
    !(regionNumbers.any fun r => s.inService r && (s.region r).vcPass != 0)
  else s.tileCount stage == 0

/-- R458: entries whose list starts a stage that has no tile left are Tail dropped. -/
def State.dropGone (s : State) : State := s.dropRuns fun r => (r.planned.map StartPlan.stage).any s.stageGone

/-! ### The Basking image (R436) -/

/-- The M roles of the Basking image by logical slot. -/
def baskM : List Nat := [4, 4, 1, 5, 6, 8, 7, 0, 0x0F]

/-- The roles of the Basking image that have a MICROCODE entry, in order. -/
def baskRoles : List Nat := [1, 4, 5, 6, 7, 8, 9]

/-- The role map entry at an index in the form for region `b`. -/
def baskEntry (b i : Nat) : Nat × Nat :=
  let role := if slotOf i = 8 then 0x0F
    else if regionOf i = b then
      (if kindOf i = 0 then baskM.getD (slotOf i) 0 else if slotOf i ≤ 6 then 9 else 0)
    else 0
  (role, if bears role then baskRoles.idxOf role else 0xFFFF)

/-- The form of the Basking image for region `b`. Its digest, routes and code stand in ROM (log 24). -/
def baskImage (b : Nat) : Image :=
  { requireSpare := false, gradeReq := 7, stepLetter := 0x41, stepDigit := 0, regionMask := BitVec.ofNat 8 (2 ^ b),
    roles := (List.range 144).map (baskEntry b),
    routes := (Config.baskingRoutes b).map fun r => { src := r.1, dst := r.2.1, stream := r.2.2.1, live := r.2.2.2.1, rate := r.2.2.2.2 },
    micro := baskRoles.map fun c => (c, Config.baskingCode c),
    claims := [],
    budgets := (List.range 16).map fun c => if c = 9 then 8388608 else if baskRoles.contains c then 2097152 else 0,
    maxLogN := 16, maxLimbs := 24, digest := Config.baskingDigest b }

/-- R436, R440: the first of the listed regions in which the Basking image binds, with its binding. -/
def State.baskRegionOf (s : State) : List Nat → Option (Nat × List (Nat × Nat))
  | [] => none
  | r :: rs =>
    if s.inService r then
      match s.bindAll (baskImage r) with
      | .ok b => some (r, b)
      | .error _ => s.baskRegionOf rs
    else s.baskRegionOf rs

/-- R440: another form of the Basking image takes over; its digests change, and nothing else is activated. -/
def State.rebask (s : State) (r : Nat) (bind : List (Nat × Nat)) : State :=
  let im := baskImage r
  let s := s.modSil fun x => { x with active := some im, bind := tabOf bind, progDigest := im.digest }
  let s := s.modPwr fun w => { w with baskRegion := r }
  (s.tileBindings im bind).spareFlags

/-! ### Fold (R453 to R459) -/

/-- R470: a bit of RGr_FAULT sets. -/
def State.regionFault (s : State) (r bit : Nat) : State :=
  s.modRegion r fun g => { g with fault := g.fault.set bit s.now }

/-- R453: a Leapfrog of a folding region is abandoned: its spare folds with the region; a TILE_RETIRE that
waited for it is refused (log 26). -/
def State.abandonLeap (s : State) (r : Nat) : State :=
  let s := s.modRegion r fun g => { g with leapWait := none, leapRetire := false }
  match s.waiting with
  | some (.leapfrog r') => if r' = r then s.finishAdmin 0x40 0 else s
  | _ => s

/-- The tiles of a region leave the binding. -/
def State.unbindRegion (s : State) (r : Nat) : State :=
  let s := s.modSil fun x => { x with bind := x.bind.filter fun b => tileRegion b.2 != r }
  (List.range 256).foldl (fun s id =>
    if tileRegion id = r ∧ (s.tile id).state = .bound then
      s.modTile id fun t => { t with state := if tileSlot id = 8 then .spare else .unbound, role := 0, lslot := 0, leapIn := false }
    else s) s

/-- R40, R54: the staged image needs the region: its mask or its map names it. -/
def State.stagedNeeds (s : State) (r : Nat) : Bool :=
  match s.sil.staged with
  | none => false
  | some im => bitOf im.regionMask.toNat r || (List.range 144).any fun i => regionOf i == r && bears (im.roles.getD i (0, 0)).1

/-- R456: FOLD_START: the region leaves issue. An activation whose image needs it fails (R54; log 58). -/
def State.beginFold (s : State) (r trigger cause : Nat) : State :=
  let s := s.abandonLeap r
  let s := s.modRegion r fun g =>
    { g with state := .folding, foldWait := none, outCause := if trigger = 1 then 3 else 2 }
  let s := s.modSil fun x => { x with actFailed := x.actFailed || (x.activating && s.stagedNeeds r) }
  let s := s.faultRecord 0x0104 3 r cause (leBytes 1 trigger)
  let s := s.unbindRegion r
  let s := s.markRuns (fun _ => true) fun x => { x with folded := true }
  ((s.shiftUpdate.dropGone).rehomeSeals r).restartRegion r

/-- R456, R459, R440: a Fold of a region in service is requested. -/
def State.fold (s : State) (r trigger cause : Nat) : State :=
  if !s.inService r then s
  else if s.stw.restarting then
    s.modRegion r fun g => { g with foldWait := some (g.foldWait.getD (trigger, cause)) }
  else if 2 ≤ s.foldingCount then s.haltEntry 1
  else if 3 < s.outCount + s.foldingCount + 1 then s.haltEntry 2
  else if s.pwr.phase = .basking ∧ s.basking = true ∧ s.pwr.baskRegion = r then
    let others := regionNumbers.filter fun x => x != r
    match s.baskRegionOf others with
    | none => ({ s.beginFold r trigger cause with fresh := s.fresh + 1 }).haltEntry (Config.haltCauseNoBask s.fresh)
    | some (b, bind) => (s.rebask b (bind.filter fun p => tileRegion p.2 != r)).beginFold r trigger cause
  else s.beginFold r trigger cause

/-- R456, R383: the live buffers of a folded region's pool are copied to enclave cells; handles are kept. One
that finds no enclave cell is LOST. -/
def State.moveBuffer (s : State) (h : Nat) : State :=
  match s.buffer? h with
  | none => s
  | some b =>
    match s.takeEnc ((b.cells.length + 15) / 16) with
    | none => (s.loseBuffer h).dropNaming h
    | some cs =>
      (s.modBuffer h fun b => { b.moveTo (s.label b.label).kMem cs with res := none }).modPool fun p =>
        { p with encUsed := p.encUsed ++ cs }

/-- R456: a working buffer of a folded region's pool is copied to enclave cells; the entry of one that finds none is Tail
dropped. -/
def State.moveWork (s : State) (w : WorkBuffer) : State :=
  if !s.pool.work.contains w then s
  else match s.takeEnc ((w.cells.length + 15) / 16) with
    | none => s.dropRun w.run
    | some cs => s.modPool fun p =>
        { p with work := p.work.map fun v => if v = w then { v with inEnclave := true, region := 8, cells := cs } else v,
                 encUsed := p.encUsed ++ cs }

/-- The handles of a region's buffers that lie in its pool. -/
def State.regionBuffers (s : State) (r : Nat) : List Nat :=
  (s.pool.buffers.filter fun b => poolOf b.1 == r && !b.2.inEnclave).map Prod.fst

/-- The region pool is empty. -/
def State.emptyPool (s : State) (r : Nat) : State :=
  (s.modPool fun p =>
    { p with used := Tab.del p.used r, work := p.work.filter fun w => w.inEnclave || w.region != r,
             requests := p.requests.map fun q =>
               if q.region.map BitVec.toNat = some r then { q with region := none, cells := (q.cells + 15) / 16 } else q }).spillUpdate r

/-- FOLD_DONE (R456): the region is out of service. -/
def State.foldDone (s : State) (r : Nat) : State :=
  if (s.region r).state ≠ .folding ∨ s.stw.restarting = true then s
  else
    let s := (s.regionBuffers r).foldl State.moveBuffer s
    let s := (s.pool.work.filter fun w => !w.inEnclave && w.region == r).foldl State.moveWork s
    let s := s.emptyPool r
    let s := { s with tiles := Tab.mapVals (fun id (t : Tile) => if tileRegion id = r then { t with keys := [], gather := [], seq := {} } else t) s.tiles }
    let s := s.modRegion r fun g => { g with state := .out, sealBusy := false }
    let s := s.regionFault r 2
    let s := s.faultRecord 0x0105 3 r 0 (leBytes 1 s.outCount)
    match s.waiting with
    | some (.fold r') => if r' = r then s.finishAdmin 0 0 else s
    | _ => s

/-- FOLD_DONE (R456). -/
def execFoldDone (t : Nat) (r : BitVec 3) (s : State) := act t s fun s => s.foldDone r.toNat

/-! ### Leapfrog (R451, R452) -/

/-- R451: LEAPFROG_START: the spare receives the tile's role, slot and banks. -/
def State.beginLeap (s : State) (id : Nat) (retire : Bool) : State :=
  let r := tileRegion id
  let spare := tileId (tileKind id) r 8
  let x := s.tile id
  let s := s.markRedone id
  let s := s.modTile spare fun t => { t with state := .bound, leapIn := true, role := x.role, lslot := x.lslot, keys := [], gather := [] }
  let s := s.modTile id fun t => { t with role := 0, lslot := 0, keys := [], gather := [], seq := {} }
  let s := s.modSil fun m => { m with bind := Tab.mapVals (fun _ v => if v = id then spare else v) m.bind }
  let s := s.restartTile id spare
  s.modRegion r fun g =>
    { g with state := .leaping, leapFrom := BitVec.ofNat 8 id, leapTo := BitVec.ofNat 8 spare, leapWait := none, leapRetire := retire }

/-- LEAPFROG_DONE (R451). -/
def State.leapDone (s : State) (r : Nat) : State :=
  let g := s.region r
  if g.state ≠ .leaping ∨ s.stw.restarting = true then s
  else
    let src := g.leapFrom.toNat
    let dst := g.leapTo.toNat
    let s := s.modTile dst fun t => { t with leapIn := false }
    let s := s.modRegion r fun g => { g with state := .inService, leapRetire := false }
    let s := s.spareFlags.regionFault r 1
    let s := s.faultRecord 0x0103 3 r (s.tile src).cause (leBytes 1 src ++ leBytes 1 dst)
    let s := if g.leapRetire then s.faultRecord 0x0108 3 r 7 (leBytes 1 src) else s
    match s.waiting with
    | some (.leapfrog r') => if r' = r then s.finishAdmin 0 0 else s
    | _ => s

/-- LEAPFROG_DONE (R451). -/
def execLeapfrogDone (t : Nat) (r : BitVec 3) (s : State) := act t s fun s => s.leapDone r.toNat

/-! ### Marks (R447 to R450) -/

/-- R450: the Moult of a marked tile: when it fails, the SRAM supply is removed. -/
def State.tileMoult (s : State) (id : Nat) (ok : Bool) : State :=
  if ok then s
  else (s.modTile id fun t => { t with sramOff := true, cause := 8 }).faultRecord 0x010B 3 (tileRegion id) 8 (leBytes 1 id)

/-- R451, R453, R425: what follows the mark of a tile that was bound or not. An unbound tile has no role to hand to a
usable spare; its mark folds the region where the spare is used, disabled or defective, as any tile's (R453; log 62). -/
def State.afterMark (s : State) (id : Nat) (wasBound : Bool) (cause : Nat) : State :=
  let r := tileRegion id
  let g := s.region r
  let spare := tileId (tileKind id) r 8
  if g.state = .leaping ∨ g.leapWait.isSome = true then s.fold r 0 cause
  else if wasBound = false ∧ ((s.tile spare).state = .spare ∨ id = spare) then s
  else if (s.tile spare).state = .spare then
    (if s.stw.restarting then s.modRegion r fun g => { g with leapWait := some id } else s.beginLeap id false)
  else s.fold r 0 cause

/-- TILE_MARK (R450). -/
def State.markTile (s : State) (id cause : Nat) (moultOk : Bool) : State :=
  if !s.tileUsable id then s
  else
    let r := tileRegion id
    let wasBound := (s.tile id).state == .bound
    let s := s.modTile id fun t => { t with state := .marked, leapIn := false, cause := cause, retried := false, residue := false, keys := [], gather := [], seq := {} }
    let s := s.modSil fun x => { x with actFailed := x.actFailed || x.activating }
    let s := s.regionFault r 0
    let s := if tileKind id = 1 ∧ (cause = 1 ∨ cause = 2) then s.modRegion r fun g => { g with sealMarked := g.sealMarked.add 8 1 s.now } else s
    let s := s.faultRecord 0x0101 3 r cause (leBytes 1 id)
    (s.tileMoult id moultOk).afterMark id wasBound cause

/-- SRAM_ERROR (R447). -/
def execSramError (t : Nat) (tile : BitVec 8) (err : SramError) (moultOk : Bool) (s : State) :=
  actStalls t s fun s =>
    if !s.tileUsable tile.toNat then s
    else match err with
      | .single => s.modTile tile.toNat fun x => { x with ce := x.ce.add 16 1 s.now }
      | .double => s.markTile tile.toNat 1 moultOk

/-- LANE_PARITY_ERROR (R447). -/
def execLaneParityError (t : Nat) (tile : BitVec 8) (moultOk : Bool) (s : State) :=
  actStalls t s fun s => s.markTile tile.toNat 3 moultOk

/-- GENERATOR_PARITY_ERROR (R329). -/
def execGeneratorParityError (t : Nat) (fault : GenFault) (s : State) :=
  actStalls t s fun s => match fault.unit_ with
    | .sTile id => if tileKind id.toNat = 1 then s.markTile id.toNat 6 fault.moultOk else s
    | .mGroup r => s.fold r.toNat 0 6

/-- R448, R449: one retry of a tile's unit, which is Tail dropped and runs again, or the mark of the tile at the second in one
unit. -/
def State.retryTile (s : State) (id cause : Nat) (moultOk : Bool) : State :=
  let x := s.tile id
  if x.retried then s.markTile id cause moultOk
  else
    let s := s.modTile id fun x => { x with retried := true, retry := x.retry.add 4 1 s.now }
    (((s.dropLoops id).markRedone id).restartTile id id).faultRecord 0x0102 3 (tileRegion id) cause (leBytes 1 id ++ leBytes 1 x.role)

/-- SEQUENCER_WATCHDOG_EXPIRY (R449). -/
def execSequencerWatchdogExpiry (t : Nat) (fault : TileFault) (s : State) :=
  actStalls t s fun s =>
    let id := fault.tile.toNat
    if (s.tile id).state ≠ .bound then s
    else (s.modTile id fun x => { x with wd := x.wd.add 4 1 s.now }).retryTile id 4 fault.moultOk

/-- MICROCODE_ECC_ERROR (R449). -/
def execMicrocodeEccError (t : Nat) (fault : TileFault) (s : State) :=
  actStalls t s fun s =>
    let id := fault.tile.toNat
    if (s.tile id).state ≠ .bound then s else s.retryTile id 5 fault.moultOk

/-- SEAL_PASS (R298). A repeated mismatch marks the S-tile (R294): cause 2. -/
def execSealPass (t : Nat) (pass : SealStep) (s : State) :=
  actStalls t s fun s => s.sealPass pass.region.toNat pass.residues fun id s => s.markTile id 2 pass.moultOk

/-! ### Links, audits, spine (R454, R455, R459) -/

/-- LINK_CRC_FAIL (R454). The failure counts in the window that holds its tick (R410), whether or not the row of an earlier
window's end has come. -/
def State.linkFail (s : State) (r : Nat) (f : LinkFailure) : State :=
  if !s.inService r then s
  else
    let n := min f.failures 4
    let k := s.now / 10 ^ 9
    let s := s.modRegion r fun g =>
      { g with crc := g.crc.add 16 n s.now, resends := g.resends.add 16 (min n 3) s.now,
               crcWindow := (if g.crcWindowNo = k then g.crcWindow else 0) + n, crcWindowNo := k }
    let s := s.regionFault r 4
    let g := s.region r
    if n = 4 ∨ 1024 < g.crcWindow then
      (s.faultRecord 0x0109 3 r 0 (f.link.toNat |> leBytes 1 |> (· ++ leBytes 2 g.crc.val))).fold r 0 0
    else s

/-- LINK_CRC_FAIL (R454). -/
def execLinkCrcFail (t : Nat) (r : BitVec 3) (failure : LinkFailure) (s : State) :=
  actStalls t s fun s => s.linkFail r.toNat failure

/-- CRC_WINDOW_END (R454): at a multiple of 10^9 the window's count starts again. -/
def execCrcWindowEnd (t : Nat) (r : BitVec 3) (s : State) :=
  actStalls t s fun s => if s.now % 10 ^ 9 = 0 then s.modRegion r.toNat fun g =>
      if g.crcWindowNo = s.now / 10 ^ 9 then g else { g with crcWindow := 0, crcWindowNo := s.now / 10 ^ 9 } else s

/-- AUDIT_PASS (R455): the auditor is a directed helper, and waits while the Steward restarts (R417). -/
def execAuditPass (t : Nat) (r : BitVec 3) (result : AuditResult) (s : State) :=
  actStalls t s fun s =>
    if s.stw.restarting || !s.inService r.toNat then s
    else
      let s := s.modRegion r.toNat fun g => { g with passes := satAdd 16 g.passes 1 }
      match result with
      | .fixed n =>
        let s := s.modRegion r.toNat fun g => { g with fixed := g.fixed.add 16 n s.now }
        if n = 0 then s else s.regionFault r.toNat 3
      | .bad cell => (s.faultRecord 0x010A 3 r.toNat 0 (leBytes 2 cell.toNat)).fold r.toNat 0 0

/-- SPINE_UNIT_FAULT (R459). -/
def execSpineUnitFault (t : Nat) (s : State) := act t s fun s => s.haltEntry 4

/-! ### Commands (R465 to R467) -/

/-- R437: region b, or a region whose test has not ended, while the Basking image is active. -/
def State.baskGuard (s : State) (r : Nat) : Bool :=
  s.basking && (s.pwr.baskRegion == r || (s.region r).test == .untested || (s.region r).test == .testing)

/-- TILE_RETIRE (R465). -/
def State.tileRetire (s : State) (b : Bytes) (id : Nat) : State :=
  let r := tileRegion id
  let x := s.tile id
  if 8 < tileSlot id then s.adminDone b 0x12 0
  else if s.baskGuard r then s.adminDone b 0x40 0
  else if !s.inService r || !s.tileUsable id then s.adminDone b 0x12 0
  else if x.state = .bound then
    (if (s.region r).state = .leaping ∨ (s.tile (tileId (tileKind id) r 8)).state ≠ .spare then s.adminDone b 0x40 0
    else
      let s := s.modTile id fun t => { t with state := .retired, cause := 7 }
      (s.beginLeap id true).adminWaits b (.leapfrog r))
  else
    ((s.modTile id fun t => { t with state := .retired, cause := 7 }).faultRecord 0x0108 3 r 7 (leBytes 1 id)).adminDone b 0 0

/-- TILE_RETIRE (R465). -/
def execTileRetire (t : Nat) (s : State) :=
  actStalls t s fun s => s.adminRow 0x3A fun b s => s.tileRetire b (fieldOf (entLen b) 0 8)

/-- R466: a region that REGION_OFFLINE may not fold. -/
def State.offlineRefused (s : State) (r : Nat) : Bool :=
  !s.inService r || decide (2 ≤ s.foldingCount) || decide (3 ≤ s.outCount) ||
    (match s.sil.active with | none => false | some im => bitOf im.regionMask.toNat r) || s.baskGuard r

/-- REGION_OFFLINE (R466). -/
def execRegionOffline (t : Nat) (s : State) :=
  actStalls t s fun s => s.adminRow 0x38 fun b s =>
    let r := fieldOf (entLen b) 0 3
    if s.offlineRefused r then s.adminDone b 0x40 0
    else
      let s := s.fold r 1 0
      if (s.region r).state = .folding then s.adminWaits b (.fold r) else s.adminDone b 0x73 0

/-- The slots of one kind that the grade certificate disables in a region. -/
def State.slotDisabled (s : State) (kind r k : Nat) : Bool :=
  fieldOf s.sil.disabled.toNat (8 * r + 4 * kind) 4 == k

/-- R433: the test of a region sets the states of its tiles and the reports of PWR_RG_STAT. Every item is tested and
reported, a tile in a slot that the certificate disables too. -/
def State.applyTest (s : State) (r : Nat) (x : TestResult) : State :=
  let s := (List.range 18).foldl (fun s n =>
    let kind := n / 9
    let k := n % 9
    let id := tileId kind r k
    let pass := bitOf (if kind = 0 then x.m.toNat else x.s.toNat) k && !(s.tile id).sramOff
    s.modTile id fun t =>
      if s.slotDisabled kind r k then { t with state := .disabled, role := 0, lslot := 0 }
      else if pass then { t with state := if k = 8 then .spare else .unbound, role := 0, lslot := 0, leapIn := false, cause := 0, retried := false, residue := false, keys := [], gather := [], seq := {} }
      else { t with state := .failed, role := 0, lslot := 0, leapIn := false, keys := [], gather := [] }) s
  s.modRegion r fun g =>
    { g with mPass := x.m, sPass := x.s, vcPass := x.vc, switchOk := x.switchOk, poolOk := x.poolOk }

/-- R467: a region returns to service with its binding. -/
def State.regionBack (s : State) (r : Nat) (im : Option Image) (bind : List (Nat × Nat)) : State :=
  let s := s.modRegion r fun g => { g with test := .passed, state := .inService, outCause := 0 }
  let s := s.modSil fun x => { x with bind := bind.foldl (fun t p => Tab.put t p.1 p.2) x.bind }
  let s := match im with
    | none => s
    | some im => s.tileBindings im s.sil.bind
  s.spareFlags.shiftUpdate

/-- R467: the outcome of the retest: 0, or the RESULT of a failure. -/
def State.onlineResult (s : State) (r : Nat) (x : TestResult) : Nat × List (Nat × Nat) :=
  if !x.ok then (1, [])
  else match s.sil.active with
    | none => (0, [])
    | some im => match s.bindRegion im 0 r, s.bindRegion im 1 r with
      | .ok a, .ok b => (0, a ++ b)
      | _, _ => (8, [])

/-- REGION_ONLINE (R467). -/
def execRegionOnline (t : Nat) (result : TestResult) (s : State) :=
  actStalls t s fun s => s.adminRow 0x39 fun b s =>
    let r := fieldOf (entLen b) 0 3
    if !s.isOut r || (s.region r).state == .folding then s.adminDone b 0x12 0
    else
      let s := s.applyTest r result
      let o := s.onlineResult r result
      let s := if o.1 = 0 then s.regionBack r s.sil.active o.2 else s.modRegion r fun g => { g with test := .outOfService }
      let s := s.faultRecord 0x0107 3 r 0 (leBytes 1 o.1)
      s.adminDone b (if o.1 = 0 then 0 else 0x40) o.1

end Sys2Proof.Machine
end

