-- ==== Sys2Proof/Machine/Start.lean ====
section
/-!
DEFINITION. Activation of images (R53, R54), start phases and power (18_start_up_and_power.md), and time
(16_clocks_and_time.md).
-/

namespace Sys2Proof.Machine

/-! ### ACTIVATE_IMAGE and the switch (R53, R54) -/

/-- Reason 0x11: a loaded ring profile exceeds the image's limits. -/
def State.profileTooBig (s : State) (im : Image) : Bool :=
  s.profiles.any fun p => decide (im.maxLogN < p.2.logN) || decide (im.maxLimbs < p.2.limbs)

/-- A refusal of the running command (R56). -/
def State.refuseRun (s : State) (r : Refused) : State :=
  (s.modSil fun x =>
    { x with reason := r.reason, section_ := r.section_, entry := r.entry % 65536, activating := false }).finishAdmin
    (reasonStatus r.reason) r.result

/-- R53: with every region tested, the staged image is checked against the die; it then waits for its switch. -/
def State.activateCheck (s : State) (b : Bytes) : State :=
  match s.sil.staged with
  | none => s.refuseRun { reason := 0xF }
  | some im =>
    match s.activateRefusal im (s.profileTooBig im) with
    | some r => s.refuseRun r
    | none => (s.modSil fun x => { x with activating := true, actFailed := false }).adminWaits b .switch

/-- ACTIVATE_IMAGE (R53). DEDUCED (log 66): with STAGED empty it is refused at once, since it needs an image in STAGED before
it waits for self-test. -/
def execActivateImage (t : Nat) (s : State) :=
  act t s fun s => s.adminRow 0x09 fun b s =>
    let s := (s.modSil fun x => { x with activating := true }).adminWaits b .selftest
    if s.sil.staged.isNone || s.allTested then s.activateCheck b else s

/-- R53: an ACTIVATE_IMAGE that waited for the end of self-test proceeds. -/
def State.activateProceed (s : State) : State :=
  match s.qg.run with
  | some r => if r.wait = .selftest ∧ s.stw.restarting = false then s.activateCheck r.entry else s
  | none => s

/-- R54: the activation fails: the image in force stands. -/
def State.activateFails (s : State) : State :=
  (s.modSil fun x => { x with activating := false, actFailed := false }).finishAdmin 0x70 0

/-- IMAGE_SWITCH (R54). -/
def State.imageSwitch (s : State) : State :=
  match s.waiting, s.sil.staged with
  | some .switch, some im =>
    if s.stw.restarting then s
    else if s.sil.actFailed then s.activateFails
    else match s.bindAll im, grantClaims s.heldByQueue im.claims 0 [] with
      | .ok bind, .ok gs =>
        let s := s.switchTo im true bind gs
        let s := s.record 4 0x0502 0 (im.digest.take 8)
        let s := if s.pwr.phase = .ready then s.setPhase .full else s
        s.finishAdmin 0 0
      | _, _ => s.activateFails
  | _, _ => s

/-- IMAGE_SWITCH (R54). -/
def execImageSwitch (t : Nat) (s : State) := act t s State.imageSwitch

/-! ### Reset (R430, R529) -/

/-- RESET (R430): every register returns to its reset value but PWR_STAT's cause. -/
def State.doReset (s : State) (cause : Nat) (rails : BitVec 4) : State :=
  { State.reset with
    pwr := { State.reset.pwr with inReset := true, resetCause := cause, resetRail := rails, pf := s.pwr.pf },
    outputs := s.outputs, fresh := s.fresh, pending := s.pending }

/-- RESET (R430). -/
def execReset (t : Nat) (source : ResetSource) (s : State) :=
  actInReset t s fun s => match source with
    | .die => s.doReset 1 0
    | .rails mask => s.doReset 2 mask

/-- RESET_RELEASE (R430): no reset source holds the engine any longer. -/
def execResetRelease (t : Nat) (s : State) :=
  actInReset t s fun s => if s.pwr.inReset && !s.pwr.pf then s.modPwr fun w => { w with inReset := false } else s

/-! ### Phases (R431 to R434, R523) -/

/-- ROM_PHASE_END (R523): every piece of phase ROM is done; self-test begins with RG0. -/
def State.romCheck (s : State) : State :=
  if s.pwr.phase = .rom ∧ s.cus.sessionOk = true ∧ s.emc.ctlKeyOk = true ∧ s.pwr.certDone = true ∧
      (s.time.locked || s.pwr.lockWaitDone) = true then
    (s.setPhase .selftest).modRegion 0 fun g => { g with test := .testing }
  else s

/-- START_MOULT_DONE (R431): phase ROM begins: the Steward runs, and the root of trust's facts and keys are
at hand; the two start-up jobs wait for the PK engine (R386). -/
def execStartMoultDone (t : Nat) (facts : StartFacts) (s : State) :=
  act t s fun s =>
    if s.pwr.phase = .moult then
      let s := s.setPhase .rom
      let s := s.modPwr fun w => { w with romStart := s.now }
      let s := (s.modStw fun x => { x with running := true }).answerMailbox
      let s := s.modPke fun p => { p with startup := [.keypair, .verify] }
      s.modSil fun x =>
        { x with cert := facts.cert, imageKeys := facts.imageKeys, manifestKeys := facts.manifestKeys, tokenKeys := facts.tokenKeys }
    else s

/-- K_CTL_DERIVED (R357): HKDF-SHA-384 without a salt. -/
def execKCtlDerived (t : Nat) (entropy : Bytes) (s : State) :=
  act t s fun s =>
    if s.pwr.phase = .rom ∧ s.emc.ctlKeyOk = false then
      (s.modEmc fun e => { e with ctlKey := hkdf384 [] entropy (asciiBytes "HYNUS-K-CTL-1") 64, ctlKeyOk := true }).romCheck
    else s

/-- LOCK_WAIT_EXPIRY (R431). -/
def execLockWaitExpiry (t : Nat) (s : State) :=
  act t s fun s =>
    if s.pwr.phase = .rom ∧ s.time.locked = false ∧ s.pwr.lockWaitDone = false ∧ s.pwr.romStart + 10 ^ 8 ≤ s.now then
      ((s.modPwr fun w => { w with lockWaitDone := true }).modTime fun m => { m with holdover := true }).romCheck
    else s

/-- R431, R433: the last region's test has ended. -/
def State.testsEnd (s : State) : State :=
  if 3 < s.outCount ∨ s.sil.active.isNone = true then (s.haltEntry 5).setPhase .failed
  else (s.setPhase .ready).activateProceed

/-- R436: BASKING_ACTIVATE: the first region that passes and binds becomes region b. -/
def State.baskActivate (s : State) (r : Nat) : State :=
  if s.sil.active.isSome then s
  else match s.baskRegionOf [r] with
    | none => s
    | some (b, bind) =>
      let s := s.switchTo (baskImage b) false (bind.filter fun p => tileRegion p.2 == b) []
      let s := s.modPwr fun w => { w with baskRegion := b }
      s.setPhase .basking

/-- REGION_SELFTEST_END (R433). -/
def State.selftestEnd (s : State) (r : Nat) (x : TestResult) : State :=
  if (s.region r).test ≠ .testing ∨ s.pwr.enclaveTested = false ∨ s.stw.restarting = true then s
  else
    let s := s.applyTest r x
    let s := s.modRegion r fun g =>
      { g with test := if x.ok then .passed else .outOfService, state := if x.ok then .inService else .out,
               outCause := if x.ok then 0 else 1 }
    let s := s.baskActivate r
    if r < 7 then s.modRegion (r + 1) fun g => { g with test := .testing } else s.testsEnd

/-- REGION_SELFTEST_END (R433). -/
def execRegionSelftestEnd (t : Nat) (r : BitVec 3) (result : TestResult) (s : State) :=
  act t s fun s => s.selftestEnd r.toNat result

/-! ### Host values (R435) -/

/-- R435: a write of PWR_HOST_CTL. -/
def State.commitHost (s : State) (value : BitVec 32) : State :=
  if !bitOf value.toNat 0 then s
  else if s.time.optimeValid then s.opsWrite 0x502C value.toNat
  else
    let s := s.modTime fun m =>
      { m with optimeValid := true, optime0 := s.pwr.hostOptime.toNat, g0 := s.now, pcc := s.pwr.hostPcc }
    s.modPwr fun w => { w with hostValues := true }

/-- HOST_VALUES_COMMIT (R435). -/
def execHostValuesCommit (t : Nat) (value : BitVec 32) (s : State) := act t s fun s => s.commitHost value

/-! ### Supply (R441 to R444) -/

/-- The record of a rail that enters a level (R441). -/
def State.railRecord (s : State) (rail level : Nat) : State :=
  s.faultRecord 0x0111 2 0 0 (leBytes 1 rail ++ leBytes 1 level)

/-- V_WARN_ENTRY (R442): the flush begins when the engine-wide level enters V_WARN. -/
def execVWarnEntry (t : Nat) (rail : BitVec 2) (s : State) :=
  act t s fun s =>
    if bitOf s.pwr.warnRail.toNat rail.toNat then s
    else
      let first := s.pwr.warnRail == 0 && s.pwr.inhibitRail == 0
      let s := s.modPwr fun w => { w with warnRail := setBit w.warnRail rail.toNat, evt := if first then w.evt.set 0 s.now else w.evt }
      let s := s.railRecord rail.toNat 1
      if first then s.joinFlush 2 else s

/-- V_INHIBIT_ENTRY (R442). -/
def execVInhibitEntry (t : Nat) (rail : BitVec 2) (s : State) :=
  act t s fun s =>
    if bitOf s.pwr.inhibitRail.toNat rail.toNat then s
    else
      let first := s.pwr.inhibitRail == 0
      let s := s.modPwr fun w => { w with inhibitRail := setBit w.inhibitRail rail.toNat, evt := if first then w.evt.set 1 s.now else w.evt }
      s.railRecord rail.toNat 2

/-- V_INHIBIT_EXIT (R478): when no rail is below V_INHIBIT any longer, the waiting flush is issued. -/
def execVInhibitExit (t : Nat) (rail : BitVec 2) (s : State) :=
  act t s fun s =>
    let s := s.modPwr fun w => { w with inhibitRail := clearBit w.inhibitRail rail.toNat }
    if s.pwr.inhibitRail = 0 ∧ s.erw.flush.isNone = true then s.nextFlush else s

/-- V_WARN_EXIT (R441). -/
def execVWarnExit (t : Nat) (rails : BitVec 4) (s : State) :=
  act t s fun s => s.modPwr fun w => { w with warnRail := w.warnRail &&& ~~~rails }

/-- PWR_FAIL_ASSERT (R443, R430). -/
def execPwrFailAssert (t : Nat) (s : State) :=
  actInReset t s fun s =>
    if s.pwr.inReset then s.modPwr fun w => { w with pf := true, resetCause := 3 }
    else
      let s := s.modPwr fun w => { w with pf := true, pfLatched := true, evt := w.evt.set 2 s.now }
      (s.eraseAll 2).joinFlush 2

/-- PWR_FAIL_DEASSERT (R504, R430): in reset, PWR_FAIL_n was the last to hold the engine there. -/
def execPwrFailDeassert (t : Nat) (s : State) :=
  actInReset t s fun s => s.modPwr fun w => { w with pf := false, resetCause := if w.inReset && w.pf then 3 else w.resetCause }

/-! ### GCNT (R407, R408, R491) -/

/-- The timing record 0x0112. -/
def State.timingRecord (s : State) (kind g x : Nat) : State :=
  s.faultRecord 0x0112 2 0 0 (leBytes 1 kind ++ leBytes 8 g ++ leBytes 8 x)

/-- R408: timing is lost. -/
def State.loseTiming (s : State) : State :=
  let c := Config.lostCounts s.now
  (s.modTime fun m => { m with locked := false, holdover := true, holding := false, matches_ := 0 }).timingRecord 0 c.1 c.2

/-- TIMING_LOST (R408). -/
def execTimingLost (t : Nat) (s : State) := act t s fun s => if s.time.locked then s.loseTiming else s

/-- GCNT is locked. -/
def State.lock (s : State) : State :=
  (s.modTime fun m => { m with locked := true, holdover := false, holding := false }).romCheck

/-- R408: timing returns with the system count `x`. -/
def State.relock (s : State) (x : Nat) : State :=
  let g := s.now
  if g < x then
    ((s.modTime fun m => { m with gcnt := x, steps := m.steps.add 16 1 x }).lock).timingRecord 1 g x
  else if x < g then
    (s.modTime fun m => { m with holding := true, holds := m.holds.add 16 1 g }).timingRecord 2 g x
  else s.lock.timingRecord (Config.equalKind g) g x

/-- COUNT_WORD (R491): the word gives the count at the next tick. Before the first lock GCNT starts from it
(R431); two consecutive words that equal the local count lock it; one that differs while locked loses it. -/
def State.countWord (s : State) (count : Nat) : State :=
  let equal := decide (count = s.now + 1)
  if s.pwr.phase = .moult then s
  else if s.time.locked then (if equal then s else s.loseTiming)
  else
    let n := if equal then s.time.matches_ + 1 else if s.time.holdover ∨ count - 1 < s.now then 0 else 1
    let s := s.modTime fun m =>
      { m with matches_ := n, gcnt := if m.holdover then m.gcnt else max m.gcnt (count - 1) }
    if 2 ≤ n then
      (if s.time.holdover then s.lock.timingRecord (Config.equalKind s.now) s.now s.now else s.lock)
    else s

/-- COUNT_WORD (R491). -/
def execCountWord (t : Nat) (count : BitVec 64) (s : State) := act t s fun s => s.countWord count.toNat

/-- DIE_NUMBER_WORD (R491): once at start. -/
def execDieNumberWord (t : Nat) (die : BitVec 32) (s : State) :=
  act t s fun s =>
    if s.gctl.dieValid || s.pwr.phase == .moult then s
    else (s.modGctl fun g => { g with die := die, dieValid := true }).romCheck

/-- The claim of a timer or frame clock that ticks now (R411, R230). -/
def State.ticksNow (s : State) (kind i : Nat) : Bool :=
  match s.claimOf kind i with
  | none => false
  | some c => decide (c.tick < s.now) && c.arg != 0 && s.now % c.arg == 0

/-- TIMER_TICK (R411, R524). -/
def execTimerTick (t : Nat) (i : BitVec 4) (s : State) :=
  act t s fun s =>
    let x : Timer := Tab.getD s.time.timers i.toNat {}
    if s.ticksNow 1 i.toNat && x.last != some s.now then
      s.modTime fun m => { m with timers := Tab.put m.timers i.toNat { ticks := x.ticks.add 16 1 s.now, last := some s.now } }
    else s

end Sys2Proof.Machine
end

