-- ==== Sys2Proof/Machine/Link.lean ====
section
/-!
DEFINITION. What the engine sends on the custody link (R74 to R76).
-/

namespace Sys2Proof.Machine

/-- A frame is sent with the next SEQ. -/
def State.rawFrame (s : State) (type : Nat) (payload : Bytes) : State :=
  (s.emit (.custody type s.cus.txSeq payload)).modCus fun c => { c with txSeq := (c.txSeq + 1) % 256 }

/-- A frame that its receiver answers is sent and waits for its answer. -/
def State.sendFrame (s : State) (type : Nat) (payload : Bytes) : State :=
  let f : Frame := { type := type, seq := s.cus.txSeq, payload := payload }
  (s.rawFrame type payload).modCus fun c => { c with awaiting := c.awaiting ++ [f] }

/-- R75, R76: SESSION. -/
def State.sessionFrame (s : State) : State :=
  let cert := (Config.sessionCert s.cus.sessionPub).take 768
  s.sendFrame 0x02 (s.cus.sessionPub ++ leBytes 2 cert.length ++ cert)

/-- R76: SESSION follows each HELLO; before the session key is made it waits for the key. -/
def State.sendSession (s : State) : State :=
  if s.cus.sessionOk then s.sessionFrame else s.modCus fun c => { c with hellos := c.hellos + 1 }

/-- R76, R78: the session key is made: each HELLO that waited for it has its SESSION. -/
def State.sessionsDue (s : State) : State :=
  (List.range s.cus.hellos).foldl (fun s _ => s.sessionFrame) (s.modCus fun c => { c with hellos := 0 })

/-- R75: the payload of STATUS for a slot: the matters whose labels are not FREE, by label, as many as a frame holds. -/
def State.statusPayload (s : State) (slot : Nat) : Bytes :=
  let mine := ((s.cus.labels.map Prod.snd).filter fun x => x.state != .free && x.slot == slot).take 113
  leBytes 1 slot ++ leBytes 1 mine.length ++ mine.flatMap fun x => leBytes 8 x.matter ++ leBytes 1 x.state.code

/-- R75: STATUS of a slot. DESIGN CHOICE (log 67): the spec gives the frame and not the moments at which the engine sends it;
whether it does so here is a free value. -/
def State.sendStatus (s : State) (slot : Nat) : State :=
  let s' := { s with fresh := s.fresh + 1 }
  if Config.statusSent s.fresh then s'.sendFrame 0x07 (s.statusPayload slot) else s'

end Sys2Proof.Machine
end

