-- ==== Sys2Proof/Machine/Pk.lean ====
section
/-!
DEFINITION. The PK engine (15_pk_engine.md): host jobs, the two streams, the operations and their results.
-/

namespace Sys2Proof.Machine

/-! ### Curves and keys (R388, R391, R392) -/

/-- The curve of a slot: 0 to 2 from ROM, the others as loaded. -/
def State.curveAt (s : State) (i : Nat) : Option CurveSlot :=
  match i with
  | 0 => some { curve := curveP256, digest := sha384 (curveRecord curveP256) }
  | 1 => some { curve := curveP384, digest := sha384 (curveRecord curveP384) }
  | 2 => some { curve := curveP521, digest := sha384 (curveRecord curveP521) }
  | i => if i < 16 then Tab.find s.pke.curves i else none

/-- R392: the key of a slot, when it was made under curve slot `c` and that slot still holds the same curve. -/
def State.keyFor (s : State) (k c : Nat) : Option Nat :=
  match Tab.find s.pke.keys k, s.curveAt c with
  | some x, some y => if x.slot = c ∧ x.digest = y.digest then some x.d else none
  | _, _ => none

/-! ### Host jobs (R393, R394) -/

/-- The operation of a descriptor. -/
def pkOpOf (n : Nat) : Option PkOp :=
  match n with
  | 1 => some .sign
  | 2 => some .verify
  | 3 => some .keypair
  | 4 => some .ecdh
  | 5 => some .curve
  | _ => none

/-- The code of an operation (R393). -/
def PkOp.code : PkOp → Nat
  | .sign => 1 | .verify => 2 | .keypair => 3 | .ecdh => 4 | .curve => 5

/-- R393 HLEN. -/
def hashLen (h : Nat) : Nat := if h = 1 then 32 else if h = 2 then 48 else 64

/-- R393: the length of the operand block. -/
def operandLen (op : PkOp) (w key hash : Nat) : Nat :=
  match op with
  | .sign => (if key = 0 then w else 0) + hashLen hash
  | .verify => 1 + 2 * w + hashLen hash + 2 * w
  | .keypair => 0
  | .ecdh => (if key = 0 then w else 0) + 1 + 2 * w
  | .curve => 448

/-- R393: the length of the result. -/
def resultLen (op : PkOp) (w : Nat) (keep : Bool) : Nat :=
  match op with
  | .sign => 2 * w
  | .keypair => 1 + 2 * w + (if keep then 0 else w)
  | .ecdh => w
  | .verify => 0
  | .curve => 0

/-- Where the public point of an operand block stands, if it has one. -/
def operandPoint (op : PkOp) (w key : Nat) (data : Bytes) : Option Bytes :=
  match op with
  | .verify => some (slice data 0 (1 + 2 * w))
  | .ecdh => some (slice data (if key = 0 then w else 0) (1 + 2 * w))
  | _ => none

/-- R394: the checks before start: the job, or the status of the first that fails. Where the curve slot is not
valid, its W is not known, and check 3 decides. -/
def State.pkChecks (s : State) (b desc operands : Bytes) : Except Nat PkJob :=
  let d := portRead 64 desc
  let cslot := leAt d 11 1
  let key := leAt d 12 1
  let hash := leAt d 13 1
  let flags := leAt d 14 2
  let inLen := leAt d 24 4
  let outAddr := leAt d 32 8
  let outLen := leAt d 40 4
  let keep := bitOf flags 0
  match pkOpOf (leAt d 10 1) with
  | none => .error 0x12
  | some op =>
    let data := portRead inLen operands
    let hashOk := if op = .sign ∨ op = .verify then decide (1 ≤ hash) && decide (hash ≤ 3) else hash == 0
    let w := match op, s.curveAt cslot with
      | .curve, _ => some 0
      | _, some c => some c.curve.w
      | _, none => none
    let lensOk := match w with
      | none => true
      | some w => inLen == operandLen op w key hash && decide (resultLen op w keep ≤ outLen) &&
          (match operandPoint op w key data with | none => true | some p => pointLayoutOk p)
    if entLen b ≠ 64 ∨ slice d 0 8 ≠ asciiBytes "HYNUSPKJ" ∨ leAt d 8 2 ≠ 1 ∨ hashOk = false ∨ lensOk = false ∨
        (op ≠ .verify ∧ op ≠ .curve ∧ outAddr = 0) then .error 0x12
    else if 2 ≤ flags ∨ leAt d 28 4 ≠ 0 ∨ allZero (slice d 44 20) = false ∨
        (keep = true ∧ (op ≠ .keypair ∨ key = 0)) then .error 0x11
    else if (op = .curve ∧ (cslot < 3 ∨ 15 < cslot)) ∨ (op ≠ .curve ∧ (s.curveAt cslot).isNone = true) ∨
        (keep = true ∧ 15 < key) ∨
        ((op = .sign ∨ op = .ecdh) ∧ key ≠ 0 ∧ (s.keyFor key cslot).isNone = true) then .error 0x40
    else .ok { op := op, client := .host, slot := cslot, key := key, hash := hash, keep := keep, data := data,
               outAddr := outAddr, outLen := outLen }

/-- PK_JOB (R394). -/
def execPkJob (t : Nat) (desc operands : Bytes) (s : State) :=
  act t s fun s => s.adminRow 0x28 fun b s =>
    match s.pkChecks b desc operands with
    | .error st => s.adminDone b st 0
    | .ok j => (s.modPke fun p => { p with admin := some j }).adminWaits b .pkJob

/-! ### Start (R387, R395, R398) -/

/-- The hash that HASH names. -/
def hashShape (h : Nat) : Sha := if h = 1 then sha256Shape else if h = 2 then sha384Shape else sha512Shape

/-- R398: D by operation and field-size bucket, in ticks. -/
def pkDuration (op : PkOp) (fbits : Nat) : Nat :=
  let k := if fbits ≤ 256 then 0 else if fbits ≤ 384 then 1 else 2
  match op with
  | .verify => [800000, 1800000, 4000000].getD k 0
  | .curve => [30000000, 60000000, 120000000].getD k 0
  | _ => [400000, 900000, 2000000].getD k 0

/-- The private scalar that a job uses: from its key slot, or inline. -/
def State.jobScalar (s : State) (j : PkJob) (w : Nat) : Nat :=
  if j.client = .manifests ∨ j.asked = true then s.cus.sessionD
  else if j.key = 0 then beNat (slice j.data 0 w)
  else (s.keyFor j.key j.slot).getD 0

/-- The digest that a SIGN or VERIFY takes. -/
def jobDigest (j : PkJob) (w : Nat) : Bytes :=
  match j.op with
  | .verify => slice j.data (1 + 2 * w) (hashLen j.hash)
  | _ => slice j.data (if j.key = 0 ∧ j.client = .host then w else 0) (hashLen j.hash)

/-- The scalar may be used (R397). -/
def scalarOk (c : Curve) (d : Nat) : Bool := d != 0 && decide (d < c.n)

/-- R398: E, the duration of one run. -/
def State.runTime (s : State) (j : PkJob) : Nat :=
  match j.op with
  | .curve => pkDuration .curve (leAt j.data 10 2)
  | op => match s.curveAt j.slot with
    | none => 0
    | some c =>
      let d := pkDuration op c.curve.fbits
      let more := if c.curve.h > 1 ∧ (op = .verify ∨ op = .ecdh) then pkDuration .sign c.curve.fbits else 0
      let k := s.jobScalar j c.curve.w
      let retry := op == .sign && scalarOk c.curve k &&
        (match ecdsaSign c.curve (hashShape j.hash) k (jobDigest j c.curve.w) with
          | some (_, _, n) => decide (0 < n)
          | none => false)
      if retry then 2 * d else d + more

/-- R387: the job that runs next on an idle PK engine. -/
def State.nextPk (s : State) : Option PkJob :=
  let manifest : Option PkJob := match s.pke.manifests with
    | [] => none
    | n :: _ => some { op := .sign, client := .manifests, slot := 1, hash := 2, manifest := n,
                       data := match Tab.find s.pke.held n with | none => [] | some m => sha384 m.body }
  match s.pke.startup with
  | op :: _ => some { op := op, client := .startup, slot := 1, hash := 2 }
  | [] => match s.pke.admin, manifest with
    | none, m => m
    | a, none => a
    | some a, some m => if s.pke.ended && !s.pke.lastManifest then some m else some a

/-- The job leaves the place where it waited. -/
def Pke.takeJob (p : Pke) (j : PkJob) : Pke :=
  match j.client with
  | .startup => { p with startup := p.startup.drop 1 }
  | .manifests => { p with manifests := p.manifests.drop 1 }
  | _ => { p with admin := none }

/-- R392: a host job whose key slot was emptied while it waited does not start. -/
def State.keyGone (s : State) (j : PkJob) : Bool :=
  j.client == .host && (j.op == .sign || j.op == .ecdh) && j.key != 0 && (s.keyFor j.key j.slot).isNone

/-- A job of the row's operation starts. -/
def State.pkStart (s : State) (op : PkOp) (draw : Nat) : State :=
  if s.pke.running.isSome then s
  else match s.nextPk with
    | none => s
    | some j =>
      if j.op ≠ op then s
      else if s.keyGone j then (s.modPke fun p => p.takeJob j).finishAdmin 0x40 0
      else s.modPke fun p => { p.takeJob j with running := some { j with start := s.now, dur := s.runTime j, draw := draw } }

/-- SIGN (R395). -/
def execSign (t : Nat) (s : State) := act t s fun s => s.pkStart .sign 0
/-- VERIFY (R395). -/
def execVerify (t : Nat) (s : State) := act t s fun s => s.pkStart .verify 0
/-- KEYPAIR (R395): the draw comes from the root of trust. -/
def execKeypair (t : Nat) (entropy : Nat) (s : State) := act t s fun s => s.pkStart .keypair entropy
/-- ECDH (R395). -/
def execEcdh (t : Nat) (s : State) := act t s fun s => s.pkStart .ecdh 0
/-- CURVE (R390). -/
def execCurve (t : Nat) (s : State) := act t s fun s => s.pkStart .curve 0

/-! ### End (R395 to R401) -/

/-- R397: the status of an ECDH and its result. -/
def ecdhOutcome (c : Curve) (d : Nat) (peer : Point) : Nat × Bytes :=
  if scalarOk c d = false then (0x80, [])
  else if pointValid c peer = false then (0x81, [])
  else match ecdhPoint c d peer with
    | none => (0x81, [])
    | some (x, _) => (0, beBytes c.w x)

/-- R395, R397: the status of a VERIFY. -/
def verifyOutcome (c : Curve) (j : PkJob) : Nat :=
  let w := c.w
  let q := decodePoint c (slice j.data 0 (1 + 2 * w))
  let o := 1 + 2 * w + hashLen j.hash
  if pointValid c q = false then 0x81
  else if ecdsaVerify c q (jobDigest j w) (beNat (slice j.data o w)) (beNat (slice j.data (o + w) w)) then 0
  else 0x83

/-- R395: the status and the result of a host job. -/
def State.pkOutcome (s : State) (j : PkJob) : Nat × Bytes :=
  match j.op with
  | .curve => (if (curveLoad j.data).isSome then 0 else 0x82, [])
  | _ => match s.curveAt j.slot with
    | none => (0x40, [])
    | some x =>
      let c := x.curve
      let w := c.w
      let d := s.jobScalar j w
      match j.op with
      | .sign =>
        if scalarOk c d = false then (0x80, [])
        else match ecdsaSign c (hashShape j.hash) d (jobDigest j w) with
          | some (r, v, _) => (0, beBytes w r ++ beBytes w v)
          | none => (0x60, [])
      | .verify => (verifyOutcome c j, [])
      | .keypair =>
        let k := keyOfDraw c j.draw
        (0, encodePoint c (pointMul c k c.gen) ++ (if j.keep then [] else beBytes w k))
      | .ecdh => ecdhOutcome c d (decodePoint c (slice j.data (if j.key = 0 then w else 0) (1 + 2 * w)))
      | .curve => (0, [])

/-- A job that succeeded leaves its curve or its key in the engine. -/
def State.pkStore (s : State) (j : PkJob) : State :=
  match j.op with
  | .curve => match curveLoad j.data with
    | none => s
    | some c => s.modPke fun p => { p with curves := Tab.put p.curves j.slot { curve := c, digest := sha384 j.data } }
  | .keypair => match s.curveAt j.slot with
    | none => s
    | some x =>
      if j.keep then
        s.modPke fun p => { p with keys := Tab.put p.keys j.key { d := keyOfDraw x.curve j.draw, slot := j.slot, digest := x.digest } }
      else s
  | _ => s

/-- R396: a host job ends. -/
def State.endHostJob (s : State) (j : PkJob) (aborted : Bool) : State :=
  if aborted then s.finishAdmin 0x60 0
  else
    let o := s.pkOutcome j
    if o.1 ≠ 0 then s.finishAdmin o.1 0
    else
      let s := s.pkStore j
      let s := if o.2.isEmpty then s else s.emit (.interior j.outAddr o.2)
      s.finishAdmin 0 o.2.length

/-- R78: the session key pair is made and certified. -/
def State.sessionKey (s : State) (draw : Nat) : State :=
  let d := keyOfDraw curveP384 draw
  let pub := encodePoint curveP384 (pointMul curveP384 d curveP384.gen)
  let s := s.modCus fun c => { c with sessionD := d, sessionPub := pub, sessionFp := sha384 pub, sessionOk := true }
  s.modPke fun p => { p with keys := Tab.put p.keys 0 { d := d, slot := 1, digest := sha384 (curveRecord curveP384) } }

/-- R57: the verdict on the grade certificate. -/
def State.certVerdict (s : State) (ok : Bool) : State :=
  let s := s.modPwr fun w => { w with certDone := true }
  if ok && s.sil.cert.ok then
    s.modSil fun x =>
      { x with certOk := true, grade := x.cert.grade, stepLetter := x.cert.stepLetter, stepDigit := x.cert.stepDigit,
               disabled := x.cert.disabled }
  else s

/-- A start-up job ends. -/
def State.endStartup (s : State) (j : PkJob) (aborted : Bool) : State :=
  match j.op with
  | .keypair => if aborted then s else (s.sessionKey j.draw).sessionsDue.romCheck
  | _ => (s.certVerdict (!aborted)).romCheck

/-- R304, R309: a manifest that is not written: it counts as dropped output. -/
def State.manifestDropped (s : State) (m : Manifest) : State :=
  let q := match Tab.find s.runs m.run with | none => 0 | some r => r.queue
  let s := s.modRun m.run fun r => { r with drops := r.drops + 1 }
  s.record 0 0x0205 2 (leBytes 2 q ++ leBytes 8 m.number)

/-- R89: the matter of an entry is fenced. -/
def State.runFenced (s : State) (e : Nat) : Bool :=
  match Tab.find s.runs e with
  | none => false
  | some r => (s.label r.label).state == .fenced && (s.label r.label).gen == r.gen

/-- R309: a signed manifest is written, and its entry may complete. -/
def State.writeManifest (s : State) (n : Nat) (m : Manifest) : State :=
  ((s.modPke fun p => { p with held := Tab.del p.held n }).emit
    (.interior m.addr (m.body ++ m.signature.getD [] ++ zeroBytes 32))).settleRun m.run

/-- R89: the fence of a matter has lifted: its manifests that were signed meanwhile are written. -/
def State.heldManifests (s : State) (l : Nat) : State :=
  (s.pke.held.filter fun m => m.2.signature.isSome && (match Tab.find s.runs m.2.run with | none => false | some r => r.label == l)).foldl
    (fun s m => s.writeManifest m.1 m.2) s

/-- R309: a manifest's signature is made: the manifest is written, unless a fence of its matter holds the write (R89). -/
def State.endManifest (s : State) (j : PkJob) (aborted : Bool) : State :=
  match Tab.find s.pke.held j.manifest with
  | none => s
  | some m =>
    if aborted then ((s.modPke fun p => { p with held := Tab.del p.held j.manifest }).manifestDropped m).settleRun m.run
    else
      let m := { m with signature := some (sign384 s.cus.sessionD m.body) }
      if s.runFenced m.run then s.modPke fun p => { p with held := Tab.put p.held j.manifest m }
      else s.writeManifest j.manifest m

/-- R400: the runs discarded are counted, with one FAULT record. -/
def State.discardRuns (s : State) (j : PkJob) (n : Nat) : State :=
  if n = 0 then s
  else (s.modPke fun p => { p with outchk := p.outchk.add 16 n s.now }).faultRecord 0x0115 3 0 0
    (leBytes 1 j.op.code ++ leBytes 1 j.slot)

/-- R391, R401: job memory is moulted; key slots that waited for the job are emptied. -/
def Pke.afterJob (p : Pke) (j : PkJob) : Pke :=
  { p with running := none, jobs := (p.jobs + 1) % 2 ^ 64,
           keys := p.clearing.foldl Tab.del p.keys, clearing := [],
           lastManifest := if j.client = .startup then p.lastManifest else j.client == .manifests,
           ended := p.ended || j.client != .startup }

/-- R391: a host job uses a key slot: its key is the scalar of a SIGN or ECDH, or a KEYPAIR with KEEP writes it. -/
def PkJob.usesKey (j : PkJob) (k : Nat) : Bool :=
  j.client == .host && j.key == k && (j.op == .sign || j.op == .ecdh || j.keep)

/-- KEY_SLOT_CLEAR (R391, R403): a write of PKE_KEY_CTL. -/
def State.keyClear (s : State) (v : Nat) : State :=
  let k := fieldOf v 0 4
  if !bitOf v 4 then s
  else if k = 0 then s.opsWrite 0x21008 v
  else match s.pke.running with
    | some j =>
      if j.usesKey k then s.modPke fun p => { p with clearing := p.clearing ++ [k] }
      else s.modPke fun p => { p with keys := Tab.del p.keys k }
    | none => s.modPke fun p => { p with keys := Tab.del p.keys k }

/-- KEY_SLOT_CLEAR (R391). -/
def execKeySlotClear (t : Nat) (value : BitVec 32) (s : State) := act t s fun s => s.keyClear value.toNat

end Sys2Proof.Machine
end

