-- ==== Sys2Proof/Machine/Custody.lean ====
section
/-!
DEFINITION. Matter custody (03_custody.md): the custody link, opening and closing matters, presence, dual control
and debug gating.
-/

namespace Sys2Proof.Machine

/-! ### The custody link (R74 to R77) -/

/-- R76: LINK_DOWN. -/
def State.linkDown (s : State) : State :=
  let s := s.modCus fun c => { c with linkUp := false, evt := c.evt.set 4 s.now }
  s.custodyRecord 0x0407 2 (leBytes 1 s.cus.lastNak)

/-- R76: an answer wait of a frame ends without an answer: it is resent, or the link goes down after the third
resend. COUNTER is never sent below V_INHIBIT (R81). -/
def State.resendFrame (s : State) (seq : Nat) : State :=
  match s.cus.awaiting.find? fun f => f.seq == seq with
  | none => s
  | some f =>
    if 3 ≤ f.resends then
      (s.modCus fun c => { c with awaiting := c.awaiting.filter fun x => x.seq != seq }).linkDown
    else if f.type = 8 ∧ s.pwr.inhibitRail ≠ 0 then s
    else
      (s.emit (.custody f.type f.seq f.payload)).modCus fun c =>
        { c with resends := c.resends.add 16 1 s.now,
                 awaiting := c.awaiting.map fun x => if x.seq = seq then { x with resends := x.resends + 1 } else x }

/-- The CRC of a frame (R74). -/
def frameCrc (type seq : Nat) (payload : Bytes) : Nat :=
  crc32With 0xedb88320 (leBytes 1 type ++ leBytes 1 seq ++ leBytes 2 payload.length ++ payload)

/-- ACK, or NAK with its reason, of a frame. -/
def State.answerFrame (s : State) (seq reason : Nat) : State :=
  if reason = 0 then s.rawFrame 0x0E (leBytes 1 seq)
  else (s.rawFrame 0x0F (leBytes 1 seq ++ leBytes 1 reason)).modCus fun c => { c with lastNak := reason }

/-- R76: a frame of the panel arrives: a repeat is answered again; another is judged, answered, and acted on when
it is not refused. `refused` acts when it is. Before CUS_CLK runs nothing is received (R497). -/
def State.receive (s : State) (type seq : Nat) (payload : Bytes) (judge : State → Nat)
    (effect refused : State → State) : State :=
  if s.pwr.phase = .moult then s
  else
    let crc := frameCrc type seq payload
    match s.cus.rxLast with
    | some x =>
      if x.seq = seq ∧ x.crc = crc then
        (s.rawFrame x.ansType x.answer).modCus fun c =>
          { c with lastNak := if x.ansType = 0x0F then leAt x.answer 1 1 else c.lastNak }
      else go crc
    | none => go crc
where
  go (crc : Nat) : State :=
    let r := judge s
    let ans : Received :=
      { seq := seq, crc := crc, ansType := if r = 0 then 0x0E else 0x0F,
        answer := if r = 0 then leBytes 1 seq else leBytes 1 seq ++ leBytes 1 r }
    let s := (s.answerFrame seq r).modCus fun c => { c with rxLast := some ans }
    if r = 0 then effect s else refused s

/-- HELLO (R76). -/
def execHello (t : Nat) (seq : Byte) (payload : Bytes) (s : State) :=
  act t s fun s => s.receive 0x01 seq.toNat payload
    (fun _ => if payload.length = 10 ∧ leAt payload 8 2 = 1 then 0 else 2) State.sendSession id

/-! ### Offers (R79, R528) -/

/-- Fields of an offer. -/
def offSlot (p : Bytes) : Nat := leAt p 0 1
def offToken (p : Bytes) : Nat := leAt p 1 8
def offMatter (p : Bytes) : Nat := leAt p 9 8
def offEpoch (p : Bytes) : Nat := leAt p 17 4
def offCounter (p : Bytes) : Nat := leAt p 21 8
def offEph (p : Bytes) : Bytes := slice p 29 97
def offNonce (p : Bytes) : Bytes := slice p 126 12
def offWrapped (p : Bytes) : Bytes := slice p 138 48
def offTag (p : Bytes) : Bytes := slice p 186 16

/-- The slot's presence reads present. -/
def State.isPresent (s : State) (slot : Nat) : Bool := bitOf s.cus.present.toNat slot

/-- The matter id is held by a label outside FREE (R72). -/
def State.matterHeld (s : State) (m : Nat) : Bool :=
  s.cus.labels.any fun x => x.2.state != .free && x.2.matter == m

/-- R72: the slot's matters in states OPENING to CLOSING with its pending offers. -/
def State.slotLoad (s : State) (slot : Nat) : Nat :=
  (s.cus.labels.filter fun x => x.2.state.live && x.2.slot == slot).length +
    (s.cus.offers.filter fun o => offSlot o.payload == slot).length

/-- R528: the NAK reason of an offer, 0 when it is taken. -/
def State.judgeOffer (s : State) (p : Bytes) : Nat :=
  if p.length ≠ 202 ∨ 7 < offSlot p then 2
  else if s.isPresent (offSlot p) = false then 5
  else if s.matterHeld (offMatter p) then 3
  else if 256 ≤ s.cus.offers.length ∨ 128 ≤ s.slotLoad (offSlot p) then 4
  else 0

/-- OFFER (R528). -/
def execOffer (t : Nat) (seq : Byte) (payload : Bytes) (s : State) :=
  act t s fun s => s.receive 0x03 seq.toNat payload (fun s => s.judgeOffer payload)
    (fun s => s.modCus fun c => { c with offers := c.offers ++ [{ payload := payload }], evt := c.evt.set 3 s.now })
    (fun s => s.custodyRecord 0x0406 2 (leBytes 1 (offSlot payload) ++ leBytes 1 s.cus.lastNak ++ leBytes 8 (offToken payload)))

/-! ### Opening (R82 to R85) -/

/-- Fields of a manifest. -/
def manMatter (m : Bytes) : Nat := leAt m 16 8
def manEpoch (m : Bytes) : Nat := leAt m 24 4

/-- R84 checks 1 to 3; 0 when they pass. -/
def State.manifestStatus (s : State) (b m : Bytes) : Nat :=
  if entLen b ≠ 256 ∨ slice m 0 8 ≠ asciiBytes "HYNUSMAT" ∨ leAt m 8 2 ≠ 1 ∨ manMatter m = 0 then 0x12
  else if leAt m 10 2 ≠ 0 ∨ leAt m 30 2 ≠ 0 ∨ fieldOf (leAt m 28 1) 4 4 ≠ 0 ∨ 2 ≤ leAt m 29 1 ∨
      allZero (slice m 224 32) = false then 0x11
  else match imgSigned s.sil.manifestKeys (leAt m 12 4) (m.take 128) (slice m 128 96) with
    | some _ => 0x83
    | none => 0

/-- The manifest's signer is known, so that its VERIFY runs. -/
def State.manifestSigner (s : State) (m : Bytes) : Bool := s.sil.manifestKeys.any fun k => k.1 == leAt m 12 4

/-- R84 check 7: the pending offer that an open takes. DESIGN CHOICE (log 67): of several that fit, the one received first. -/
def State.offerFor (s : State) (m : Bytes) : Option Offer :=
  s.cus.offers.find? fun o =>
    offMatter o.payload == manMatter m && offEpoch o.payload == manEpoch m && s.isPresent (offSlot o.payload)

/-- R84 check 8: the lowest loaded profile with the manifest's digest. -/
def State.profileFor (s : State) (m : Bytes) : Option Nat :=
  (s.profiles.find? fun p => p.2.digest == slice m 32 48).map Prod.fst

/-- R69: the lowest label in FREE to which no work queue is bound, from label `l` on. -/
def State.freeLabelFrom (s : State) : Nat → Nat → Option Nat
  | 0, _ => none
  | f + 1, l =>
    if (s.label l).state = .free ∧ (s.qg.queues.all fun q => q.2.state == .absent || q.2.label != l) = true then some l
    else s.freeLabelFrom f (l + 1)

/-- R84 checks 4 to 9: the offer, profile slot and label, or the status of the first that fails. -/
def State.openPlan (s : State) (m : Bytes) : Except Nat (Offer × Nat × Nat) :=
  if s.pwr.inhibitRail ≠ 0 ∨ s.pwr.pfLatched = true then .error 0x72
  else if s.dbgConnected = true ∧ s.cus.dbgUnlocked = false then .error 0x32
  else if s.matterHeld (manMatter m) then .error 0x32
  else match s.offerFor m with
    | none => .error 0x32
    | some o => match s.profileFor m with
      | none => .error 0x43
      | some p => match s.freeLabelFrom 1024 0 with
        | none => .error 0x40
        | some l => .ok (o, p, l)

/-- R80: the root secret of an offer, if its tag verifies. -/
def State.unwrap (s : State) (p : Bytes) (z : Nat) : Option Bytes :=
  let info := asciiBytes "HYNUS-CUSTODY-KEK-1" ++ slice p 1 8 ++ slice p 9 8
  let kek := hkdf384 (sha384 s.cus.sessionPub) (beBytes 48 z) info 32
  gcmOpen kek (offNonce p) (p.take 126) (offWrapped p) (offTag p)

/-- R85: a matter key of `n` bytes. -/
def matterKey (fingerprint root : Bytes) (name : String) (matter epoch n : Nat) : Bytes :=
  hkdf384 fingerprint root (asciiBytes name ++ leBytes 8 matter ++ leBytes 4 epoch) n

/-- R84 checks 10 to 12 and R85: the label with its keys, or the check that fails with its status. -/
def State.openKeys (s : State) (x : Label) (p : Bytes) : Except (Nat × Nat) Label :=
  let peer := decodePoint curveP384 (offEph p)
  if pointLayoutOk (offEph p) = false ∨ pointValid curveP384 peer = false then .error (10, 0x81)
  else match ecdhPoint curveP384 s.cus.sessionD peer with
    | none => .error (10, 0x81)
    | some (z, _) => match s.unwrap p z with
      | none => .error (11, 0x32)
      | some root =>
        let kMem := matterKey x.fingerprint root "HYNUS-K-MEM-1" x.matter x.epoch 64
        if kMem.take 32 = kMem.drop 32 then .error (12, 0x32)
        else .ok { x with kData := matterKey x.fingerprint root "HYNUS-K-DATA-1" x.matter x.epoch 32,
                          kMem := kMem,
                          kNoise := matterKey x.fingerprint root "HYNUS-K-NOISE-1" x.matter x.epoch 32 }

/-- R67, R84: a label is assigned to the manifest's matter. -/
def assignLabel (x : Label) (m : Bytes) (o : Offer) (profile : Nat) : Label :=
  { state := .opening, gen := (x.gen + 1) % 256, slot := offSlot o.payload, shapeMeta := bitOf (leAt m 29 1) 0,
    modalities := BitVec.ofNat 4 (leAt m 28 1), profile := profile, matter := manMatter m, epoch := manEpoch m,
    fingerprint := slice m 80 48, token := offToken o.payload }

/-- R502: the instruction is allowed. -/
def State.tapAllowed (s : State) : TapInstr → Bool
  | .bypass | .idcode | .sample => true
  | .extest | .clamp | .highz => !s.anyLive
  | .hyReg | .hyMem => s.dbgAllowed
  | .hyTrace => s.dbgAllowed && (s.claimOf 4 0).isSome

/-- R103, R502: an instruction that the gate refuses does not stand: BYPASS is in its place. -/
def State.tapGate (s : State) : State :=
  if s.tapAllowed s.cus.tap then s else s.modCus fun c => { c with tap := .bypass }

/-- R81: the offer's token counter plus one. DESIGN CHOICE (log 67): the spec states no sum past 2^64 − 1; it is free. -/
def newCounter (n : Nat) : Nat := if n + 1 < 2 ^ 64 then n + 1 else (Config.counterPastMax n).toNat

/-- R84: the label is assigned, and the ECDH of its keys is asked for. -/
def State.openLabel (s : State) (b m : Bytes) (o : Offer) (profile l : Nat) : State :=
  ((s.modLabel l fun x => assignLabel x m o profile).tapGate).pkAsk b .ecdh .custody [] (.agree l o.payload)

/-- R84: check 3 and those after it, once the manifest's VERIFY has run; a job that fails twice is a refusal (R400). -/
def State.openVerified (s : State) (b m : Bytes) (aborted : Bool) : State :=
  if aborted then s.finishAdmin 0x32 0
  else if s.manifestStatus b m ≠ 0 then s.finishAdmin (s.manifestStatus b m) 0
  else match s.openPlan m with
    | .error e => s.finishAdmin e 0
    | .ok (o, p, l) => s.openLabel b m o p l

/-- R81: COUNTER goes out and its acknowledgement is waited for. Below V_INHIBIT nothing is sent, and check 13 fails (R442). -/
def State.askCounter (s : State) (b : Bytes) (l counter : Nat) : State :=
  let x := s.label l
  let s := s.adminWaits b (.counter l x.gen x.slot x.token counter (s.now + 10 ^ 7))
  if s.pwr.inhibitRail != 0 then s.openFails l 13 0x32
  else s.sendFrame 0x08 (leBytes 1 x.slot ++ leBytes 8 x.token ++ leBytes 8 counter)

/-- R84: checks 10 to 12, once the ECDH has run; an absent edge of the slot meanwhile ends the open here. -/
def State.openAgreed (s : State) (b : Bytes) (l : Nat) (offer : Bytes) (aborted : Bool) : State :=
  if aborted || (s.label l).edge then s.openFails l 10 0x32
  else match s.openKeys (s.label l) offer with
    | .error e => s.openFails l e.1 e.2
    | .ok x => (s.modLabel l fun _ => x).askCounter b l (newCounter (offCounter offer))

/-- OPEN_MATTER (R84): the checks before the manifest's VERIFY, which the PK engine runs. -/
def execOpenMatter (t : Nat) (manifest : Bytes) (s : State) :=
  act t s fun s => s.adminRow 0x10 fun b s =>
    let m := portRead 256 manifest
    let st := s.manifestStatus b m
    if (st = 0 ∨ st = 0x83) ∧ s.manifestSigner m = true then s.pkAsk b .verify .custody [] (.verify m)
    else s.adminDone b st 0

/-- R84: the open succeeds. -/
def State.openDone (s : State) (l gen token : Nat) : State :=
  let s := s.modLabel l fun x => { x with state := .opened }
  let x := s.label l
  let s := s.modCus fun c =>
    { c with offers := match c.offers.findIdx? fun o => offMatter o.payload == x.matter && offEpoch o.payload == x.epoch && offToken o.payload == token with
      | none => c.offers
      | some i => c.offers.eraseIdx i }
  let s := s.custodyRecord 0x0401 0 (leBytes 2 l ++ leBytes 8 x.matter ++ leBytes 4 x.epoch ++ leBytes 1 x.slot)
  s.finishAdmin 0 (l + 2 ^ 16 * gen)

/-- R81: COUNTER_ACK that echoes the new counter within its 10 ms. -/
def State.counterAck (s : State) (p : Bytes) : State :=
  match s.waiting with
  | some (.counter l gen slot token counter deadline) =>
    if leAt p 0 1 = slot ∧ leAt p 1 8 = token ∧ leAt p 9 8 = counter ∧ s.now < deadline ∧ s.stw.restarting = false
    then (if (s.label l).edge then s.openFails l 13 0x32 else s.openDone l gen token) else s
  | _ => s

/-- COUNTER_ACK (R81). -/
def execCounterAck (t : Nat) (seq : Byte) (payload : Bytes) (s : State) :=
  act t s fun s => s.receive 0x09 seq.toNat payload (fun _ => if payload.length = 17 then 0 else 2)
    (fun s => s.counterAck payload) id

/-- R81: the wait for COUNTER_ACK is over. -/
def State.counterTimeout (s : State) : State :=
  match s.waiting with
  | some (.counter l _ _ _ _ deadline) => if deadline ≤ s.now then s.openFails l 13 0x32 else s
  | _ => s

/-- COUNTER_ACK_TIMEOUT (R81). -/
def execCounterAckTimeout (t : Nat) (s : State) := act t s State.counterTimeout

/-! ### Closing and revoking (R95, R96) -/

/-- CLOSE_MATTER (R96). -/
def execCloseMatter (t : Nat) (s : State) :=
  act t s fun s => s.adminRow 0x11 fun b s =>
    let l := entMatter b
    ((s.modLabel l fun x => { x with state := .closing }).adminWaits b (.erase l)).closeCheck l

/-- R95: an accepted or refused REVOKE_MATTER. -/
def State.revoke (s : State) (b : Bytes) : State :=
  let l := entMatter b
  let x := s.label l
  if s.faults.halt then s.adminDone b 0x73 0
  else match s.adminCheck b with
    | some st => s.countMalformed.adminDone b st 0
    | none =>
      if x.gen ≠ entGen b then s.adminDone b 0x31 0
      else match x.state with
        | .opened | .fenced | .closing =>
          ((s.modQg fun g => { g with revokes := g.revokes ++ [(b, l)] }).fenceOne 1 0xFF l).eraseOne 1 l
        | .erasing => s.modQg fun g => { g with revokes := g.revokes ++ [(b, l)] }
        | _ => s.adminDone b 0x31 0

/-- An entry is a REVOKE_MATTER. -/
def isRevoke : Option Bytes → Bool
  | none => false
  | some b => entOp b == 0x12

/-- REVOKE_MATTER (R95, R125): accepted on being taken, ahead of the entries that wait. -/
def execRevokeMatter (t : Nat) (s : State) :=
  act t s fun s => match s.qg.todo.findIdx? isRevoke with
    | none => s
    | some i =>
      let s' := s.modQg fun g => { g with todo := g.todo.eraseIdx i }
      match s.qg.todo.getD i none with
      | some b => s'.revoke b
      | none => s

/-! ### Presence (R88 to R93) -/

/-- R88, R91: a slot reads absent. -/
def State.presenceAbsent (s : State) (slot : Nat) : State :=
  if s.isPresent slot = false then s
  else
    let s := s.modCus fun c =>
      { c with present := clearBit c.present slot, offers := c.offers.filter fun o => offSlot o.payload != slot }
    let s := (s.slotLabels slot fun x => x.state.live).foldl (fun s l => s.fenceOne 0 slot l) s
    if (s.slotLabels slot fun x => x.state == .fenced) = [] ∨ (Tab.find s.cus.windows slot).isSome = true then s
    else s.modCus fun c => { c with windows := Tab.put c.windows slot (s.now, c.debounce.toNat * 1000) }

/-- PRESENCE_ABSENT (R88). -/
def execPresenceAbsent (t : Nat) (slot : BitVec 3) (s : State) := act t s fun s => s.presenceAbsent slot.toNat

/-- The tick lies in the slot's open debounce window (R410). -/
def State.inWindow (s : State) (slot : Nat) : Bool :=
  match Tab.find s.cus.windows slot with
  | none => false
  | some w => decide (w.1 ≤ s.now) && decide (s.now < w.1 + w.2)

/-- PRESENCE_PRESENT (R92). -/
def execPresencePresent (t : Nat) (slot : BitVec 3) (s : State) :=
  act t s fun s =>
    if s.isPresent slot.toNat then s
    else
      let s := s.modCus fun c => { c with present := setBit c.present slot.toNat }
      if s.inWindow slot.toNat then s.sendFrame 0x05 (leBytes 1 slot.toNat) else s

/-- DEBOUNCE_WINDOW_END (R91, R93). -/
def State.windowEnd (s : State) (slot : Nat) : State :=
  match Tab.find s.cus.windows slot with
  | none => s
  | some w =>
    if s.now < w.1 + w.2 then s
    else
      let s := s.modCus fun c => { c with windows := Tab.del c.windows slot }
      (s.slotLabels slot fun x => x.state == .fenced).foldl (fun s l => s.eraseOne 0 l) s

/-- DEBOUNCE_WINDOW_END (R91). -/
def execDebounceWindowEnd (t : Nat) (slot : BitVec 3) (s : State) := act t s fun s => s.windowEnd slot.toNat

/-- R92: a PROBE_ACK with a TOKEN_ID that opened none of the slot's matters adds one CUSTODY record, whenever it comes; one
that reports the slot seated inside the window lifts the fence of the matters that its token opened. -/
def State.probeAck (s : State) (p : Bytes) : State :=
  let slot := leAt p 0 1
  let token := leAt p 1 8
  if (s.slotLabels slot fun x => x.state.live && x.token == token) = [] then
    s.custodyRecord 0x0406 2 (leBytes 1 slot ++ leBytes 1 0 ++ leBytes 8 token)
  else if leAt p 9 1 ≠ 1 ∨ s.inWindow slot = false then s
  else
    let mine := s.slotLabels slot fun x => x.state == .fenced && x.token == token
    let s := mine.foldl (fun s l => ((s.liftOne slot l).heldManifests l).closeCheck l) s
    if (s.slotLabels slot fun x => x.state == .fenced) = [] then
      s.modCus fun c => { c with windows := Tab.del c.windows slot }
    else s

/-- PROBE_ACK (R92). -/
def execProbeAck (t : Nat) (seq : Byte) (payload : Bytes) (s : State) :=
  act t s fun s => s.receive 0x06 seq.toNat payload
    (fun _ => if payload.length = 10 ∧ leAt payload 0 1 ≤ 7 then 0 else 2) (fun s => s.probeAck payload) id

/-- ERASURE_END (R93). R98: a tile whose Moult failed is marked for it (cause 8), and its SRAM supply goes (R450); the erasure
completes for every other holding. -/
def execErasureEnd (t : Nat) (result : ErasureResult) (s : State) :=
  act t s fun s =>
    if (s.label result.label.toNat).state = .erasing then
      (result.failed.foldl (fun s id => s.markTile id.toNat 8 false) s).eraseEnd result.label.toNat
    else s

/-! ### Other frames -/

/-- WINDOW_READ (R479). -/
def execWindowRead (t : Nat) (seq : Byte) (payload : Bytes) (s : State) :=
  act t s fun s =>
    let c := leAt payload 0 1
    let cursor := leAt payload 1 8
    let maximum := leAt payload 9 2
    s.receive 0x0A seq.toNat payload
      (fun _ => if payload.length = 11 ∧ c ≤ 4 ∧ 288 ≤ maximum then 0 else 2)
      (fun s =>
        let s := s.panelFree c cursor
        (s.sendFrame 0x0B (s.windowData c cursor maximum)).panelMark c cursor maximum) id

/-- R76: the frame that an answer names no longer waits. -/
def State.stopWaiting (s : State) (seq : Nat) : State :=
  s.modCus fun c => { c with awaiting := c.awaiting.filter fun f => f.seq != seq }

/-- The frame with this SEQ that waits for its answer. -/
def State.awaits (s : State) (seq : Nat) : Option Frame := s.cus.awaiting.find? fun f => f.seq == seq

/-- ACK (R76): the acknowledgement of SESSION sets UP; the states of the slots may follow (R75; log 67). -/
def execAck (t : Nat) (_seq : Byte) (payload : Bytes) (s : State) :=
  act t s fun s =>
    if payload.length ≠ 1 ∨ s.pwr.phase = .moult then s
    else match s.awaits (leAt payload 0 1) with
      | none => s
      | some f =>
        let s := s.stopWaiting f.seq
        if f.type = 2 then (List.range 8).foldl State.sendStatus (s.modCus fun c => { c with linkUp := true }) else s

/-- NAK (R76). -/
def execNak (t : Nat) (_seq : Byte) (payload : Bytes) (s : State) :=
  act t s fun s =>
    let reason := leAt payload 1 1
    if payload.length ≠ 2 ∨ s.pwr.phase = .moult then s
    else match s.awaits (leAt payload 0 1) with
      | none => if reason = 1 then s else s.modCus fun c => { c with lastNak := reason }
      | some f =>
        let s := s.modCus fun c => { c with lastNak := reason }
        if reason = 1 then s.resendFrame f.seq else s.stopWaiting f.seq

/-- CUSTODY_FRAME_CRC_ERROR (R74). -/
def execCustodyFrameCrcError (t : Nat) (type seq : Byte) (s : State) :=
  act t s fun s =>
    if s.pwr.phase = .moult then s
    else
      let s := s.modCus fun c => { c with crcErr := c.crcErr.add 16 1 s.now }
      if type.toNat = 0x0E ∨ type.toNat = 0x0F then s else s.answerFrame seq.toNat 1

/-- FRAME_RESEND (R76). -/
def execFrameResend (t : Nat) (seq : Byte) (s : State) := act t s fun s => s.resendFrame seq.toNat

/-- FRAME_LEN_EXCEEDED (R74): not answered, and nothing is kept of it. -/
def execFrameLenExceeded (t : Nat) (s : State) := act t s id

/-! ### Dual control and debug (R101 to R103, R502) -/

/-- CUS_DC_REQ (R104). -/
def State.dcArm (s : State) (kind : Nat) : State := s.modCus fun c => { c with armedKind := kind, armTick := s.now }

/-- DBG_UNLOCKED changes (R102); at a relock the gate of R103 may refuse the instruction that stands. -/
def State.setUnlock (s : State) (on : Bool) : State :=
  if s.cus.dbgUnlocked = on then s
  else
    ((s.modCus fun c => { c with dbgUnlocked := on, evt := c.evt.set 6 s.now }).custodyRecord 0x0409 1 (leBytes 1 (ofBool on))).tapGate

/-- A write of CUS_DC_REQ whose kind is the row's. -/
def State.dcRow (s : State) (kind : Nat) (v : BitVec 32) (f : State → State) : State :=
  if fieldOf v.toNat 0 2 = kind then f s else s

/-- ARM_RECORDER_CLEAR (R101). -/
def execArmRecorderClear (t : Nat) (value : BitVec 32) (s : State) := act t s fun s => s.dcRow 1 value fun s => s.dcArm 1
/-- ARM_DEBUG_UNLOCK (R101). -/
def execArmDebugUnlock (t : Nat) (value : BitVec 32) (s : State) := act t s fun s => s.dcRow 2 value fun s => s.dcArm 2
/-- RELOCK (R102). -/
def execRelock (t : Nat) (value : BitVec 32) (s : State) := act t s fun s => s.dcRow 3 value fun s => s.setUnlock false

/-- BUTTON_CHANGE (R101): `b` false is button A. -/
def execButtonChange (t : Nat) (b pressed : Bool) (s : State) :=
  act t s fun s => s.modCus fun c =>
    let v := if pressed then some s.now else none
    let c := if b then { c with btnB := if pressed && c.btnB.isSome then c.btnB else v }
      else { c with btnA := if pressed && c.btnA.isSome then c.btnA else v }
    if pressed then c else { c with acted := false }

/-- R101: both buttons have been pressed without break for 1 s, the second less than 500 ms after the first. -/
def State.actDue (s : State) : Bool :=
  match s.cus.btnA, s.cus.btnB with
  | some a, some b =>
    !s.cus.acted && decide (max a b + 10 ^ 9 ≤ s.now) && decide (max a b - min a b < 5 * 10 ^ 8)
  | _, _ => false

/-- R101: a dual-control act. -/
def State.dualAct (s : State) : State :=
  if !s.actDue then s
  else
    let kind := s.cus.armedKind
    let granted := kind != 0 && decide (s.cus.armTick ≤ s.now) && decide (s.now < s.cus.armTick + 10 ^ 10)
    let s := s.modCus fun c => { c with acted := true, evt := c.evt.set 5 s.now }
    let s := s.custodyRecord 0x0408 1 (leBytes 1 kind ++ leBytes 1 (ofBool granted))
    if !granted then s
    else
      let stop := s.cus.armTick + 10 ^ 10
      let s := s.modCus fun c => { c with armedKind := 0 }
      if kind = 1 then s.modCus fun c => { c with clearGranted := true, grantEnd := stop }
      else (s.setUnlock true).modCus fun c => { c with dbgExpiry := s.now + c.unlockMin.toNat * 60 * 10 ^ 9 }

/-- DUAL_CONTROL_ACT (R101). -/
def execDualControlAct (t : Nat) (s : State) := act t s State.dualAct

/-- R101, R102: an armed request lapses, and an unused grant is withdrawn. -/
def State.dualWindowEnd (s : State) : State :=
  s.modCus fun c =>
    let c := if c.armedKind ≠ 0 ∧ c.armTick + 10 ^ 10 ≤ s.now then { c with armedKind := 0 } else c
    if c.clearGranted = true ∧ c.grantEnd ≤ s.now then { c with clearGranted := false } else c

/-- DUAL_CONTROL_WINDOW_END (R101, R102). -/
def execDualControlWindowEnd (t : Nat) (s : State) := act t s State.dualWindowEnd

/-- R102: the unlock time runs out. -/
def State.unlockExpiry (s : State) : State :=
  if s.cus.dbgUnlocked = true ∧ s.cus.dbgExpiry ≤ s.now then s.setUnlock false else s

/-- DEBUG_UNLOCK_EXPIRY (R102). -/
def execDebugUnlockExpiry (t : Nat) (s : State) := act t s State.unlockExpiry

end Sys2Proof.Machine
end

