-- ==== Sys2Proof/Machine/Ports.lean ====
section
/-!
DEFINITION. Error responses at the ports (R490).
-/

namespace Sys2Proof.Machine

/-- The OPS record of an error response. -/
def State.portRecord (s : State) : State := s.opsRule 490 (Config.ruleArg 490 s.now)

/-- The admin opcodes whose command reads a record from host memory. -/
def readsRecord (op : Nat) : Bool := [0x08, 0x0A, 0x10, 0x18, 0x19, 0x1A, 0x22, 0x25, 0x28, 0x30, 0x40].contains op

/-- The read of an admin command's record fails: it completes without running; for LOAD_IMAGE and RELOAD_MICROCODE that
is a refusal with reason FORMAT (R51). -/
def State.adminReadFails (s : State) : State :=
  match s.qg.todo with
  | some b :: _ =>
    if readsRecord (entOp b) then
      s.adminRow (entOp b) fun b s =>
        let s := s.portRecord
        if entOp b = 0x08 then (s.modSil fun x => { x with staged := none }).refuse b { reason := 1, section_ := 0, entry := 0 }
        else if entOp b = 0x0A then s.refuse b { reason := 1, section_ := 0, entry := 0 }
        else s.adminDone b 0x12 0
    else s
  | _ => s

/-- An entry that has started no job completes with BAD_LIST, as one that never ran. -/
def State.unrun (s : State) (e : Nat) : State :=
  match Tab.find s.runs e with
  | none => s
  | some r =>
    let b := takenBytes e (s.queue r.queue).taken
    let s := s.modQueue r.queue fun q =>
      { q with taken := setCompl e (complOf b 0x12 0) (q.taken.map fun t => if t.serial = e then { t with ran := false, ledger := none } else t) }
    { s with runs := Tab.del s.runs e, jobs := s.jobs.filter fun j => j.2.run != e }

/-- A read of list data of an entry in execution fails. -/
def State.listReadFails (s : State) (e : Nat) : State :=
  if (Tab.find s.runs e).isNone then s
  else if s.jobs.any fun j => j.2.run == e && (j.2.running || j.2.ended) then s.portRecord.dropRun e
  else s.portRecord.unrun e

/-- The read of a sealed chunk fails: the sample is voided as for a missing chunk (R87). -/
def State.chunkReadFails (s : State) (j k : Nat) : State :=
  match s.job? j with
  | none => s
  | some x =>
    if (Tab.find x.lanes k).isSome then s.portRecord.chunkRead j k []
    else if k = x.next ∧ k < x.count then s.portRecord.sampleStart j []
    else s

/-- A command waits for the result of the job, and writes it: a host job, or the SIGN of a context image (R342). -/
def PkJob.writes (j : PkJob) : Option AdminWait → Bool
  | some .pkJob => j.client == .host
  | some (.pk (.sign _)) => j.client == .context && !j.orphan
  | _ => false

/-- The write of a job's result fails: the job's entry is Tail dropped. -/
def State.pkResultFails (s : State) : State :=
  match s.pke.running with
  | none => s
  | some j =>
    if j.start + j.dur ≤ s.now ∧ j.writes s.waiting = true then
      (s.portRecord.finishAdmin 0x60 0).modPke fun p => p.afterJob j
    else s

/-- A completion of a queue is due to be written. -/
def State.complDue (s : State) (q : Nat) : Bool :=
  let x := s.queue q
  !x.cqFull && !x.stuck && !x.mute &&
    (if q = 0 then s.qg.adminEn && !s.qg.due.isEmpty
     else match x.taken with
       | t :: _ => t.compl.isSome
       | [] => x.state == .disabling && !s.queueFenced x && !x.cache.isEmpty)

/-- The write of a completion fails: it is written again up to three times, and then waits for a doorbell. -/
def State.complFails (s : State) (q : Nat) : State :=
  if s.complDue q then
    s.portRecord.modQueue q fun x => { x with writeFails := x.writeFails + 1, stuck := decide (4 ≤ x.writeFails + 1) }
  else s

/-- The write of a flush buffer fails: the flush ends, and its records stay. -/
def State.flushFails (s : State) : State :=
  match s.erw.flush with
  | none => s
  | some _ =>
    let s := s.portRecord.modErw fun e => { e with flush := none, evt := e.evt.set 3 s.now }
    let s := if s.pwr.flushActive then s.modPwr fun p => { p with flushActive := false } else s
    s.flushWaiters.nextFlush

/-- R490: what an error response brings. -/
def State.portError (s : State) (x : PortTxn) : State :=
  match x with
  | .submission q => s.portRecord.fetchEntry q.toNat none
  | .adminRead => s.adminReadFails
  | .listFetch q => s.workRow q.toNat 0x80 fun b s => s.portRecord.takeFront q.toNat b false (some (complOf b 0x12 0))
  | .listRead e => s.listReadFails e
  | .chunk j k => s.chunkReadFails j k
  | .output e => if (Tab.find s.runs e).isSome then s.portRecord.dropRun e else s
  | .manifest n => match Tab.find s.pke.held n with | none => s | some m => s.portRecord.dropRun m.run
  | .pkResult => s.pkResultFails
  | .completion q => s.complFails q.toNat
  | .flushBuffer => s.flushFails
  -- the vector's message is lost: it stays disarmed (R132)
  | .queueMessage _ => s.portRecord
  | .engineMessage => s.portRecord

/-- PORT_ERROR_RESPONSE (R490). -/
def execPortErrorResponse (t : Nat) (txn : PortTxn) (s : State) := actStalls t s fun s => s.portError txn

end Sys2Proof.Machine
end

