-- ==== Sys2Proof/Machine/Steward.lean ====
section
/-!
DEFINITION. The Steward (17_steward.md): its load meter and shedding, its sweeps, and its restarts.
-/

namespace Sys2Proof.Machine

/-! ### Restarts (R423 to R426) -/

/-- R426: a restart now would begin less than 60 s after the one two before it. -/
def State.restartsTooFast (s : State) : Bool :=
  match s.stw.starts with
  | _ :: t :: _ => decide (s.now < t + 60000000000)
  | _ => false

/-- R424: the command that the Steward was running is interrupted: what it has not committed is undone, and it
completes with HW_FAULT_RECOVERED once the Steward is back. PK_JOB, and what the hardware carries out for a
command that is committed, go on. -/
def State.interruptAdmin (s : State) : State :=
  match s.waiting with
  | some (.boundary q) => (s.modQueue q fun x => { x with pausePending := false }).finishAdmin 0x70 0
  | some .selftest | some .switch => (s.modSil fun x => { x with activating := false }).finishAdmin 0x70 0
  | some (.counter l _ _ _ _ _) =>
    (s.modLabel l fun x => { freeLabel x with gen := (x.gen + 255) % 256 }).finishAdmin 0x70 0
  | some (.pk (.agree l _)) =>
    ((s.modPke Pke.leave).modLabel l fun x => { freeLabel x with gen := (x.gen + 255) % 256 }).finishAdmin 0x70 0
  | some (.pk _) => (s.modPke Pke.leave).finishAdmin 0x70 0
  | some (.clear _ authority) =>
    (if authority = 1 then s.modErw fun e => { e with tokens := e.tokens.dropLast }
     else s.modCus fun c => { c with clearGranted := decide (s.now < c.grantEnd) }).finishAdmin 0x70 0
  | some (.detach _ _) | some (.reload _) => s.finishAdmin 0x70 0
  | _ => s

/-- R423, R426: STEWARD_RESTART with its cause (STW_RESTART.CAUSE). -/
def State.restartSteward (s : State) (cause : Nat) : State :=
  if !s.stewardUp then s
  else if s.restartsTooFast then (s.modStw fun w => { w with running := false }).haltEntry 3
  else
    let s := s.modStw fun w =>
      { w with running := false, restarting := true, count := satAdd 16 w.count 1, cause := cause, starts := s.now :: w.starts }
    (s.faultRecord 0x0113 3 0 cause []).interruptAdmin

/-- STEWARD_WATCHDOG_EXPIRY (R423). -/
def execStewardWatchdogExpiry (t : Nat) (s : State) := act t s fun s => s.restartSteward 1

/-- STEWARD_MEMORY_ERROR (R423): of the ROM or of the RAM. -/
def execStewardMemoryError (t : Nat) (rom : Bool) (s : State) := act t s fun s => s.restartSteward (if rom then 2 else 3)

/-- R425: the repairs of one region that waited begin. -/
def State.beginWaiting (s : State) (r : Nat) : State :=
  match (s.region r).foldWait, (s.region r).leapWait with
  | some x, _ => (s.modRegion r fun g => { g with foldWait := none, leapWait := none }).fold r x.1 x.2
  | none, some id => s.beginLeap id false
  | none, none => s

/-! ### Load and shedding (R420 to R422) -/

/-- R421: shedding begins or ends once ten consecutive windows say so; while the Steward restarts, the restart
ends first (R429). -/
def State.shedCheck (s : State) : State :=
  if s.stw.restarting then s
  else if s.stw.shedding = false ∧ 10 ≤ s.stw.above then
    let s := s.modStw fun w => { w with shedding := true }
    let s := s.modEmc fun e => { e with rate := min e.rate 1000 }
    s.record 2 0x0301 1 ([1] ++ leBytes 2 s.stw.last)
  else if s.stw.shedding = true ∧ 10 ≤ s.stw.below then
    let s := s.modStw fun w => { w with shedding := false }
    let s := if s.emc.rate = 0 then s else s.modEmc fun e => { e with rate := e.patrol.toNat }
    s.record 2 0x0301 1 ([0] ++ leBytes 2 s.stw.last)
  else s

/-- LOAD_WINDOW_END (R420, R421): a sample window ends at a multiple of 10^6 ticks; `busy` is its busy share in
per mille. -/
def execLoadWindowEnd (t : Nat) (busy : Nat) (s : State) :=
  act t s fun s =>
    if s.now % 10 ^ 6 ≠ 0 then s
    else
      let n := min busy 1000
      (s.modStw fun w =>
        { w with last := n, peak := if w.peak.val < n then w.peak.put n s.now else w.peak, above := if 900 < n then w.above + 1 else 0,
                 below := if n ≤ 750 then w.below + 1 else 0 }).shedCheck

/-- STATS_SWEEP (R422): every 100 ms, and not while the Steward sheds. -/
def execStatsSweep (t : Nat) (s : State) :=
  act t s fun s =>
    if s.stewardUp && !s.stw.shedding && decide (s.stw.snapGcnt + 10 ^ 8 ≤ s.now) then
      s.modStw fun w => { w with snapGcnt := s.now, snapSealed := w.sealed, snapVoided := w.voided }
    else s

/-- R424, R425, R427: the Steward runs again: the interrupted command completes, the repairs that waited begin,
and the mailbox is answered. -/
def State.restartEnd (s : State) : State :=
  if !s.stw.restarting then s
  else
    let s := s.modStw fun w => { w with restarting := false, running := true }
    let s := match s.waiting with
      | some (.done st r) => s.finishAdmin st r
      | _ => s
    (regionNumbers.foldl State.beginWaiting s).answerMailbox.shedCheck

/-- STEWARD_RESTART_END (R424). -/
def execStewardRestartEnd (t : Nat) (s : State) := act t s State.restartEnd

end Sys2Proof.Machine
end

