-- ==== Sys2Proof/Machine/Regs.lean ====
section
/-!
DEFINITION. The control window (R505 to R519): what every register reads as, what a write does to it, read-to-clear
fields, the latch of 64-bit registers, and the accesses of the Control port (R12 to R16, R486).
-/

namespace Sys2Proof.Machine

/-! ### Fields -/

/-- A word from its fields: (lowest bit, width, value). -/
def fields : List (Nat × Nat × Nat) → Nat
  | [] => 0
  | f :: fs => f.2.2 % 2 ^ f.2.1 * 2 ^ f.1 + fields fs

/-- The halves of a 64-bit register. -/
def loHalf (v : Nat) : Nat := v % 2 ^ 32
def hiHalf (v : Nat) : Nat := v / 2 ^ 32 % 2 ^ 32

/-- R510: word `i` of a byte array of `n` bytes; none past its end. -/
def arrayWord (n : Nat) (bs : Bytes) (i : Nat) : Option Nat := if 4 * i < n then some (leAt (padTo n bs) (4 * i) 4) else none

/-! ### What registers read as -/

/-- R515: active slots of a kind under the grade. -/
def State.activeSlots (s : State) : Nat := if s.sil.certOk then (if s.sil.grade = 9 then 8 else 7) else 0

/-- GCTL (R515). -/
def State.readGctl (s : State) (off : Nat) : Option Nat :=
  match off with
  | 0x00 => some (fields ([(0, 16, 0x4859)] ++ if s.sil.certOk then [(16, 4, s.sil.grade), (20, 4, s.sil.stepDigit), (24, 8, s.sil.stepLetter)] else []))
  | 0x04 => some 1
  | 0x08 => some s.gctl.die.toNat
  | 0x0C => some (fields [(0, 3, s.pwr.phase.code), (3, 1, ofBool s.gctl.dieValid), (4, 1, ofBool s.sil.certOk), (5, 1, ofBool s.sil.locked), (6, 1, ofBool s.faults.halt)])
  | 0x10 => some (fields [(0, 4, 8), (4, 4, 9), (8, 2, 2), (10, 3, 6), (16, 4, s.activeSlots), (20, 4, s.activeSlots)])
  | 0x14 => some (fields [(0, 12, 4095), (12, 11, 1024), (23, 5, 16)])
  | 0x18 => some (fields [(0, 9, 256), (9, 5, 16), (14, 4, 15), (18, 5, 16), (23, 3, 4), (26, 4, 8), (30, 2, 2)])
  | 0x1C => some (fields [(0, 8, 16), (8, 12, 256), (20, 8, 64), (28, 4, 4)])
  | 0x20 => some encCells
  | 0x24 => some 384
  | 0x40 | 0x44 | 0x48 | 0x4C => some (Tab.getD s.gctl.scratch ((off - 0x40) / 4) 0#32).toNat
  | _ => none

/-- INT (R516). -/
def State.readInt (s : State) (off : Nat) : Option Nat :=
  match off with
  | 0x00 => some s.sources.toNat
  | 0x04 => some s.intb.enable.toNat
  | 0x08 => some (fields [(8, 1, ofBool s.intb.armed)])
  | 0x10 => some (loHalf s.intb.msgAddr.toNat)
  | 0x14 => some (hiHalf s.intb.msgAddr.toNat)
  | 0x18 => some s.intb.msgData.toNat
  | 0x1C => some (s.intb.sent.read s.now)
  | _ => none

/-- The claimed period of a timer or frame clock; 0 unclaimed. -/
def State.periodOf (s : State) (kind i : Nat) : Nat := match s.claimOf kind i with | none => 0 | some c => c.arg

/-- TIME (R415). -/
def State.readTime (s : State) (off : Nat) : Option Nat :=
  let m := s.time
  if 0x40 ≤ off ∧ off < 0x80 then
    let n := (off - 0x40) / 16
    let c := s.comparator n
    match off % 16 with
    | 0 => some (loHalf c.t)
    | 4 => some (hiHalf c.t)
    | 8 => some (fields [(0, 1, ofBool c.armed), (1, 1, ofBool (s.claimOf 2 n).isSome), (2, 1, ofBool c.late)])
    | _ => none
  else match off with
    | 0x00 => some (loHalf m.gcnt)
    | 0x04 => some (hiHalf m.gcnt)
    | 0x08 => some (fields [(0, 1, ofBool m.locked), (1, 1, ofBool m.holdover), (2, 1, ofBool m.optimeValid)])
    | 0x0C => some (fields [(0, 16, m.steps.read s.now), (16, 16, m.holds.read s.now)])
    | 0x10 => some (loHalf s.optime)
    | 0x14 => some (hiHalf s.optime)
    | 0x18 => some m.pcc.toNat
    | 0x80 => some m.tmrSel.toNat
    | 0x84 => some (loHalf (s.periodOf 1 m.tmrSel.toNat))
    | 0x88 => some (fields [(0, 1, ofBool (s.claimOf 1 m.tmrSel.toNat).isSome), (16, 16, (Tab.getD m.timers m.tmrSel.toNat {}).ticks.read s.now)])
    | 0x90 => some m.lfcSel.toNat
    | 0x94 => some (loHalf (s.periodOf 5 m.lfcSel.toNat))
    | 0x98 => some (fields [(0, 1, ofBool (s.claimOf 5 m.lfcSel.toNat).isSome),
        (1, 5, (s.jobs.filter fun j => j.2.clock == some m.lfcSel.toNat && !j.2.ended).length)])
    | _ => none

/-- The slots that satisfy `p`, as bits. -/
def slotBits (p : Nat → Bool) : Nat := ((List.range 8).map fun i => ofBool (p i) * 2 ^ i).sum

/-- CUS (R104). -/
def State.readCus (s : State) (off : Nat) : Option Nat :=
  let c := s.cus
  let l := s.label c.sel.toNat
  if 0x80 ≤ off ∧ off < 0xB0 then arrayWord 48 c.sessionFp ((off - 0x80) / 4)
  else match off with
    | 0x00 => some (fields [(0, 11, s.labelCount fun x => x == .opened || x == .closing), (11, 1, ofBool c.sessionOk), (12, 1, ofBool c.allFenced)])
    | 0x04 => some (fields [(0, 8, c.present.toNat), (8, 8, slotBits fun i => (Tab.find c.windows i).isSome),
        (16, 8, slotBits fun i => c.offers.any fun o => offSlot o.payload == i)])
    | 0x08 => some c.debounce.toNat
    | 0x0C => some c.tadpoleLimit.toNat
    | 0x10 => some c.evt.bits.toNat
    | 0x14 => some c.evtEn.toNat
    | 0x20 => some c.sel.toNat
    | 0x24 => some (fields [(0, 3, l.state.code), (3, 3, l.slot), (6, 1, ofBool l.shapeMeta), (7, 4, l.modalities.toNat), (11, 4, l.profile), (16, 8, l.gen)])
    | 0x28 => some (loHalf l.matter)
    | 0x2C => some (hiHalf l.matter)
    | 0x30 => some (loHalf l.epoch)
    | 0x34 => some (fields [(0, 11, s.labelCount fun x => x == .fenced), (11, 11, s.labelCount fun x => x == .erasing || x == .scrubbing)])
    | 0x40 => some (fields [(0, 1, ofBool c.linkUp), (8, 8, c.lastNak)])
    | 0x44 => some (fields [(0, 16, c.crcErr.read s.now), (16, 16, c.resends.read s.now)])
    | 0x50 => some 0
    | 0x54 => some (fields [(0, 2, c.armedKind), (2, 1, ofBool c.btnA.isSome), (3, 1, ofBool c.btnB.isSome), (4, 1, ofBool c.clearGranted), (5, 1, ofBool c.dbgUnlocked)])
    | 0x58 => some (fields [(0, 6, c.unlockMin.toNat), (16, 1, ofBool s.dbgAllowed)])
    | _ => none

/-- PWR (R446). -/
def State.readPwr (s : State) (off : Nat) : Option Nat :=
  let w := s.pwr
  let g := s.region w.rgSel.toNat
  match off with
  | 0x00 => some (fields [(0, 1, ofBool (w.warnRail != 0 || w.inhibitRail != 0)), (1, 1, ofBool (w.inhibitRail != 0)), (2, 1, ofBool w.pf),
      (3, 1, ofBool w.pfLatched), (4, 1, ofBool w.flushActive), (5, 1, ofBool w.flushDone), (8, 4, w.warnRail.toNat),
      (12, 4, w.inhibitRail.toNat), (16, 3, w.resetCause), (19, 4, w.resetRail.toNat)])
  | 0x04 => some w.evt.bits.toNat
  | 0x08 => some w.evtEn.toNat
  | 0x0C => some (fields [(0, 3, w.phase.code), (4, 3, w.baskRegion), (7, 1, ofBool w.hostValues)])
  | 0x10 => some w.rgSel.toNat
  | 0x14 => some (fields [(0, 2, g.test.code), (2, 9, g.mPass.toNat), (11, 9, g.sPass.toNat), (20, 2, g.vcPass.toNat), (22, 1, ofBool g.switchOk), (23, 1, ofBool g.poolOk)])
  | 0x20 => some (loHalf w.hostOptime.toNat)
  | 0x24 => some (hiHalf w.hostOptime.toNat)
  | 0x28 => some w.hostPcc.toNat
  | 0x2C => some 0
  | _ => none

/-- R66 PENDING_c: the inactive bank is valid and has not been swapped in. -/
def RoleBanks.pending (b : RoleBanks) : Bool := b.unswapped == some (1 - b.active)

/-- The bits of SIL_BANK_STAT from role code `c` down. -/
def State.bankBits (s : State) : Nat → Nat
  | 0 => 0
  | c + 1 => s.bankBits c + ((s.banks c).active % 2 + 2 * ofBool (s.banks c).pending) * 4 ^ c

/-- SIL (R66). -/
def State.readSil (s : State) (off : Nat) : Option Nat :=
  let x := s.sil
  let digest := fun (im : Option Image) => match im with | none => [] | some i => i.digest
  if 0x40 ≤ off ∧ off < 0x70 then arrayWord 48 (digest x.active) ((off - 0x40) / 4)
  else if 0x70 ≤ off ∧ off < 0xA0 then arrayWord 48 (digest x.staged) ((off - 0x70) / 4)
  else if 0xA0 ≤ off ∧ off < 0xD0 then arrayWord 48 x.progDigest ((off - 0xA0) / 4)
  else match off with
    | 0x00 => some (fields [(0, 2, if x.active.isNone then 0 else if x.actHost then 2 else 1), (2, 1, ofBool x.staged.isSome),
        (3, 1, match s.waiting with | some (.reload _) => 1 | _ => 0),
        (4, 1, ofBool x.activating), (5, 1, ofBool x.locked), (6, 1, ofBool (x.bind.any fun b => b.2 % 16 == 8))])
    | 0x04 => some (fields [(0, 8, x.reason), (8, 8, x.section_), (16, 16, x.entry)])
    | 0x08 => some (fields [(0, 4, x.grade), (4, 8, x.stepLetter), (12, 4, x.stepDigit), (16, 1, ofBool x.certOk)])
    | 0x10 => some (loHalf x.disabled.toNat)
    | 0x14 => some (hiHalf x.disabled.toNat)
    | 0x100 => some x.bindSel.toNat
    | 0x104 =>
      let i := x.bindSel.toNat
      if 144 ≤ i then some 0
      else some (match Tab.find x.bind i with
        | none => fields [(8, 4, s.roleAt i)]
        | some id => fields [(0, 8, id), (8, 4, s.roleAt i), (12, 1, 1), (13, 1, ofBool (id % 16 == 8))])
    | 0x108 => some (fields [(0, 4, x.claimKind.toNat), (8, 6, x.claimIndex.toNat)])
    | 0x10C =>
      some (match s.claimOf x.claimKind.toNat x.claimIndex.toNat with
        | none => 0
        | some c => fields [(0, 1, 1), (1, 1, ofBool (c.holder == 0)), (2, 1, ofBool (s.resourceUsed x.claimKind.toNat x.claimIndex.toNat)), (16, 16, c.holder)])
    | 0x110 => some (s.bankBits 16)
    | _ => none

/-- R134 STAT for queue `q`. -/
def State.queueStat (s : State) (q : Nat) : Nat :=
  let x := s.queue q
  if x.state = .absent then 0
  else
    let left := x.state == .disabling && x.posted != 0 && !x.mute
    let waits := if q = 0 then !s.qg.due.isEmpty else (x.taken.any fun t => t.compl.isSome) || left
    let idle := if q = 0 then s.adminIdle else x.taken.isEmpty && !left
    fields [(0, 2, x.state.code), (2, 1, ofBool idle), (3, 1, ofBool (q != 0 && s.queueFenced x)), (4, 1, ofBool x.launchHeld), (5, 1, ofBool x.paused),
      (6, 1, ofBool (x.cqFull && waits)), (7, 1, ofBool x.armed), (8, 5, min 16 x.cache.length)]

/-- R134 CFG for queue `q`. -/
def State.queueCfg (s : State) (q : Nat) : Nat :=
  let x := s.queue q
  if x.state = .absent then 0
  else fields [(0, 10, x.label), (10, 2, x.cls), (12, 4, x.weight), (16, 5, x.logSize), (24, 8, x.gen)]

/-- QG (R134). -/
def State.readQg (s : State) (off : Nat) : Option Nat :=
  let g := s.qg
  match off with
  | 0x00 => some (ofBool g.adminEn)
  | 0x04 => some (fields [(0, 12, (g.queues.filter fun q => q.2.state != .absent).length), (12, 1, ofBool s.adminIdle),
      (13, 9, g.todo.length + ofBool g.run.isSome + g.revokes.length + g.due.length)])
  | 0x08 => some (fields [(0, 16, g.badDb.read s.now), (16, 16, g.malformed.read s.now)])
  | 0x10 => some (loHalf g.adminSqBase.toNat)
  | 0x14 => some (hiHalf g.adminSqBase.toNat)
  | 0x18 => some (loHalf g.adminCqBase.toNat)
  | 0x1C => some (hiHalf g.adminCqBase.toNat)
  | 0x20 => some (loHalf g.adminMsiAddr.toNat)
  | 0x24 => some (hiHalf g.adminMsiAddr.toNat)
  | 0x28 => some g.adminMsiData.toNat
  | 0x30 => some g.qSel.toNat
  | 0x34 => some (s.queueCfg g.qSel.toNat)
  | 0x38 => some (s.queueStat g.qSel.toNat)
  | _ => none

/-- The doorbell blocks (R108, R109). -/
def State.readDoorbell (s : State) (off : Nat) : Option Nat :=
  let q := off / 16
  let x := s.queue q
  if !s.ringExists q then some 0
  else match off % 16 with
    | 8 => some x.sqHead
    | 12 => some x.cqTail
    | _ => some 0

/-- STW (R428). -/
def State.readStw (s : State) (off : Nat) : Option Nat :=
  let w := s.stw
  if 0x30 ≤ off ∧ off < 0x40 then some (Tab.getD w.args ((off - 0x30) / 4) 0#32).toNat
  else if 0x40 ≤ off ∧ off < 0x60 then some (w.rsp.getD ((off - 0x40) / 4) 0)
  else if 0x80 ≤ off ∧ off < 0xB0 then arrayWord 48 ((List.range 48).map Config.romDigest) ((off - 0x80) / 4)
  else match off with
    | 0x00 => some (fields [(0, 1, ofBool w.running), (1, 1, ofBool w.restarting), (2, 1, ofBool w.shedding), (3, 1, ofBool s.recoveryWait)])
    | 0x04 => some (fields [(0, 10, w.last), (10, 10, w.peak.read s.now)])
    | 0x08 => some (fields [(0, 16, w.count), (16, 2, w.cause)])
    | 0x20 => some 0
    | 0x24 => some (fields [(0, 1, ofBool w.busy), (8, 8, w.result)])
    | _ => none

/-- R403 CLIENT. -/
def PkClient.code : PkClient → Nat
  | .startup => 1 | .custody => 2 | .sil => 3 | .context => 4 | .recorder => 5 | .manifests => 6 | .host => 7

/-- PKE (R403). -/
def State.readPke (s : State) (off : Nat) : Option Nat :=
  let p := s.pke
  let c := s.curveAt p.curveSel.toNat
  if 0x40 ≤ off ∧ off < 0x70 then arrayWord 48 (match c with | none => [] | some x => x.digest) ((off - 0x40) / 4)
  else match off with
    | 0x00 =>
      let job := match p.running with
        | none => []
        | some j => [(0, 1, 1), (1, 3, j.op.code), (4, 4, j.slot), (8, 3, j.client.code)]
      some (fields (job ++ [(11, 9, p.manifests.length)]))
    | 0x04 => some (((List.range 16).map fun k => ofBool (Tab.find p.keys k).isSome * 2 ^ k).sum)
    | 0x08 => some 0
    | 0x10 => some p.curveSel.toNat
    | 0x14 => some (match c with
        | none => 0
        | some x => fields [(0, 1, 1), (1, 1, ofBool (decide (p.curveSel.toNat < 3))), (2, 10, x.curve.fbits), (12, 3, x.curve.h)])
    | 0x18 => some (fields [(0, 16, p.outchk.read s.now), (16, 16, p.eccCe.read s.now)])
    | 0x20 => some (loHalf p.jobs)
    | 0x24 => some (hiHalf p.jobs)
    | _ => none

/-- ERW (R484). -/
def State.readErw (s : State) (off : Nat) : Option Nat :=
  let e := s.erw
  let c := e.chSel.toNat
  let ch := s.chan c
  if 0x100 ≤ off ∧ off < 0x220 then arrayWord 288 (if e.winValid then e.winData else []) ((off - 0x100) / 4)
  else match off with
    | 0x00 => some (fields [(0, 1, ofBool e.flush.isSome), (1, 1, ofBool e.wait.isSome), (2, 2, e.unacked.toNat), (16, 16, e.flushes)])
    | 0x04 => some e.evt.bits.toNat
    | 0x08 => some e.evtEn.toNat
    | 0x10 => some (loHalf e.base.toNat)
    | 0x14 => some (hiHalf e.base.toNat)
    | 0x18 => some e.size.toNat
    | 0x1C => some 0
    | 0x20 => some e.window.toNat
    | 0x30 => some e.chSel.toNat
    | 0x34 => some (if c < 5 then fields [(0, 11, bytesOf ch.records / 1024), (11, 1, ofBool (over75 c ch))] else 0)
    | 0x38 => some (loHalf ch.next)
    | 0x3C => some (hiHalf ch.next)
    | 0x40 => some (ch.lost.read s.now)
    | 0x80 => some e.winChan.toNat
    | 0x88 => some (loHalf e.cursor.toNat)
    | 0x8C => some (hiHalf e.cursor.toNat)
    | 0x90 => some (fields [(0, 1, ofBool e.winValid), (1, 1, ofBool e.winGap), (2, 1, ofBool e.winDenied), (8, 8, e.winGen)])
    | 0x98 => some (loHalf e.winSeq)
    | 0x9C => some (hiHalf e.winSeq)
    | 0xA0 => some (loHalf e.winNext)
    | 0xA4 => some (hiHalf e.winNext)
    | _ => none

/-- R353: the queue whose determinism registers are read, unless it is ABSENT. -/
def State.detQueue (s : State) : Option Queue :=
  let q := s.det.qSel.toNat
  if q = 0 ∨ (s.queue q).state = .absent then none else some (s.queue q)

/-- A Chorus lane's registers (R353). -/
def State.readLane (s : State) (l off : Nat) : Option Nat :=
  let c := s.lane l
  match off with
  | 0x00 => some (fields [(0, 12, c.queue), (12, 1, c.diverged.bits.toNat), (13, 1, ofBool c.stalled)])
  | 0x08 => some (loHalf c.divStep)
  | 0x0C => some (hiHalf c.divStep)
  | 0x10 => some (loHalf c.divIndex)
  | 0x14 => some (hiHalf c.divIndex)
  | 0x18 => some (fields [(0, 8, c.divStage), (8, 9, c.divTile), (17, 1, ofBool c.missing)])
  | _ => none

/-- DET (R333, R353). -/
def State.readDet (s : State) (off : Nat) : Option Nat :=
  let d := s.det
  let q := s.detQueue
  let of := fun (f : Queue → Nat) => some (match q with | none => 0 | some x => f x)
  if 0x40 ≤ off ∧ off < 0x80 then s.readLane ((off - 0x40) / 0x20) ((off - 0x40) % 0x20)
  else if 0x1010 ≤ off ∧ off < 0x1030 then some 0
  else match off with
    | 0x00 => some (loHalf d.ndcGlobal)
    | 0x04 => some (hiHalf d.ndcGlobal)
    | 0x08 => some d.qSel.toNat
    | 0x0C => some 0
    | 0x10 => of fun x => fields [(0, 1, ofBool x.pausePending), (1, 1, ofBool (s.tileCounts != x.ref)), (2, 1, ofBool x.chorus.isSome), (3, 1, x.chorus.getD 0), (4, 9, x.ledger.length)]
    | 0x18 => of fun x => loHalf x.ndc
    | 0x1C => of fun x => hiHalf x.ndc
    | 0x20 => of fun x => loHalf (packCounts x.ref)
    | 0x24 => of fun x => hiHalf (packCounts x.ref)
    | 0x28 => some (loHalf (packCounts s.tileCounts))
    | 0x2C => some (hiHalf (packCounts s.tileCounts))
    | 0x1000 => some (fields [(0, 12, d.seedQueue.toNat), (16, 4, d.seedSlot.toNat)])
    | 0x1004 => some 0
    | 0x1008 => some (if d.seedQueue = 0 then 0 else seedBits (s.queue d.seedQueue.toNat).seeds)
    | _ => none

/-- The consumer that POOL_TILE_SEL names: its stage with its place among the stage's units. -/
def State.selectedUnit (s : State) : Option (Nat × Nat) :=
  let v := s.pool.tileSel.toNat
  if bitOf v 12 then some (0x10, fieldOf v 8 4)
  else
    let id := fieldOf v 0 8
    match s.sil.bind.find? fun b => b.2 == id with
    | none => none
    | some b =>
      let role := s.roleAt b.1
      some (role, ((s.sil.bind.filter fun x => s.roleAt x.1 == role).map Prod.snd).idxOf id)

/-- R378, R384: POOL_TILE_STAT. -/
def State.tileStat (s : State) : Nat :=
  match s.selectedUnit with
  | none => 0
  | some (stage, u) =>
    let b := s.backlogOf stage u + if stage = 0x10 then s.backlogOf 0x11 u else 0
    let w := s.waterOf (waterRole stage)
    let level := if b < w.1 then 0 else if b < w.2.1 then 1 else if b < w.2.2 then 2 else 3
    fields [(0, 2, level), (2, 1, ofBool ((Tab.getD s.pool.backlogs (backKey stage u) {}).spilling && decide (w.1 ≤ b))), (3, 24, min (2 ^ 24 - 1) (b / 1024))]

/-- POOL (R384). -/
def State.readPool (s : State) (off : Nat) : Option Nat :=
  let p := s.pool
  let r := p.rgSel.toNat
  match off with
  | 0x00 => some (ofBool p.chain)
  | 0x08 => some 0
  | 0x0C => some p.reqArg.toNat
  | 0x10 => some (loHalf p.owners.toNat)
  | 0x14 => some (hiHalf p.owners.toNat)
  | 0x18 => some p.rspHandle
  | 0x1C => some (p.rspStatus + 256 * ofBool (s.poolBusy))
  | 0x20 => some (fields [(0, 16, p.protocol.read s.now), (16, 16, p.refused.read s.now)])
  | 0x30 => some p.rgSel.toNat
  | 0x34 => some (fields [(0, 13, 4096 - (s.usedOf r).length), (13, 13, s.resUnused r), (26, 1, ofBool (s.region r).spill), (27, 1, ofBool (s.isOut r))])
  | 0x38 => some (if p.encKnown then s.encFree else 0)
  | 0x3C => some p.dirty.length
  | 0x40 => some p.tileSel.toNat
  | 0x44 => some s.tileStat
  | _ => none

/-- EMC (R385). -/
def State.readEmc (s : State) (off : Nat) : Option Nat :=
  let e := s.emc
  let x := s.pc e.pcSel.toNat
  match off with
  | 0x00 => some (fields [(0, 9, e.inService), (9, 1, ofBool e.ctlKeyOk)])
  | 0x08 => some e.pcSel.toNat
  | 0x0C => some (fields [(0, 2, x.state), (2, 16, s.ceCount e.pcSel.toNat), (18, 1, ofBool x.ueSeen)])
  | 0x10 => some 0
  | 0x14 => some e.patrol.toNat
  | 0x18 => some (fields [(0, 14, e.rate), (16, 16, e.patrolPasses)])
  | 0x1C => some e.ceLimit.toNat
  | 0x20 => some (fields [(0, 16, e.ce.read s.now), (16, 16, e.ue.read s.now)])
  | _ => none

/-- RGr (R315, R470). -/
def State.readRegion (s : State) (r off : Nat) : Option Nat :=
  let g := s.region r
  match off with
  | 0x000 => some (fields [(0, 2, g.state.code), (2, 2, g.outCause), (4, 1, ofBool g.spareM), (5, 1, ofBool g.spareS), (8, 8, g.leapFrom.toNat), (16, 8, g.leapTo.toNat)])
  | 0x004 => some g.fault.bits.toNat
  | 0x008 => some g.faultEn.toNat
  | 0x00C => some (fields [(0, 16, g.crc.read s.now), (16, 16, g.resends.read s.now)])
  | 0x010 => some (fields [(0, 16, g.fixed.read s.now), (16, 16, g.passes)])
  | 0x014 => some (fields [(0, 2, s.foldingCount), (2, 4, s.outCount), (6, 1, ofBool s.faults.halt), (8, 3, s.faults.haltCause)])
  | 0x800 =>
    let overlap := match Tab.find s.profiles g.sealProfile with | some f => g.sealBusy && s.overlap f.logN | none => false
    some (fields [(0, 10, g.sealLabel), (10, 1, ofBool g.sealBusy), (16, 7, g.sealK), (23, 1, ofBool overlap), (24, 4, g.sealProfile), (28, 4, (s.roleTiles r 9).length)])
  | 0x808 => some (loHalf g.sealCt)
  | 0x80C => some (hiHalf g.sealCt)
  | 0x810 => some (fields [(0, 16, g.sealMismatch.read s.now), (16, 8, g.sealMarked.read s.now), (24, 8, g.sealDropped.read s.now)])
  | 0x814 => some (g.sealKeyload.read s.now)
  | _ => none

/-- R54: TS_STAT.BANK: the active bank of the tile's role; V of a tile in service without a role. -/
def State.tileBank (s : State) (id : Nat) : Nat :=
  let t := s.tile id
  if t.role = 0 then (if (t.state = .unbound ∨ t.state = .spare) ∧ s.inService (id / 16 % 8) then s.sil.bankV else 0) else (s.banks t.role).active

/-- A tile status block (R5, R469). -/
def State.readTile (s : State) (id off : Nat) : Option Nat :=
  let t := s.tile id
  if 9 ≤ id % 16 then none
  else match off with
    | 0x00 => some (fields [(0, 3, t.state.code), (3, 1, ofBool t.leapIn), (4, 4, t.role), (8, 4, t.lslot), (12, 1, s.tileBank id)])
    | 0x04 => some (fields [(0, 16, t.ce.read s.now), (16, 8, t.mismatch.read s.now), (24, 4, t.wd.read s.now), (28, 4, t.retry.read s.now)])
    | 0x08 => some (fields [(0, 4, t.cause)])
    | _ => none

/-- R505, R506: the 32-bit word at an offset of the window; none where no register stands. -/
def State.word (s : State) (off : Nat) : Option Nat :=
  if off < 0x1000 then s.readGctl off
  else if off < 0x2000 then s.readInt (off - 0x1000)
  else if off < 0x4000 then s.readTime (off - 0x2000)
  else if off < 0x5000 then s.readCus (off - 0x4000)
  else if off < 0x6000 then s.readPwr (off - 0x5000)
  else if off < 0x8000 then s.readSil (off - 0x6000)
  else if off < 0x10000 then s.readQg (off - 0x8000)
  else if off < 0x20000 then s.readDoorbell (off - 0x10000)
  else if off < 0x21000 then s.readStw (off - 0x20000)
  else if off < 0x22000 then s.readPke (off - 0x21000)
  else if off < 0x24000 then s.readErw (off - 0x22000)
  else if off < 0x28000 then s.readDet (off - 0x24000)
  else if off < 0x29000 then s.readPool (off - 0x28000)
  else if off < 0x30000 then s.readEmc (off - 0x29000)
  else if off < 0x38000 then s.readRegion ((off - 0x30000) / 0x1000) (off % 0x1000)
  else if off < 0x40000 then none
  else if off < 0x50000 then s.readTile ((off - 0x40000) / 0x100) (off % 0x100)
  else none

/-- R508: the offsets of the 64-bit registers. -/
def is64 (off : Nat) : Bool :=
  [0x00020, 0x01010, 0x02000, 0x02010, 0x02040, 0x02050, 0x02060, 0x02070, 0x04028, 0x05020, 0x06010, 0x08010, 0x08018, 0x08020,
   0x21020, 0x22010, 0x22038, 0x22088, 0x22098, 0x220A0, 0x24000, 0x24018, 0x24020, 0x24028, 0x24048, 0x24050, 0x24068, 0x24070,
   0x28010, 0x28018].contains off ||
    (decide (0x30000 ≤ off) && decide (off < 0x38000) && off % 0x1000 == 0x808)

/-! ### Reads (R16, R507, R508, R511) -/

/-- R12: the RC fields of the word at an offset clear. -/
def State.clearOnRead (s : State) (off : Nat) : State :=
  if 0x30000 ≤ off ∧ off < 0x38000 then
    s.modRegion ((off - 0x30000) / 0x1000) fun g =>
      match off % 0x1000 with
      | 0x00C => { g with crc := g.crc.clear s.now, resends := g.resends.clear s.now }
      | 0x010 => { g with fixed := g.fixed.clear s.now }
      | 0x810 => { g with sealMismatch := g.sealMismatch.clear s.now, sealMarked := g.sealMarked.clear s.now, sealDropped := g.sealDropped.clear s.now }
      | 0x814 => { g with sealKeyload := g.sealKeyload.clear s.now }
      | _ => g
  else if 0x40000 ≤ off ∧ off < 0x50000 then
    (if off % 0x100 = 4 then s.modTile ((off - 0x40000) / 0x100) fun t => { t with ce := t.ce.clear s.now, mismatch := t.mismatch.clear s.now, wd := t.wd.clear s.now, retry := t.retry.clear s.now } else s)
  else match off with
    | 0x0101C => s.modInt fun i => { i with sent := i.sent.clear s.now }
    | 0x0200C => s.modTime fun m => { m with steps := m.steps.clear s.now, holds := m.holds.clear s.now }
    | 0x02088 => s.modTime fun m =>
        let k := m.tmrSel.toNat
        { m with timers := match Tab.find m.timers k with | none => m.timers | some x => Tab.put m.timers k { x with ticks := x.ticks.clear s.now } }
    | 0x04044 => s.modCus fun c => { c with crcErr := c.crcErr.clear s.now, resends := c.resends.clear s.now }
    | 0x08008 => s.modQg fun g => { g with badDb := g.badDb.clear s.now, malformed := g.malformed.clear s.now }
    | 0x20004 => s.modStw fun w => { w with peak := w.peak.clear s.now }
    | 0x21018 => s.modPke fun p => { p with outchk := p.outchk.clear s.now, eccCe := p.eccCe.clear s.now }
    | 0x22040 => if s.erw.chSel.toNat < 5 then s.modChan s.erw.chSel.toNat fun c => { c with lost := c.lost.clear s.now } else s
    | 0x28020 => s.modPool fun p => { p with protocol := p.protocol.clear s.now, refused := p.refused.clear s.now }
    | 0x29020 => s.modEmc fun e => { e with ce := e.ce.clear s.now, ue := e.ue.clear s.now }
    | _ => s

/-- What the word at an offset reads as: 0 where no register stands (R506). -/
def State.wordAt (s : State) (off : Nat) : Nat := (s.word off).getD 0

/-- R508: a 4-byte read: the latched bits where the last read latched them, else the current bits. -/
def State.readFour (s : State) (off : Nat) : Nat :=
  match s.gctl.latch with
  | some (low, high) => if off = low + 4 then high else s.wordAt off
  | none => s.wordAt off

/-- R508: what the next read may find latched. -/
def State.latchFor (s : State) (off : Nat) : Option (Nat × Nat) := if is64 off then some (off, s.wordAt (off + 4)) else none

/-- R486, R507: a read of the Control port: the value leaves, and the RC fields of every register that it covers clear. -/
def State.busRead (s : State) (off width : Nat) : State :=
  if width = 4 ∧ off % 4 = 0 then
    let v := s.readFour off
    ((s.clearOnRead off).modGctl fun g => { g with latch := s.latchFor off }).emit (.readData off width v)
  else if width = 8 ∧ off % 8 = 0 then
    let v := s.wordAt off + 2 ^ 32 * (if off + 4 < 2 ^ 19 then s.wordAt (off + 4) else 0)
    (((s.clearOnRead off).clearOnRead (off + 4)).modGctl fun g => { g with latch := none }).emit (.readData off width v)
  else (s.modGctl fun g => { g with latch := none }).emit (.readData off width 0)

/-- RC_READ (R16). -/
def execRcRead (t : Nat) (offset : BitVec 19) (width : Nat) (s : State) := act t s fun s => s.busRead offset.toNat width

/-- LOW_HALF_READ (R508). -/
def execLowHalfRead (t : Nat) (offset : BitVec 19) (s : State) :=
  act t s fun s => if is64 offset.toNat then s.busRead offset.toNat 4 else s

/-! ### Writes (R12 to R14, R507, R509) -/

/-- A half of a 64-bit value replaced. -/
def setLow (old v : Nat) : Nat := old / 2 ^ 32 * 2 ^ 32 + v
def setHigh (old v : Nat) : Nat := old % 2 ^ 32 + 2 ^ 32 * v

/-- A field with a range: a write outside it changes nothing and adds one OPS record. -/
def State.ranged (s : State) (off v field lo hi : Nat) (f : State → State) : State :=
  if lo ≤ field ∧ field ≤ hi then f s else s.opsWrite off v

/-- R14: a write to an RWL field. -/
def State.lockable (s : State) (off v : Nat) (f : State → State) : State := if s.sil.locked then s.opsWrite off v else f s

/-- R516: a write of INT_CTL: REARM. The interrupt looks at its sources when the row ends. -/
def State.rearm (s : State) (v : Nat) : State := if bitOf v 0 then s.modInt fun i => { i with armed := true } else s

/-- GCTL and INT. -/
def State.writeInt (s : State) (off v : Nat) : State :=
  match off with
  | 0x00040 | 0x00044 | 0x00048 | 0x0004C => s.modGctl fun g => { g with scratch := Tab.put g.scratch ((off - 0x40) / 4) (BitVec.ofNat 32 v) }
  | 0x01004 => s.modInt fun i => { i with enable := BitVec.ofNat 16 v &&& 0xFF7F#16 }
  | 0x01008 => s.rearm v
  | 0x01010 => s.lockable off v fun s => s.modInt fun i => { i with msgAddr := BitVec.ofNat 48 (setLow i.msgAddr.toNat v) }
  | 0x01014 => s.lockable off v fun s => s.modInt fun i => { i with msgAddr := BitVec.ofNat 48 (setHigh i.msgAddr.toNat v) }
  | 0x01018 => s.lockable off v fun s => s.modInt fun i => { i with msgData := BitVec.ofNat 32 v }
  | _ => s

/-- TIME, CUS and PWR. -/
def State.writeCus (s : State) (off v : Nat) : State :=
  match off with
  | 0x02080 => s.modTime fun m => { m with tmrSel := BitVec.ofNat 4 v }
  | 0x02090 => s.modTime fun m => { m with lfcSel := BitVec.ofNat 3 v }
  | 0x04008 => s.ranged off v (v % 2 ^ 13) 500 8000 fun s => s.modCus fun c => { c with debounce := BitVec.ofNat 13 v }
  | 0x0400C => s.ranged off v (v % 2 ^ 14) 10 10000 fun s => s.modCus fun c => { c with tadpoleLimit := BitVec.ofNat 14 v }
  | 0x04010 => s.modCus fun c => { c with evt := c.evt.write v s.now }
  | 0x04014 => s.modCus fun c => { c with evtEn := BitVec.ofNat 8 v }
  | 0x04020 => s.modCus fun c => { c with sel := BitVec.ofNat 10 v }
  | 0x04050 => match v % 4 with
    | 1 => s.dcArm 1
    | 2 => s.dcArm 2
    | 3 => s.setUnlock false
    | _ => s
  | 0x04058 => s.ranged off v (v % 2 ^ 6) 1 60 fun s => s.modCus fun c => { c with unlockMin := BitVec.ofNat 6 v }
  | 0x05004 => s.modPwr fun w => { w with evt := w.evt.write v s.now }
  | 0x05008 => s.modPwr fun w => { w with evtEn := BitVec.ofNat 5 v }
  | 0x05010 => s.modPwr fun w => { w with rgSel := BitVec.ofNat 3 v }
  | 0x05020 => s.modPwr fun w => { w with hostOptime := BitVec.ofNat 48 (setLow w.hostOptime.toNat v) }
  | 0x05024 => s.modPwr fun w => { w with hostOptime := BitVec.ofNat 48 (setHigh w.hostOptime.toNat v) }
  | 0x05028 => s.modPwr fun w => { w with hostPcc := BitVec.ofNat 32 v }
  | 0x0502C => s.commitHost (BitVec.ofNat 32 v)
  | _ => s

/-- Bits [11:0] of an admin ring base are ignored. -/
def basePage (v : Nat) : Nat := v / 4096 * 4096

/-- R134: the admin base and message registers ignore writes while ADMIN_EN is 1. -/
def State.adminReg (s : State) (f : Qg → Qg) : State := if s.qg.adminEn then s else s.modQg f

/-- QG, its doorbells, and the selectors of SIL. DEDUCED (log 50): of the block of an existing queue only offsets 0x0 and 0x4
are doorbells; offsets 0x8 and 0xC are read-only, and a write there, with a reserved bit set or not, is ignored as R12
says, without a record. -/
def State.writeQg (s : State) (off v : Nat) : State :=
  if 0x10000 ≤ off then
    let q := (off - 0x10000) / 16
    match off % 16 with
    | 0 => s.sqDoorbell q (BitVec.ofNat 32 v)
    | 4 => s.cqDoorbell q (BitVec.ofNat 32 v)
    | _ => if s.ringExists q then s else s.badDoorbell q 1 v
  else match off with
    | 0x06100 => s.modSil fun x => { x with bindSel := BitVec.ofNat 8 v }
    | 0x06108 => s.modSil fun x => { x with claimKind := BitVec.ofNat 4 v, claimIndex := BitVec.ofNat 6 (v / 256) }
    | 0x08000 => s.writeAdminEn (BitVec.ofNat 32 v)
    | 0x08010 => s.adminReg fun g => { g with adminSqBase := BitVec.ofNat 64 (setLow g.adminSqBase.toNat (basePage v)) }
    | 0x08014 => s.adminReg fun g => { g with adminSqBase := BitVec.ofNat 64 (setHigh g.adminSqBase.toNat v) }
    | 0x08018 => s.adminReg fun g => { g with adminCqBase := BitVec.ofNat 64 (setLow g.adminCqBase.toNat (basePage v)) }
    | 0x0801C => s.adminReg fun g => { g with adminCqBase := BitVec.ofNat 64 (setHigh g.adminCqBase.toNat v) }
    | 0x08020 => s.adminReg fun g => { g with adminMsiAddr := BitVec.ofNat 64 (setLow g.adminMsiAddr.toNat v) }
    | 0x08024 => s.adminReg fun g => { g with adminMsiAddr := BitVec.ofNat 64 (setHigh g.adminMsiAddr.toNat v) }
    | 0x08028 => s.adminReg fun g => { g with adminMsiData := BitVec.ofNat 32 v }
    | 0x08030 => s.modQg fun g => { g with qSel := BitVec.ofNat 12 v }
    | _ => s

/-- STW, PKE and ERW. -/
def State.writeErw (s : State) (off v : Nat) : State :=
  match off with
  | 0x20020 => s.writeMailbox v
  | 0x20030 | 0x20034 | 0x20038 | 0x2003C => s.modStw fun w => { w with args := Tab.put w.args ((off - 0x20030) / 4) (BitVec.ofNat 32 v) }
  | 0x21008 => s.keyClear v
  | 0x21010 => s.modPke fun p => { p with curveSel := BitVec.ofNat 4 v }
  | 0x22004 => s.modErw fun e => { e with evt := e.evt.write v s.now }
  | 0x22008 => s.modErw fun e => { e with evtEn := BitVec.ofNat 6 v }
  | 0x22010 => s.modErw fun e => { e with base := BitVec.ofNat 64 (setLow e.base.toNat v) }
  | 0x22014 => s.modErw fun e => { e with base := BitVec.ofNat 64 (setHigh e.base.toNat v) }
  | 0x22018 => if v % 64 = 0 then s.modErw fun e => { e with size := BitVec.ofNat 32 v } else s.opsWrite off v
  | 0x2201C => s.flushAck v
  | 0x22020 => s.ranged off v (v % 2 ^ 14) 0 10000 fun s => s.modErw fun e => { e with window := BitVec.ofNat 14 v }
  | 0x22030 => s.modErw fun e => { e with chSel := BitVec.ofNat 3 v }
  | 0x22080 => s.writeWinCtl v
  | 0x22088 => s.modErw fun e => { e with cursor := BitVec.ofNat 64 (setLow e.cursor.toNat v) }
  | 0x2208C => s.modErw fun e => { e with cursor := BitVec.ofNat 64 (setHigh e.cursor.toNat v) }
  | _ => s

/-- DET. -/
def State.writeDet (s : State) (off v : Nat) : State :=
  match off with
  | 0x24008 => s.modDet fun d => { d with qSel := BitVec.ofNat 12 v }
  | 0x2400C => s.writeQCtl v
  | 0x24040 => s.modLane 0 fun c => { c with diverged := c.diverged.write (v / 2 ^ 12) s.now }
  | 0x24060 => s.modLane 1 fun c => { c with diverged := c.diverged.write (v / 2 ^ 12) s.now }
  | 0x25000 => s.modDet fun d => { d with seedQueue := BitVec.ofNat 12 v, seedSlot := BitVec.ofNat 4 (v / 65536) }
  | 0x25004 => if bitOf v 0 then s.seedCommit v else if bitOf v 1 then s.seedClear v else s.seedNothing v
  | off =>
    if 0x25010 ≤ off ∧ off < 0x25030 then
      s.modDet fun d => { d with staging := Tab.put d.staging ((off - 0x25010) / 4) (BitVec.ofNat 32 v) }
    else s

/-- R377, R421: a patrol rate written is in force at once, at most 1,000 MB/s while the Steward sheds. -/
def Emc.withPatrol (e : Emc) (shedding : Bool) (v : Nat) : Emc :=
  { e with patrol := BitVec.ofNat 14 v, rate := if e.rate = 0 then 0 else if shedding then min 1000 (v % 2 ^ 14) else v % 2 ^ 14 }

/-- POOL, EMC and the regions. -/
def State.writePool (s : State) (off v : Nat) : State :=
  if 0x30000 ≤ off then
    s.modRegion ((off - 0x30000) / 0x1000) fun g =>
      match off % 0x1000 with
      | 0x004 => { g with fault := g.fault.write v s.now }
      | 0x008 => { g with faultEn := BitVec.ofNat 5 v }
      | _ => g
  else match off with
    | 0x28008 => s.poolRequest v
    | 0x2800C => s.modPool fun p => { p with reqArg := BitVec.ofNat 32 v }
    | 0x28010 => s.modPool fun p => { p with owners := BitVec.ofNat 51 (setLow p.owners.toNat v) }
    | 0x28014 => s.modPool fun p => { p with owners := BitVec.ofNat 51 (setHigh p.owners.toNat v) }
    | 0x28030 => s.modPool fun p => { p with rgSel := BitVec.ofNat 3 v }
    | 0x28040 => s.modPool fun p => { p with tileSel := BitVec.ofNat 13 v }
    | 0x29008 => s.modEmc fun e => { e with pcSel := BitVec.ofNat 9 v }
    | 0x29010 => s.writePcCtl v
    | 0x29014 => s.ranged off v (v % 2 ^ 14) 1000 10000 fun s => s.modEmc fun e => e.withPatrol s.stw.shedding v
    | 0x2901C => if v % 65536 = 0 then s.opsWrite off v else s.modEmc fun e => { e with ceLimit := BitVec.ofNat 16 v }
    | _ => s

/-- A write of a 32-bit word: to a register, or to an offset that holds none (R506). -/
def State.writeWord (s : State) (off v : Nat) : State :=
  if (s.word off).isNone then s.opsWrite off v
  else if off < 0x2000 then s.writeInt off v
  else if off < 0x6000 then s.writeCus off v
  else if off < 0x20000 then s.writeQg off v
  else if off < 0x24000 then s.writeErw off v
  else if off < 0x28000 then s.writeDet off v
  else if off < 0x38000 then s.writePool off v
  else s

/-- R14, R507: an 8-byte write to INT_MSG_ADDR reaches the register whole: once locked, it adds one record. -/
def State.lockedWhole (s : State) (off : Nat) : Bool := off == 0x1010 && s.sil.locked

/-- R486, R507: a write of the Control port. -/
def State.busWrite (s : State) (off width v : Nat) : State :=
  if width = 4 ∧ off % 4 = 0 then s.writeWord off (v % 2 ^ 32)
  else if width = 8 ∧ off % 8 = 0 then
    (if s.lockedWhole off then s.opsWrite off (v % 2 ^ 32)
     else (s.writeWord off (v % 2 ^ 32)).writeWord (off + 4) (v / 2 ^ 32 % 2 ^ 32))
  else s.opsRule 486 (Config.ruleArg 486 s.now)

/-- REGISTER_WRITE (R12). -/
def execRegisterWrite (t : Nat) (offset : BitVec 19) (width : Nat) (value : BitVec 64) (s : State) :=
  act t s fun s => s.busWrite offset.toNat width value.toNat

/-- REARM (R517): a write of INT_CTL. -/
def execRearm (t : Nat) (value : BitVec 32) (s : State) := act t s fun s => s.rearm value.toNat

end Sys2Proof.Machine
end

