-- ==== Sys2Proof/Machine/Debug.lean ====
section
/-!
DEFINITION. The engine's TAP segment (R103, R502).
-/

namespace Sys2Proof.Machine

/-- R68, R103: the memory holds a label: of the matter whose work, key or buffer stands in it. -/
def State.holdsLabel (s : State) : DebugUnit → Bool
  | .tileSram id =>
    !(s.tile id.toNat).keys.isEmpty ||
      ((s.tile id.toNat).role != 0 && s.jobs.any fun j => j.2.running && j.2.stage == (s.tile id.toNat).role)
  | .poolCell r c => (Tab.getD s.pool.used r.toNat []).contains c
  | .enclaveCell c => s.pool.encUsed.contains c || s.pool.dirty.any fun d => d.1 == c
  | .frameMemory _ => s.jobs.any fun j => j.2.running && (j.2.stage == 0x10 || j.2.stage == 0x11)
  | .unsealer => s.jobs.any fun j => !j.2.lanes.isEmpty
  | .keySlot _ => true

/-- R103: an HY_MEM read: labelled contents read as zeros, and so does every key slot; contents without a label are free
(log 68). -/
def State.debugRead (s : State) (u : DebugUnit) (n : Nat) : State :=
  if s.holdsLabel u then s.emit (.scan (zeroBytes n))
  else ({ s with fresh := s.fresh + 1 }).emit (.scan (padTo n (Config.debugBytes s.fresh n)))

/-- R502: the access that the instruction in the segment makes. An HY_MEM write is dropped where the memory holds a label;
elsewhere it changes nothing that any rule reads (log 68). -/
def State.debugAccess (s : State) (a : DebugAccess) : State :=
  match s.cus.tap, a with
  | .hyReg, .regRead off width => s.busRead off.toNat width
  | .hyReg, .regWrite off width v => s.busWrite off.toNat width v.toNat
  | .hyMem, .memRead u n => s.debugRead u n
  | _, _ => s

/-- TAP_INSTRUCTION (R502): a refused instruction loads BYPASS in its place. -/
def execTapInstruction (t : Nat) (scan : TapScan) (s : State) :=
  act t s fun s =>
    (s.modCus fun c => { c with tap := if s.tapAllowed scan.ins then scan.ins else .bypass }).debugAccess scan.access

end Sys2Proof.Machine
end

