-- ==== Sys2Proof/Machine/Live.lean ====
section
/-!
DEFINITION. Live channels (R229 to R234): frame clocks, the re-read of table entries, picture windows, cores, and slices that
leave early.
-/

namespace Sys2Proof.Machine

/-- R230: the period of a frame clock, if a claim holds it. -/
def State.clockPeriod (s : State) (c : Nat) : Option Nat := (s.claimOf 5 c).map Claim.arg

/-- A job's table entries are as `mem` now shows them; what was read before stands behind it. -/
def State.reread (s : State) (j : Nat) (mem : HostMem) : State := s.modJob j fun y => { y with host := mem ++ y.host }

/-- A live job that works: it runs, holds a core, and its matter is not held. -/
def State.liveRun (s : State) (x : Job) : Option Run :=
  match Tab.find s.runs x.run with
  | none => none
  | some r => if x.running && !x.ended && x.clock.isSome && s.mayWork r then some r else none

/-- FRAME_CLOCK_TICK (R230, R231): at a multiple of the claimed period the table entries of the clock's live samples are
read again. -/
def State.frameTick (s : State) (c : Nat) (mem : HostMem) : State :=
  match s.clockPeriod c with
  | none => s
  | some p =>
    if p = 0 ∨ s.now % p ≠ 0 then s
    else ((s.jobs.filter fun j => j.2.clock == some c && (s.liveRun j.2).isSome).map Prod.fst).foldl (fun s j => s.reread j mem) s

/-- FRAME_CLOCK_TICK (R230). -/
def execFrameClockTick (t : Nat) (clock : BitVec 3) (mem : HostMem) (s : State) :=
  act t s fun s => s.frameTick clock.toNat mem

/-- LIVE_TABLE_READ (R231): the re-read every 100 µs. -/
def State.liveRead (s : State) (j k : Nat) (mem : HostMem) : State :=
  match s.job? j with
  | none => s
  | some x => if (s.liveRun x).isSome && (Tab.find x.lanes k).isSome then s.reread j mem else s

/-- LIVE_TABLE_READ (R231). -/
def execLiveTableRead (t : Nat) (job sample : Nat) (mem : HostMem) (s : State) :=
  act t s fun s => s.liveRead job sample mem

/-- The bytes of a live segment that were read at ticks before `t`. -/
def Live.readBy (v : Live) (t : Nat) : Nat := (v.reads.filter fun r => decide (r.1 < t)).foldl (fun n r => max n r.2) 0

/-- R232, R239: what window `v.next` ends with, at tick `t`: the bytes of its picture that count where it is late; none where it is
on time. A read in the tick at which the window ends belongs to the next one. A channel that has lost its core decodes
nothing until an IRAP picture. -/
def liveCut (c : VdecCfg) (core : Bool) (v : Live) (data : Bytes) (t : Nat) : Option Nat :=
  let a := vidArgs c 0 v.late
  let got := v.readBy t
  if !core || (v.resync && !isIrap a v.next (data.take got)) then some 0
  else if pictureRead a v.next (data.take got) then none
  else some got

/-- R232: a live segment after a window has ended: a late picture is noted, and every picture up to it leaves. -/
def Live.close (v : Live) (c : VdecCfg) (cut : Option Nat) (core : Bool) (data : Bytes) (t : Nat) : Live :=
  let late := match cut with | none => v.late | some n => v.late ++ [(v.next, n)]
  { v with next := v.next + 1, late := late,
           resync := v.resync && (!core || !isIrap (vidArgs c 0 v.late) v.next (data.take (v.readBy t))),
           leaving := max v.leaving (v.next + 1), slices := if v.leaving ≤ v.next then 0 else v.slices,
           frames := if v.leaving ≤ v.next then liveFrames c late v.next (data.take (v.readBy t)) else v.frames }

/-- LIVE_WINDOW_END (R232): the window of the next picture ends; what has not been read of it by then is late: it is
concealed and counted, and its frame leaves. Windows that pass in a fence end once it lifts. -/
def State.liveWindow (s : State) (j k : Nat) : State :=
  match s.job? j with
  | none => s
  | some x =>
    match s.liveRun x, Tab.find x.lanes k, x.live, x.clock.bind s.clockPeriod with
    | some _, some l, some v, some p =>
      let t := v.window0 + (v.next + 1) * p
      if s.now < t then s
      else
        let c := vdecCfg x.snap
        let cut := liveCut c x.core.isSome v l.data t
        let s := s.modJob j fun y => { y with live := some (v.close c cut x.core.isSome l.data t) }
        if cut.isSome then s.addNdc x.run else s
    | _, _, _, _ => s

/-- LIVE_WINDOW_END (R232). -/
def execLiveWindowEnd (t : Nat) (job sample : Nat) (s : State) := act t s fun s => s.liveWindow job sample

/-- R234: V-cores switch context at frame boundaries alone: in Basking, during the self-test of a region, and while a Leapfrog
or Fold runs. -/
def State.frameSwitch (s : State) : Bool :=
  s.basking || regionNumbers.any fun r =>
    (s.region r).test == .testing || (s.region r).state == .leaping || (s.region r).state == .folding

/-- R234: the recorded lanes that stand where a V-core may leave them: LIVE_PREEMPT comes at a slice boundary, and where only frame
boundaries count, at one of those. -/
def State.yielding (s : State) : List (Nat × Nat) :=
  s.lanesWhere fun x l => x.stage == 0x10 && x.clock.isNone && !l.cores.isEmpty &&
    (!s.frameSwitch || atFrameEnd (vidArgs (vdecCfg x.snap) 0 []) l.data)

/-- R234: a recorded lane is suspended; its context stays in its frame buffers. -/
def State.suspend (s : State) (p : Nat × Nat) : State :=
  s.modJob p.1 fun x => { x with lanes := match Tab.find x.lanes p.2 with | none => x.lanes | some l => Tab.put x.lanes p.2 { l with cores := [] } }

/-- LIVE_PREEMPT (R234): a live job that waits for a core takes a free one, or that of a recorded job; which of several the spec does
not say: that of the earliest (log 77). -/
def State.livePreempt (s : State) (j : Nat) : State :=
  match s.job? j with
  | none => s
  | some x =>
    if !(s.liveRun x).isSome || !x.wantsCore then s
    else match s.freeCore with
      | some c => s.giveCore j c
      | none => match s.yielding with
        | [] => s
        | p :: _ =>
          let s := s.suspend p
          match s.freeCore with
          | some c => s.giveCore j c
          | none => s

/-- LIVE_PREEMPT (R234). -/
def execLivePreempt (t : Nat) (job : Nat) (s : State) := act t s fun s => s.livePreempt job

/-- LIVE_SLICE_OUT (R233): the rows of the next slice that has been read leave on the route; with the last of its picture, the
record is complete. -/
def State.sliceOut (s : State) (j k : Nat) : State :=
  match s.job? j with
  | none => s
  | some x =>
    match s.liveRun x, Tab.find x.lanes k, x.live with
    | some r, some l, some v =>
      let c := vdecCfg x.snap
      let a := vidArgs c 0 v.late
      if s.outputStalls r j x k || x.core.isNone || v.resync || !pictureBegun a v.leaving l.data then s
      else if v.slices + 1 ≤ slicesRead a v.leaving l.data ∧ ¬ pictureRead a v.leaving l.data then
        s.modJob j fun y => { y with live := some { v with slices := v.slices + 1 } }
      else if pictureRead a v.leaving l.data then
        let v := { v with leaving := v.leaving + 1, slices := 0, frames := liveFrames c v.late v.leaving l.data }
        s.modJob j fun y => { y with live := some v }
      else s
    | _, _, _ => s

/-- LIVE_SLICE_OUT (R233). -/
def execLiveSliceOut (t : Nat) (job sample : Nat) (s : State) := act t s fun s => s.sliceOut job sample

end Sys2Proof.Machine
end

