-- ==== Sys2Proof/Machine/PkEnd.lean ====
section
/-!
DEFINITION. The end of a job of the PK engine (R398 to R401), with what the command that asked for it does next.
-/

namespace Sys2Proof.Machine

/-- R386: the job of an admin command has ended; `aborted` when it has failed twice (R400). -/
def State.pkStep (s : State) (b : Bytes) (step : PkStep) (aborted : Bool) : State :=
  match step with
  | .sign body => s.contextSigned b body aborted
  | .certificate d => s.certificateVerified b d aborted
  | .agree l offer => s.openAgreed b l offer aborted
  | .verify d =>
    match entOp b with
    | 0x08 => s.imageVerified b d aborted
    | 0x0A => s.recordVerified b d aborted
    | 0x10 => s.openVerified b d aborted
    | 0x30 => s.tokenVerified b d aborted
    | _ => s.contextVerified b d aborted

/-- A job ends: its client takes its result. A job that its command has left has none (R402). -/
def State.jobResult (s : State) (j : PkJob) (aborted : Bool) : State :=
  match j.client with
  | .startup => s.endStartup j aborted
  | .manifests => s.endManifest j aborted
  | .host => s.endHostJob j aborted
  | _ =>
    match s.qg.run with
    | some r => match r.wait with
      | .pk step => if j.orphan then s else s.pkStep r.entry step aborted
      | _ => s
    | none => s

/-- PK_JOB_END (R398): never before the job's end time. `corrected` errors of job memory were corrected (R403). -/
def State.pkEnd (s : State) (failed corrected : Nat) : State :=
  match s.pke.running with
  | none => s
  | some j =>
    let stop := if failed = 0 then j.start + j.dur else j.start + 2 * j.dur
    if s.now < stop then s
    else
      let s := if corrected = 0 then s else s.modPke fun p => { p with eccCe := p.eccCe.add 16 corrected s.now }
      let s := s.discardRuns j failed
      (s.jobResult j (decide (2 ≤ failed))).modPke fun p => p.afterJob j

/-- PK_JOB_END (R398). -/
def execPkJobEnd (t : Nat) (runs : PkRuns) (s : State) :=
  act t s fun s => s.pkEnd runs.failed.toNat runs.corrected.toNat

end Sys2Proof.Machine
end

