-- ==== Sys2Proof/Machine/Relock.lean ====
section
/-!
DEFINITION. The return of system timing (R408): a step of GCNT closes every window and fires every comparator that it passes.
-/

namespace Sys2Proof.Machine

/-- The lanes of all jobs, by job and sample. -/
def State.allLanes (s : State) : List (Nat × Nat) := s.jobs.flatMap fun j => j.2.lanes.map fun l => (j.1, l.1)

/-- How many windows of a live segment have ended and are not closed. -/
def State.windowsPast (s : State) (j : Nat) : Nat :=
  match s.job? j with
  | none => 0
  | some x => match x.live, x.clock.bind s.clockPeriod with
    | some v, some p => (s.now - v.window0) / p - v.next
    | _, _ => 0

/-- R231, R410: the windows of a live segment that have ended close in turn. -/
def State.liveWindows (s : State) (p : Nat × Nat) : State :=
  Nat.iterate (fun s => s.liveWindow p.1 p.2) (s.windowsPast p.1) s

/-- R410, R412: every window whose end has come closes: of presence, of dual control and the debug unlock, of the counter
exchange, of budgets, window deadlines, live pictures and Tadpoles, and of Chorus. Windows that only count judge by
the tick of each event. -/
def State.windowsClose (s : State) : State :=
  let s := (List.range 8).foldl State.windowEnd s
  let s := s.dualWindowEnd.unlockExpiry.counterTimeout
  let s := s.allLanes.foldl (fun s p => s.budgetEnd p.1 p.2) s
  let s := (s.jobs.map Prod.fst).foldl State.deadlineEnd s
  let s := s.allLanes.foldl State.liveWindows s
  let s := (s.runs.flatMap fun r => r.2.tadpoles.map fun t => (r.1, t.1)).foldl (fun s p => s.tadpoleLimit p.1 p.2) s
  (s.missingOn 0).missingOn 1

/-- R408, R411: the armed comparators whose count has come fire, the lowest first. -/
def State.comparatorsFire (s : State) : State := (List.range 4).foldl State.fire s

/-- TIMING_RELOCK (R408): a step of GCNT closes and fires what lies in it, in the order of R412. -/
def execTimingRelock (t : Nat) (count : BitVec 64) (s : State) :=
  actStalls t s fun s =>
    if s.time.holdover && !s.time.holding then
      let s' := s.relock count.toNat
      if s.now < count.toNat then s'.windowsClose.comparatorsFire else s'
    else s

end Sys2Proof.Machine
end

