-- ==== Sys2Proof/Machine/Dispatch.lean ====
section
/-! DEFINITION. One arm per command: its meaning, called by name. -/

namespace Sys2Proof.Machine

def exec (i : Instr) (s : State) : Host.Outcome State Fault Refusal :=
  match i with
  | .createQueue t => Sys2Proof.Machine.execCreateQueue t s
  | .destroyQueue t => Sys2Proof.Machine.execDestroyQueue t s
  | .disableQueue t => Sys2Proof.Machine.execDisableQueue t s
  | .queueInvalidate t => Sys2Proof.Machine.execQueueInvalidate t s
  | .loadImage t data => Sys2Proof.Machine.execLoadImage t data s
  | .activateImage t => Sys2Proof.Machine.execActivateImage t s
  | .imageSwitch t => Sys2Proof.Machine.execImageSwitch t s
  | .reloadMicrocode t data => Sys2Proof.Machine.execReloadMicrocode t data s
  | .openMatter t manifest => Sys2Proof.Machine.execOpenMatter t manifest s
  | .closeMatter t => Sys2Proof.Machine.execCloseMatter t s
  | .revokeMatter t => Sys2Proof.Machine.execRevokeMatter t s
  | .loadRingProfile t data => Sys2Proof.Machine.execLoadRingProfile t data s
  | .loadPublicKey t data => Sys2Proof.Machine.execLoadPublicKey t data s
  | .loadDictionary t data => Sys2Proof.Machine.execLoadDictionary t data s
  | .pause t => Sys2Proof.Machine.execPause t s
  | .pauseBoundaryReached t q => Sys2Proof.Machine.execPauseBoundaryReached t q s
  | .saveContext t => Sys2Proof.Machine.execSaveContext t s
  | .restoreContext t data => Sys2Proof.Machine.execRestoreContext t data s
  | .armLaunch t => Sys2Proof.Machine.execArmLaunch t s
  | .launch t n => Sys2Proof.Machine.execLaunch t n s
  | .chorusConfig t => Sys2Proof.Machine.execChorusConfig t s
  | .replayDigest t mem => Sys2Proof.Machine.execReplayDigest t mem s
  | .pkJob t desc operands => Sys2Proof.Machine.execPkJob t desc operands s
  | .sign t => Sys2Proof.Machine.execSign t s
  | .verify t => Sys2Proof.Machine.execVerify t s
  | .keypair t entropy => Sys2Proof.Machine.execKeypair t entropy s
  | .ecdh t => Sys2Proof.Machine.execEcdh t s
  | .curve t => Sys2Proof.Machine.execCurve t s
  | .pkJobEnd t runs => Sys2Proof.Machine.execPkJobEnd t runs s
  | .claim t => Sys2Proof.Machine.execClaim t s
  | .releaseClaim t => Sys2Proof.Machine.execReleaseClaim t s
  | .recorderClear t token => Sys2Proof.Machine.execRecorderClear t token s
  | .recorderFlush t => Sys2Proof.Machine.execRecorderFlush t s
  | .regionOffline t => Sys2Proof.Machine.execRegionOffline t s
  | .regionOnline t result => Sys2Proof.Machine.execRegionOnline t result s
  | .tileRetire t => Sys2Proof.Machine.execTileRetire t s
  | .poolConfig t data => Sys2Proof.Machine.execPoolConfig t data s
  | .runList t q list mem => Sys2Proof.Machine.execRunList t q list mem s
  | .fence t q => Sys2Proof.Machine.execFence t q s
  | .nop t q => Sys2Proof.Machine.execNop t q s
  | .desc t e => Sys2Proof.Machine.execDesc t e s
  | .loadScb t e => Sys2Proof.Machine.execLoadScb t e s
  | .writeReg t e => Sys2Proof.Machine.execWriteReg t e s
  | .start t e => Sys2Proof.Machine.execStart t e s
  | .wait t e => Sys2Proof.Machine.execWait t e s
  | .listEnd t e => Sys2Proof.Machine.execListEnd t e s
  | .stageJobStart t job mem => Sys2Proof.Machine.execStageJobStart t job mem s
  | .jobEnd t job => Sys2Proof.Machine.execJobEnd t job s
  | .sqTailDoorbell t q value => Sys2Proof.Machine.execSqTailDoorbell t q value s
  | .refetch t q value => Sys2Proof.Machine.execRefetch t q value s
  | .cqHeadDoorbell t q value => Sys2Proof.Machine.execCqHeadDoorbell t q value s
  | .entryFetch t q data => Sys2Proof.Machine.execEntryFetch t q data s
  | .completionWrite t q => Sys2Proof.Machine.execCompletionWrite t q s
  | .adminEnWrite t value => Sys2Proof.Machine.execAdminEnWrite t value s
  | .seedCommit t value => Sys2Proof.Machine.execSeedCommit t value s
  | .seedClear t value => Sys2Proof.Machine.execSeedClear t value s
  | .resume t value => Sys2Proof.Machine.execResume t value s
  | .alloc t value => Sys2Proof.Machine.execAlloc t value s
  | .share t value => Sys2Proof.Machine.execShare t value s
  | .release t value => Sys2Proof.Machine.execRelease t value s
  | .free t value => Sys2Proof.Machine.execFree t value s
  | .poolCellGrant t req => Sys2Proof.Machine.execPoolCellGrant t req s
  | .retire t value => Sys2Proof.Machine.execRetire t value s
  | .pcRetireDone t pc lost => Sys2Proof.Machine.execPcRetireDone t pc lost s
  | .enclaveEccError t pc err cell => Sys2Proof.Machine.execEnclaveEccError t pc err cell s
  | .keySlotClear t value => Sys2Proof.Machine.execKeySlotClear t value s
  | .armRecorderClear t value => Sys2Proof.Machine.execArmRecorderClear t value s
  | .armDebugUnlock t value => Sys2Proof.Machine.execArmDebugUnlock t value s
  | .relock t value => Sys2Proof.Machine.execRelock t value s
  | .ident t value => Sys2Proof.Machine.execIdent t value s
  | .selftest t value => Sys2Proof.Machine.execSelftest t value s
  | .stats t value => Sys2Proof.Machine.execStats t value s
  | .hostValuesCommit t value => Sys2Proof.Machine.execHostValuesCommit t value s
  | .flushAck t value => Sys2Proof.Machine.execFlushAck t value s
  | .windowLoad t value => Sys2Proof.Machine.execWindowLoad t value s
  | .rearm t value => Sys2Proof.Machine.execRearm t value s
  | .registerWrite t offset width value => Sys2Proof.Machine.execRegisterWrite t offset width value s
  | .rcRead t offset width => Sys2Proof.Machine.execRcRead t offset width s
  | .lowHalfRead t offset => Sys2Proof.Machine.execLowHalfRead t offset s
  | .presenceAbsent t slot => Sys2Proof.Machine.execPresenceAbsent t slot s
  | .presencePresent t slot => Sys2Proof.Machine.execPresencePresent t slot s
  | .debounceWindowEnd t slot => Sys2Proof.Machine.execDebounceWindowEnd t slot s
  | .erasureEnd t result => Sys2Proof.Machine.execErasureEnd t result s
  | .buttonChange t b pressed => Sys2Proof.Machine.execButtonChange t b pressed s
  | .dualControlAct t => Sys2Proof.Machine.execDualControlAct t s
  | .debugUnlockExpiry t => Sys2Proof.Machine.execDebugUnlockExpiry t s
  | .pwrFailAssert t => Sys2Proof.Machine.execPwrFailAssert t s
  | .vWarnEntry t rail => Sys2Proof.Machine.execVWarnEntry t rail s
  | .vInhibitEntry t rail => Sys2Proof.Machine.execVInhibitEntry t rail s
  | .vInhibitExit t rail => Sys2Proof.Machine.execVInhibitExit t rail s
  | .reset t source => Sys2Proof.Machine.execReset t source s
  | .resetRelease t => Sys2Proof.Machine.execResetRelease t s
  | .startMoultDone t facts => Sys2Proof.Machine.execStartMoultDone t facts s
  | .kCtlDerived t entropy => Sys2Proof.Machine.execKCtlDerived t entropy s
  | .lockWaitExpiry t => Sys2Proof.Machine.execLockWaitExpiry t s
  | .enclaveTestEnd t failed => Sys2Proof.Machine.execEnclaveTestEnd t failed s
  | .regionSelftestEnd t r result => Sys2Proof.Machine.execRegionSelftestEnd t r result s
  | .dieNumberWord t die => Sys2Proof.Machine.execDieNumberWord t die s
  | .countWord t count => Sys2Proof.Machine.execCountWord t count s
  | .timingLost t => Sys2Proof.Machine.execTimingLost t s
  | .timingRelock t count => Sys2Proof.Machine.execTimingRelock t count s
  | .timerTick t j => Sys2Proof.Machine.execTimerTick t j s
  | .frameClockTick t clock mem => Sys2Proof.Machine.execFrameClockTick t clock mem s
  | .liveTableRead t job sample mem => Sys2Proof.Machine.execLiveTableRead t job sample mem s
  | .liveWindowEnd t job sample => Sys2Proof.Machine.execLiveWindowEnd t job sample s
  | .livePreempt t job => Sys2Proof.Machine.execLivePreempt t job s
  | .liveSliceOut t job sample => Sys2Proof.Machine.execLiveSliceOut t job sample s
  | .chunkRead t job sample chunk => Sys2Proof.Machine.execChunkRead t job sample chunk s
  | .sampleStart t job chunk => Sys2Proof.Machine.execSampleStart t job chunk s
  | .sampleRetire t job => Sys2Proof.Machine.execSampleRetire t job s
  | .budgetWindowEnd t job sample => Sys2Proof.Machine.execBudgetWindowEnd t job sample s
  | .winDeadlineEnd t job => Sys2Proof.Machine.execWinDeadlineEnd t job s
  | .encodeSpawn t job => Sys2Proof.Machine.execEncodeSpawn t job s
  | .sealPass t pass => Sys2Proof.Machine.execSealPass t pass s
  | .ciphertextHeaderWrite t region => Sys2Proof.Machine.execCiphertextHeaderWrite t region s
  | .tadpoleLimit t e sample => Sys2Proof.Machine.execTadpoleLimit t e sample s
  | .backlogResume t unit_ => Sys2Proof.Machine.execBacklogResume t unit_ s
  | .sequencerWatchdogExpiry t fault => Sys2Proof.Machine.execSequencerWatchdogExpiry t fault s
  | .microcodeEccError t fault => Sys2Proof.Machine.execMicrocodeEccError t fault s
  | .sramError t tile err moultOk => Sys2Proof.Machine.execSramError t tile err moultOk s
  | .laneParityError t tile moultOk => Sys2Proof.Machine.execLaneParityError t tile moultOk s
  | .generatorParityError t fault => Sys2Proof.Machine.execGeneratorParityError t fault s
  | .leapfrogDone t r => Sys2Proof.Machine.execLeapfrogDone t r s
  | .linkCrcFail t r failure => Sys2Proof.Machine.execLinkCrcFail t r failure s
  | .auditPass t r result => Sys2Proof.Machine.execAuditPass t r result s
  | .foldDone t r => Sys2Proof.Machine.execFoldDone t r s
  | .spineUnitFault t => Sys2Proof.Machine.execSpineUnitFault t s
  | .stewardWatchdogExpiry t => Sys2Proof.Machine.execStewardWatchdogExpiry t s
  | .stewardMemoryError t rom => Sys2Proof.Machine.execStewardMemoryError t rom s
  | .stewardRestartEnd t => Sys2Proof.Machine.execStewardRestartEnd t s
  | .loadWindowEnd t busy => Sys2Proof.Machine.execLoadWindowEnd t busy s
  | .statsSweep t => Sys2Proof.Machine.execStatsSweep t s
  | .scrubOverwrite t cell => Sys2Proof.Machine.execScrubOverwrite t cell s
  | .patrolScrubRead t cell corrected => Sys2Proof.Machine.execPatrolScrubRead t cell corrected s
  | .stackTemperatureReport t stack hot => Sys2Proof.Machine.execStackTemperatureReport t stack hot s
  | .hello t seq payload => Sys2Proof.Machine.execHello t seq payload s
  | .offer t seq payload => Sys2Proof.Machine.execOffer t seq payload s
  | .probeAck t seq payload => Sys2Proof.Machine.execProbeAck t seq payload s
  | .counterAck t seq payload => Sys2Proof.Machine.execCounterAck t seq payload s
  | .counterAckTimeout t => Sys2Proof.Machine.execCounterAckTimeout t s
  | .windowRead t seq payload => Sys2Proof.Machine.execWindowRead t seq payload s
  | .ack t seq payload => Sys2Proof.Machine.execAck t seq payload s
  | .nak t seq payload => Sys2Proof.Machine.execNak t seq payload s
  | .custodyFrameCrcError t type seq => Sys2Proof.Machine.execCustodyFrameCrcError t type seq s
  | .frameResend t seq => Sys2Proof.Machine.execFrameResend t seq s
  | .chorusMessage t lane frame => Sys2Proof.Machine.execChorusMessage t lane frame s
  | .chorusMissingTimeout t lane => Sys2Proof.Machine.execChorusMissingTimeout t lane s
  | .portErrorResponse t txn => Sys2Proof.Machine.execPortErrorResponse t txn s
  | .tapInstruction t scan => Sys2Proof.Machine.execTapInstruction t scan s
  | .flushEnd t => Sys2Proof.Machine.execFlushEnd t s
  | .frameLenExceeded t => Sys2Proof.Machine.execFrameLenExceeded t s
  | .dualControlWindowEnd t => Sys2Proof.Machine.execDualControlWindowEnd t s
  | .vWarnExit t rails => Sys2Proof.Machine.execVWarnExit t rails s
  | .pwrFailDeassert t => Sys2Proof.Machine.execPwrFailDeassert t s
  | .ceWindowEnd t => Sys2Proof.Machine.execCeWindowEnd t s
  | .crcWindowEnd t r => Sys2Proof.Machine.execCrcWindowEnd t r s

end Sys2Proof.Machine
end

