-- ==== Sys2Proof/Safety.lean ====
section
/-!
DEFINITION. The vocabulary of the statements: when a command acts, what a command leaves unchanged, and the
invariant of the engine interrupt.
-/

namespace Sys2Proof.Machine

/-! ### When a command acts -/

/-- The engine is not held in reset (R430), and `u` is its state at the command's tick (R409). -/
def State.actsAt (s : State) (t : Nat) (u : State) : Prop := s.pwr.inReset = false ∧ u = s.tickTo t

/-- R125, R117: at tick `t` the admin entry `b`, of opcode `op`, stands in front, passes its checks, and its command may
run; `u` is the state then, with the entry off the list. -/
def State.takesAdmin (s : State) (t op : Nat) (b : Bytes) (u : State) : Prop :=
  ∃ v, s.actsAt t v ∧ v.qg.run = none ∧ v.stw.restarting = false ∧ v.adminMayRun = true ∧
    (v.faults.halt = false ∨ runsInHalt op = true) ∧ v.qg.todo.head? = some (some b) ∧ v.adminCheck b = none ∧
    entOp b = op ∧ u = v.popAdmin

/-- R116, R117: at tick `t` it is the turn of work queue `q` to have an entry taken, `b`, of opcode `op`, is its next cached
entry, and it passes its checks; `u` is the state then. -/
def State.takesEntry (s : State) (t q op : Nat) (b : Bytes) (u : State) : Prop :=
  s.actsAt t u ∧ q ≠ 0 ∧ u.nextQueue = some q ∧ ((u.queue q).cache.map Cached.entry).head? = some (some b) ∧
    u.faults.halt = false ∧ u.workCheck (u.queue q) b = none ∧ entOp b = op

/-- R141: at tick `t` the list of entry `e` may go on, and `c`, of opcode `op`, is its next command after any NOPs; `r` is the
entry's run and `u` the state then, with those NOPs done. -/
def State.takesCommand (s : State) (t e op : Nat) (r : Run) (c : ListCmd) (u : State) : Prop :=
  ∃ v r₀ cs n, s.actsAt t v ∧ Tab.find v.runs e = some r₀ ∧ v.mayWork r₀ = true ∧ r₀.ended = false ∧
    dropNops r₀.cmds r₀.pos = (c :: cs, n) ∧ c.op = op ∧ r = { r₀ with cmds := c :: cs, pos := n } ∧
    u = { v with runs := Tab.put v.runs e r }

/-- R76: a frame of the panel reaches a receiver that runs (R497), and repeats no frame that it acted on. -/
def State.hears (s : State) (type seq : Nat) (p : Bytes) : Prop :=
  s.pwr.phase ≠ .moult ∧ ∀ x, s.cus.rxLast = some x → ¬ (x.seq = seq ∧ x.crc = frameCrc type seq p)

/-- R76: the state once a frame is answered, with ACK for reason 0 and else with NAK; the receiver keeps the frame's SEQ
and CRC and the answer. -/
def State.answered (s : State) (type seq : Nat) (p : Bytes) (reason : Nat) : State :=
  let answer := leBytes 1 seq ++ if reason = 0 then [] else leBytes 1 reason
  let ans := if reason = 0 then 0x0E else 0x0F
  { s with
    outputs := .custody ans s.cus.txSeq answer :: s.outputs,
    cus := { s.cus with
      txSeq := (s.cus.txSeq + 1) % 256, lastNak := if reason = 0 then s.cus.lastNak else reason,
      rxLast := some { seq := seq, crc := frameCrc type seq p, ansType := ans, answer := answer } } }

/-- R456, R459: a Fold of the region begins at once: the region is in service, the Steward runs, fewer than two regions fold
and, with this one, no more than three are out; the Basking phase, whose own region folds otherwise, is over. -/
def State.mayFold (s : State) (r : Nat) : Prop :=
  s.inService r = true ∧ s.stw.restarting = false ∧ s.foldingCount < 2 ∧ s.outCount + s.foldingCount < 3 ∧
    s.pwr.phase ≠ .basking

/-- R16: the RC fields of the words that are RC fields throughout: of the global blocks, of a region and of a tile's status
block. -/
def State.rcFields (s : State) (off : Nat) : List Rc :=
  if 0x30000 ≤ off ∧ off < 0x38000 then
    let g := s.region ((off - 0x30000) / 0x1000)
    match off % 0x1000 with
    | 0x00C => [g.crc, g.resends]
    | 0x810 => [g.sealMismatch, g.sealMarked, g.sealDropped]
    | 0x814 => [g.sealKeyload]
    | _ => []
  else if 0x40000 ≤ off ∧ off < 0x50000 then
    let t := s.tile ((off - 0x40000) / 0x100)
    if off % 0x100 = 4 then [t.ce, t.mismatch, t.wd, t.retry] else []
  else match off with
    | 0x0101C => [s.intb.sent]
    | 0x0200C => [s.time.steps, s.time.holds]
    | 0x04044 => [s.cus.crcErr, s.cus.resends]
    | 0x08008 => [s.qg.badDb, s.qg.malformed]
    | 0x21018 => [s.pke.outchk, s.pke.eccCe]
    | 0x28020 => [s.pool.protocol, s.pool.refused]
    | 0x29020 => [s.emc.ce, s.emc.ue]
    | _ => []

/-! ### Frames -/

/-- The parts of the state. -/
inductive Part where
  | gctl | intb | time | pwr | regions | tiles | faults | stw | erw | pke | cus | sil | qg | det | pool | emc | runs
  | jobs | nextJob | profiles | dicts | dictSlots | nextDict | keyCache | seals | nextSeal | dealt | outputs | fresh
  | pending
deriving DecidableEq, Repr

/-- Two states agree in a part. -/
def Part.same (s t : State) : Part → Prop
  | .gctl => t.gctl = s.gctl
  | .intb => t.intb = s.intb
  | .time => t.time = s.time
  | .pwr => t.pwr = s.pwr
  | .regions => t.regions = s.regions
  | .tiles => t.tiles = s.tiles
  | .faults => t.faults = s.faults
  | .stw => t.stw = s.stw
  | .erw => t.erw = s.erw
  | .pke => t.pke = s.pke
  | .cus => t.cus = s.cus
  | .sil => t.sil = s.sil
  | .qg => t.qg = s.qg
  | .det => t.det = s.det
  | .pool => t.pool = s.pool
  | .emc => t.emc = s.emc
  | .runs => t.runs = s.runs
  | .jobs => t.jobs = s.jobs
  | .nextJob => t.nextJob = s.nextJob
  | .profiles => t.profiles = s.profiles
  | .dicts => t.dicts = s.dicts
  | .dictSlots => t.dictSlots = s.dictSlots
  | .nextDict => t.nextDict = s.nextDict
  | .keyCache => t.keyCache = s.keyCache
  | .seals => t.seals = s.seals
  | .nextSeal => t.nextSeal = s.nextSeal
  | .dealt => t.dealt = s.dealt
  | .outputs => t.outputs = s.outputs
  | .fresh => t.fresh = s.fresh
  | .pending => t.pending = s.pending

/-- Nothing but the listed parts differs. -/
def State.changesOnly (ps : List Part) (s t : State) : Prop := ∀ p : Part, p ∉ ps → p.same s t

/-- What any command may change beside its own effect: GCNT moves on (R407), and the engine interrupt may send its
message (R517). -/
def always : List Part := [.time, .intb, .outputs]

/-- R59: a reload that waits for its active banks to be free ends at a row of the admin queue, with one AUDIT record (R64)
and what it changes; these parts are what that end may change beside the queue. -/
def State.reloadParts (s : State) : List Part :=
  match s.waiting with
  | some (.reload _) => [.pwr, .erw, .sil]
  | _ => []

/-! ### Invariants -/

/-- R517: while the vector is armed and has an address, no enabled source is up: one that was has sent the message
and disarmed it. -/
def State.interruptQuiet (s : State) : Prop :=
  s.intb.armed = true → s.intb.msgAddr &&& ~~~3#48 ≠ 0 → s.sources &&& s.intb.enable = 0

end Sys2Proof.Machine

namespace Sys2Proof

/-- Reset holds the engine: its reset sources and its release alone act (R430). -/
def Instr.actsInReset : Instr → Bool
  | .reset _ _ | .resetRelease _ | .pwrFailAssert _ | .pwrFailDeassert _ => true
  | _ => false

end Sys2Proof
end

