-- ==== Sys2Proof/Certificates/Slice0/Obligations.lean ====
section
/-!
DEFINITION. The statements for the provers: what each command does, from the numbered rules, and what it leaves unchanged. -/

open Sys2Proof Sys2Proof.Machine

/-! ### The engine as a whole -/

/-- A step is the command at the front of the queue, run on the state with the queue's rest; with no command waiting
the engine idles, which is the model's choice (log 5). -/
def Obligations.StepRunsFrontCommand : Prop :=
  (∀ (s : State) (c : Instr) (cs : List Instr), s.pending = c :: cs → step s = exec c (s.withPending cs)) ∧
  ∀ s : State, s.pending = [] → step s = .next s

/-- No command stops the engine: every step answers a next state (log 1). -/
def Obligations.EveryStepAnswers : Prop := ∀ s : State, ∃ t, step s = .next t

/-- R517: in every state that a step reaches, an armed vector with an address has no enabled source up. -/
def Obligations.StepKeepsInterruptQuiet : Prop :=
  ∀ s t : State, s.interruptQuiet → step s = .next t → t.interruptQuiet

/-- The state after reset satisfies the invariant of the engine interrupt. -/
def Obligations.ResetIsInterruptQuiet : Prop := State.reset.interruptQuiet

/-- R430: while reset holds the engine, every command but its reset sources and its release leaves the state as it
is. -/
def Obligations.ResetHoldsTheEngine : Prop :=
  ∀ (s : State) (c : Instr), s.pwr.inReset = true → c.actsInReset = false → exec c s = .next s

/-- R513, R529, R431: the state in the first T-cycle after reset is released: phase MOULT, the reset values of the
register tables, and nothing loaded. Every command that enters reset leaves exactly these values in every register but
PWR_STAT's cause. -/
def Obligations.ResetValues : Prop :=
  State.reset.pwr.phase = .moult ∧ State.reset.time.gcnt = 0 ∧ State.reset.time.locked = false ∧
  State.reset.intb.armed = true ∧ State.reset.intb.enable = 0#16 ∧ State.reset.intb.msgAddr = 0#48 ∧
  State.reset.cus.debounce = 2000#13 ∧ State.reset.cus.tadpoleLimit = 1000#14 ∧ State.reset.cus.unlockMin = 15#6 ∧
  State.reset.cus.present = 0#8 ∧ State.reset.cus.dbgUnlocked = false ∧ State.reset.erw.window = 1000#14 ∧
  State.reset.emc.patrol = 10000#14 ∧ State.reset.emc.ceLimit = 64#16 ∧
  State.reset.sil.disabled = BitVec.allOnes 64 ∧ State.reset.sil.locked = false ∧ State.reset.sil.staged = none ∧
  State.reset.sil.active = none ∧ State.reset.sil.claims = [] ∧ State.reset.qg.adminEn = false ∧
  (∀ q, (State.reset.queue q).state = .absent) ∧ (∀ l, (State.reset.label l).state = .free) ∧
  State.reset.profiles = [] ∧ State.reset.dictSlots = [] ∧ State.reset.keyCache = [] ∧ State.reset.pke.keys = [] ∧
  State.reset.pool.buffers = [] ∧ State.reset.runs = [] ∧ State.reset.pending = [] ∧
  ∀ (s : State) (t : Nat) (x : ResetSource), ∃ u : State, exec (.reset t x) s = .next u ∧
    u.pwr = { State.reset.pwr with
      inReset := true, pf := s.pwr.pf,
      resetCause := match x with | .die => 1 | .rails _ => 2,
      resetRail := match x with | .die => 0#4 | .rails m => m } ∧
    Part.same State.reset u .gctl ∧ Part.same State.reset u .intb ∧ Part.same State.reset u .time ∧
    Part.same State.reset u .regions ∧ Part.same State.reset u .tiles ∧ Part.same State.reset u .faults ∧
    Part.same State.reset u .stw ∧ Part.same State.reset u .erw ∧ Part.same State.reset u .pke ∧
    Part.same State.reset u .cus ∧ Part.same State.reset u .sil ∧ Part.same State.reset u .qg ∧
    Part.same State.reset u .det ∧ Part.same State.reset u .pool ∧ Part.same State.reset u .emc ∧
    Part.same State.reset u .runs ∧ Part.same State.reset u .jobs ∧ Part.same State.reset u .profiles ∧
    Part.same State.reset u .dicts ∧ Part.same State.reset u .dictSlots ∧ Part.same State.reset u .keyCache ∧
    Part.same State.reset u .seals ∧ u.outputs = s.outputs ∧ u.pending = s.pending

/-! ### Registers -/

/-- R12, R16, R507: a 4-byte read of a register answers its value, or the bits that the read before it latched (R508),
and leaves the state as it was but for the latch and the register's RC fields. A read of a word of RC fields clears
each of them but those that the engine set in the same tick, and the word then reads as 0 when it set none: the words
that are RC fields throughout, of the global blocks, of a region and of a tile's status block. A field that the engine
counts up in the tick of a read answers its value before that count, and keeps it. -/
def Obligations.RegisterRead : Prop :=
  (∀ (s u : State) (t : Nat) (off : BitVec 19), s.actsAt t u → off.toNat % 4 = 0 →
      exec (.rcRead t off 4) s = .next
        (({ u.clearOnRead off.toNat with
            gctl := { (u.clearOnRead off.toNat).gctl with
              latch := if is64 off.toNat then some (off.toNat, u.wordAt (off.toNat + 4)) else none } }).emit
          (.readData off.toNat 4
            (match u.gctl.latch with
             | some (low, high) => if off.toNat = low + 4 then high else u.wordAt off.toNat
             | none => u.wordAt off.toNat))).intPoll) ∧
  (∀ (u : State) (off : Nat),
    (off ∈ [0x0101C, 0x0200C, 0x04044, 0x08008, 0x21018, 0x28020, 0x29020] ∨
     (∃ r o, r < 8 ∧ o ∈ [0x00C, 0x810, 0x814] ∧ off = 0x30000 + 0x1000 * r + o) ∨
     (∃ i, i < 256 ∧ i % 16 < 9 ∧ off = 0x40000 + 0x100 * i + 4)) →
    u.rcFields off ≠ [] ∧
    (u.clearOnRead off).rcFields off = (u.rcFields off).map (fun r => if r.tick = u.now then r else {}) ∧
    ((∀ r ∈ u.rcFields off, r.tick ≠ u.now) → (u.clearOnRead off).wordAt off = 0)) ∧
  (∀ (r : Rc) (w n now : Nat), (r.add w n now).read now = r.read now ∧ (r.add w n now).clear now = r.add w n now ∧
    ∀ t, t ≠ now → (r.add w n now).read t = min (r.val + n) (2 ^ w - 1))

/-- R508: a 4-byte read of a 64-bit register's low half answers it and latches its high half; the next read, if it is
that of the high half, returns the latched bits whatever the register then holds, and any other read of a high half
the current bits. -/
def Obligations.LowHalfLatches : Prop :=
  (∀ (s u : State) (t : Nat) (off : BitVec 19), s.actsAt t u → is64 off.toNat = true → off.toNat % 4 = 0 →
    ∃ v : State, exec (.lowHalfRead t off) s = .next v.intPoll ∧
      v.outputs = .readData off.toNat 4 (u.readFour off.toNat) :: u.outputs ∧
      v.gctl.latch = some (off.toNat, u.wordAt (off.toNat + 4))) ∧
  (∀ (s u : State) (t low high : Nat) (off : BitVec 19), s.actsAt t u → u.gctl.latch = some (low, high) →
    off.toNat = low + 4 → off.toNat % 4 = 0 →
    ∃ v : State, exec (.rcRead t off 4) s = .next v.intPoll ∧ v.outputs = .readData off.toNat 4 high :: u.outputs) ∧
  (∀ (s u : State) (t : Nat) (off : BitVec 19), s.actsAt t u → off.toNat % 4 = 0 →
    (∀ low high, u.gctl.latch = some (low, high) → off.toNat ≠ low + 4) →
    ∃ v : State, exec (.rcRead t off 4) s = .next v.intPoll ∧
      v.outputs = .readData off.toNat 4 (u.wordAt off.toNat) :: u.outputs)

/-- R506: an offset that holds no register reads as zero; a write to it changes nothing and adds one OPS record with
code 0x0201; a doorbell block of a queue that does not exist follows R109. The status blocks of tile numbers that name
no tile (R5) hold no register. -/
def Obligations.EmptyOffsets : Prop :=
  (∀ (s u : State) (t : Nat) (off : BitVec 19), s.actsAt t u → off.toNat % 4 = 0 → u.word off.toNat = none →
    (∀ low high, u.gctl.latch = some (low, high) → off.toNat ≠ low + 4) →
    ∃ v : State, exec (.rcRead t off 4) s = .next v.intPoll ∧ v.outputs = .readData off.toNat 4 0 :: u.outputs) ∧
  (∀ (s u : State) (t : Nat) (off : BitVec 19) (v : BitVec 64), s.actsAt t u → off.toNat % 4 = 0 →
    u.word off.toNat = none →
    exec (.registerWrite t off 4 v) s = .next
      (u.record 0 0x0201 1 (leBytes 4 off.toNat ++ leBytes 4 (v.toNat % 2 ^ 32))).intPoll) ∧
  (∀ (s u : State) (t : Nat) (q : BitVec 12) (off : BitVec 19) (k : Nat) (v : BitVec 64), s.actsAt t u → k < 4 →
    off.toNat = 0x10000 + 16 * q.toNat + 4 * k → u.ringExists q.toNat = false →
    exec (.registerWrite t off 4 v) s = .next
      ({ u with qg := { u.qg with badDb := u.qg.badDb.add 16 1 u.now } }.record 0 0x0202 1
        (leBytes 2 q.toNat ++ leBytes 1 1 ++ leBytes 4 (v.toNat % 2 ^ 32))).intPoll) ∧
  (∀ (u : State) (i k : Nat), i < 256 → 9 ≤ i % 16 → k < 64 → u.word (0x40000 + 0x100 * i + 4 * k) = none)

/-- R12, R14, R15: what writes do, by access code: a register of code RW takes the value and reads it back; a 1
written to a W1C bit clears it unless the engine set it in the same tick, and a 0 leaves it; a read-only register
keeps its value; a value outside a field's range changes nothing and adds one OPS record. -/
def Obligations.RegisterWrite : Prop :=
  (∀ (s u : State) (t : Nat) (i : Nat) (off : BitVec 19) (v : BitVec 64), s.actsAt t u → i < 4 →
    off.toNat = 0x40 + 4 * i →
    ∃ w : State, exec (.registerWrite t off 4 v) s = .next w.intPoll ∧
      w = { u with gctl := { u.gctl with scratch := Tab.put u.gctl.scratch i (BitVec.ofNat 32 (v.toNat % 2 ^ 32)) } } ∧
      w.wordAt off.toNat = v.toNat % 2 ^ 32) ∧
  (∀ (s u : State) (t : Nat) (v : BitVec 64), s.actsAt t u →
    ∃ e : W1c 8, exec (.registerWrite t 0x04010#19 4 v) s = .next { u with cus := { u.cus with evt := e } }.intPoll ∧
      ∀ i, e.bits.getLsbD i = (u.cus.evt.bits.getLsbD i &&
        (!v.getLsbD i || (decide (u.cus.evt.tick = u.now) && u.cus.evt.now.getLsbD i)))) ∧
  (∀ (s u : State) (t : Nat) (v : BitVec 64), s.actsAt t u →
    exec (.registerWrite t 0x00000#19 4 v) s = .next u.intPoll) ∧
  (∀ (s u : State) (t : Nat) (v : BitVec 64), s.actsAt t u →
    exec (.registerWrite t 0x04008#19 4 v) s = .next
      (if 500 ≤ v.toNat % 2 ^ 13 ∧ v.toNat % 2 ^ 13 ≤ 8000 then
        { u with cus := { u.cus with debounce := BitVec.ofNat 13 v.toNat } }
       else u.record 0 0x0201 1 (leBytes 4 0x04008 ++ leBytes 4 (v.toNat % 2 ^ 32))).intPoll)

/-- R14: a write to an RWL field after it has locked changes nothing and adds one record to the OPS channel; a reset
unlocks the field. Before the lock the write sets the field. The RWL fields are those of INT_MSG_ADDR, which an 8-byte
write reaches whole (R507), and INT_MSG_DATA. -/
def Obligations.LockedFields : Prop :=
  (∀ (s u : State) (t : Nat) (off : BitVec 19) (v : BitVec 64), s.actsAt t u →
    off.toNat ∈ [0x01010, 0x01014, 0x01018] → u.sil.locked = true →
    exec (.registerWrite t off 4 v) s = .next
      (u.record 0 0x0201 1 (leBytes 4 off.toNat ++ leBytes 4 (v.toNat % 2 ^ 32))).intPoll) ∧
  (∀ (s u : State) (t : Nat) (v : BitVec 64), s.actsAt t u → u.sil.locked = false →
    exec (.registerWrite t 0x01018#19 4 v) s = .next
      { u with intb := { u.intb with msgData := BitVec.ofNat 32 (v.toNat % 2 ^ 32) } }.intPoll) ∧
  (∀ (s u : State) (t : Nat) (v : BitVec 64), s.actsAt t u →
    exec (.registerWrite t 0x01010#19 8 v) s = .next
      (if u.sil.locked = true then u.record 0 0x0201 1 (leBytes 4 0x01010 ++ leBytes 4 (v.toNat % 2 ^ 32))
       else { u with intb := { u.intb with msgAddr := BitVec.ofNat 48 v.toNat } }).intPoll) ∧
  (∀ (s w : State) (t : Nat) (x : ResetSource), exec (.reset t x) s = .next w → w.sil.locked = false)

/-- R517: REARM sets ARMED; when an enabled source is up and the vector has an address, the message leaves at once,
ARMED clears again and SENT counts it; with no address nothing is sent and ARMED stays set. -/
def Obligations.Rearm : Prop :=
  (∀ (s u : State) (t : Nat) (v : BitVec 32), s.actsAt t u → bitOf v.toNat 0 = true →
    u.intb.msgAddr &&& ~~~3#48 ≠ 0 → u.sources &&& u.intb.enable ≠ 0 →
    exec (.rearm t v) s = .next
      { u with
        outputs := .message (u.intb.msgAddr &&& ~~~3#48).toNat u.intb.msgData.toNat :: u.outputs,
        intb := { u.intb with armed := false, sent := u.intb.sent.add 32 1 u.now } }) ∧
  (∀ (s u : State) (t : Nat) (v : BitVec 32), s.actsAt t u → bitOf v.toNat 0 = true →
    (u.intb.msgAddr &&& ~~~3#48 = 0 ∨ u.sources &&& u.intb.enable = 0) →
    exec (.rearm t v) s = .next { u with intb := { u.intb with armed := true } })

/-! ### Work queues -/

/-- R109: the engine ignores these doorbell writes; each adds 1 to QG_ERR.BAD_DB and one OPS record with code 0x0202
whose reason is the number of the first condition that the write meets. A read of a block whose queue does not exist
returns zero. -/
def Obligations.IgnoredDoorbells : Prop :=
  (∀ (s u : State) (t : Nat) (q : BitVec 12) (v : BitVec 32), s.actsAt t u →
    let x := u.queue q.toNat
    let reason :=
      if (q = 0#12 ∧ u.qg.adminEn = false) ∨ (q ≠ 0#12 ∧ x.state = .absent) then 1
      else if 2 ^ x.logSize ≤ v.toNat % 2 ^ 16 then 2
      else if v.toNat / 2 ^ 16 % 2 ^ 14 ≠ 0 ∨ v.toNat / 2 ^ 31 % 2 = 1 then 3
      else if q ≠ 0#12 ∧ (x.state = .disabling ∨ x.state = .disabled) then 4
      else 0
    reason ≠ 0 →
    exec (if v.toNat / 2 ^ 30 % 2 = 1 then .refetch t q v else .sqTailDoorbell t q v) s = .next
      ({ u with qg := { u.qg with badDb := u.qg.badDb.add 16 1 u.now } }.record 0 0x0202 1
        (leBytes 2 q.toNat ++ leBytes 1 reason ++ leBytes 4 v.toNat)).intPoll) ∧
  (∀ (s u : State) (t : Nat) (q : BitVec 12) (v : BitVec 32), s.actsAt t u →
    let x := u.queue q.toNat
    let reason :=
      if (q = 0#12 ∧ u.qg.adminEn = false) ∨ (q ≠ 0#12 ∧ x.state = .absent) then 1
      else if 2 ^ x.logSize ≤ v.toNat % 2 ^ 16 then 2
      else if v.toNat / 2 ^ 16 ≠ 0 then 3
      else if q ≠ 0#12 ∧ x.state = .disabled then 4
      else if (x.cqTail + 2 ^ x.logSize - x.cqHead) % 2 ^ x.logSize <
          (v.toNat % 2 ^ 16 + 2 ^ x.logSize - x.cqHead) % 2 ^ x.logSize then 5
      else 0
    reason ≠ 0 →
    exec (.cqHeadDoorbell t q v) s = .next
      ({ u with qg := { u.qg with badDb := u.qg.badDb.add 16 1 u.now } }.record 0 0x0202 1
        (leBytes 2 q.toNat ++ leBytes 1 reason ++ leBytes 4 v.toNat)).intPoll) ∧
  (∀ (s u : State) (t : Nat) (q : BitVec 12) (off : BitVec 19) (v : BitVec 64), s.actsAt t u →
    (off.toNat = 0x10008 + 16 * q.toNat ∨ off.toNat = 0x1000C + 16 * q.toNat) →
    (if q = 0#12 then u.qg.adminEn = false else (u.queue q.toNat).state = .absent) →
    exec (.registerWrite t off 4 v) s = .next
      ({ u with qg := { u.qg with badDb := u.qg.badDb.add 16 1 u.now } }.record 0 0x0202 1
        (leBytes 2 q.toNat ++ leBytes 1 1 ++ leBytes 4 (v.toNat % 2 ^ 32))).intPoll) ∧
  (∀ (u : State) (q k : Nat), q < 4096 → k < 4 →
    (if q = 0 then u.qg.adminEn = false else (u.queue q).state = .absent) →
    u.wordAt (0x10000 + 16 * q + 4 * k) = 0)

/-- R108, R112, R132: a doorbell that the engine accepts. A TAIL write sets the tail and keeps what R131 and R94 ask
of the tick of the write, and with REFETCH drops every untaken cached entry in the same write; a CQ_HEAD write moves
CQ head and re-arms the vector, and when a completion behind the new head lacks NO_IRQ the message leaves at once and
the vector disarms again. -/
def Obligations.AcceptedDoorbells : Prop :=
  (∀ (s u : State) (t : Nat) (q : BitVec 12) (v : BitVec 32), s.actsAt t u → q ≠ 0#12 →
    (u.queue q.toNat).state = .enabled → v.toNat < 2 ^ (u.queue q.toNat).logSize → v.toNat < 2 ^ 16 →
    exec (.sqTailDoorbell t q v) s = .next
      (u.modQueue q.toNat fun x =>
        { x with
          sqTail := v.toNat, tailTick := u.now,
          tailWas := if x.tailTick = u.now ∧ x.tailWords ≠ [] then x.tailWas else x.sqTail,
          tailWords := if x.tailTick = u.now then x.tailWords ++ [v.toNat] else [v.toNat],
          eraseTail := if x.eraseTick = some u.now ∧ v.toNat ≠ x.sqHead then some v.toNat else x.eraseTail }).intPoll) ∧
  (∀ (s u : State) (t : Nat) (q : BitVec 12) (v : BitVec 32), s.actsAt t u → q ≠ 0#12 →
    (u.queue q.toNat).state = .enabled → 2 ^ 30 ≤ v.toNat → v.toNat - 2 ^ 30 < 2 ^ (u.queue q.toNat).logSize →
    v.toNat - 2 ^ 30 < 2 ^ 16 →
    exec (.refetch t q v) s = .next
      (u.modQueue q.toNat fun x =>
        { x with
          sqTail := v.toNat - 2 ^ 30, cache := [], tailTick := u.now,
          tailWas := if x.tailTick = u.now ∧ x.tailWords ≠ [] then x.tailWas else x.sqTail,
          tailWords := if x.tailTick = u.now then x.tailWords ++ [v.toNat] else [v.toNat],
          eraseTail := if x.eraseTick = some u.now ∧ v.toNat - 2 ^ 30 ≠ x.sqHead then some (v.toNat - 2 ^ 30)
            else x.eraseTail }).intPoll) ∧
  (∀ (s u : State) (t : Nat) (v : BitVec 32), s.actsAt t u → u.qg.adminEn = true →
    v.toNat < 2 ^ (u.queue 0).logSize → v.toNat < 2 ^ 16 →
    exec (.sqTailDoorbell t 0#12 v) s = .next
      (u.modQueue 0 fun x =>
        { x with
          sqTail := v.toNat, tailTick := u.now,
          tailWas := if x.tailTick = u.now ∧ x.tailWords ≠ [] then x.tailWas else x.sqTail,
          tailWords := if x.tailTick = u.now then x.tailWords ++ [v.toNat] else [v.toNat],
          eraseTail := if x.eraseTick = some u.now ∧ v.toNat ≠ x.sqHead then some v.toNat else x.eraseTail }).intPoll) ∧
  (∀ (s u : State) (t : Nat) (q : BitVec 12) (v : BitVec 32), s.actsAt t u → q ≠ 0#12 →
    ((u.queue q.toNat).state = .enabled ∨ (u.queue q.toNat).state = .disabling) →
    v.toNat < 2 ^ (u.queue q.toNat).logSize → v.toNat < 2 ^ 16 →
    (v.toNat + 2 ^ (u.queue q.toNat).logSize - (u.queue q.toNat).cqHead) % 2 ^ (u.queue q.toNat).logSize ≤
      ((u.queue q.toNat).cqTail + 2 ^ (u.queue q.toNat).logSize - (u.queue q.toNat).cqHead) %
        2 ^ (u.queue q.toNat).logSize →
    let x := u.queue q.toNat
    let moved := (v.toNat + 2 ^ x.logSize - x.cqHead) % 2 ^ x.logSize
    ∃ w : State, exec (.cqHeadDoorbell t q v) s = .next w.intPoll ∧
      (w.queue q.toNat).cqHead = v.toNat ∧ (w.queue q.toNat).unread = x.unread.drop moved ∧
      (if false ∈ x.unread.drop moved then
        (w.queue q.toNat).armed = false ∧ w.outputs = .message x.msiAddr x.msiData :: u.outputs
       else (w.queue q.toNat).armed = true ∧ w.outputs = u.outputs))

/-- R132: a completion ring never holds an unread completion without NO_IRQ while its vector is armed and silent:
CREATE_QUEUE, COMPLETION_WRITE and the CQ_HEAD doorbell keep it for every work queue. -/
def Obligations.UnreadNeverSilent : Prop :=
  (∀ b ref, ¬ ((newQueue b ref).armed = true ∧ false ∈ (newQueue b ref).unread)) ∧
  (∀ (u : State) (q p : Nat) (c : Compl), q ≠ 0 → p ≠ 0 →
    ¬ ((u.queue p).armed = true ∧ false ∈ (u.queue p).unread) →
    ¬ (((u.writeCompl q c).queue p).armed = true ∧ false ∈ ((u.writeCompl q c).queue p).unread)) ∧
  (∀ (s w : State) (t p : Nat) (q : BitVec 12) (v : BitVec 32), p ≠ 0 →
    ¬ ((s.queue p).armed = true ∧ false ∈ (s.queue p).unread) → exec (.cqHeadDoorbell t q v) s = .next w →
    ¬ ((w.queue p).armed = true ∧ false ∈ (w.queue p).unread))

/-- R111, R118, R129: ENTRY_FETCH puts the bytes read into the entry cache, from where an admin entry is taken at once
(R125); FENCE and NOP, once taken, wait for their completions, SUCCESS, and SQ head moves past them; a FENCE holds its
queue. -/
def Obligations.EntriesFetchedAndTaken : Prop :=
  (∀ (s u : State) (t : Nat) (q : BitVec 12) (d : Bytes), s.actsAt t u → q ≠ 0#12 →
    ((u.queue q.toNat).state = .enabled ∨ (u.queue q.toNat).state = .disabling) →
    (u.label (u.queue q.toNat).label).state = .opened → (u.queue q.toNat).cache.length < 16 →
    (u.queue q.toNat).cache.length < (u.queue q.toNat).posted →
    exec (.entryFetch t q d) s = .next
      (u.modQueue q.toNat fun x => { x with cache := x.cache ++ [{ entry := some d, stamp := u.sil.nextGen }] }).intPoll) ∧
  (∀ (s u : State) (t : Nat) (d : Bytes), s.actsAt t u → u.qg.adminEn = true → u.qg.admin.state = .enabled →
    u.qg.admin.cache = [] → 0 < u.qg.admin.posted → u.qg.admin.cqFull = false → u.qg.admin.stuck = false →
    exec (.entryFetch t 0#12 d) s = .next
      { u with qg := { u.qg with
          todo := u.qg.todo ++ [some d], admin := { u.qg.admin with sqHead := (u.qg.admin.sqHead + 1) % 256 } } }.intPoll) ∧
  (∀ (s u : State) (t : Nat) (q : BitVec 12) (b : Bytes), s.takesEntry t q.toNat 0x82 b u →
    exec (.fence t q) s = .next (u.takeFront q.toNat b true (some (complOf b 0 0))).intPoll) ∧
  (∀ (s u : State) (t : Nat) (q : BitVec 12) (b : Bytes), s.takesEntry t q.toNat 0x83 b u →
    exec (.nop t q) s = .next (u.takeFront q.toNat b false (some (complOf b 0 0))).intPoll) ∧
  (∀ (u : State) (q : Nat) (b : Bytes) (f : Bool) (c : Option Compl), q ≠ 0 →
    let x := u.queue q
    let y := (u.takeFront q b f c).queue q
    y.sqHead = (x.sqHead + 1) % 2 ^ x.logSize ∧ y.cache = x.cache.drop 1 ∧ y.taken.length = x.taken.length + 1 ∧
    (f = true → ∀ v : State, v.mayTake y = false) ∧
    Part.same u (u.takeFront q b f c) .outputs ∧ Part.same u (u.takeFront q b f c) .runs)

/-- R119, R120, R123: COMPLETION_WRITE writes the completion of the oldest taken entry of a work queue to the slot at
CQ tail, advances CQ tail past it and lets the entry go; while the ring has no free slot, or the entry is not done,
nothing is written. An admin completion is written likewise, in the order they are due, where a reload that was
waiting has ended (R59). -/
def Obligations.CompletionWritten : Prop :=
  (∀ (s u : State) (t : Nat) (q : BitVec 12) (e : Taken) (es : List Taken) (c : Compl), s.actsAt t u → q ≠ 0#12 →
    (u.queue q.toNat).state ≠ .absent → (u.queue q.toNat).cqFull = false → (u.queue q.toNat).stuck = false →
    (u.queue q.toNat).mute = false → (u.queue q.toNat).taken = e :: es → e.compl = some c →
    let x := u.queue q.toNat
    let c' := if u.faults.halt = true ∧ e.ran = true then { c with status := 0x73 } else c
    ∃ w : State, exec (.completionWrite t q) s = .next ((w.countEntry q.toNat e).afterCompl q.toNat).intPoll ∧
      .interior (x.cqBase + 32 * x.cqTail) (c'.bytes q.toNat x.sqHead) ∈ w.outputs ∧
      (w.queue q.toNat).cqTail = (x.cqTail + 1) % 2 ^ x.logSize ∧ (w.queue q.toNat).taken = es ∧
      (w.queue q.toNat).unread = x.unread ++ [c.noIrq]) ∧
  (∀ (s u : State) (t : Nat) (q : BitVec 12), s.actsAt t u →
    (u.queue q.toNat).cqFull = true →
    exec (.completionWrite t q) s = .next (if q = 0#12 then u.reloadEnd else u).intPoll) ∧
  (∀ (s u : State) (t : Nat) (q : BitVec 12) (e : Taken) (es : List Taken), s.actsAt t u → q ≠ 0#12 →
    (u.queue q.toNat).taken = e :: es → e.compl = none → exec (.completionWrite t q) s = .next u.intPoll) ∧
  (∀ (s v : State) (t : Nat) (c : Compl) (cs : List Compl), s.actsAt t v →
    let u := v.reloadEnd
    u.qg.adminEn = true → u.qg.admin.cqFull = false → u.qg.admin.stuck = false → u.qg.admin.mute = false → u.qg.due = c :: cs →
    ∃ w : State, exec (.completionWrite t 0#12) s = .next w.takeAdmin.intPoll ∧ w.qg.due = cs ∧
      .interior (u.qg.adminCqBase.toNat / 4096 * 4096 + 32 * u.qg.admin.cqTail) (c.bytes 0 u.qg.admin.sqHead) ∈ w.outputs)

/-- R124: setting ADMIN_EN enables the admin queue; clearing it while the queue is idle disables it and resets its
four indices to zero; clearing it while a command is pending or running changes nothing and adds one OPS record. -/
def Obligations.AdminEnable : Prop :=
  (∀ (s u : State) (t : Nat) (v : BitVec 32), s.actsAt t u → v.toNat % 2 = 1 → u.qg.adminEn = false →
    exec (.adminEnWrite t v) s = .next
      { u with qg := { u.qg with
          adminEn := true, admin := { u.qg.admin with state := .enabled, armed := true } } }.intPoll) ∧
  (∀ (s u : State) (t : Nat) (v : BitVec 32), s.actsAt t u → v.toNat % 2 = 0 → u.qg.adminEn = true →
    u.qg.todo = [] → u.qg.run = none → u.qg.revokes = [] → u.qg.due = [] →
    ∃ w : State, exec (.adminEnWrite t v) s = .next w.intPoll ∧ w.qg.adminEn = false ∧
      w.qg.admin.sqHead = 0 ∧ w.qg.admin.sqTail = 0 ∧ w.qg.admin.cqHead = 0 ∧ w.qg.admin.cqTail = 0 ∧
      w.qg.queues = u.qg.queues ∧ u.changesOnly [.qg] w) ∧
  (∀ (s u : State) (t : Nat) (v : BitVec 32), s.actsAt t u → v.toNat % 2 = 0 → u.qg.adminEn = true →
    (u.qg.todo ≠ [] ∨ u.qg.run ≠ none ∨ u.qg.revokes ≠ [] ∨ u.qg.due ≠ []) →
    exec (.adminEnWrite t v) s = .next
      (u.record 0 0x0201 1 (leBytes 4 0x8000 ++ leBytes 4 v.toNat)).intPoll)

/-- R128 to R130, R113: the commands of a queue's life. CREATE_QUEUE whose checks pass makes the queue ENABLED with
all four indices zero and its vector armed, and answers its number; DISABLE_QUEUE moves an ENABLED queue to DISABLING,
or at once to DISABLED when nothing of it is outstanding, and answers SQ head: the TAIL writes of its own tick are
undone (R131), and a queue whose completion write has failed for good discards its completions (R490); DESTROY_QUEUE
of a DISABLED queue makes its number ABSENT, and of any other is refused; QUEUE_INVALIDATE drops the cached entries. -/
def Obligations.QueueLifeCycle : Prop :=
  (∀ (s u : State) (t q : Nat) (b : Bytes), s.takesAdmin t 0x01 b u →
    4 ≤ crLogSize b → crLogSize b ≤ 16 → crWeight b ≠ 0 → entAddr b ≠ 0 → entAddr b % 4096 = 0 → entStep b ≠ 0 →
    entStep b % 4096 = 0 → (crHeld b = false → crCmp b = 0) → u.createNumber b = some q →
    (u.basking = true → entClass b = 0) → (u.label (entMatter b)).state = .opened →
    (u.label (entMatter b)).gen = entGen b →
    (crHeld b = true → ∃ c, u.claimOf 2 (crCmp b) = some c ∧ (c.holder = 0 ∨ c.holder = q)) →
    exec (.createQueue t) s = .next
      ((u.modQueue q fun _ =>
        { state := .enabled, label := entMatter b, gen := entGen b, cls := entClass b, weight := crWeight b,
          logSize := crLogSize b, sqBase := entAddr b, cqBase := entStep b, msiAddr := entBase b, msiData := entCount b,
          cmp := crCmp b, launchHeld := crHeld b, armed := true, ref := u.tileCounts }).adminDone b 0 q).intPoll) ∧
  (∀ (s u : State) (t : Nat) (b : Bytes), s.takesAdmin t 0x03 b u → (u.queue (entQueue b)).state = .enabled →
    let y := u.queue (entQueue b)
    let tail := if y.tailTick = u.now ∧ y.tailWords ≠ [] then y.tailWas else y.sqTail
    let posted := (tail + 2 ^ y.logSize - y.sqHead) % 2 ^ y.logSize
    ∃ w : State, exec (.disableQueue t) s = .next (w.adminDone b 0 y.sqHead).intPoll ∧
      (w.queue (entQueue b)).sqTail = tail ∧ (w.queue (entQueue b)).mute = (y.mute || y.stuck) ∧
      (w.queue (entQueue b)).taken = (if y.stuck = true then y.taken.filter (fun e => e.compl.isNone) else y.taken) ∧
      (w.queue (entQueue b)).state =
        (if (w.queue (entQueue b)).taken = [] ∧ (posted = 0 ∨ (y.mute || y.stuck) = true) then .disabled else .disabling)) ∧
  (∀ (s u : State) (t : Nat) (b : Bytes), s.takesAdmin t 0x03 b u →
    ((u.queue (entQueue b)).state = .disabling ∨ (u.queue (entQueue b)).state = .disabled) →
    exec (.disableQueue t) s = .next (u.adminDone b 0 (u.queue (entQueue b)).sqHead).intPoll) ∧
  (∀ (s u : State) (t : Nat) (b : Bytes), s.takesAdmin t 0x02 b u → (u.queue (entQueue b)).state = .disabled →
    ∃ w : State, exec (.destroyQueue t) s = .next (w.adminDone b 0 0).intPoll ∧
      (w.queue (entQueue b)).state = .absent ∧ (∀ c ∈ w.sil.claims, c.2.holder ≠ entQueue b)) ∧
  (∀ (s u : State) (t : Nat) (b : Bytes), s.takesAdmin t 0x02 b u → (u.queue (entQueue b)).state ≠ .disabled →
    exec (.destroyQueue t) s = .next (u.adminDone b 0x40 0).intPoll) ∧
  (∀ (s u : State) (t : Nat) (b : Bytes), s.takesAdmin t 0x04 b u →
    exec (.queueInvalidate t) s = .next
      ((u.modQueue (entQueue b) fun x => { x with cache := [] }).adminDone b 0 (u.queue (entQueue b)).sqHead).intPoll)

/-! ### Determinism -/

/-- R340: PAUSE of a queue at a step boundary (R336), of a paused one or of a launch-held one sets PAUSED and
completes with the STEP last completed; of any other ENABLED queue it waits for the boundary, and
PAUSE_BOUNDARY_REACHED then does the same; a queue that is not ENABLED is refused, and a fenced one completes with
MATTER_FENCED. While the PAUSE waits, the queue takes only entries of the step of its last taken entry; a paused queue
takes none. -/
def Obligations.PauseCommand : Prop :=
  (∀ (s u : State) (t : Nat) (b : Bytes), s.takesAdmin t 0x20 b u →
    let x := u.queue (entQueue b)
    (x.paused = true ∨ x.launchHeld = true ∨
      (x.state = .enabled ∧ u.queueFenced x = false ∧ x.atBoundary = true)) →
    exec (.pause t) s = .next
      ((u.modQueue (entQueue b) fun x => { x with paused := true, pausePending := false }).adminDone b 0
        x.lastDone).intPoll) ∧
  (∀ (s u : State) (t : Nat) (b : Bytes), s.takesAdmin t 0x20 b u →
    let x := u.queue (entQueue b)
    x.paused = false → x.launchHeld = false → x.state = .enabled → u.queueFenced x = false → x.atBoundary = false →
    exec (.pause t) s = .next
      ((u.modQueue (entQueue b) fun x => { x with pausePending := true }).adminWaits b
        (.boundary (entQueue b))).intPoll) ∧
  (∀ (s u : State) (t : Nat) (b : Bytes), s.takesAdmin t 0x20 b u →
    let x := u.queue (entQueue b)
    x.paused = false → x.launchHeld = false → (x.state ≠ .enabled ∨ u.queueFenced x = true) →
    exec (.pause t) s = .next (u.adminDone b (if x.state ≠ .enabled then 0x40 else 0x30) 0).intPoll) ∧
  (∀ (s u : State) (t : Nat) (q : BitVec 12) (b : Bytes), s.actsAt t u → q ≠ 0#12 →
    u.qg.run = some ⟨b, .boundary q.toNat⟩ → u.stw.restarting = false → (u.queue q.toNat).atBoundary = true →
    ∃ w : State, exec (.pauseBoundaryReached t q) s = .next w.intPoll ∧ (w.queue q.toNat).paused = true ∧
      (w.queue q.toNat).pausePending = false ∧ w.qg.run = none ∧
      w.qg.due = u.qg.due ++ [complOf b 0 (u.queue q.toNat).lastDone]) ∧
  (∀ (u v : State) (q : Nat), (u.queue q).paused = true → v.mayTake (u.queue q) = false ∧ v.contends (u.queue q) = false) ∧
  (∀ (u : State) (x : Queue) (b : Bytes) (cs : List (Option Bytes)), x.pausePending = true →
    x.cache.map Cached.entry = some b :: cs →
    u.contends x = (u.mayTake x && decide (x.lastTaken = some (entStep b))))

/-- R341: a write of 1 to DET_Q_CTL.RESUME, for the queue that DET_Q_SEL names, clears PAUSED, and the queue then
takes entries again; of a queue that is not paused it changes nothing and adds one OPS record. -/
def Obligations.ResumeCommand : Prop :=
  (∀ (s u : State) (t : Nat) (v : BitVec 32), s.actsAt t u → v.toNat % 2 = 1 → u.det.qSel ≠ 0#12 →
    (u.queue u.det.qSel.toNat).paused = true →
    exec (.resume t v) s = .next
      (u.modQueue u.det.qSel.toNat fun x => { x with paused := false }).intPoll ∧
    let y := { u.queue u.det.qSel.toNat with paused := false }
    (y.state = .enabled → y.posted ≠ 0 → y.launchHeld = false → u.queueFenced y = false → y.cqFull = false →
      y.stuck = false → (∀ e ∈ y.taken, e.isFence = false) → u.mayTake y = true)) ∧
  (∀ (s u : State) (t : Nat) (v : BitVec 32), s.actsAt t u → v.toNat % 2 = 1 →
    (u.det.qSel = 0#12 ∨ (u.queue u.det.qSel.toNat).paused = false) →
    exec (.resume t v) s = .next (u.record 0 0x0201 1 (leBytes 4 0x2400C ++ leBytes 4 v.toNat)).intPoll)

/-- R333: SEED_COMMIT copies the staging buffer into the slot that DET_SEED_SEL names and clears the buffer;
SEED_CLEAR empties the slot; a write that sets both bits, or that names queue 0 or a queue ABSENT or DISABLED, changes
nothing and adds one OPS record. -/
def Obligations.SeedSlots : Prop :=
  (∀ (s u : State) (t : Nat) (v : BitVec 32), s.actsAt t u → v.toNat % 4 = 1 →
    u.det.seedQueue ≠ 0#12 → (u.queue u.det.seedQueue.toNat).state ≠ .absent →
    (u.queue u.det.seedQueue.toNat).state ≠ .disabled →
    ∃ w : State, exec (.seedCommit t v) s = .next w.intPoll ∧
      w = ((u.modQueue u.det.seedQueue.toNat fun x =>
        { x with seeds := Tab.put x.seeds u.det.seedSlot.toNat u.stagedSeed }).modDet fun d => { d with staging := [] }) ∧
      Tab.find (w.queue u.det.seedQueue.toNat).seeds u.det.seedSlot.toNat = some u.stagedSeed) ∧
  (∀ (s u : State) (t : Nat) (v : BitVec 32), s.actsAt t u → v.toNat % 4 = 2 →
    u.det.seedQueue ≠ 0#12 → (u.queue u.det.seedQueue.toNat).state ≠ .absent →
    (u.queue u.det.seedQueue.toNat).state ≠ .disabled →
    ∃ w : State, exec (.seedClear t v) s = .next w.intPoll ∧
      w = (u.modQueue u.det.seedQueue.toNat fun x => { x with seeds := Tab.del x.seeds u.det.seedSlot.toNat }) ∧
      Tab.find (w.queue u.det.seedQueue.toNat).seeds u.det.seedSlot.toNat = none) ∧
  (∀ (s u : State) (t : Nat) (v : BitVec 32), s.actsAt t u →
    (v.toNat % 4 = 3 ∨ (v.toNat % 4 = 1 ∧ (u.det.seedQueue = 0#12 ∨
      (u.queue u.det.seedQueue.toNat).state = .absent ∨ (u.queue u.det.seedQueue.toNat).state = .disabled))) →
    exec (.seedCommit t v) s = .next
      (u.record 0 0x0201 1 (leBytes 4 0x25004 ++ leBytes 4 v.toNat)).intPoll) ∧
  (∀ (s u : State) (t : Nat) (v : BitVec 32), s.actsAt t u → v.toNat % 4 = 2 →
    (u.det.seedQueue = 0#12 ∨ (u.queue u.det.seedQueue.toNat).state = .absent ∨
      (u.queue u.det.seedQueue.toNat).state = .disabled) →
    exec (.seedClear t v) s = .next
      (u.record 0 0x0201 1 (leBytes 4 0x25004 ++ leBytes 4 v.toNat)).intPoll)

/-- R337, R338: ARM_LAUNCH checks T, then the comparator; at or after T the queues leave their hold at once and it
completes with LAUNCH_LATE, else it waits, and LAUNCH at the first tick with GCNT ≥ T releases every queue that the
comparator holds and completes it with SUCCESS and GCNT. -/
def Obligations.LaunchCommands : Prop :=
  (∀ (s u : State) (t : Nat) (b : Bytes), s.takesAdmin t 0x23 b u →
    let n := entLen b % 4
    let late := decide (entStep b ≤ u.now)
    entStep b ≤ u.now + 10 ^ 10 → (u.claimOf 2 n).isSome = true → (u.comparator n).armed = false →
    exec (.armLaunch t) s = .next
      (if late then
        ((u.setComparator n { t := entStep b, armed := false, late := true }).releaseHeld n).adminDone b 0x50 u.now
       else
        (u.setComparator n { t := entStep b, armed := true, late := false }).adminWaits b (.launch n false)).intPoll) ∧
  (∀ (s u : State) (t : Nat) (b : Bytes), s.takesAdmin t 0x23 b u →
    let n := entLen b % 4
    (u.now + 10 ^ 10 < entStep b ∨ u.claimOf 2 n = none ∨ (u.comparator n).armed = true) →
    exec (.armLaunch t) s = .next
      (u.adminDone b (if u.now + 10 ^ 10 < entStep b then 0x12 else 0x40) 0).intPoll) ∧
  (∀ (s u : State) (t : Nat) (n : BitVec 2) (b : Bytes) (l : Bool), s.actsAt t u →
    (u.comparator n.toNat).armed = true → (u.comparator n.toNat).t ≤ u.now →
    u.qg.run = some ⟨b, .launch n.toNat l⟩ → u.stw.restarting = false →
    ∃ w : State, exec (.launch t n) s = .next w.intPoll ∧ (w.comparator n.toNat).armed = false ∧
      (∀ q x, Tab.find w.qg.queues q = some x → x.cmp = n.toNat → x.launchHeld = false) ∧
      w.qg.run = none ∧ w.qg.due = u.qg.due ++ [complOf b 0 u.now])

/-- R350 to R352: CHORUS_CONFIG attaches a claimed lane to its queue, and detaches it once no entry of the queue is
outstanding; a lane that is not claimed, or that another queue holds, or that serves another queue, is refused, and so
is the engine's own die as partner. A message, once the waits that have ended are closed: a frame for another die,
with a wrong CRC or on a lane that serves no queue is ignored with one OPS record (R492); a point that arrives on a
lane for its queue is compared with the local point of its key, or waits for it; one from another die, of another
matter or of a key seen before is discarded with one OPS record. CHORUS_MISSING_TIMEOUT turns the points of a finished
entry that met no partner within 100 ms into divergences. -/
def Obligations.ChorusLanes : Prop :=
  (∀ (s u : State) (t : Nat) (b : Bytes) (c : Claim), s.takesAdmin t 0x24 b u →
    let q := entQueue b
    let l := entLen b / 2 ^ 16 % 2
    u.claimOf 3 l = some c → (c.holder = 0 ∨ c.holder = q) → ((u.lane l).queue = 0 ∨ (u.lane l).queue = q) →
    exec (.chorusConfig t) s = .next
      (if entLen b / 2 ^ 17 % 2 = 1 then
        (if entBase b = u.gctl.die.toNat then u.adminDone b 0x12 0 else (u.attachLane q l (entBase b)).adminDone b 0 0)
       else if (u.lane l).queue = 0 then u.adminDone b 0 0
       else if (u.queue q).taken = [] then
        ((u.detachLane l).modQueue q fun x => { x with chorus := none }).adminDone b 0 0
       else u.adminWaits b (.detach q l)).intPoll) ∧
  (∀ (u : State) (q l p : Nat),
    ((u.attachLane q l p).lane l).queue = q ∧ ((u.attachLane q l p).lane l).partner = p ∧
    ((u.attachLane q l p).queue q).chorus = some l ∧ ((u.detachLane l).lane l).queue = 0 ∧
    ((u.detachLane l).lane l).here = []) ∧
  (∀ (s u : State) (t : Nat) (b : Bytes), s.takesAdmin t 0x24 b u →
    let l := entLen b / 2 ^ 16 % 2
    (u.claimOf 3 l = none ∨ (∃ c, u.claimOf 3 l = some c ∧ c.holder ≠ 0 ∧ c.holder ≠ entQueue b) ∨
      ((u.lane l).queue ≠ 0 ∧ (u.lane l).queue ≠ entQueue b)) →
    exec (.chorusConfig t) s = .next (u.adminDone b 0x40 0).intPoll) ∧
  (∀ (u : State) (b : Bytes) (q l : Nat), u.qg.run = some ⟨b, .detach q l⟩ → u.stw.restarting = false →
    (u.queue q).taken = [] →
    (u.detachCheck.lane l).queue = 0 ∧ (u.detachCheck.queue q).chorus = none ∧ u.detachCheck.qg.run = none ∧
    u.detachCheck.qg.due = u.qg.due ++ [complOf b 0 0]) ∧
  (∀ (s u v : State) (t : Nat) (lane : Bool) (f : Bytes), s.actsAt t u → f.length = 80 →
    let l := if lane then 1 else 0
    let m := (f.drop 8).take 64
    let c := v.lane l
    let k := (pointOf m).key
    v = u.missingOn l →
    exec (.chorusMessage t lane f) s = .next
      (if leAt f 0 4 ≠ v.gctl.die.toNat ∨ leAt f 72 4 ≠ crc32With 0xedb88320 (f.take 72) ∨ c.queue = 0 then
        v.opsRule 492 (Config.ruleArg 492 v.now)
       else if c.partner ≠ leAt m 0 4 ∨ (v.label (v.queue c.queue).label).matter ≠ leAt m 4 8 ∨ k ∈ c.compared ∨
          (∃ x ∈ c.remote, x.key = k) then
        v.record 0 0x0206 1 (leBytes 1 l ++ leBytes 4 (leAt m 0 4))
       else match c.here.find? fun x => x.key == k with
        | some h =>
          ((v.modLane l fun c => Chorus.withStall
            { c with here := c.here.filter fun x => x.key != k, compared := k :: c.compared }).comparePoints h
              (pointOf m)).settleRun h.serial
        | none => v.modLane l fun c => { c with remote := c.remote ++ [pointOf m] }).resumeAll.stallClock.intPoll) ∧
  (∀ (u : State) (h p : ChorusPoint) (r : Run), Tab.find u.runs h.serial = some r →
    ∃ r', Tab.find (u.comparePoints h p).runs h.serial = some r' ∧
      (if h.digest = p.digest then r' = r
       else r' = { r with divs := r.divs ++ [⟨h.step, h.stage, h.index, h.tile, false⟩] })) ∧
  (∀ (s u : State) (t : Nat) (lane : Bool) (e : Nat) (r : Run), s.actsAt t u →
    let l := if lane then 1 else 0
    (u.lane l).here ≠ [] → (∀ p ∈ (u.lane l).here, p.serial = e) → Tab.find u.runs e = some r → r.ended = true →
    r.lastPoint + 10 ^ 8 ≤ u.now →
    ∃ w : State, exec (.chorusMissingTimeout t lane) s = .next (w.settleRun e).resumeAll.stallClock.intPoll ∧
      (w.lane l).here = [] ∧
      ∃ r', Tab.find w.runs e = some r' ∧ r'.divs = r.divs ++ (u.lane l).here.map fun p =>
        ⟨p.step, p.stage, p.index, p.tile, true⟩)

/-- R342, R343, R349: SAVE_CONTEXT of a paused queue asks the PK engine to sign its context with the session key
(R387), and then writes context, signature and answers its length; a queue that is not paused is refused, a fenced one
completes with MATTER_FENCED. RESTORE_CONTEXT checks the form, then has the certificate verified, then the signature;
when these and the checks after them pass, it replaces the queue's seeds, NDC, entry count and reference counts and
empties its ledger; at the first check that fails it completes with that check's status. REPLAY_DIGEST whose checks
pass writes the 32-byte digest and answers its first eight bytes. -/
def Obligations.ContextsAndReplay : Prop :=
  (∀ (s u : State) (t : Nat) (b : Bytes), s.takesAdmin t 0x21 b u →
    let x := u.queue (entQueue b)
    let body := u.contextBody x
    exec (.saveContext t) s = .next
      (if u.queueFenced x = true then u.adminDone b 0x30 0
       else if x.paused = false then u.adminDone b 0x40 0
       else { u with
         pke := { u.pke with admin := some { op := .sign, client := .context, slot := 1, hash := 2, data := sha384 body } },
         qg := { u.qg with run := some ⟨b, .pk (.sign body)⟩ } }).intPoll ∧
    body.take 11 = asciiBytes "HYNUSCTS" ++ leBytes 2 1 ++ leBytes 1 x.cls) ∧
  (∀ (u : State) (b body : Bytes), u.qg.run = some ⟨b, .pk (.sign body)⟩ → u.stw.restarting = false →
    let bytes := body ++ sign384 u.cus.sessionD body ++ zeroBytes 32
    u.contextSigned b body false = { u with
      outputs := .interior (entAddr b) bytes :: u.outputs,
      qg := { u.qg with run := none, due := u.qg.due ++ [complOf b 0 bytes.length] } }) ∧
  (∀ (s u : State) (t : Nat) (b data : Bytes), s.takesAdmin t 0x22 b u →
    let d := padTo (min (entCount b) 16384) data
    exec (.restoreContext t data) s = .next
      (if u.queueFenced (u.queue (entQueue b)) = true then u.adminDone b 0x30 0
       else if ctxForm b d ≠ 0 then u.adminDone b (ctxForm b d) 0
       else { u with
         pke := { u.pke with admin := some { op := .verify, client := .context, slot := 1, hash := 2, data := [] } },
         qg := { u.qg with run := some ⟨b, .pk (.certificate d)⟩ } }).intPoll) ∧
  (∀ (u : State) (b d : Bytes), u.qg.run = some ⟨b, .pk (.certificate d)⟩ → u.stw.restarting = false →
    u.certificateVerified b d false =
      (if ctxCertOk d = true then { u with
         pke := { u.pke with admin := some { op := .verify, client := .context, slot := 1, hash := 2, data := [] } },
         qg := { u.qg with run := some ⟨b, .pk (.verify d)⟩ } }
       else { u with qg := { u.qg with run := none, due := u.qg.due ++ [complOf b 0x83 0] } })) ∧
  (∀ (u : State) (b d : Bytes), u.qg.run = some ⟨b, .pk (.verify d)⟩ → u.stw.restarting = false →
    let x := u.queue (entQueue b)
    let st := if ctxSigned d = false then 0x83 else if u.queueFenced x = true then 0x30 else u.ctxFits b d
    u.contextVerified b d false =
      (if st ≠ 0 then { u with qg := { u.qg with run := none, due := u.qg.due ++ [complOf b st 0] } }
       else ((u.modQg fun g => { g with run := none }).modQueue (entQueue b) fun x =>
          { x with seeds := ctxSeeds d, ndc := leAt d 48 8, entries := leAt d 40 8, ref := ctxCounts d,
                   ledger := [] }).adminDoneFlags b 0 0 (if x.cls = 2 ∧ u.tileCounts ≠ ctxCounts d then 1 else 0))) ∧
  (∀ (s u : State) (t : Nat) (b : Bytes) (mem : HostMem) (l : Ledger) (cs : List ListCmd), s.takesAdmin t 0x25 b u →
    let x := u.queue (entQueue b)
    let stage := entLen b / 2 ^ 16 % 2 ^ 8
    u.queueFenced x = false → replayStage stage = true → latestLedger (entStep b) (entBase b) x.ledger = some l →
    parseList (hostRead mem (entAddr l.entry) (entLen l.entry)) = some cs →
    (∃ y ∈ (walkList cs).starts, y.snap.stage = stage) → u.ledgerCurrent x l = true →
    (x.cls = 0 ∨ l.ndc = 0 ∨ stage ∉ [6, 8, 9]) →
    let p := Replay.run mem u.qg.nextSerial replayFuel
      { s := u.replayStart (entQueue b) u.qg.nextSerial l.entry mem cs }
    exec (.replayDigest t mem) s = .next
      (if ∃ n ∈ p.needed u.qg.nextSerial stage (entBase b), n ∈ p.failed then u.adminDone b 0x21 0
       else match p.digest u.qg.nextSerial stage (entBase b) ((walkList cs).starts.map Started.snap) with
        | none => u.adminDone b 0x40 0
        | some d => (u.emit (.interior (entAddr b) d)).adminDoneFlags b 0 (leNat (d.take 8))
            (if x.cls = 2 ∧ l.tiles ≠ u.tileCounts then 1 else 0)).intPoll)

/-! ### Structure images, microcode, claims, the pool record -/

/-- R526, R63 to R65: CLAIM and RELEASE_CLAIM run their checks in order; a command that fails completes with the
status of the first check that fails and changes no claim; one that passes grants the resource, the lowest free one
for INDEX 0xFF, and answers its index, or releases it. -/
def Obligations.ClaimCommands : Prop :=
  (∀ (s u : State) (t : Nat) (b : Bytes), s.takesAdmin t 0x2C b u →
    let k := entLen b % 16
    let i := entLen b / 2 ^ 8 % 2 ^ 8
    let q := entLen b / 2 ^ 16 % 2 ^ 12
    let free := if i = 0xFF then (List.range (kindIndices k)).find? fun j => (u.claimOf k j).isNone
      else if u.claimOf k i = none then some i else none
    let status :=
      if ¬ (1 ≤ k ∧ k ≤ 6 ∧ q ≠ 0 ∧ (u.queue q).state ≠ .absent ∧ (i < kindIndices k ∨ i = 0xFF)) then 0x12
      else if (k = 2 ∨ k = 3 ∨ k = 4) ∧ entCount b ≠ 0 then 0x12
      else if k = 4 ∧ u.dbgAllowed = false then 0x32
      else match free with
        | none => 0x42
        | some j => if k = 6 ∧ u.reserveFits (j / 8) (entCount b) = false then 0x41 else 0
    (status ≠ 0 → exec (.claim t) s = .next (u.adminDone b status 0).intPoll) ∧
    (∀ j, status = 0 → free = some j →
      ∃ w : State, exec (.claim t) s = .next (w.adminDone b 0 j).intPoll ∧
        w.claimOf k j = some { holder := q, arg := entCount b, tick := u.now } ∧
        (∀ k' j', k' * 256 + j' ≠ k * 256 + j → w.claimOf k' j' = u.claimOf k' j'))) ∧
  (∀ (s u : State) (t : Nat) (b : Bytes), s.takesAdmin t 0x2D b u →
    let k := entLen b % 16
    let i := entLen b / 2 ^ 8 % 2 ^ 8
    let q := entLen b / 2 ^ 16 % 2 ^ 12
    let status :=
      if ¬ (1 ≤ k ∧ k ≤ 6 ∧ q ≠ 0 ∧ (u.queue q).state ≠ .absent ∧ i < kindIndices k) then 0x12
      else match u.claimOf k i with
        | none => 0x40
        | some c => if c.holder ≠ q then 0x42 else if u.resourceUsed k i = true then 0x42 else 0
    (status ≠ 0 → exec (.releaseClaim t) s = .next (u.adminDone b status 0).intPoll) ∧
    (status = 0 → ∃ w : State, exec (.releaseClaim t) s = .next (w.adminDone b 0 0).intPoll ∧
      w.claimOf k i = none ∧ (∀ k' j', k' * 256 + j' ≠ k * 256 + i → w.claimOf k' j' = u.claimOf k' j')))

/-- R382: POOL_CONFIG of a record that passes its checks sets the fields whose flags are set, leaves the others, and
completes with SUCCESS; the spill flags of the regions and the stalls of the stages follow the new levels (R26, R377).
Of one that fails it completes with the status of the first failing check and changes nothing else. -/
def Obligations.PoolRecord : Prop :=
  (∀ (s u : State) (t : Nat) (b d : Bytes), s.takesAdmin t 0x40 b u → u.poolRecordStatus b d = 0 →
    let flags := leAt d 10 2
    ∃ w : State, exec (.poolConfig t d) s = .next
        (((regionNumbers.foldl State.spillUpdate w).noteAll.resumeAll).adminDone b 0 0).stallClock.intPoll ∧
      w = { u with pool := { u.pool with
        split := if flags % 2 = 1 then (List.range 6).map fun k => leAt d (16 + 2 * k) 2 else u.pool.split,
        green := if flags / 2 % 2 = 1 then leAt d 28 2 else u.pool.green,
        amber := if flags / 2 % 2 = 1 then leAt d 30 2 else u.pool.amber,
        water := if flags / 4 % 2 = 1 then (List.range 12).map fun i =>
            (i, (leAt d (64 + 12 * i) 4, leAt d (68 + 12 * i) 4, leAt d (72 + 12 * i) 4))
          else u.pool.water } }) ∧
  (∀ (s u : State) (t : Nat) (b d : Bytes), s.takesAdmin t 0x40 b u → u.poolRecordStatus b d ≠ 0 →
    exec (.poolConfig t d) s = .next (u.adminDone b (u.poolRecordStatus b d) 0).stallClock.intPoll) ∧
  (∀ (u : State) (b d : Bytes), (entLen b ≠ 256 ∨ slice d 0 8 ≠ asciiBytes "HYNUSPCF" ∨ leAt d 8 2 ≠ 1) →
    u.poolRecordStatus b d = 0x12) ∧
  (∀ (u : State) (b d : Bytes), u.poolRecordStatus b d = 0 →
    0 < leAt d 10 2 ∧ leAt d 10 2 < 8 ∧ (leAt d 10 2 / 2 % 2 = 1 → leAt d 28 2 < leAt d 30 2 ∧ leAt d 30 2 ≤ 4096))

/-- R51, R53, R54, R56: LOAD_IMAGE reads the image; one that fails a check before its signature is refused at once, any
other goes to the PK engine to be verified (R387). The verified image that passes its checks is staged, and the command
answers bytes 0 to 7 of its digest; one that is refused leaves STAGED empty and reports the refusal, a job that failed
twice as a signature that does not verify (log 61). ACTIVATE_IMAGE with every region tested and no refusal waits for the
switch; IMAGE_SWITCH puts the staged image in force, moves the activation bank, locks the RWL fields and completes the
command, or leaves the image in force when a tile has failed since, or when the roles or claims of the image no longer
fit. -/
def Obligations.ImageCommands : Prop :=
  (∀ (s u : State) (t : Nat) (b data : Bytes), s.takesAdmin t 0x08 b u →
    let d := portRead (entLen b) data
    exec (.loadImage t data) s = .next
      (match u.loadRefusal d with
       | some r => if r.reason < 4 then u.refuseImage b r else u.pkAsk b .verify .sil [] (.verify d)
       | none => u.pkAsk b .verify .sil [] (.verify d)).intPoll) ∧
  (∀ (u : State) (b d : Bytes), u.loadRefusal d = none →
    let im := imgParse d
    u.imageVerified b d false = { u with
      sil := { u.sil with staged := some im },
      qg := { u.qg with run := none, due := u.qg.due ++ [complOf b 0 (leNat (im.digest.take 8))] } }) ∧
  (∀ (u : State) (b d : Bytes) (r : Refused),
    u.loadRefusal d = some r →
    u.imageVerified b d false = { u with qg := { u.qg with run := none } }.refuseImage b r) ∧
  (∀ (u : State) (b d : Bytes),
    u.imageVerified b d true = { u with qg := { u.qg with run := none } }.refuseImage b { reason := 4, section_ := 7 }) ∧
  (∀ (u : State) (b : Bytes) (r : Refused),
    u.refuseImage b r = { u with
      sil := { u.sil with staged := none, reason := r.reason, section_ := r.section_, entry := r.entry % 65536 },
      qg := { u.qg with due := u.qg.due ++ [complOf b (reasonStatus r.reason)
        (r.reason + 2 ^ 8 * r.section_ + 2 ^ 16 * (r.entry % 65536))] } }) ∧
  (∀ (s u : State) (t : Nat) (b : Bytes) (im : Image), s.takesAdmin t 0x09 b u → u.sil.staged = some im →
    u.allTested = true → u.activateRefusal im (u.profileTooBig im) = none →
    ∃ w : State, exec (.activateImage t) s = .next w.intPoll ∧ w.sil = { u.sil with activating := true, actFailed := false } ∧
      w.qg.run = some ⟨b, .switch⟩ ∧ u.changesOnly [.sil, .qg] w) ∧
  (∀ (s u : State) (t : Nat) (b : Bytes), s.takesAdmin t 0x09 b u → u.sil.staged = none →
    ∃ w : State, exec (.activateImage t) s = .next w.intPoll ∧ w.sil.active = u.sil.active ∧ w.sil.reason = 0xF ∧
      w.qg.run = none ∧ w.qg.due.map Compl.status = (u.qg.due.map Compl.status) ++ [0x40]) ∧
  (∀ (s u : State) (t : Nat) (b : Bytes) (im : Image) (bind gs : List (Nat × Nat)), s.actsAt t u →
    u.qg.run = some ⟨b, .switch⟩ → u.sil.staged = some im → u.stw.restarting = false → u.sil.actFailed = false →
    u.bindAll im = .ok bind → grantClaims u.heldByQueue im.claims 0 [] = .ok gs →
    ∃ w : State, exec (.imageSwitch t) s = .next w.intPoll ∧ w.sil.active = some im ∧ w.sil.staged = none ∧
      w.sil.locked = true ∧ w.sil.bankV = 1 - u.sil.bankV ∧ w.sil.progDigest = im.digest ∧
      (∀ c < 16, (w.banks c).active = 1 - u.sil.bankV) ∧ w.qg.run = none ∧ complOf b 0 0 ∈ w.qg.due) ∧
  (∀ (s u : State) (t : Nat) (b : Bytes) (im : Image), s.actsAt t u →
    u.qg.run = some ⟨b, .switch⟩ → u.sil.staged = some im → u.stw.restarting = false → u.sil.actFailed = true →
    ∃ w : State, exec (.imageSwitch t) s = .next w.intPoll ∧ w.sil.active = u.sil.active ∧ w.sil.staged = some im ∧
      w.qg.run = none ∧ w.qg.due = u.qg.due ++ [complOf b 0x70 0]) ∧
  (∀ (s u : State) (t : Nat) (b : Bytes) (im : Image) (r : Nat), s.actsAt t u →
    u.qg.run = some ⟨b, .switch⟩ → u.sil.staged = some im → u.stw.restarting = false → u.sil.actFailed = false →
    (u.bindAll im = .error r ∨ grantClaims u.heldByQueue im.claims 0 [] = .error r) →
    ∃ w : State, exec (.imageSwitch t) s = .next w.intPoll ∧ w.sil.active = u.sil.active ∧ w.sil.staged = some im ∧
      w.qg.run = none ∧ w.qg.due = u.qg.due ++ [complOf b 0x70 0])

/-- R58, R59, R61, R64: RELOAD_MICROCODE reads the record; one that fails a check before its signature is refused at
once, any other goes to the PK engine to be verified (R387). Of a record that passes its checks, the encoding of its
code being free (log 23), the named bank's valid bit clears; when that bank is in use the command completes with
BANK_ACTIVE and touches neither bank. The end of the write puts the code into the bank, moves the program digest, adds
one AUDIT record and completes the command with SUCCESS. -/
def Obligations.MicrocodeReload : Prop :=
  (∀ (s u : State) (t : Nat) (b data : Bytes), s.takesAdmin t 0x0A b u →
    let d := portRead (min (entLen b) 67108864) data
    exec (.reloadMicrocode t data) s = .next
      (match u.reloadRefusal (entLen b) d with
       | some r => if r.reason < 4 then u.refuse b r else u.pkAsk b .verify .sil [] (.verify d)
       | none => u.pkAsk b .verify .sil [] (.verify d)).intPoll) ∧
  (∀ (u : State) (b d : Bytes),
    let c := mcRole d
    let n := 128 + (mcLen d + 63) / 64 * 64
    entLen b = n + 128 → slice d 0 8 = asciiBytes "HYNUSMCR" → mcBank d ≤ 1 →
    allZero (slice d 10 2) = true → allZero (slice d 20 12) = true → allZero (slice d 80 48) = true →
    allZero (slice d (n + 96) 32) = true →
    imgSigned u.sil.imageKeys (leAt d 16 4) (d.take n) (slice d n 128) = none → bears c = true → mcLen d ≤ 32768 →
    u.sil.active.map Image.digest = some (slice d 32 48) → u.tileCount c ≠ 0 →
    let w := u.recordVerified b d false
    (if microcodeOk (slice d 128 (mcLen d)) = false then
      w.sil.banks = u.sil.banks ∧ w.sil.progDigest = u.sil.progDigest ∧ w.sil.reason = 0xC ∧ w.qg.run = none
     else if u.bankUsed c (mcBank d) = true then
      w = { u with qg := { u.qg with run := none, due := u.qg.due ++ [complOf b 0x45 0] } }
     else
      w.qg.run = some ⟨b, .reload d⟩ ∧ w.sil.progDigest = u.sil.progDigest ∧
      (if mcBank d = 0 then (w.banks c).bank0 = none ∧ (w.banks c).bank1 = (u.banks c).bank1
       else (w.banks c).bank1 = none ∧ (w.banks c).bank0 = (u.banks c).bank0) ∧
      (w.banks c).active = (u.banks c).active ∧ (∀ c', c' ≠ c → w.banks c' = u.banks c'))) ∧
  (∀ (u : State) (b d : Bytes), u.qg.run = some ⟨b, .reload d⟩ → u.stw.restarting = false → u.faults.halt = false →
    mcBank d ≤ 1 →
    let w := u.reloadEnd
    let c := mcRole d
    w.sil.progDigest = sha384 (u.sil.progDigest ++ sha384 d) ∧
    (if mcBank d = 0 then (w.banks c).bank0 = some (slice d 128 (mcLen d)) ∧ (w.banks c).bank1 = (u.banks c).bank1
     else (w.banks c).bank1 = some (slice d 128 (mcLen d)) ∧ (w.banks c).bank0 = (u.banks c).bank0) ∧
    (w.banks c).active = (u.banks c).active ∧ (∀ c', c' ≠ c → w.banks c' = u.banks c') ∧
    w.qg.run = none ∧ w.qg.due = u.qg.due ++ [complOf b 0 0]) ∧
  (∀ u : State, (∀ b d, u.qg.run ≠ some ⟨b, .reload d⟩) → u.reloadEnd = u)

/-! ### Matter custody -/

/-- R84, R81: OPEN_MATTER has the manifest's signature verified (R387), unless a check before it fails. When checks 3
to 9 pass it assigns the lowest free label, with the next generation, and asks for the ECDH of its keys; when checks
10 to 12 pass the label takes the keys and COUNTER goes out; the COUNTER_ACK that echoes the counter within 10 ms
opens the label and answers label and generation. A check that fails gives the command its status, and a label that
was assigned returns to FREE; so do an absent edge of the slot meanwhile, and the lack of COUNTER_ACK, with
CUSTODY_DENIED. -/
def Obligations.MatterOpens : Prop :=
  (∀ (s u : State) (t : Nat) (b m : Bytes), s.takesAdmin t 0x10 b u → m.length = 256 →
    let st := u.manifestStatus b m
    exec (.openMatter t m) s = .next
      (if (st = 0 ∨ st = 0x83) ∧ u.manifestSigner m = true then u.pkAsk b .verify .custody [] (.verify m)
       else u.adminDone b st 0).intPoll) ∧
  (∀ (u : State) (b m : Bytes) (o : Offer) (p l : Nat), u.manifestStatus b m = 0 → u.openPlan m = .ok (o, p, l) →
    let w := u.openVerified b m false
    let x := assignLabel (u.label l) m o p
    w.label l = x ∧ x.state = .opening ∧ x.gen = ((u.label l).gen + 1) % 256 ∧ x.matter = manMatter m ∧
    (∀ k, k ≠ l → w.label k = u.label k) ∧ w.qg.run = some ⟨b, .pk (.agree l o.payload)⟩ ∧
    w.pke.admin = some { op := .ecdh, client := .custody, slot := 1, hash := 2, data := [] }) ∧
  (∀ (u : State) (b m : Bytes) (st : Nat), u.qg.run = some ⟨b, .pk (.verify m)⟩ → u.stw.restarting = false →
    (if u.manifestStatus b m ≠ 0 then st = u.manifestStatus b m else u.openPlan m = .error st) →
    u.openVerified b m false = { u with qg := { u.qg with run := none, due := u.qg.due ++ [complOf b st 0] } }) ∧
  (∀ (u : State) (b off : Bytes) (l : Nat) (x : Label), (u.label l).edge = false →
    u.openKeys (u.label l) off = .ok x → u.pwr.inhibitRail = 0#4 →
    let w := u.openAgreed b l off false
    let n := newCounter (offCounter off)
    w.label l = x ∧ (∀ k, k ≠ l → w.label k = u.label k) ∧
    (offCounter off + 1 < 2 ^ 64 → n = offCounter off + 1) ∧
    w.qg.run = some ⟨b, .counter l x.gen x.slot x.token n (u.now + 10 ^ 7)⟩ ∧
    .custody 0x08 u.cus.txSeq (leBytes 1 x.slot ++ leBytes 8 x.token ++ leBytes 8 n) ∈ w.outputs) ∧
  (∀ (u : State) (b off : Bytes) (l : Nat) (e : Nat × Nat), u.qg.run = some ⟨b, .pk (.agree l off)⟩ →
    u.stw.restarting = false →
    (if (u.label l).edge = true then e.2 = 0x32 else u.openKeys (u.label l) off = .error e) →
    let w := u.openAgreed b l off false
    w.label l = { gen := (u.label l).gen } ∧ (∀ k, k ≠ l → w.label k = u.label k) ∧ w.qg.run = none ∧
    w.qg.due = u.qg.due ++ [complOf b e.2 0]) ∧
  (∀ (s u : State) (t : Nat) (seq : Byte) (p b : Bytes) (l gen slot token counter deadline : Nat), s.actsAt t u →
    u.hears 0x09 seq.toNat p → p.length = 17 → u.qg.run = some ⟨b, .counter l gen slot token counter deadline⟩ →
    leAt p 0 1 = slot → leAt p 1 8 = token → leAt p 9 8 = counter → u.now < deadline → u.stw.restarting = false →
    ∃ w : State, exec (.counterAck t seq p) s = .next w.intPoll ∧
      w.label l = (if (u.label l).edge = true then { gen := (u.label l).gen } else { u.label l with state := .opened }) ∧
      (∀ k, k ≠ l → w.label k = u.label k) ∧ w.qg.run = none ∧
      w.qg.due = u.qg.due ++ [if (u.label l).edge = true then complOf b 0x32 0 else complOf b 0 (l + 2 ^ 16 * gen)]) ∧
  (∀ (s u : State) (t : Nat) (b : Bytes) (l gen slot token counter deadline : Nat), s.actsAt t u →
    u.qg.run = some ⟨b, .counter l gen slot token counter deadline⟩ → deadline ≤ u.now → u.stw.restarting = false →
    ∃ w : State, exec (.counterAckTimeout t) s = .next w.intPoll ∧ w.label l = { gen := (u.label l).gen } ∧
      (∀ k, k ≠ l → w.label k = u.label k) ∧ w.qg.run = none ∧ w.qg.due = u.qg.due ++ [complOf b 0x32 0])

/-- R96, R95, R93, R98: CLOSE_MATTER closes its matter, whose erasure begins at once where no entry of it is taken or
fetched; REVOKE_MATTER erases an OPEN, FENCED or CLOSING matter at once; from the erasure on the label holds no key;
ERASURE_END marks the tiles whose Moult failed, then frees the label, or leaves it in SCRUBBING while cells of it await
overwrite, raises ERASED and completes the command that waits. -/
def Obligations.MatterEnds : Prop :=
  (∀ (s u : State) (t : Nat) (b : Bytes), s.takesAdmin t 0x11 b u → (u.label (entMatter b)).state = .opened →
    ∃ w : State, exec (.closeMatter t) s = .next w.intPoll ∧
      (∀ k, k ≠ entMatter b → w.label k = u.label k) ∧
      (w.label (entMatter b)).state =
        (if ∀ x ∈ u.qg.queues, u.boundTo x.2 (entMatter b) = true →
            x.2.taken = [] ∧ (x.2.cache = [] ∨ x.2.posted = 0) then .erasing else .closing)) ∧
  (∀ (s u : State) (t : Nat) (b : Bytes) (rest : List (Option Bytes)), s.actsAt t u → u.qg.todo = some b :: rest →
    entOp b = 0x12 → u.faults.halt = false → u.adminCheck b = none → (u.label (entMatter b)).gen = entGen b →
    ((u.label (entMatter b)).state = .opened ∨ (u.label (entMatter b)).state = .fenced ∨
      (u.label (entMatter b)).state = .closing) →
    ∃ w : State, exec (.revokeMatter t) s = .next w.intPoll ∧
      (w.label (entMatter b)).state = .erasing ∧ (w.label (entMatter b)).source = 1 ∧
      (w.label (entMatter b)).kData = [] ∧ (w.label (entMatter b)).kMem = [] ∧ (w.label (entMatter b)).kNoise = [] ∧
      (∀ k, k ≠ entMatter b → w.label k = u.label k)) ∧
  (∀ (s u : State) (t : Nat) (l : BitVec 10) (failed : List (BitVec 8)), s.actsAt t u →
    (u.label l.toNat).state = .erasing →
    exec (.erasureEnd t ⟨l, failed⟩) s = .next
      ((failed.foldl (fun s id => s.markTile id.toNat 8 false) u).eraseEnd l.toNat).intPoll) ∧
  (∀ (u : State) (l : Nat), (u.label l).state = .erasing →
    let w := u.eraseEnd l
    (w.label l).state = (if ∃ d ∈ u.pool.dirty, d.2 = l then .scrubbing else .free) ∧
    (∀ k, k ≠ l → w.label k = u.label k) ∧ w.cus.evt = u.cus.evt.set 2 u.now ∧
    (∀ b x, u.qg.run = some ⟨b, .erase l⟩ → u.stw.restarting = false → x = (u.label l).source →
      w.qg.run = none ∧ complOf b (if x = 4 then 0 else 0x30) 0 ∈ w.qg.due))

/-- R88 to R93: when a slot's presence turns absent, every OPEN or CLOSING matter of the slot is FENCED in the same
tick, one that is OPENING fails at its next check (R84), its pending offers go, and a debounce window opens for its
fenced matters; a presence that returns inside the window sends PROBE; a PROBE_ACK of the seated token that opened
them lifts the fence of the slot's matters, of which a CLOSING one whose last entry has completed goes on to its
erasure (R96); one of another token adds one CUSTODY record; at the window's end every matter of the slot still fenced
is erased. -/
def Obligations.PresenceRules : Prop :=
  (∀ (s u : State) (t : Nat) (slot : BitVec 3), s.actsAt t u → u.isPresent slot.toNat = true →
    ∃ w : State, exec (.presenceAbsent t slot) s = .next w.intPoll ∧
      w.isPresent slot.toNat = false ∧
      (∀ l, (u.label l).slot = slot.toNat → ((u.label l).state = .opened ∨ (u.label l).state = .closing) →
        (w.label l).state = .fenced ∧ Tab.find w.cus.windows slot.toNat ≠ none) ∧
      (∀ l, (u.label l).slot = slot.toNat → (u.label l).state = .opening → w.label l = { u.label l with edge := true }) ∧
      (∀ l, (u.label l).slot ≠ slot.toNat → w.label l = u.label l) ∧
      (∀ o ∈ w.cus.offers, offSlot o.payload ≠ slot.toNat)) ∧
  (∀ (s u : State) (t : Nat) (slot : BitVec 3), s.actsAt t u → u.isPresent slot.toNat = false →
    ∃ w : State, exec (.presencePresent t slot) s = .next w.intPoll ∧ w.isPresent slot.toNat = true ∧
      w.cus.labels = u.cus.labels ∧
      (u.inWindow slot.toNat = true →
        w.outputs = .custody 0x05 u.cus.txSeq (leBytes 1 slot.toNat) :: u.outputs) ∧
      (u.inWindow slot.toNat = false → w.outputs = u.outputs)) ∧
  (∀ (s u : State) (t : Nat) (seq : Byte) (p : Bytes), s.actsAt t u → u.hears 0x06 seq.toNat p → p.length = 10 →
    leAt p 0 1 ≤ 7 → leAt p 9 1 = 1 → u.inWindow (leAt p 0 1) = true →
    ∃ w : State, exec (.probeAck t seq p) s = .next w.intPoll ∧
      (∀ l, (u.label l).slot = leAt p 0 1 → (u.label l).state = .fenced → (u.label l).token = leAt p 1 8 →
        if (u.label l).wasClosing = true then (w.label l).state = .closing ∨ (w.label l).state = .erasing
        else (w.label l).state = .opened) ∧
      (∀ l, (u.label l).token ≠ leAt p 1 8 → w.label l = u.label l)) ∧
  (∀ (s u : State) (t : Nat) (seq : Byte) (p : Bytes), s.actsAt t u → u.hears 0x06 seq.toNat p → p.length = 10 →
    leAt p 0 1 ≤ 7 →
    (∀ l, (u.label l).slot = leAt p 0 1 → (u.label l).state.live = true → (u.label l).token ≠ leAt p 1 8) →
    exec (.probeAck t seq p) s = .next
      ((u.answered 0x06 seq.toNat p 0).record 3 0x0406 2
        (leBytes 1 (leAt p 0 1) ++ leBytes 1 0 ++ leBytes 8 (leAt p 1 8))).intPoll) ∧
  (∀ (s u : State) (t : Nat) (slot : BitVec 3) (w : Nat × Nat), s.actsAt t u →
    Tab.find u.cus.windows slot.toNat = some w → w.1 + w.2 ≤ u.now →
    ∃ v : State, exec (.debounceWindowEnd t slot) s = .next v.intPoll ∧
      (∀ l, (u.label l).slot = slot.toNat → (u.label l).state = .fenced →
        (v.label l).state = .erasing ∧ (v.label l).kData = [] ∧ (v.label l).kMem = [] ∧ (v.label l).kNoise = []) ∧
      (∀ l, (u.label l).slot ≠ slot.toNat → v.label l = u.label l))

/-- R74 to R76, R528, R479: a frame of the panel that is no repeat is answered with ACK and acted on, or with NAK and
its reason; a repeat gets the same answer again and does nothing else; a frame with a bad CRC is counted and answered
with NAK, one that is too long is not answered. HELLO is answered with SESSION, once the session key is made; an OFFER
that is taken is pending; WINDOW_READ is answered with WINDOW_DATA; ACK and NAK end a frame's wait, the ACK of SESSION
sets UP, after which the engine may send STATUS (log 67), and a NAK for a bad CRC has the frame repeated; FRAME_RESEND
repeats a frame three times before the link goes down, but COUNTER not below V_INHIBIT. -/
def Obligations.CustodyFrames : Prop :=
  (∀ (s u : State) (t : Nat) (seq : Byte) (p : Bytes), s.actsAt t u → u.hears 0x01 seq.toNat p → p.length = 10 →
    leAt p 8 2 = 1 → u.cus.sessionOk = true →
    let cert := (Config.sessionCert u.cus.sessionPub).take 768
    exec (.hello t seq p) s = .next
      ((u.answered 0x01 seq.toNat p 0).sendFrame 0x02 (u.cus.sessionPub ++ leBytes 2 cert.length ++ cert)).intPoll) ∧
  (∀ (s u : State) (t : Nat) (seq : Byte) (p : Bytes), s.actsAt t u → u.hears 0x01 seq.toNat p → p.length = 10 →
    leAt p 8 2 = 1 → u.cus.sessionOk = false →
    exec (.hello t seq p) s = .next
      ((u.answered 0x01 seq.toNat p 0).modCus fun c => { c with hellos := c.hellos + 1 }).intPoll) ∧
  (∀ (s u : State) (t k : Nat) (seq : Byte) (p : Bytes) (x : Received) (i : Instr), s.actsAt t u → u.pwr.phase ≠ .moult →
    (k, i) ∈ [(0x01, Instr.hello t seq p), (0x03, .offer t seq p), (0x06, .probeAck t seq p), (0x09, .counterAck t seq p),
      (0x0A, .windowRead t seq p)] →
    u.cus.rxLast = some x → x.seq = seq.toNat → x.crc = frameCrc k seq.toNat p →
    exec i s = .next ({ u with
      outputs := .custody x.ansType u.cus.txSeq x.answer :: u.outputs,
      cus := { u.cus with
        txSeq := (u.cus.txSeq + 1) % 256,
        lastNak := if x.ansType = 0x0F then leAt x.answer 1 1 else u.cus.lastNak } }).intPoll) ∧
  (∀ (s u : State) (t : Nat) (seq : Byte) (p : Bytes), s.actsAt t u → u.hears 0x03 seq.toNat p →
    let reason := u.judgeOffer p
    exec (.offer t seq p) s = .next
      (if reason = 0 then
        (u.answered 0x03 seq.toNat p 0).modCus fun c =>
          { c with offers := c.offers ++ [⟨p⟩], evt := c.evt.set 3 u.now }
       else (u.answered 0x03 seq.toNat p reason).record 3 0x0406 2
        (leBytes 1 (leAt p 0 1) ++ leBytes 1 reason ++ leBytes 8 (leAt p 1 8))).intPoll) ∧
  (∀ (u : State) (p : Bytes), u.judgeOffer p = 0 → p.length = 202 ∧ leAt p 0 1 ≤ 7 ∧ u.isPresent (leAt p 0 1) = true ∧
    u.matterHeld (leAt p 9 8) = false ∧ u.cus.offers.length < 256) ∧
  (∀ (s u : State) (t : Nat) (seq : Byte) (p : Bytes), s.actsAt t u → u.hears 0x0A seq.toNat p → p.length = 11 →
    leAt p 0 1 ≤ 4 → 288 ≤ leAt p 9 2 →
    let v := (u.answered 0x0A seq.toNat p 0).panelFree (leAt p 0 1) (leAt p 1 8)
    exec (.windowRead t seq p) s = .next
      ((v.sendFrame 0x0B (v.windowData (leAt p 0 1) (leAt p 1 8) (leAt p 9 2))).panelMark (leAt p 0 1) (leAt p 1 8)
        (leAt p 9 2)).intPoll) ∧
  (∀ (s u : State) (t : Nat) (seq n : Byte) (f : Frame), s.actsAt t u → u.pwr.phase ≠ .moult →
    u.awaits n.toNat = some f →
    let v := { u with cus := { u.cus with awaiting := u.cus.awaiting.filter fun x => x.seq != n.toNat } }
    exec (.ack t seq [n]) s = .next
      (if f.type = 2 then (List.range 8).foldl State.sendStatus { v with cus := { v.cus with linkUp := true } }
       else v).intPoll) ∧
  (∀ (s u : State) (t : Nat) (seq n r : Byte) (f : Frame), s.actsAt t u → u.pwr.phase ≠ .moult →
    u.awaits n.toNat = some f → r ≠ 1#8 →
    exec (.nak t seq [n, r]) s = .next
      { u with cus := { u.cus with awaiting := u.cus.awaiting.filter fun x => x.seq != n.toNat,
                                   lastNak := r.toNat } }.intPoll) ∧
  (∀ (s u : State) (t : Nat) (seq n : Byte) (f : Frame), s.actsAt t u → u.pwr.phase ≠ .moult →
    u.awaits n.toNat = some f →
    exec (.nak t seq [n, 1#8]) s = .next ({ u with cus := { u.cus with lastNak := 1 } }.resendFrame n.toNat).intPoll) ∧
  (∀ (s u : State) (t : Nat) (type seq : Byte), s.actsAt t u → u.pwr.phase ≠ .moult →
    let v := { u with cus := { u.cus with crcErr := u.cus.crcErr.add 16 1 u.now } }
    exec (.custodyFrameCrcError t type seq) s = .next
      (if type = 0x0E#8 ∨ type = 0x0F#8 then v
       else { v with
        outputs := .custody 0x0F u.cus.txSeq (leBytes 1 seq.toNat ++ leBytes 1 1) :: u.outputs,
        cus := { v.cus with txSeq := (u.cus.txSeq + 1) % 256, lastNak := 1 } }).intPoll) ∧
  (∀ (s u : State) (t : Nat) (seq : Byte) (f : Frame), s.actsAt t u → u.awaits seq.toNat = some f →
    (f.type ≠ 8 ∨ u.pwr.inhibitRail = 0) →
    ∃ w : State, exec (.frameResend t seq) s = .next w.intPoll ∧
      (if f.resends < 3 then
        w.outputs = .custody f.type f.seq f.payload :: u.outputs ∧ w.cus.resends = u.cus.resends.add 16 1 u.now ∧
          w.cus.linkUp = u.cus.linkUp
       else w.cus.linkUp = false ∧ w.outputs = u.outputs ∧ w.cus.evt = u.cus.evt.set 4 u.now)) ∧
  (∀ (s u : State) (t : Nat) (seq : Byte) (f : Frame), s.actsAt t u → u.awaits seq.toNat = some f → f.type = 8 →
    f.resends < 3 → u.pwr.inhibitRail ≠ 0 → exec (.frameResend t seq) s = .next u.intPoll) ∧
  (∀ (s u : State) (t : Nat), s.actsAt t u → exec (.frameLenExceeded t) s = .next u.intPoll)

/-- R101 to R103, R502: ARM_RECORDER_CLEAR, ARM_DEBUG_UNLOCK and RELOCK act on their kind of CUS_DC_REQ; BUTTON_CHANGE
notes when a button goes down; both buttons held for 1 s, pressed less than 500 ms apart, within 10 s of an arm grant
it, once a press; an arm and a grant end with their 10 s, an unlock with its minutes; a TAP instruction that is not
allowed leaves BYPASS, and the access that follows is made under the instruction that stands: HY_REG reads and writes
registers, an HY_MEM read of labelled memory returns zeros and a write of it is dropped, and under any other instruction
there is no access. -/
def Obligations.DualControl : Prop :=
  (∀ (s u : State) (t : Nat) (v : BitVec 32), s.actsAt t u →
    (v.toNat % 4 = 1 → exec (.armRecorderClear t v) s = .next
      { u with cus := { u.cus with armedKind := 1, armTick := u.now } }.intPoll) ∧
    (v.toNat % 4 = 2 → exec (.armDebugUnlock t v) s = .next
      { u with cus := { u.cus with armedKind := 2, armTick := u.now } }.intPoll) ∧
    (v.toNat % 4 = 3 → ∃ w : State, exec (.relock t v) s = .next w.intPoll ∧ w.cus.dbgUnlocked = false ∧
      (u.cus.dbgUnlocked = true → w.cus.evt = u.cus.evt.set 6 u.now))) ∧
  (∀ (s u : State) (t : Nat), s.actsAt t u → ∃ w : State, exec (.buttonChange t false true) s = .next w.intPoll ∧
    w.cus.btnA = some (u.cus.btnA.getD u.now) ∧ w.cus.btnB = u.cus.btnB) ∧
  (∀ (s u : State) (t : Nat), s.actsAt t u → ∃ w : State, exec (.buttonChange t true false) s = .next w.intPoll ∧
    w.cus.btnB = none ∧ w.cus.btnA = u.cus.btnA ∧ w.cus.acted = false) ∧
  (∀ (s u : State) (t a b : Nat), s.actsAt t u → u.cus.btnA = some a → u.cus.btnB = some b → u.cus.acted = false →
    max a b + 10 ^ 9 ≤ u.now → max a b - min a b < 5 * 10 ^ 8 → u.cus.armTick ≤ u.now →
    u.now < u.cus.armTick + 10 ^ 10 →
    ∃ w : State, exec (.dualControlAct t) s = .next w.intPoll ∧ w.cus.acted = true ∧
      (u.cus.armedKind = 1 → w.cus.clearGranted = true ∧ w.cus.grantEnd = u.cus.armTick + 10 ^ 10 ∧ w.cus.armedKind = 0 ∧
        w.cus.dbgUnlocked = u.cus.dbgUnlocked) ∧
      (u.cus.armedKind = 2 → w.cus.dbgUnlocked = true ∧ w.cus.armedKind = 0 ∧
        w.cus.dbgExpiry = u.now + u.cus.unlockMin.toNat * 60 * 10 ^ 9 ∧ w.cus.clearGranted = u.cus.clearGranted) ∧
      (u.cus.armedKind = 0 → w.cus.dbgUnlocked = u.cus.dbgUnlocked ∧ w.cus.clearGranted = u.cus.clearGranted)) ∧
  (∀ (s u : State) (t : Nat), s.actsAt t u → ∃ w : State, exec (.dualControlWindowEnd t) s = .next w.intPoll ∧
    (u.cus.armTick + 10 ^ 10 ≤ u.now → w.cus.armedKind = 0) ∧
    (u.cus.grantEnd ≤ u.now → w.cus.clearGranted = false)) ∧
  (∀ (s u : State) (t : Nat), s.actsAt t u → u.cus.dbgUnlocked = true → u.cus.dbgExpiry ≤ u.now →
    ∃ w : State, exec (.debugUnlockExpiry t) s = .next w.intPoll ∧ w.cus.dbgUnlocked = false ∧
      w.cus.evt = u.cus.evt.set 6 u.now) ∧
  (∀ (s u : State) (t : Nat) (i : TapInstr) (a : DebugAccess), s.actsAt t u →
    exec (.tapInstruction t ⟨i, a⟩) s = .next
      ({ u with cus := { u.cus with tap := (match i with
        | .bypass | .idcode | .sample => i
        | .extest | .clamp | .highz => if u.anyLive then .bypass else i
        | .hyReg | .hyMem => if u.dbgAllowed then i else .bypass
        | .hyTrace => if u.dbgAllowed && (u.claimOf 4 0).isSome then i else .bypass) } }.debugAccess a).intPoll) ∧
  (∀ (u : State) (off : BitVec 19) (w : Nat) (v : BitVec 64), u.cus.tap = .hyReg →
    u.debugAccess (.regRead off w) = u.busRead off.toNat w ∧
    u.debugAccess (.regWrite off w v) = u.busWrite off.toNat w v.toNat) ∧
  (∀ (u : State) (x : DebugUnit) (n : Nat) (d : Bytes), u.cus.tap = .hyMem → u.holdsLabel x = true →
    u.debugAccess (.memRead x n) = { u with outputs := .scan (zeroBytes n) :: u.outputs } ∧
    u.debugAccess (.memWrite x d) = u) ∧
  (∀ (u : State) (l : BitVec 10), u.holdsLabel (.keySlot l) = true) ∧
  (∀ (u : State) (a : DebugAccess), (a = .nothing ∨ (u.cus.tap ≠ .hyReg ∧ u.cus.tap ≠ .hyMem)) → u.debugAccess a = u)

/-- R271, R297, R170, R171: LOAD_RING_PROFILE, LOAD_PUBLIC_KEY and LOAD_DICTIONARY whose record passes its checks fill
their slot and answer the digest's, the fingerprint's first bytes or the highest token id; a record that fails
completes with its status and changes no slot, and so does one that finds too few enclave cells. A public key of a
matter that holds one is not loaded again. -/
def Obligations.TableLoads : Prop :=
  (∀ (s u : State) (t : Nat) (b data : Bytes), s.takesAdmin t 0x18 b u →
    let d := padTo (entLen b) data
    let slot := entStep b % 16
    let st := u.profileStatus (entLen b) slot d
    exec (.loadRingProfile t data) s = .next
      (if st ≠ 0 then u.adminDone b st 0
       else { u with profiles := Tab.put u.profiles slot (profileOf d) }.adminDone b 0 (leAt (sha384 d) 0 8)).intPoll) ∧
  (∀ (s u : State) (t : Nat) (b data : Bytes) (cs : List Nat), s.takesAdmin t 0x19 b u →
    let d := padTo (entLen b) data
    let l := entMatter b
    u.publicKeyStatus b d = 0 → Tab.find u.keyCache l = none → u.takeEnc ((entLen b + 65535) / 65536) = some cs →
    ∃ w : State, exec (.loadPublicKey t data) s = .next w.intPoll ∧
      (∃ k, Tab.find w.keyCache l = some k ∧ k.gen = (u.label l).gen ∧ k.cells = cs) ∧
      (∀ k, k ≠ l → Tab.find w.keyCache k = Tab.find u.keyCache k) ∧ w.pool.encUsed = u.pool.encUsed ++ cs ∧
      w.qg.due = u.qg.due ++ [complOf b 0 (leAt (u.label l).fingerprint 0 8)]) ∧
  (∀ (s u : State) (t : Nat) (b data : Bytes), s.takesAdmin t 0x19 b u →
    u.publicKeyStatus b (padTo (entLen b) data) ≠ 0 →
    exec (.loadPublicKey t data) s = .next
      (u.adminDone b (u.publicKeyStatus b (padTo (entLen b) data)) 0).intPoll) ∧
  (∀ (s u : State) (t : Nat) (b data : Bytes), s.takesAdmin t 0x19 b u →
    let d := padTo (entLen b) data
    u.publicKeyStatus b d = 0 →
    (Tab.find u.keyCache (entMatter b) ≠ none ∨ u.takeEnc ((entLen b + 65535) / 65536) = none) →
    exec (.loadPublicKey t data) s = .next
      (if Tab.find u.keyCache (entMatter b) = none then u.adminDone b 0x41 0
       else u.adminDone b 0 (leAt (u.label (entMatter b)).fingerprint 0 8)).intPoll) ∧
  (∀ (s u : State) (t : Nat) (b data : Bytes), s.takesAdmin t 0x1A b u →
    let d := padTo (entLen b) data
    u.dictionaryStatus b d = 0 → u.takeEnc (dctCells d) = none →
    exec (.loadDictionary t data) s = .next (u.adminDone b 0x41 0).intPoll) ∧
  (∀ (s u : State) (t : Nat) (b data : Bytes) (cs : List Nat), s.takesAdmin t 0x1A b u →
    let d := padTo (entLen b) data
    u.dictionaryStatus b d = 0 → u.takeEnc (dctCells d) = some cs →
    ∃ w : State, exec (.loadDictionary t data) s = .next w.intPoll ∧
      Tab.find w.dictSlots (entStep b % 256) = some u.nextDict ∧
      (∃ x, Tab.find w.dicts u.nextDict = some x ∧ x.label = entMatter b ∧ x.gen = entGen b ∧ x.digest = sha384 d ∧
        x.cells = cs ∧ x.highest = 260 + dctCount d) ∧
      w.qg.due = u.qg.due ++ [complOf b 0 (260 + dctCount d)]) ∧
  (∀ (s u : State) (t : Nat) (b data : Bytes), s.takesAdmin t 0x1A b u →
    u.dictionaryStatus b (padTo (entLen b) data) ≠ 0 →
    exec (.loadDictionary t data) s = .next
      (u.adminDone b (u.dictionaryStatus b (padTo (entLen b) data)) 0).intPoll)

/-! ### The event recorder -/

/-- R473 to R475: a record that does not coalesce and finds room is the new last record of its channel, with the
channel's next SEQ; one that coalesces adds 1 to REP of the last record and takes no SEQ; and a channel's records
never outgrow its partition. Every other channel keeps its records and its next SEQ. -/
def Obligations.EventRecords : Prop :=
  (∀ (s : State) (c code sev : Nat) (p : Bytes),
    coalesces s.erw.window.toNat s.now code (padPayload p) (s.chan c).records.getLast? = false →
    bytesOf (s.chan c).records + (32 + (padPayload p).length) ≤ partition c →
    let w := s.record c code sev p
    (w.chan c).next = (s.chan c).next + 1 ∧ (w.chan c).gap = false ∧ (w.chan c).lost = (s.chan c).lost ∧
      (w.chan c).records.length = (s.chan c).records.length + 1 ∧
      (w.chan c).records.getLast? = some
        { code := code, severity := sev, payload := padPayload p, gen := (s.chan c).gen, gap := (s.chan c).gap,
          pcc := s.pccNow, optime := s.optime, last := s.optime, seq := (s.chan c).next, first := s.now }) ∧
  (∀ (s : State) (c code sev : Nat) (p : Bytes) (r : Record), (s.chan c).records.getLast? = some r → r.code = code →
    r.payload = padPayload p → r.closed = false → r.free = false → r.first ≤ s.now →
    s.now < r.first + s.erw.window.toNat * 10 ^ 6 →
    let w := s.record c code sev p
    (w.chan c).next = (s.chan c).next ∧ (w.chan c).records.length = (s.chan c).records.length ∧
      (w.chan c).records.getLast? = some { r with rep := satAdd 16 r.rep 1, last := s.optime }) ∧
  (∀ (s : State) (c code sev : Nat) (p : Bytes), bytesOf (s.chan c).records ≤ partition c →
    32 + (padPayload p).length ≤ partition c → bytesOf ((s.record c code sev p).chan c).records ≤ partition c) ∧
  (∀ (s : State) (c k code sev : Nat) (p : Bytes), k ≠ c →
    let w := s.record c code sev p
    (w.chan k).next = (s.chan k).next ∧ (w.chan k).records.map Record.seq = (s.chan k).records.map Record.seq)

/-- R476 to R483: WINDOW_LOAD shows the record at the cursor, or that none is there, or DENIED for a channel that
debug unlock guards; FLUSH_ACK clears the acknowledged bits of UNACKED; RECORDER_FLUSH starts a flush and waits for
its end, waits for one that runs, and below V_INHIBIT is refused; with buffers too small for a flush it completes at
once, and nothing is written; FLUSH_END writes the records and then the header, completes the command that waits, and
begins the flush that was noted meanwhile; RECORDER_CLEAR with a token has it verified by the PK engine (R387); one
whose checks pass empties its channel, but for the record of the clear, after the flush that runs, and one that fails
changes no channel. -/
def Obligations.RecorderCommands : Prop :=
  (∀ (s u : State) (t : Nat) (v : BitVec 32), s.actsAt t u → v.toNat / 2 ^ 8 % 2 = 1 →
    let c := v.toNat % 8
    let cur := u.erw.cursor.toNat
    ∃ w : State, exec (.windowLoad t v) s = .next w.intPoll ∧ w.erw.winChan.toNat = c ∧
      ((c = 3 ∨ c = 4) ∧ u.cus.dbgUnlocked = false → w.erw.winDenied = true ∧ w.erw.winValid = false ∧ w.erw.winData = []) ∧
      (¬ ((c = 3 ∨ c = 4) ∧ u.cus.dbgUnlocked = false) → w.erw.winDenied = false ∧ w.erw.winGen = (u.chan c).hostGen ∧
        (∀ k, k ≠ c → w.chan k = u.chan k) ∧
        (∀ r, (u.chan c).at? cur = some r → w.erw.winValid = true ∧ w.erw.winSeq = r.seq ∧ w.erw.winNext = r.seq + 1 ∧
          w.erw.winData = r.bytes c) ∧
        ((u.chan c).at? cur = none → w.erw.winValid = false ∧ w.erw.winNext = cur ∧ w.erw.winData = []))) ∧
  (∀ (s u : State) (t : Nat) (v : BitVec 32), s.actsAt t u →
    exec (.flushAck t v) s = .next { u with erw := { u.erw with unacked := u.erw.unacked &&& ~~~(v.setWidth 2) } }.intPoll) ∧
  (∀ (s u : State) (t : Nat) (b : Bytes), s.takesAdmin t 0x31 b u → u.pwr.inhibitRail = 0 → u.erw.flush = none →
    flushMin ≤ u.erw.size.toNat →
    ∃ (w : State) (f : Flush), exec (.recorderFlush t) s = .next w.intPoll ∧ w.erw.flush = some f ∧ f.trigger = 4 ∧
      f.number = u.erw.number ∧ f.taken = clearable.flatMap (fun c => takenOf c (u.chan c) u.now) ∧
      w.erw.number = u.erw.number + 1 ∧ w.qg.run = some ⟨b, .flush⟩ ∧ (∀ k, 2 < k → w.chan k = u.chan k)) ∧
  (∀ (s u : State) (t : Nat) (b : Bytes), s.takesAdmin t 0x31 b u → u.pwr.inhibitRail ≠ 0 →
    exec (.recorderFlush t) s = .next (u.adminDone b 0x72 0).intPoll) ∧
  (∀ (s u : State) (t : Nat) (b : Bytes), s.takesAdmin t 0x31 b u → u.pwr.inhibitRail = 0 →
    (u.erw.flush ≠ none → exec (.recorderFlush t) s = .next (u.adminWaits b .flush).intPoll) ∧
    (u.erw.flush = none → u.erw.size.toNat < flushMin → exec (.recorderFlush t) s = .next
      ({ u with erw := { u.erw with evt := u.erw.evt.set 3 u.now } }.adminDone b 0 0).intPoll)) ∧
  (∀ (s u : State) (t : Nat) (f : Flush), s.actsAt t u → u.erw.flush = some f → u.stw.restarting = false →
    let data := f.taken.flatMap fun x => x.2.bytes x.1
    ∃ w : State, exec (.flushEnd t) s = .next w.nextFlush.intPoll ∧ w.erw.wait = u.erw.wait ∧
      (∀ b, u.qg.run = some ⟨b, .flush⟩ → w.qg.run = none ∧ w.qg.due = u.qg.due ++ [complOf b 0 0]) ∧
      (∀ b c a, u.qg.run = some ⟨b, .clear c a⟩ → c ≤ 2 → w.qg.run = none ∧ w.qg.due = u.qg.due ++ [complOf b 0 0]) ∧
      (u.qg.run = none → w.qg = u.qg ∧ w.erw.flush = none ∧
        w.erw.unacked = u.erw.unacked ||| BitVec.ofNat 2 (2 ^ f.buffer) ∧ w.erw.flushes = satAdd 16 u.erw.flushes 1 ∧
        w.outputs = .interior f.addr (f.header (bitOf u.erw.unacked.toNat f.buffer) data.length) ::
          (if data = [] then u.outputs else .interior ((f.addr + 64) % 2 ^ 64) data :: u.outputs))) ∧
  (∀ v : State, (v.erw.wait = none → v.nextFlush = v) ∧
    (∀ tr, v.erw.wait = some tr → v.pwr.inhibitRail = 0 →
      v.nextFlush = { v with erw := { v.erw with wait := none } }.issueFlush tr)) ∧
  (∀ (s u : State) (t : Nat) (b token : Bytes), s.takesAdmin t 0x30 b u →
    exec (.recorderClear t token) s = .next
      (if u.tokenAsks b token = true then u.pkAsk b .verify .recorder [] (.verify token)
       else if u.clearStatus b token ≠ 0 then u.adminDone b (u.clearStatus b token) 0
       else u.clearPassed b token).intPoll) ∧
  (∀ (u : State) (b token : Bytes), u.qg.run = some ⟨b, .pk (.verify token)⟩ → u.stw.restarting = false →
    u.tokenVerified b token false =
      (if u.clearStatus b token ≠ 0 then
        { u with qg := { u.qg with run := none, due := u.qg.due ++ [complOf b (u.clearStatus b token) 0] } }
       else u.clearPassed b token)) ∧
  (∀ (u : State) (b token : Bytes), u.clearStatus b token = 0 →
    let c := entLen b % 8
    let w := u.clearPassed b token
    (entCount b = 256 → w.erw.tokens = u.erw.tokens ++ [sha384 token]) ∧
    (entCount b ≠ 256 → w.cus.clearGranted = false) ∧
    (if u.erw.flush = none then
      w.qg.run = none ∧ w.qg.due = u.qg.due ++ [complOf b 0 0] ∧
      (w.chan c).gen = ((u.chan c).gen + 1) % 256 ∧ (w.chan c).records.map Record.code = [1]
     else w.qg.run = some ⟨b, .clear c (if entCount b = 256 then 1 else 0)⟩ ∧ w.erw.chans = u.erw.chans ∧
      w.qg.due = u.qg.due))

/-! ### The PK engine -/

/-- R386, R387, R392 to R395: PK_JOB whose checks pass makes its job wait, and one that fails completes with the
status of its first failing check; a job that another admin command asks for waits in the same place. On an idle
engine the next job is a start-up job, else the host's or the manifests', in turn when both wait; SIGN, VERIFY,
KEYPAIR, ECDH and CURVE start it when it is theirs; a host job whose key is gone completes with RESOURCE_REFUSED. A
running engine starts nothing. KEY_SLOT_CLEAR empties its slot, when the running job uses it at that job's end, and
for slot 0 is an ignored write. -/
def Obligations.PkJobStarts : Prop :=
  (∀ (s u : State) (t : Nat) (b desc operands : Bytes), s.takesAdmin t 0x28 b u →
    (∀ j, u.pkChecks b desc operands = .ok j → exec (.pkJob t desc operands) s = .next
      { u with
        pke := { u.pke with admin := some j },
        qg := { u.qg with run := some ⟨b, .pkJob⟩ } }.intPoll) ∧
    (∀ e, u.pkChecks b desc operands = .error e → exec (.pkJob t desc operands) s = .next (u.adminDone b e 0).intPoll)) ∧
  (∀ (u : State) (b data : Bytes) (op : PkOp) (client : PkClient) (step : PkStep),
    u.pkAsk b op client data step = { u with
      pke := { u.pke with admin := some { op := op, client := client, slot := 1, hash := 2, data := data } },
      qg := { u.qg with run := some ⟨b, .pk step⟩ } }) ∧
  (∀ (u : State) (op : PkOp) (rest : List PkOp), u.pke.startup = op :: rest →
    ∃ j, u.nextPk = some j ∧ j.op = op ∧ j.client = .startup) ∧
  (∀ (u : State) (a : PkJob), u.pke.startup = [] → u.pke.admin = some a →
    (u.pke.manifests = [] ∨ u.pke.ended = false ∨ u.pke.lastManifest = true) → u.nextPk = some a) ∧
  (∀ (u : State) (n : Nat) (rest : List Nat), u.pke.startup = [] → u.pke.manifests = n :: rest →
    (u.pke.admin = none ∨ (u.pke.ended = true ∧ u.pke.lastManifest = false)) →
    ∃ j, u.nextPk = some j ∧ j.op = .sign ∧ j.client = .manifests ∧ j.manifest = n) ∧
  (∀ (s u : State) (t draw : Nat) (j : PkJob), s.actsAt t u → u.pke.running = none → u.nextPk = some j →
    u.keyGone j = false →
    let w := fun d => { u with
      pke := { u.pke.takeJob j with running := some { j with start := u.now, dur := u.runTime j, draw := d } } }
    (j.op = .sign → exec (.sign t) s = .next (w 0).intPoll) ∧
    (j.op = .verify → exec (.verify t) s = .next (w 0).intPoll) ∧
    (j.op = .keypair → exec (.keypair t draw) s = .next (w draw).intPoll) ∧
    (j.op = .ecdh → exec (.ecdh t) s = .next (w 0).intPoll) ∧
    (j.op = .curve → exec (.curve t) s = .next (w 0).intPoll)) ∧
  (∀ (s u : State) (t : Nat) (j : PkJob), s.actsAt t u → u.pke.running = none → u.nextPk = some j → u.keyGone j = true →
    let w := State.finishAdmin { u with pke := u.pke.takeJob j } 0x40 0
    (j.op = .sign → exec (.sign t) s = .next w.intPoll) ∧ (j.op = .ecdh → exec (.ecdh t) s = .next w.intPoll)) ∧
  (∀ (s u : State) (t draw : Nat), s.actsAt t u → u.pke.running ≠ none →
    ∀ c ∈ [Instr.sign t, .verify t, .keypair t draw, .ecdh t, .curve t], exec c s = .next u.intPoll) ∧
  (∀ (s u : State) (t : Nat) (v : BitVec 32), s.actsAt t u → v.toNat / 16 % 2 = 1 →
    let k := v.toNat % 16
    let used := ∃ j, u.pke.running = some j ∧ j.client = .host ∧ j.key = k ∧ (j.op = .sign ∨ j.op = .ecdh ∨ j.keep = true)
    (k = 0 → exec (.keySlotClear t v) s = .next (u.opsWrite 0x21008 v.toNat).intPoll) ∧
    (k ≠ 0 → ¬ used →
      exec (.keySlotClear t v) s = .next { u with pke := { u.pke with keys := Tab.del u.pke.keys k } }.intPoll) ∧
    (k ≠ 0 → used →
      exec (.keySlotClear t v) s = .next { u with pke := { u.pke with clearing := u.pke.clearing ++ [k] } }.intPoll))

/-- R386, R395 to R403, R309: PK_JOB_END acts at the end of a job's one run, or of its two when one failed its check;
the corrected errors of job memory and the failed runs are counted, and failed runs are discarded with one FAULT
record; a job that fails twice completes with INTERNAL_ERROR and writes nothing. A host job completes with the status
of its outcome, its result written where the descriptor says; the session KEYPAIR makes the session key and the
certificate's VERIFY gives its verdict; a manifest's signature has the manifest written, unless its matter is fenced
(R89); a job that an admin command asked for has that command go on, unless the command has ended meanwhile. -/
def Obligations.PkJobEnds : Prop :=
  (∀ (s u : State) (t : Nat) (n : BitVec 2) (c : BitVec 16) (j : PkJob), s.actsAt t u → u.pke.running = some j →
    u.now < (if n = 0 then j.start + j.dur else j.start + 2 * j.dur) →
    exec (.pkJobEnd t ⟨n, c⟩) s = .next u.intPoll) ∧
  (∀ (s u v : State) (t : Nat) (n : BitVec 2) (c : BitVec 16) (j : PkJob), s.actsAt t u → u.pke.running = some j →
    (if n = 0 then j.start + j.dur else j.start + 2 * j.dur) ≤ u.now →
    v = (let w := if c = 0 then u else { u with pke := { u.pke with eccCe := u.pke.eccCe.add 16 c.toNat u.now } };
         if n = 0 then w
         else { w with pke := { w.pke with outchk := w.pke.outchk.add 16 n.toNat w.now } }.record 1 0x0115 3
           (leBytes 1 0 ++ leBytes 1 0 ++ (leBytes 1 j.op.code ++ leBytes 1 j.slot))) →
    let aborted := decide (2 ≤ n.toNat)
    exec (.pkJobEnd t ⟨n, c⟩) s = .next
      ((match j.client with
        | .startup => v.endStartup j aborted
        | .manifests => v.endManifest j aborted
        | .host => v.endHostJob j aborted
        | _ => match u.qg.run with
          | some ⟨b, .pk step⟩ => if j.orphan = true then v else v.pkStep b step aborted
          | _ => v).modPke fun p => p.afterJob j).intPoll) ∧
  (∀ (p : Pke) (j : PkJob), (p.afterJob j).running = none ∧ (p.afterJob j).jobs = (p.jobs + 1) % 2 ^ 64 ∧
    (p.clearing = [] → (p.afterJob j).keys = p.keys)) ∧
  (∀ (u : State) (j : PkJob) (b : Bytes), u.qg.run = some ⟨b, .pkJob⟩ → ∀ aborted,
    let o := if aborted = true then (0x60, []) else u.pkOutcome j
    let w := u.endHostJob j aborted
    w.qg.run = none ∧
    (o.1 = 0 → w.qg.due = u.qg.due ++ [complOf b 0 o.2.length] ∧
      w.outputs = if o.2 = [] then u.outputs else .interior j.outAddr o.2 :: u.outputs) ∧
    (o.1 ≠ 0 → w.qg.due = u.qg.due ++ [complOf b o.1 0] ∧ w.outputs = u.outputs)) ∧
  (∀ (u : State) (j : PkJob) (aborted : Bool),
    let w := u.endStartup j aborted
    (j.op = .keypair → aborted = false → w.cus.sessionOk = true ∧ w.cus.sessionD = keyOfDraw curveP384 j.draw ∧
      w.cus.sessionPub = encodePoint curveP384 (pointMul curveP384 w.cus.sessionD curveP384.gen) ∧
      w.cus.sessionFp = sha384 w.cus.sessionPub) ∧
    (j.op = .keypair → aborted = true → w = u) ∧
    (j.op = .verify → w.pwr.certDone = true ∧ w.cus.sessionOk = u.cus.sessionOk ∧
      (aborted = false → u.sil.cert.ok = true → w.sil.certOk = true ∧ w.sil.grade = u.sil.cert.grade) ∧
      (aborted = true → w.sil.certOk = u.sil.certOk))) ∧
  (∀ (u : State) (j : PkJob) (m : Manifest), Tab.find u.pke.held j.manifest = some m →
    let sig := sign384 u.cus.sessionD m.body
    (u.runFenced m.run = false →
      .interior m.addr (m.body ++ sig ++ zeroBytes 32) ∈ (u.endManifest j false).outputs) ∧
    (u.runFenced m.run = true → u.endManifest j false = { u with
      pke := { u.pke with held := Tab.put u.pke.held j.manifest { m with signature := some sig } } })) ∧
  (∀ (u : State) (b d : Bytes) (l : Nat) (a : Bool),
    u.pkStep b (.sign d) a = u.contextSigned b d a ∧ u.pkStep b (.certificate d) a = u.certificateVerified b d a ∧
    u.pkStep b (.agree l d) a = u.openAgreed b l d a ∧
    u.pkStep b (.verify d) a = (match entOp b with
      | 0x08 => u.imageVerified b d a
      | 0x0A => u.recordVerified b d a
      | 0x10 => u.openVerified b d a
      | 0x30 => u.tokenVerified b d a
      | _ => u.contextVerified b d a)) ∧
  (∀ (u : State) (j : PkJob) (x : CurveSlot), u.curveAt j.slot = some x →
    let d := u.jobScalar j x.curve.w
    (j.op = .sign → scalarOk x.curve d = false → u.pkOutcome j = (0x80, [])) ∧
    (j.op = .ecdh → scalarOk x.curve d = false → u.pkOutcome j = (0x80, [])) ∧
    (j.op = .verify → (u.pkOutcome j).1 = verifyOutcome x.curve j ∧ (u.pkOutcome j).2 = []) ∧
    (j.op = .keypair → (u.pkOutcome j).1 = 0)) ∧
  (∀ (u : State) (j : PkJob), j.op = .curve → u.pkOutcome j = (if curveLoad j.data = none then 0x82 else 0, [])) ∧
  (∀ (u : State) (j : PkJob), j.op = .curve → 3 ≤ j.slot → j.slot < 16 →
    (u.pkStore j).curveAt j.slot =
      match curveLoad j.data with
      | none => u.curveAt j.slot
      | some c => some { curve := c, digest := sha384 j.data })

/-! ### Time, supply and start -/

/-- R407, R408, R491, R411: COUNT_WORD with the count that the next tick has keeps a lock and, the second time in a
row, makes one; another loses it. TIMING_RELOCK with a higher count steps GCNT forward and locks it, with a lower one
holds GCNT, which locks once it moves on. DIE_NUMBER_WORD sets the die number once. TIMER_TICK counts the tick of a
claimed timer once. -/
def Obligations.TimeCommands : Prop :=
  (∀ (s u : State) (t : Nat) (x : BitVec 64), s.actsAt t u → u.pwr.phase ≠ .moult → u.time.locked = true →
    (x.toNat = u.now + 1 → exec (.countWord t x) s = .next u.intPoll) ∧
    (x.toNat ≠ u.now + 1 → ∃ w : State, exec (.countWord t x) s = .next w.intPoll ∧ w.time.locked = false ∧
      w.time.holdover = true ∧ w.now = u.now)) ∧
  (∀ (s u : State) (t : Nat) (x : BitVec 64), s.actsAt t u → u.pwr.phase ≠ .moult → u.time.locked = false →
    x.toNat = u.now + 1 →
    ∃ w : State, exec (.countWord t x) s = .next w.intPoll ∧ w.now = u.now ∧
      w.time.matches_ = u.time.matches_ + 1 ∧ w.time.locked = decide (1 ≤ u.time.matches_)) ∧
  (∀ (s u : State) (t : Nat) (x : BitVec 64), s.actsAt t u → u.pwr.phase ≠ .moult → u.time.locked = false →
    u.time.holdover = false → u.now + 1 < x.toNat →
    exec (.countWord t x) s = .next { u with time := { u.time with matches_ := 1, gcnt := x.toNat - 1 } }.intPoll) ∧
  (∀ (s u : State) (t : Nat), s.actsAt t u →
    (u.time.locked = false → exec (.timingLost t) s = .next u.intPoll) ∧
    (u.time.locked = true → ∃ w : State, exec (.timingLost t) s = .next w.intPoll ∧
      w.time = { u.time with locked := false, holdover := true, holding := false, matches_ := 0 })) ∧
  (∀ (s u : State) (t : Nat) (x : BitVec 64), s.actsAt t u → u.time.holdover = true → u.time.holding = false →
    ∃ w : State, exec (.timingRelock t x) s = .next w.intPoll ∧
      (u.now < x.toNat → w.now = x.toNat ∧ w.time.locked = true ∧ w.time.holdover = false ∧
        w.time.steps = u.time.steps.add 16 1 x.toNat) ∧
      (x.toNat < u.now → w.now = u.now ∧ w.time.holding = true ∧ w.time.locked = u.time.locked ∧
        w.time.holds = u.time.holds.add 16 1 u.now) ∧
      (x.toNat = u.now → w.now = u.now ∧ w.time.locked = true ∧ w.time.holdover = false)) ∧
  (∀ (s : State) (t : Nat), s.pwr.inReset = false → s.time.gcnt < t → s.time.holding = true →
    (s.tickTo t).time.locked = true ∧ (s.tickTo t).time.holdover = false ∧ (s.tickTo t).time.holding = false) ∧
  (∀ (s u : State) (t : Nat) (d : BitVec 32), s.actsAt t u → u.pwr.phase ≠ .moult →
    ∃ w : State, exec (.dieNumberWord t d) s = .next w.intPoll ∧ w.gctl.dieValid = true ∧
      w.gctl.die = if u.gctl.dieValid then u.gctl.die else d) ∧
  (∀ (s u : State) (t : Nat) (i : BitVec 4) (c : Claim), s.actsAt t u → u.claimOf 1 i.toNat = some c → c.tick < u.now →
    c.arg ≠ 0 → u.now % c.arg = 0 →
    let x : Timer := Tab.getD u.time.timers i.toNat {}
    exec (.timerTick t i) s = .next
      (if x.last = some u.now then u
       else { u with time := { u.time with
        timers := Tab.put u.time.timers i.toNat { ticks := x.ticks.add 16 1 u.now, last := some u.now } } }).intPoll)

/-- R441 to R443, R478, R504: a rail that enters V_WARN or V_INHIBIT sets its bit; the engine's entry sets the event,
and at V_WARN begins the power flush; V_INHIBIT_EXIT of the last rail lets the flush that waits begin; V_WARN_EXIT
clears the bits of its rails; PWR_FAIL_n erases every matter and begins the power flush, and its latch stays when it
is released. In reset it is the cause of the reset (R430). -/
def Obligations.SupplyCommands : Prop :=
  (∀ (s u : State) (t : Nat) (r : BitVec 2), s.actsAt t u → u.pwr.warnRail.toNat / 2 ^ r.toNat % 2 = 0 →
    ∃ w : State, exec (.vWarnEntry t r) s = .next w.intPoll ∧
      w.pwr.warnRail = u.pwr.warnRail ||| BitVec.ofNat 4 (2 ^ r.toNat) ∧ w.pwr.inhibitRail = u.pwr.inhibitRail ∧
      (u.pwr.warnRail = 0 → u.pwr.inhibitRail = 0 → w.pwr.evt = u.pwr.evt.set 0 u.now ∧
        (flushMin ≤ u.erw.size.toNat → w.erw.flush ≠ none ∧ w.pwr.flushActive = true)) ∧
      (u.pwr.warnRail ≠ 0 ∨ u.pwr.inhibitRail ≠ 0 → w.pwr.evt = u.pwr.evt)) ∧
  (∀ (s u : State) (t : Nat) (r : BitVec 2), s.actsAt t u → u.pwr.inhibitRail.toNat / 2 ^ r.toNat % 2 = 0 →
    ∃ w : State, exec (.vInhibitEntry t r) s = .next w.intPoll ∧
      w.pwr.inhibitRail = u.pwr.inhibitRail ||| BitVec.ofNat 4 (2 ^ r.toNat) ∧ w.pwr.warnRail = u.pwr.warnRail ∧
      w.pwr.evt = (if u.pwr.inhibitRail = 0 then u.pwr.evt.set 1 u.now else u.pwr.evt)) ∧
  (∀ (s u : State) (t : Nat) (r : BitVec 2), s.actsAt t u →
    ∃ w : State, exec (.vInhibitExit t r) s = .next w.intPoll ∧
      w.pwr.inhibitRail = u.pwr.inhibitRail &&& ~~~(BitVec.ofNat 4 (2 ^ r.toNat)) ∧
      (∀ tr, w.pwr.inhibitRail = 0 → u.erw.flush = none → u.erw.wait = some tr → flushMin ≤ u.erw.size.toNat →
        w.erw.wait = none ∧ ∃ f : Flush, w.erw.flush = some f ∧ f.trigger = tr)) ∧
  (∀ (s u : State) (t : Nat) (m : BitVec 4), s.actsAt t u →
    exec (.vWarnExit t m) s = .next { u with pwr := { u.pwr with warnRail := u.pwr.warnRail &&& ~~~m } }.intPoll) ∧
  (∀ (s u : State) (t : Nat), s.actsAt t u →
    ∃ w : State, exec (.pwrFailAssert t) s = .next w.intPoll ∧ w.pwr.pf = true ∧ w.pwr.pfLatched = true ∧
      (∀ l, (u.label l).state = .opened ∨ (u.label l).state = .fenced ∨ (u.label l).state = .closing →
        (w.label l).state = .erasing ∧ (w.label l).kData = [] ∧ (w.label l).kMem = [])) ∧
  (∀ (s : State) (t : Nat), s.pwr.inReset = true →
    exec (.pwrFailAssert t) s = .next { s with pwr := { s.pwr with pf := true, resetCause := 3 } }.intPoll) ∧
  (∀ (s u : State) (t : Nat), s.actsAt t u →
    exec (.pwrFailDeassert t) s = .next { u with pwr := { u.pwr with pf := false } }.intPoll) ∧
  (∀ (s : State) (t : Nat), s.pwr.inReset = true → exec (.pwrFailDeassert t) s = .next
    { s with pwr := { s.pwr with pf := false, resetCause := if s.pwr.pf then 3 else s.pwr.resetCause } }.intPoll)

/-- R430, R529: RESET returns every register to its reset value but PWR_STAT's cause, and holds the engine;
RESET_RELEASE frees it, unless PWR_FAIL_n still holds it. -/
def Obligations.ResetCommands : Prop :=
  (∀ (s : State) (t : Nat) (rails : BitVec 4),
    let w := fun cause r => { State.reset with
      pwr := { State.reset.pwr with inReset := true, resetCause := cause, resetRail := r, pf := s.pwr.pf },
      outputs := s.outputs, fresh := s.fresh, pending := s.pending }
    exec (.reset t .die) s = .next (w 1 0#4) ∧ exec (.reset t (.rails rails)) s = .next (w 2 rails)) ∧
  (∀ (s : State) (t : Nat), s.pwr.inReset = true →
    exec (.resetRelease t) s = .next (if s.pwr.pf then s else { s with pwr := { s.pwr with inReset := false } }).intPoll)

/-- R431 to R435, R357: START_MOULT_DONE begins phase ROM, runs the Steward and brings the root of trust's facts;
K_CTL_DERIVED and LOCK_WAIT_EXPIRY add their pieces of the phase, which ends once all are there; REGION_SELFTEST_END
passes its region or takes it out of service and goes on to the next; the last one ends in READY, or, with no image
active or more than three regions out, in FAILED. HOST_VALUES_COMMIT takes the host's values once. -/
def Obligations.StartCommands : Prop :=
  (∀ (s u : State) (t : Nat) (facts : StartFacts), s.actsAt t u → u.pwr.phase = .moult →
    ∃ w : State, exec (.startMoultDone t facts) s = .next w.intPoll ∧ w.pwr.phase = .rom ∧ w.stw.running = true ∧
      w.pwr.romStart = u.now ∧ w.pke.startup = [.keypair, .verify] ∧ w.sil.imageKeys = facts.imageKeys ∧
      w.sil.manifestKeys = facts.manifestKeys ∧ w.sil.tokenKeys = facts.tokenKeys ∧ w.sil.cert = facts.cert) ∧
  (∀ (s u : State) (t : Nat) (e : Bytes), s.actsAt t u → u.pwr.phase = .rom → u.emc.ctlKeyOk = false →
    ∃ w : State, exec (.kCtlDerived t e) s = .next w.intPoll ∧ w.emc.ctlKeyOk = true ∧
      w.emc.ctlKey = hkdf384 [] e (asciiBytes "HYNUS-K-CTL-1") 64 ∧
      (let ends := u.cus.sessionOk = true ∧ u.pwr.certDone = true ∧ (u.time.locked = true ∨ u.pwr.lockWaitDone = true)
       (ends → w.pwr.phase = .selftest ∧ (w.region 0).test = .testing) ∧ (¬ ends → w.pwr.phase = .rom))) ∧
  (∀ (s u : State) (t : Nat), s.actsAt t u → u.pwr.phase = .rom → u.time.locked = false → u.pwr.lockWaitDone = false →
    u.pwr.romStart + 10 ^ 8 ≤ u.now →
    ∃ w : State, exec (.lockWaitExpiry t) s = .next w.intPoll ∧ w.pwr.lockWaitDone = true ∧ w.time.holdover = true ∧
      (w.pwr.phase = if u.cus.sessionOk = true ∧ u.pwr.certDone = true ∧ u.emc.ctlKeyOk = true then .selftest else .rom)) ∧
  (∀ (s u : State) (t : Nat) (r : BitVec 3) (x : TestResult), s.actsAt t u → (u.region r.toNat).test = .testing →
    u.pwr.enclaveTested = true → u.stw.restarting = false → r ≠ 7#3 →
    ∃ w : State, exec (.regionSelftestEnd t r x) s = .next w.intPoll ∧
      (w.region r.toNat).test = (if x.switchOk = true ∧ x.poolOk = true ∧ x.genOk = true then .passed else .outOfService) ∧
      (w.region (r.toNat + 1)).test = .testing) ∧
  (∀ (u : State), u.qg.run = none →
    (u.testsEnd.pwr.phase = if 3 < u.outCount ∨ u.sil.active = none then .failed else .ready) ∧
    (3 < u.outCount ∨ u.sil.active = none → u.testsEnd.faults.halt = true)) ∧
  (∀ (s u : State) (t : Nat) (x : TestResult), s.actsAt t u → (u.region 7).test = .testing → u.pwr.enclaveTested = true →
    u.stw.restarting = false →
    ∃ v : State, exec (.regionSelftestEnd t 7#3 x) s = .next v.testsEnd.intPoll ∧
      (v.region 7).test = (if x.switchOk = true ∧ x.poolOk = true ∧ x.genOk = true then .passed else .outOfService)) ∧
  (∀ (s u : State) (t : Nat) (v : BitVec 32), s.actsAt t u →
    (v.toNat % 2 = 0 → exec (.hostValuesCommit t v) s = .next u.intPoll) ∧
    (v.toNat % 2 = 1 → u.time.optimeValid = true →
      exec (.hostValuesCommit t v) s = .next (u.opsWrite 0x502C v.toNat).intPoll) ∧
    (v.toNat % 2 = 1 → u.time.optimeValid = false → exec (.hostValuesCommit t v) s = .next
      { u with
        time := { u.time with
          optimeValid := true, optime0 := u.pwr.hostOptime.toNat, g0 := u.now, pcc := u.pwr.hostPcc },
        pwr := { u.pwr with hostValues := true } }.intPoll))

/-- R427: a GO whose query runs is answered at once: IDENT by the firmware version and the restart count, SELFTEST by
the reports of the region that the argument names, STATS by the last snapshot; a query while one is in progress is an
ignored write; one that the Steward cannot answer yet stays in progress. -/
def Obligations.MailboxQueries : Prop :=
  (∀ (s u : State) (t : Nat) (v : BitVec 32), s.actsAt t u → v.toNat / 2 ^ 8 % 2 = 1 → u.stw.busy = false →
    u.stw.running = true → u.stw.restarting = false →
    let answer := fun k result rsp => { u with
      stw := { u.stw with code := k, result := result, rsp := rsp, busy := false } }
    let region := ((Tab.getD u.stw.args 0 0).toNat)
    let g := u.region region
    (v.toNat % 256 = 1 → exec (.ident t v) s = .next
      (answer 1 0 [Config.firmwareVersion 0 % 2 ^ 32, u.stw.count, 0, 0, 0, 0, 0, 0]).intPoll) ∧
    (v.toNat % 256 = 2 → region < 8 → exec (.selftest t v) s = .next
      (answer 2 0 [g.mPass.toNat + 2 ^ 16 * g.sPass.toNat, g.vcPass.toNat,
        Config.regionRetired region u.retiredPcs % 2 ^ 32, ofBool (u.inService region), 0, 0, 0, 0]).intPoll) ∧
    (v.toNat % 256 = 2 → 8 ≤ region → exec (.selftest t v) s = .next
      (answer 2 0x12 [0, 0, 0, 0, 0, 0, 0, 0]).intPoll) ∧
    (v.toNat % 256 = 3 → exec (.stats t v) s = .next
      (answer 3 0 [u.stw.snapGcnt % 2 ^ 32, u.stw.snapGcnt / 2 ^ 32 % 2 ^ 32, u.stw.snapSealed % 2 ^ 32,
        u.stw.snapSealed / 2 ^ 32 % 2 ^ 32, u.stw.snapVoided % 2 ^ 32, u.stw.snapVoided / 2 ^ 32 % 2 ^ 32,
        if u.stw.shedding then 2 else 0, ofBool u.stw.shedding]).intPoll)) ∧
  (∀ (s u : State) (t : Nat) (v : BitVec 32), s.actsAt t u → v.toNat / 2 ^ 8 % 2 = 1 →
    let w := if u.stw.busy then u.opsWrite 0x20020 v.toNat
      else { u with stw := { u.stw with busy := true, code := v.toNat % 256 } }
    (u.stw.busy = true ∨ u.stw.running = false ∨ u.stw.restarting = true) →
    (v.toNat % 256 = 1 → exec (.ident t v) s = .next w.intPoll) ∧
    (v.toNat % 256 = 2 → exec (.selftest t v) s = .next w.intPoll) ∧
    (v.toNat % 256 = 3 → exec (.stats t v) s = .next w.intPoll))

/-- R420 to R426: a watchdog expiry or a memory error restarts a Steward that runs, with its cause and its count; a
third restart within 60 s enters Halt-safe instead; STEWARD_RESTART_END runs it again and completes the command that
waits for it; LOAD_WINDOW_END keeps the load and begins or ends shedding at the tenth window in a row; STATS_SWEEP
takes a snapshot unless the Steward sheds. -/
def Obligations.StewardCommands : Prop :=
  (∀ (s u : State) (t : Nat) (rom : Bool), s.actsAt t u → u.stw.running = true → u.stw.restarting = false →
    (∀ a x rest, u.stw.starts = a :: x :: rest → x + 60 * 10 ^ 9 ≤ u.now) →
    (∃ w : State, exec (.stewardWatchdogExpiry t) s = .next w.intPoll ∧ w.stw =
      { u.stw with
        running := false, restarting := true, count := satAdd 16 u.stw.count 1, cause := 1,
        starts := u.now :: u.stw.starts }) ∧
    (∃ w : State, exec (.stewardMemoryError t rom) s = .next w.intPoll ∧ w.stw =
      { u.stw with
        running := false, restarting := true, count := satAdd 16 u.stw.count 1, cause := if rom then 2 else 3,
        starts := u.now :: u.stw.starts })) ∧
  (∀ (s u : State) (t a x : Nat) (rest : List Nat) (rom : Bool), s.actsAt t u → u.stw.running = true →
    u.stw.restarting = false → u.stw.starts = a :: x :: rest → u.now < x + 60 * 10 ^ 9 → u.faults.halt = false →
    ∀ c ∈ [Instr.stewardWatchdogExpiry t, .stewardMemoryError t rom],
      ∃ w : State, exec c s = .next w.intPoll ∧ w.stw.running = false ∧ w.faults.halt = true ∧ w.faults.haltCause = 3) ∧
  (∀ (s u : State) (t : Nat), s.actsAt t u → u.stw.restarting = true → u.stw.busy = false → u.stw.above < 10 →
    u.stw.below < 10 → (∀ r < 8, (u.region r).foldWait = none ∧ (u.region r).leapWait = none) →
    ∃ w : State, exec (.stewardRestartEnd t) s = .next w.intPoll ∧
      w.stw = { u.stw with restarting := false, running := true } ∧
      (∀ b st x, u.qg.run = some ⟨b, .done st x⟩ → w.qg.run = none ∧ w.qg.due = u.qg.due ++ [complOf b st x]) ∧
      ((∀ b st x, u.qg.run ≠ some ⟨b, .done st x⟩) → w.qg = u.qg)) ∧
  (∀ (s u : State) (t busy : Nat), s.actsAt t u → u.now % 10 ^ 6 = 0 →
    let n := min busy 1000
    let above := if 900 < n then u.stw.above + 1 else 0
    let below := if n ≤ 750 then u.stw.below + 1 else 0
    ∃ w : State, exec (.loadWindowEnd t busy) s = .next w.intPoll ∧ w.stw.last = n ∧
      w.stw.peak = (if u.stw.peak.val < n then u.stw.peak.put n u.now else u.stw.peak) ∧
      w.stw.above = above ∧ w.stw.below = below ∧
      (w.stw.shedding = if u.stw.restarting then u.stw.shedding
        else if u.stw.shedding then decide (below < 10) else decide (10 ≤ above))) ∧
  (∀ (s u : State) (t : Nat), s.actsAt t u → exec (.statsSweep t) s = .next
    (if u.stw.running = true ∧ u.stw.restarting = false ∧ u.stw.shedding = false ∧ u.stw.snapGcnt + 10 ^ 8 ≤ u.now then
      { u with
        stw := { u.stw with snapGcnt := u.now, snapSealed := u.stw.sealed, snapVoided := u.stw.voided } }
     else u).intPoll)

/-! ### Pools and enclave memory -/

/-- R369 to R374: a request while BUSY is counted, recorded and changes nothing else; one that fails a check answers
its status and changes no buffer; ALLOC takes the lowest entry and its cells; SHARE adds its queues and passes the
free right to the last; RELEASE removes an owner; FREE by the free right holder returns the buffer that no other queue
owns and no taken entry names, and else parks it. RELEASE by that holder and FREE by another owner are protocol
errors, and act as the other of the two. POOL_CELL_GRANT gives the request that is first for its pool the cells it
finds, and the stages that waited work on (R371, R32). -/
def Obligations.PoolRequests : Prop :=
  (∀ (s u : State) (t : Nat) (v : BitVec 32), s.actsAt t u → u.now < u.pool.busyTil →
    let w := State.opsWrite { u with pool := { u.pool with refused := u.pool.refused.add 16 1 u.now } } 0x28008 v.toNat
    ∀ c ∈ [(1, Instr.alloc t v), (2, .share t v), (3, .release t v), (4, .free t v)],
      v.toNat % 8 = c.1 → exec c.2 s = .next w.intPoll) ∧
  (∀ (s u : State) (t : Nat) (v : BitVec 32), s.actsAt t u → u.pool.busyTil ≤ u.now → u.reqStatus v.toNat ≠ 0 →
    ∀ c ∈ [(1, Instr.alloc t v), (2, .share t v), (3, .release t v), (4, .free t v)],
      v.toNat % 8 = c.1 → exec c.2 s = .next
        { u with
          pool := { u.pool with
            busyTil := u.poolDone v.toNat, rspStatus := u.reqStatus v.toNat,
            rspHandle := if c.1 = 1 then u.pool.rspHandle else u.pool.reqArg.toNat } }.intPoll) ∧
  (∀ (s u : State) (t : Nat) (v : BitVec 32), s.actsAt t u → u.pool.busyTil ≤ u.now → u.reqStatus v.toNat = 0 →
    v.toNat % 8 = 1 →
    let res := if reqRes v.toNat = 0x7F then none else some (reqRes v.toNat)
    let q := reqQueue v.toNat
    ∃ (w : State) (enc : Bool) (cs : List Nat) (i : Nat), exec (.alloc t v) s = .next w.intPoll ∧
      u.findCells (reqPool v.toNat) res u.pool.reqArg.toNat = some (enc, cs) ∧ u.freeEntry (reqPool v.toNat) = some i ∧
      (let h := reqPool v.toNat * 2 ^ 28 + i
       w.pool.rspStatus = 0 ∧ w.pool.rspHandle = h ∧
        w.buffer? h = some
          { label := (u.queue q).label, gen := (u.queue q).gen, size := u.pool.reqArg.toNat * 4096, inEnclave := enc,
            cells := cs, res := res, slot := !enc && res.isNone && !u.pool.chain, owners := [q], holder := q,
            serial := u.pool.nextSerial } ∧
        (∀ k, k ≠ h → w.buffer? k = u.buffer? k) ∧
        w.pool.encUsed = (if enc then u.pool.encUsed ++ cs else u.pool.encUsed))) ∧
  (∀ (s u : State) (t : Nat) (v : BitVec 32) (b : Buffer), s.actsAt t u → u.pool.busyTil ≤ u.now →
    u.reqStatus v.toNat = 0 → u.buffer? u.pool.reqArg.toNat = some b → v.toNat % 8 = 2 →
    ∃ w : State, exec (.share t v) s = .next w.intPoll ∧ w.pool.rspStatus = 0 ∧
      w.buffer? u.pool.reqArg.toNat = some
        { b with owners := sharedOwners b u.shareQueues, holder := u.shareQueues.getLast?.getD b.holder } ∧
      (∀ k, k ≠ u.pool.reqArg.toNat → w.buffer? k = u.buffer? k)) ∧
  (∀ (s u : State) (t : Nat) (v : BitVec 32) (b : Buffer), s.actsAt t u → u.pool.busyTil ≤ u.now →
    u.reqStatus v.toNat = 0 → u.buffer? u.pool.reqArg.toNat = some b →
    let h := u.pool.reqArg.toNat
    let q := reqQueue v.toNat
    let out := fun w : State =>
      (b.holder = q → b.owners = [q] → u.named h b = false → w.buffer? h = none ∧
        (b.inEnclave = true → w.pool.encUsed = u.pool.encUsed.filter (fun c => !b.cells.contains c) ∧
          w.pool.dirty = u.pool.dirty ++ b.cells.map fun c => (c, b.label))) ∧
      (b.holder = q → b.owners = [q] → u.named h b = true → w.buffer? h = some { b with due := true }) ∧
      (b.holder = q → b.owners ≠ [q] → w.buffer? h = some { b with parked := true }) ∧
      (b.holder ≠ q → b.parked = false →
        w.buffer? h = some { b with owners := b.owners.filter fun x => x != q }) ∧
      (∀ k, k ≠ h → w.buffer? k = u.buffer? k) ∧ w.pool.rspStatus = 0
    (v.toNat % 8 = 3 → ∃ w : State, exec (.release t v) s = .next w.intPoll ∧ out w ∧
      w.pool.protocol = if b.holder = q then u.pool.protocol.add 16 1 u.now else u.pool.protocol) ∧
    (v.toNat % 8 = 4 → ∃ w : State, exec (.free t v) s = .next w.intPoll ∧ out w ∧
      w.pool.protocol = if b.holder = q then u.pool.protocol else u.pool.protocol.add 16 1 u.now)) ∧
  (∀ (s u : State) (t : Nat) (q : WorkRequest), s.actsAt t u →
    let n := match q.region with | none => 16 * q.cells | some _ => q.cells
    let first := (u.pool.requests.filter fun w => w.region == q.region).head?
    (q ∉ u.pool.requests → q.use ≠ .other → exec (.poolCellGrant t q) s = .next u.stallClock.intPoll) ∧
    (q ∈ u.pool.requests ∨ q.use = .other → (q.use = .other ∨ u.holds q.use = false) →
      (∀ enc cs, (first = none ∨ first = some q) → u.findCells (poolOfRequest q) none n = some (enc, cs) →
        let v := u.serveRequest q enc cs
        exec (.poolCellGrant t q) s = .next v.resumeAll.stallClock.intPoll ∧ v.pool.requests = u.pool.requests.erase q ∧
          v.pool.work = u.pool.work ++
            [{ label := q.label.toNat, gen := q.gen.toNat, inEnclave := enc, region := poolOfRequest q, cells := cs,
               slot := !enc && !u.pool.chain, run := q.run, use := q.use }]) ∧
      ((∃ w, first = some w ∧ w ≠ q) ∨ u.findCells (poolOfRequest q) none n = none →
        exec (.poolCellGrant t q) s = .next
          ({ u with
             pool := { u.pool with
               requests := if q ∈ u.pool.requests then u.pool.requests else u.pool.requests ++ [q] } } : State).stallClock.intPoll)))

/-- R375 to R377, R381, R434, R494: RETIRE and an uncorrectable error begin the retirement of a pseudo-channel, if its
held cells find room elsewhere; PC_RETIRE_DONE ends it; a corrected error is counted in the window of its tick, and
CE_WINDOW_END begins the next window; SCRUB_OVERWRITE frees the lowest dirty cell, and the label whose last one it
was; the patrol goes on to the next cell in service; a stack's report sets its refresh; ENCLAVE_TEST_END retires the
channels that failed. -/
def Obligations.EnclaveMemory : Prop :=
  (∀ (s u : State) (t : Nat) (v : BitVec 32), s.actsAt t u → v.toNat % 2 = 1 → u.emc.pcSel.toNat < 384 →
    let p := u.emc.pcSel.toNat
    (u.pc p).state = 0 →
    ∃ w : State, exec (.retire t v) s = .next w.intPoll ∧
      (let fits := (u.heldOf p).length ≤ (u.modPc p fun x => { x with state := 1 }).encFree
       (fits → (w.pc p).state = 1 ∧ (∀ d ∈ w.pool.dirty, pcOf d.1 ≠ p)) ∧ (¬ fits → w.emc = u.emc ∧ w.pool = u.pool))) ∧
  (∀ (s u : State) (t : Nat) (p : BitVec 9) (lost : List Nat), s.actsAt t u → (u.pc p.toNat).state = 1 →
    ∃ w : State, exec (.pcRetireDone t p lost) s = .next w.intPoll ∧ (w.pc p.toNat).state = 2 ∧
      (∀ k, k ≠ p.toNat → w.pc k = u.pc k) ∧ w.emc.inService = u.emc.inService - 1) ∧
  (∀ (s u : State) (t cell : Nat) (p : BitVec 9), s.actsAt t u → p.toNat < 384 → (u.pc p.toNat).state ≠ 2 →
    let window := u.now / (3600 * 10 ^ 9)
    let n := if (u.pc p.toNat).ceWindowNo = window then (u.pc p.toNat).ceWindow else 0
    satAdd 16 n 1 < u.emc.ceLimit.toNat →
    ∃ w : State, exec (.enclaveEccError t p .corrected cell) s = .next w.intPoll ∧ w.emc.ce = u.emc.ce.add 16 1 u.now ∧
      w.pc p.toNat = { u.pc p.toNat with ceWindow := satAdd 16 n 1, ceWindowNo := window } ∧ w.pool = u.pool) ∧
  (∀ (s u : State) (t cell : Nat) (p : BitVec 9), s.actsAt t u → p.toNat < 384 → (u.pc p.toNat).state = 0 →
    (u.heldOf p.toNat).length ≤ (u.modPc p.toNat fun x => { x with state := 1 }).encFree →
    ∃ w : State, exec (.enclaveEccError t p .uncorrectable cell) s = .next w.intPoll ∧
      w.emc.ue = u.emc.ue.add 16 1 u.now ∧ (w.pc p.toNat).ueSeen = true ∧ (w.pc p.toNat).state = 1) ∧
  (∀ (s u : State) (t : Nat), s.actsAt t u → exec (.ceWindowEnd t) s = .next
    (if u.now % (3600 * 10 ^ 9) = 0 then
      { u with
        emc := { u.emc with
          pcs := Tab.mapVals (fun _ x => if x.ceWindowNo = u.now / (3600 * 10 ^ 9) then x
            else { x with ceWindow := 0, ceWindowNo := u.now / (3600 * 10 ^ 9) }) u.emc.pcs } }
     else u).intPoll) ∧
  (∀ (s u : State) (t cell l : Nat), s.actsAt t u → (u.pool.dirty.find? fun d => d.1 == cell) = some (cell, l) →
    (∀ d ∈ u.pool.dirty, cell ≤ d.1) →
    ∃ w : State, exec (.scrubOverwrite t cell) s = .next w.intPoll ∧
      w.pool.dirty = u.pool.dirty.filter (fun d => d.1 != cell) ∧
      ((u.label l).state = .scrubbing → (∀ d ∈ w.pool.dirty, d.2 ≠ l) → (w.label l).state = .free)) ∧
  (∀ (s u : State) (t cell : Nat), s.actsAt t u → u.emc.rate ≠ 0 → u.nextInService 384 u.emc.patrolCell = cell →
    let next := u.nextInService 384 (cell + 1)
    exec (.patrolScrubRead t cell false) s = .next
      { u with
        emc := if next < 7324032 then { u.emc with patrolCell := next }
          else { u.emc with patrolCell := 0, patrolPasses := satAdd 16 u.emc.patrolPasses 1 } }.intPoll) ∧
  (∀ (s u : State) (t : Nat) (k : BitVec 3) (hot : Bool), s.actsAt t u → k.toNat < 6 →
    ∃ w : State, exec (.stackTemperatureReport t k hot) s = .next w.intPoll ∧
      w.emc.shortRefresh.getLsbD k.toNat = hot ∧
      (∀ i, i ≠ k.toNat → w.emc.shortRefresh.getLsbD i = u.emc.shortRefresh.getLsbD i)) ∧
  (∀ (s u : State) (t : Nat) (failed : List Nat), s.actsAt t u → u.pwr.phase = .selftest → u.pwr.enclaveTested = false →
    ∃ w : State, exec (.enclaveTestEnd t failed) s = .next w.intPoll ∧ w.pwr.enclaveTested = true ∧
      w.pool.encKnown = true ∧ (∀ p ∈ failed, p < 384 → (w.pc p).state = 2) ∧
      (∀ p, p ∉ failed → w.pc p = u.pc p) ∧
      w.emc.inService = ((List.range 384).filter fun p => (w.pc p).state == 0).length)

/-! ### Faults and repair -/

/-- R447 to R453, R329: a single-bit SRAM error is counted; a double-bit one, a lane parity error or a parity error of
an S-tile's generator marks the tile, whose Moult wipes it or, when it fails, removes its SRAM supply; a watchdog expiry
or a microcode error retries the tile's unit once and then marks it. The mark of a bound tile begins a Leapfrog to its
region's spare; with no spare left, or while a Leapfrog runs, a mark folds the region (of an unbound tile too: the
model's reading of R453, log 62). LEAPFROG_DONE puts the spare in service. -/
def Obligations.TileFaults : Prop :=
  (∀ (s u : State) (t : Nat) (id : BitVec 8) (ok : Bool), s.actsAt t u → u.tileUsable id.toNat = true →
    ∃ w : State, exec (.sramError t id .single ok) s = .next w.intPoll ∧
      w.tile id.toNat = { u.tile id.toNat with ce := (u.tile id.toNat).ce.add 16 1 u.now } ∧
      (∀ k, k ≠ id.toNat → w.tile k = u.tile k)) ∧
  (∀ (s u : State) (t : Nat) (id : BitVec 8) (ok : Bool), s.actsAt t u → u.tileUsable id.toNat = true →
    let r := tileRegion id.toNat
    let spare := tileId (tileKind id.toNat) r 8
    ∀ c ∈ [(1, Instr.sramError t id .double ok), (3, .laneParityError t id ok),
        (6, .generatorParityError t ⟨.sTile id, ok⟩)],
      (c.1 = 6 → tileKind id.toNat = 1) →
      ((u.tile id.toNat).state ≠ .bound → (u.region r).state ≠ .leaping → (u.region r).leapWait = none →
        (u.tile spare).state = .spare ∨ id.toNat = spare →
        ∃ w : State, exec c.2 s = .next w.intPoll ∧ (w.tile id.toNat).state = .marked ∧
          (w.tile id.toNat).cause = (if ok then c.1 else 8) ∧ (w.tile id.toNat).keys = [] ∧
          (w.tile id.toNat).seq = {} ∧ (w.tile id.toNat).sramOff = (!ok || (u.tile id.toNat).sramOff) ∧
          (w.region r).fault = (u.region r).fault.set 0 u.now ∧
          (w.region r).state = (u.region r).state ∧ (∀ k, k ≠ id.toNat → w.tile k = u.tile k)) ∧
      ((u.tile id.toNat).state = .bound → (u.region r).state ≠ .leaping → (u.region r).leapWait = none →
        id.toNat ≠ spare → (u.tile spare).state = .spare → u.stw.restarting = false →
        ∃ w : State, exec c.2 s = .next w.intPoll ∧ (w.tile id.toNat).state = .marked ∧
          (w.region r).state = .leaping ∧ (w.region r).leapFrom = id ∧ (w.region r).leapTo.toNat = spare ∧
          (w.tile spare).state = .bound ∧ (w.tile spare).leapIn = true ∧
          (w.tile spare).role = (u.tile id.toNat).role ∧ (w.tile spare).lslot = (u.tile id.toNat).lslot) ∧
      ((u.tile id.toNat).state = .bound ∨ id.toNat ≠ spare → (u.region r).state ≠ .leaping →
        (u.region r).leapWait = none → (u.tile spare).state ≠ .spare → u.mayFold r →
        ∃ w : State, exec c.2 s = .next w.intPoll ∧ (w.region r).state = .folding) ∧
      ((u.region r).state = .leaping → u.mayFold r →
        ∃ w : State, exec c.2 s = .next w.intPoll ∧ (w.region r).state = .folding ∧ (w.region r).leapWait = none)) ∧
  (∀ (s u : State) (t : Nat) (id : BitVec 8) (ok : Bool), s.actsAt t u → (u.tile id.toNat).state = .bound →
    (u.tile id.toNat).retried = false →
    let x := { u.tile id.toNat with retried := true, retry := (u.tile id.toNat).retry.add 4 1 u.now, seq := {} }
    let regions := fun w : State => ∀ r, { w.region r with spill := (u.region r).spill } = u.region r
    (∃ w : State, exec (.microcodeEccError t ⟨id, ok⟩) s = .next w.intPoll ∧ w.tile id.toNat = x ∧ regions w) ∧
    (∃ w : State, exec (.sequencerWatchdogExpiry t ⟨id, ok⟩) s = .next w.intPoll ∧ regions w ∧
      w.tile id.toNat = { x with wd := (u.tile id.toNat).wd.add 4 1 u.now })) ∧
  (∀ (s u : State) (t : Nat) (id : BitVec 8) (ok : Bool), s.actsAt t u → (u.tile id.toNat).state = .bound →
    (u.tile id.toNat).retried = true → (u.region (tileRegion id.toNat)).state ≠ .leaping →
    (u.region (tileRegion id.toNat)).leapWait = none →
    (u.tile (tileId (tileKind id.toNat) (tileRegion id.toNat) 8)).state ≠ .spare → u.mayFold (tileRegion id.toNat) →
    ∀ c ∈ [Instr.microcodeEccError t ⟨id, ok⟩, .sequencerWatchdogExpiry t ⟨id, ok⟩],
      ∃ w : State, exec c s = .next w.intPoll ∧ (w.tile id.toNat).state = .marked ∧
        (w.region (tileRegion id.toNat)).state = .folding) ∧
  (∀ (s u : State) (t : Nat) (r : BitVec 3), s.actsAt t u → (u.region r.toNat).state = .leaping →
    u.stw.restarting = false →
    ∃ w : State, exec (.leapfrogDone t r) s = .next w.intPoll ∧ (w.region r.toNat).state = .inService ∧
      (w.region r.toNat).fault = (u.region r.toNat).fault.set 1 u.now ∧
      (w.tile (u.region r.toNat).leapTo.toNat).leapIn = false ∧
      (∀ b, u.qg.run = some ⟨b, .leapfrog r.toNat⟩ → w.qg.run = none ∧ w.qg.due = u.qg.due ++ [complOf b 0 0]))

/-- R454 to R461, R329: an M group's generator error, a transfer that fails for good or the 1,025th failure of a
window, and a cell that the auditor cannot correct fold the region; the third Fold at a time, or a fourth region out,
enters Halt-safe, as does a fault of the spine. A Fold takes the region's tiles out of the binding; FOLD_DONE empties
its pool, takes it out of service and completes the command that waits. Fewer failures are counted in the window of
their tick, and CRC_WINDOW_END begins the next window's count. -/
def Obligations.RegionFaults : Prop :=
  (∀ (s u : State) (t : Nat) (r : BitVec 3), s.actsAt t u → u.mayFold r.toNat →
    ∀ (ok : Bool) (link : BitVec 8) (cell : BitVec 12),
    ∀ c ∈ [Instr.generatorParityError t ⟨.mGroup r, ok⟩, .linkCrcFail t r ⟨link, 4⟩, .auditPass t r (.bad cell)],
      ∃ w : State, exec c s = .next w.intPoll ∧ (w.region r.toNat).state = .folding ∧
        (w.region r.toNat).outCause = 2 ∧ (∀ b ∈ w.sil.bind, tileRegion b.2 ≠ r.toNat)) ∧
  (∀ (s u : State) (t : Nat) (r : BitVec 3) (ok : Bool), s.actsAt t u → u.inService r.toNat = true →
    u.stw.restarting = false → u.faults.halt = false → 2 ≤ u.foldingCount ∨ 3 ≤ u.outCount + u.foldingCount →
    ∃ w : State, exec (.generatorParityError t ⟨.mGroup r, ok⟩) s = .next w.intPoll ∧ w.faults.halt = true ∧
      w.faults.haltCause = (if 2 ≤ u.foldingCount then 1 else 2)) ∧
  (∀ (s u : State) (t : Nat) (r : BitVec 3) (ok : Bool), s.actsAt t u → u.inService r.toNat = true →
    u.stw.restarting = true →
    let waits := (u.region r.toNat).foldWait.getD (0, 6)
    exec (.generatorParityError t ⟨.mGroup r, ok⟩) s = .next ({ u with
      regions := Tab.put u.regions r.toNat { u.region r.toNat with foldWait := some waits } } : State).stallClock.intPoll) ∧
  (∀ (s u : State) (t : Nat) (r : BitVec 3) (link : BitVec 8) (n : Nat), s.actsAt t u → u.inService r.toNat = true →
    n < 4 →
    let g := u.region r.toNat
    let window := if g.crcWindowNo = u.now / 10 ^ 9 then g.crcWindow else 0
    window + n ≤ 1024 →
    ∃ w : State, exec (.linkCrcFail t r ⟨link, n⟩) s = .next w.intPoll ∧
      w.region r.toNat = { g with
        crc := g.crc.add 16 n u.now, resends := g.resends.add 16 (min n 3) u.now,
        crcWindow := window + n, crcWindowNo := u.now / 10 ^ 9, fault := g.fault.set 4 u.now } ∧
      (∀ k, k ≠ r.toNat → w.region k = u.region k)) ∧
  (∀ (s u : State) (t : Nat) (r : BitVec 3), s.actsAt t u →
    let g := u.region r.toNat
    let n := u.now / 10 ^ 9
    exec (.crcWindowEnd t r) s = .next
      (if u.now % 10 ^ 9 = 0 then
        { u with
          regions := Tab.put u.regions r.toNat
            (if g.crcWindowNo = n then g else { g with crcWindow := 0, crcWindowNo := n }) }
       else u).stallClock.intPoll) ∧
  (∀ (s u : State) (t n : Nat) (r : BitVec 3), s.actsAt t u → u.inService r.toNat = true → u.stw.restarting = false →
    ∃ w : State, exec (.auditPass t r (.fixed n)) s = .next w.intPoll ∧
      w.region r.toNat = { u.region r.toNat with
        passes := satAdd 16 (u.region r.toNat).passes 1, fixed := (u.region r.toNat).fixed.add 16 n u.now,
        fault := if n = 0 then (u.region r.toNat).fault else (u.region r.toNat).fault.set 3 u.now }) ∧
  (∀ (s u : State) (t : Nat), s.actsAt t u →
    (u.faults.halt = true → exec (.spineUnitFault t) s = .next u.intPoll) ∧
    (u.faults.halt = false → ∃ w : State, exec (.spineUnitFault t) s = .next w.intPoll ∧
      w.faults = { halt := true, haltCause := 4 } ∧
      (∀ l, (u.label l).state = .opened ∨ (u.label l).state = .fenced ∨ (u.label l).state = .closing →
        (w.label l).state = .erasing))) ∧
  (∀ (s u : State) (t : Nat) (r : BitVec 3), s.actsAt t u → (u.region r.toNat).state = .folding →
    u.stw.restarting = false →
    ∃ w : State, exec (.foldDone t r) s = .next w.intPoll ∧ (w.region r.toNat).state = .out ∧
      (w.region r.toNat).fault = (u.region r.toNat).fault.set 2 u.now ∧ w.usedOf r.toNat = [] ∧
      (∀ b, u.qg.run = some ⟨b, .fold r.toNat⟩ → w.qg.run = none ∧ w.qg.due = u.qg.due ++ [complOf b 0 0]))

/-- R465 to R467: TILE_RETIRE of a tile that works for no role retires it, and of a bound one, when its region has a
spare, begins its Leapfrog and waits for it; REGION_OFFLINE folds the region and waits, or is refused; REGION_ONLINE
tests the region again and answers the result. -/
def Obligations.RepairCommands : Prop :=
  (∀ (s u : State) (t : Nat) (b : Bytes), s.takesAdmin t 0x3A b u →
    let id := entLen b % 256
    let r := tileRegion id
    let spare := tileId (tileKind id) r 8
    let status :=
      if 8 < tileSlot id then 0x12
      else if u.baskGuard r = true then 0x40
      else if u.inService r = false ∨ u.tileUsable id = false then 0x12
      else if (u.tile id).state = .bound ∧ ((u.region r).state = .leaping ∨ (u.tile spare).state ≠ .spare) then 0x40
      else 0
    (status ≠ 0 → exec (.tileRetire t) s = .next (u.adminDone b status 0).stallClock.intPoll) ∧
    (status = 0 → ∃ w : State, exec (.tileRetire t) s = .next w.intPoll ∧ (w.tile id).state = .retired ∧
      (w.tile id).cause = 7 ∧
      ((u.tile id).state ≠ .bound → w.qg.due = u.qg.due ++ [complOf b 0 0] ∧
        (∀ k, k ≠ id → w.tile k = u.tile k)) ∧
      ((u.tile id).state = .bound → id ≠ spare → w.qg.run = some ⟨b, .leapfrog r⟩ ∧ (w.region r).state = .leaping ∧
        (w.tile spare).role = (u.tile id).role))) ∧
  (∀ (s u : State) (t : Nat) (b : Bytes), s.takesAdmin t 0x38 b u →
    let r := entLen b % 8
    (u.offlineRefused r = true → exec (.regionOffline t) s = .next (u.adminDone b 0x40 0).stallClock.intPoll) ∧
    (u.offlineRefused r = false → u.mayFold r → ∃ w : State, exec (.regionOffline t) s = .next w.intPoll ∧
      (w.region r).state = .folding ∧ (w.region r).outCause = 3 ∧ w.qg.run = some ⟨b, .fold r⟩)) ∧
  (∀ (s u : State) (t : Nat) (b : Bytes) (x : TestResult), s.takesAdmin t 0x39 b u →
    let r := entLen b % 8
    (u.isOut r = false ∨ (u.region r).state = .folding →
      exec (.regionOnline t x) s = .next (u.adminDone b 0x12 0).stallClock.intPoll) ∧
    (u.isOut r = true → (u.region r).state ≠ .folding →
      ∃ (w : State) (res : Nat), exec (.regionOnline t x) s = .next w.intPoll ∧ (w.region r).vcPass = x.vc ∧
        (w.region r).test = (if res = 0 then .passed else .outOfService) ∧
        (res = 0 → (w.region r).state = .inService) ∧
        w.qg.due = u.qg.due ++ [complOf b (if res = 0 then 0 else 0x40) res] ∧
        (x.switchOk = false ∨ x.poolOk = false ∨ x.genOk = false → res = 1) ∧
        (x.switchOk = true → x.poolOk = true → x.genOk = true →
          (res = 0 ∨ res = 8) ∧ (u.sil.active = none → res = 0))))

/-! ### Command lists -/

/-- R118, R136, R139 to R141, R143: RUN_LIST whose list fails a check completes its entry with that check's status and
starts no job; one whose list passes every check is taken with its completion open, and its list stands ready to run.
The commands of a list act in order. DESC, LOAD_SCB and WRITE_REG change the list's own contexts and slots alone;
START makes a snapshot of its stage's context a job that waits on the stage, unless 32 jobs wait there, when the list
stalls; WAIT stops the list until its job, or with ALL every job of the list, has ended, and frees the tag or all
tags; END stops it until every job has ended, and then ends it: once no manifest of the entry is to be written and
none of its points is to be compared, the entry's completion is formed from its counts. -/
def Obligations.ListCommands : Prop :=
  (∀ (s u : State) (t : Nat) (q : BitVec 12) (list b : Bytes) (mem : HostMem), s.takesEntry t q.toNat 0x80 b u →
    let e := u.qg.nextSerial
    let r := u.newRun q.toNat b mem
    (∀ st, u.checkList e mem r (padTo (entLen b) list) = .error st →
      exec (.runList t q list mem) s = .next (u.takeFront q.toNat b false (some (complOf b st 0))).intPoll) ∧
    (∀ cs, u.checkList e mem r (padTo (entLen b) list) = .ok cs →
      ∃ (w : State) (x : Run), exec (.runList t q list mem) s = .next w.intPoll ∧ Tab.find w.runs e = some x ∧
        x.cmds = cs ∧ x.pos = 0 ∧ x.started = [] ∧ x.tags = [] ∧ x.ended = false ∧ x.queue = q.toNat ∧
        x.label = (u.queue q.toNat).label ∧ x.step = entStep b ∧ x.base = entBase b ∧ x.count = entCount b ∧
        x.budget = entBudget b ∧ x.seeds = (u.queue q.toNat).seeds ∧ x.tick = u.now ∧ x.host = mem ∧
        w.jobs = u.jobs ∧ w.qg.nextSerial = e + 1 ∧
        (w.queue q.toNat).cache = (u.queue q.toNat).cache.drop 1 ∧
        (w.queue q.toNat).sqHead = ((u.queue q.toNat).sqHead + 1) % 2 ^ (u.queue q.toNat).logSize)) ∧
  (∀ (s u : State) (t e : Nat) (r : Run) (c : ListCmd),
    ∀ x ∈ [(1, Instr.desc t e), (2, .loadScb t e), (3, .writeReg t e)], s.takesCommand t e x.1 r c u →
      ∃ w : State, exec x.2 s = .next w.intPoll ∧
        Tab.find w.runs e = some { r with ctx := r.ctx.apply r.pos c, cmds := r.cmds.drop 1, pos := r.pos + 1 } ∧
        (∀ k, k ≠ e → Tab.find w.runs k = Tab.find u.runs k) ∧ u.changesOnly [.runs] w) ∧
  (∀ (x : ListCtx) (n : Nat) (c : ListCmd),
    (c.op = 1 → (x.apply n c).ctxs = x.ctxs) ∧
    (c.op = 2 → (x.apply n c).slots = x.slots ∧
      (x.apply n c).words c.stage = (leWords 8 c.payload ++ List.replicate 64 0).take 64 ∧
      (∀ k, k ≠ c.stage → (x.apply n c).words k = x.words k)) ∧
    (c.op = 3 → (x.apply n c).slots = x.slots ∧
      (x.apply n c).words c.stage = (x.words c.stage).set (c.arg % 64) (leNat c.payload) ∧
      (∀ k, k ≠ c.stage → (x.apply n c).words k = x.words k))) ∧
  (∀ (s u : State) (t e : Nat) (r : Run) (c : ListCmd), s.takesCommand t e 4 r c u →
    let p := r.ctx.snap c.stage (c.arg % 256)
    (32 ≤ (u.queuedOn c.stage).length → exec (.start t e) s = .next u.intPoll) ∧
    ((u.queuedOn c.stage).length < 32 → ∃ (w : State) (j : Job), exec (.start t e) s = .next w.intPoll ∧
      w.jobs = Tab.put u.jobs u.nextJob j ∧ w.nextJob = u.nextJob + 1 ∧
      j.run = e ∧ j.stage = c.stage ∧ j.tag = c.arg % 256 ∧ j.snap = p ∧ j.first = p.sampleFirst ∧
      j.count = (if p.sampleSpan = 0 then r.count - p.sampleFirst else p.sampleSpan) ∧ j.running = false ∧
      j.ended = false ∧ j.tick = u.now ∧
      Tab.find w.runs e = some { r with
        tags := Tab.put r.tags (c.arg % 256) u.nextJob, started := r.started ++ [u.nextJob], cmds := r.cmds.drop 1,
        pos := r.pos + 1 } ∧
      u.changesOnly [.runs, .jobs, .nextJob] w)) ∧
  (∀ (s u : State) (t e : Nat) (r : Run) (c : ListCmd), s.takesCommand t e 5 r c u →
    let all := bitOf c.arg 8
    let tag := c.arg % 256
    (all = true → r.started.all u.jobEnded = false → exec (.wait t e) s = .next u.intPoll) ∧
    (all = false → (∃ j, Tab.find r.tags tag = some j ∧ u.jobEnded j = false) → exec (.wait t e) s = .next u.intPoll) ∧
    ((all = true ∧ r.started.all u.jobEnded = true) ∨
        (all = false ∧ ∃ j, Tab.find r.tags tag = some j ∧ u.jobEnded j = true) →
      ∃ w : State, exec (.wait t e) s = .next w.intPoll ∧
        Tab.find w.runs e = some { r with
          tags := if all then [] else Tab.del r.tags tag, cmds := r.cmds.drop 1, pos := r.pos + 1 } ∧
        u.changesOnly [.runs] w)) ∧
  (∀ (s u : State) (t e : Nat) (r : Run) (c : ListCmd), s.takesCommand t e 7 r c u →
    (r.started.all u.jobEnded = false → exec (.listEnd t e) s = .next u.intPoll) ∧
    (r.started.all u.jobEnded = true → u.manifestsOpen e = true ∨ u.pointsOpen e = true →
      ∃ w : State, exec (.listEnd t e) s = .next w.intPoll ∧
        Tab.find w.runs e = some { r with ended := true, cmds := r.cmds.drop 1, pos := r.pos + 1 } ∧
        u.changesOnly [.runs] w) ∧
    (r.started.all u.jobEnded = true → u.manifestsOpen e = false → u.pointsOpen e = false → r.divs = [] →
      ∃ w : State, exec (.listEnd t e) s = .next w.intPoll ∧ (∀ x ∈ w.jobs, x.2.run ≠ e) ∧
        w.runs = Tab.del (Tab.put u.runs e { r with ended := true, cmds := r.cmds.drop 1, pos := r.pos + 1 }) e ∧
        (∀ x ∈ (u.queue r.queue).taken, x.serial = e → x.compl = none → ∃ y ∈ (w.queue r.queue).taken, y.serial = e ∧
          y.compl = some (r.compl u.faults.halt (takenBytes e (u.queue r.queue).taken)))))

/-! ### Stage jobs and the ports -/

/-- R143, R144, R141: STAGE_JOB_START starts a waiting job, if its stage is free for it and every job that waits
before it is held by a hazard; else nothing happens. A stage is free for a job of samples when one of its tiles has
finished its shares of the jobs before it; for an encoder, when a V-core is free; a job that takes a stream, and one
of COPY, ENCODE or SEAL, waits for no earlier job. A job that conflicts with a job of an entry of its matter taken
earlier (at an earlier tick, or in that tick from the lower queue number), ended jobs apart and STARTs still to come
among them, is held. JOB_END ends a running job whose work is done and no other; a SEAL job whose last manifest finds
no room stalls (R387). A MODE 1 PACK job that ends sends its exchange message (R255). -/
def Obligations.StageJobs : Prop :=
  (∀ (s u : State) (t j : Nat) (mem : HostMem) (x : Job) (r : Run), s.actsAt t u → Tab.find u.jobs j = some x →
    Tab.find u.runs x.run = some r → x.running = false → x.ended = false → u.mayWork r = true →
    ((u.queuedOn x.stage).find? fun y => !u.hazard y.2).map Prod.fst = some j → u.stageFree j x = true →
    ∃ (w : State) (y : Job), exec (.stageJobStart t j mem) s = .next w.stallClock.intPoll ∧
      w.jobs = Tab.put u.jobs j y ∧ y.running = true ∧ y.ended = false ∧ y.began = u.now ∧ y.host = r.host ++ mem ∧
      y.run = x.run ∧ y.stage = x.stage ∧ y.snap = x.snap ∧ y.next = x.next ∧ y.outs = x.outs ∧
      y.core = (if x.clock.isSome = true ∨ x.stage = 0x11 then u.freeCore else none) ∧
      y.wantsCore = (x.clock.isSome && u.freeCore.isNone) ∧ u.changesOnly [.jobs, .tiles, .erw] w) ∧
  (∀ (s u : State) (t j : Nat) (mem : HostMem) (x : Job), s.actsAt t u → Tab.find u.jobs j = some x →
    (((u.queuedOn x.stage).find? fun y => !u.hazard y.2).map Prod.fst ≠ some j ∨ u.stageFree j x = false) →
    exec (.stageJobStart t j mem) s = .next u.stallClock.intPoll) ∧
  (∀ (u : State) (j : Nat) (x : Job),
    (x.stage = 0x11 → u.stageFree j x = u.freeCore.isSome) ∧
    (x.stage = 0x10 → (u.stageFree j x = true ↔ x.clock ≠ none ∨ ∀ y ∈ u.jobs, y.2.stage = 0x10 → y.2.running = true →
      y.2.clock = none → y.2.count ≤ y.2.next)) ∧
    (x.stage ≤ 9 → 7 ≤ x.stage ∨ x.snap.streamIn = true → u.stageFree j x = true) ∧
    (1 ≤ x.stage → x.stage ≤ 6 → x.snap.streamIn = false → x.running = false →
      (u.stageFree j x = true ↔ ∃ p < (u.unitsAt x.stage).length, ∀ y ∈ u.jobs,
        y.1 = j ∨ y.2.stage ≠ x.stage ∨ y.2.running = false ∨ y.2.snap.streamIn = true ∨ u.now < y.2.began ∨
          ∀ k < y.2.count, u.unitFor y.2.stage y.1 k ≠ p ∨ k < y.2.outs.length ∨ Tab.find y.2.done k ≠ none))) ∧
  (∀ (u : State) (x : Job) (r : Run), Tab.find u.runs x.run = some r →
    (u.hazard x = true ↔ ∃ z ∈ u.runs, z.2.label = r.label ∧ z.2.gen = r.gen ∧ u.takenBefore z.1 x.run = true ∧
      ((∃ y ∈ u.jobs, y.2.run = z.1 ∧ y.2.ended = false ∧ conflicts y.2.snap x.snap = true) ∨
        ∃ p ∈ z.2.snaps.drop z.2.started.length, conflicts p x.snap = true))) ∧
  (∀ (u : State) (a b : Nat) (x y : Run), Tab.find u.runs a = some x → Tab.find u.runs b = some y →
    (u.takenBefore a b = true ↔
      x.tick < y.tick ∨ (x.tick = y.tick ∧ (x.queue < y.queue ∨ (x.queue = y.queue ∧ a < b))))) ∧
  (∀ (s u : State) (t j : Nat) (x : Job) (r : Run), s.actsAt t u → Tab.find u.jobs j = some x →
    Tab.find u.runs x.run = some r →
    (x.running = false ∨ x.ended = true ∨ u.mayWork r = false ∨ u.jobDone r j x = false →
      exec (.jobEnd t j) s = .next u.stallClock.intPoll) ∧
    (x.running = true → x.ended = false → u.mayWork r = true → u.jobDone r j x = true →
      (x.stage = 9 → u.closable x.run j true ≠ none → 256 ≤ u.pke.manifests.length → x.closed < sealManCap x.snap →
        exec (.jobEnd t j) s = .next u.stallClock.intPoll) ∧
      (u.closable x.run j true = none →
        ∃ (w : State) (y : Job), exec (.jobEnd t j) s = .next w.intPoll ∧ Tab.find w.jobs j = some y ∧
          y.running = false ∧ y.ended = true ∧ y.lanes = [] ∧ y.done = [] ∧
          (x.stage ≠ 6 → x.stage ≠ 7 → x.stage ≠ 9 → u.changesOnly [.jobs, .tiles] w) ∧
          (x.stage = 6 → (packCfg x.snap).mode = 1 →
            .interior (packCfg x.snap).exch (exchMessage (packCfg x.snap) r.step (jobBase r x)
              ((List.range x.count).map fun k =>
                limitItem (packCfg x.snap) (u.limitOf r) (lenItem (packCfg x.snap) (u.lenWords x k)))) ∈ w.outputs))))

/-- R490: the outcome of an error response, by transaction; each adds one OPS record that names the rule. A submission
entry is kept as unread, to complete with BAD_LIST; an entry whose list or record is not read completes with BAD_LIST,
and one of which a job has started is Tail dropped, as is one whose output is not written; a sealed chunk that is not
read is a chunk that fails; a completion is written again, and after the fourth failure its queue is stuck; a flush
ends, and its records stay; a message is lost and its vector stays disarmed. (The record's operand is free, log
42.) -/
def Obligations.PortErrors : Prop :=
  (∀ (u : State), u.portRecord = u.record 0 0x02FF 1 (leBytes 4 490 ++ leBytes 4 (Config.ruleArg 490 u.now))) ∧
  (∀ (s u : State) (t : Nat) (q : BitVec 12), s.actsAt t u →
    exec (.portErrorResponse t (.queueMessage q)) s = .next u.portRecord.stallClock.intPoll ∧
    exec (.portErrorResponse t .engineMessage) s = .next u.portRecord.stallClock.intPoll) ∧
  (∀ (s u : State) (t : Nat) (q : BitVec 12), s.actsAt t u → q ≠ 0#12 →
    ((u.queue q.toNat).state = .enabled ∨ (u.queue q.toNat).state = .disabling) →
    (u.label (u.queue q.toNat).label).state = .opened → (u.queue q.toNat).cache.length < 16 →
    (u.queue q.toNat).cache.length < (u.queue q.toNat).posted →
    exec (.portErrorResponse t (.submission q)) s = .next
      (u.portRecord.modQueue q.toNat fun x =>
        { x with cache := x.cache ++ [{ entry := none, stamp := u.sil.nextGen }] }).stallClock.intPoll) ∧
  (∀ (s u : State) (t : Nat) (q : BitVec 12) (xs : List (Option Bytes)) (list : Bytes) (mem : HostMem), s.actsAt t u →
    q ≠ 0#12 → u.nextQueue = some q.toNat → (u.queue q.toNat).cache.map Cached.entry = none :: xs →
    ∀ c ∈ [Instr.nop t q, .fence t q, .runList t q list mem], exec c s = .next
      (u.takeFront q.toNat [] false
        (some { cid := 0xFFFF, status := 0x12, result := 0, opaqueLo := 0, noIrq := false })).intPoll) ∧
  (∀ (s u : State) (t op : Nat) (b : Bytes), s.takesAdmin t op b u → readsRecord op = true →
    (op ≠ 0x08 → op ≠ 0x0A →
      exec (.portErrorResponse t .adminRead) s = .next (u.portRecord.adminDone b 0x12 0).stallClock.intPoll) ∧
    (op = 0x08 →
      exec (.portErrorResponse t .adminRead) s = .next
        ((u.portRecord.modSil fun x => { x with staged := none }).refuse b
          { reason := 1, section_ := 0, entry := 0 }).stallClock.intPoll) ∧
    (op = 0x0A →
      exec (.portErrorResponse t .adminRead) s = .next
        (u.portRecord.refuse b { reason := 1, section_ := 0, entry := 0 }).stallClock.intPoll)) ∧
  (∀ (s u : State) (t : Nat) (q : BitVec 12) (b : Bytes), s.takesEntry t q.toNat 0x80 b u →
    exec (.portErrorResponse t (.listFetch q)) s = .next
      (u.portRecord.takeFront q.toNat b false (some (complOf b 0x12 0))).stallClock.intPoll) ∧
  (∀ (s u : State) (t e : Nat) (r : Run), s.actsAt t u → Tab.find u.runs e = some r →
    (exec (.portErrorResponse t (.output e)) s = .next (u.portRecord.dropRun e).stallClock.intPoll) ∧
    (∀ n m, Tab.find u.pke.held n = some m → m.run = e →
      exec (.portErrorResponse t (.manifest n)) s = .next (u.portRecord.dropRun e).stallClock.intPoll) ∧
    ((∃ j ∈ u.jobs, j.2.run = e ∧ (j.2.running = true ∨ j.2.ended = true)) →
      exec (.portErrorResponse t (.listRead e)) s = .next (u.portRecord.dropRun e).stallClock.intPoll) ∧
    ((∀ j ∈ u.jobs, j.2.run = e → j.2.running = false ∧ j.2.ended = false) →
      ∃ w : State, exec (.portErrorResponse t (.listRead e)) s = .next w.intPoll ∧ Tab.find w.runs e = none ∧
        (∀ x ∈ (u.queue r.queue).taken, x.serial = e → x.compl = none → ∃ y ∈ (w.queue r.queue).taken, y.serial = e ∧
          y.ran = false ∧ y.compl = some (complOf (takenBytes e (u.queue r.queue).taken) 0x12 0)))) ∧
  (∀ (u : State) (e : Nat) (r : Run), Tab.find u.runs e = some r →
    let w := u.dropRun e
    Tab.find w.runs e = none ∧ (∀ x ∈ w.jobs, x.2.run ≠ e) ∧ (∀ x ∈ w.seals, x.2.run ≠ e) ∧
    (∀ x ∈ w.pke.held, x.2.run ≠ e) ∧
    (u.faults.halt = false → ∀ x ∈ (u.queue r.queue).taken, x.serial = e → x.compl = none →
      ∃ y ∈ (w.queue r.queue).taken, y.serial = e ∧ ∃ c, y.compl = some c ∧ c.status = 0x60)) ∧
  (∀ (s u : State) (t j k : Nat) (x : Job) (l : Lane), s.actsAt t u → Tab.find u.jobs j = some x →
    Tab.find x.lanes k = some l →
    exec (.portErrorResponse t (.chunk j k)) s = .next (u.portRecord.chunkRead j k []).stallClock.intPoll) ∧
  (∀ (s u : State) (t j : Nat) (x : Job), s.actsAt t u → Tab.find u.jobs j = some x →
    Tab.find x.lanes x.next = none → x.next < x.count →
    exec (.portErrorResponse t (.chunk j x.next)) s = .next (u.portRecord.sampleStart j []).stallClock.intPoll) ∧
  (∀ (s u : State) (t : Nat) (q : BitVec 12), s.actsAt t u → u.complDue q.toNat = true →
    ∃ w : State, exec (.portErrorResponse t (.completion q)) s = .next w.intPoll ∧
      (w.queue q.toNat).writeFails = (u.queue q.toNat).writeFails + 1 ∧
      ((w.queue q.toNat).stuck = true ↔ 4 ≤ (u.queue q.toNat).writeFails + 1) ∧
      (w.queue q.toNat).taken = (u.queue q.toNat).taken ∧ (w.queue q.toNat).cqTail = (u.queue q.toNat).cqTail) ∧
  (∀ (s u : State) (t : Nat) (f : Flush), s.actsAt t u → u.erw.flush = some f → u.qg.run = none → u.erw.wait = none →
    ∃ w : State, exec (.portErrorResponse t .flushBuffer) s = .next w.intPoll ∧ bitOf w.erw.evt.bits.toNat 3 = true ∧
      w.erw.unacked = u.erw.unacked ∧
      ∀ k, k ≠ 0 → (w.chan k).records.map Record.seq = (u.chan k).records.map Record.seq) ∧
  (∀ (s u : State) (t : Nat) (p : PkJob) (b : Bytes), s.actsAt t u → u.pke.running = some p → p.client = .host →
    p.start + p.dur ≤ u.now → u.qg.run = some ⟨b, .pkJob⟩ →
    ∃ w : State, exec (.portErrorResponse t .pkResult) s = .next w.intPoll ∧ w.qg.run = none ∧
      w.qg.due = u.qg.due ++ [complOf b 0x60 0])

/-! ### Samples -/

/-- R86, R87, R261, R223: SAMPLE_START gives a unit that is free for it the job's next sample, whose lane reads its
first chunk; a sample that is void before it is read goes to the reorder buffer at once. CHUNK_READ adds a chunk that
authenticates to what its lane has read, and the sample leaves the lane once the stage has its outcome; a chunk that
fails (of another matter, another sample or another number, of a length outside 1 to 65,536, or with a wrong tag) ends
the sample with what was read before it. In classes S and F the end of the budget window, extended by fences and
stalls, voids a sample whose lane still works with SAMPLE_OVERTIME, which counts as a timing-dependent choice; a void
that is next retires at once (R262). -/
def Obligations.SampleReading : Prop :=
  (∀ u : State, u.changesOnly [.jobs] u.regroup) ∧
  (∀ u : State, (∀ y ∈ u.jobs, y.2.wantsCore = false) →
    (∀ y ∈ u.jobs, y.2.stage = 0x10 → y.2.clock = none → ∀ l ∈ y.2.lanes, l.2.cores ≠ []) → u.regroup = u) ∧
  (∀ (s u g : State) (t j id : Nat) (cores : List Nat) (c : Bytes) (x : Job) (r : Run), s.actsAt t u → g = u.regroup →
    Tab.find g.jobs j = some x → Tab.find g.runs x.run = some r → x.running = true → readsSealed x.stage = true →
    x.next < x.count → g.mayWork r = true → g.placeFor j x x.next = some (id, cores) →
    let v := { g with jobs := Tab.put g.jobs j { x with next := x.next + 1 } }
    (∀ o, v.plannedVoid r x x.next = some o ∨
        (v.plannedVoid r x x.next = none ∧ x.planned r = false ∧ v.skipped r x x.next = some o) →
      x.next ≠ x.outs.length → Tab.find x.done x.outs.length = none → (∀ l ∈ x.lanes, l.2.out = none) →
      exec (.sampleStart t j c) s = .next
        ({ v with jobs := Tab.put v.jobs j { x with
             next := x.next + 1, done := Tab.put x.done x.next o } } : State).stallClock.intPoll) ∧
    (v.plannedVoid r x x.next = none → v.skipped r x x.next = none →
      let l : Lane := { tile := id, cores := cores, start := u.now, fenced := 0 }
      exec (.sampleStart t j c) s = .next
        ((({ v with jobs := Tab.put v.jobs j { x with
              next := x.next + 1, lanes := Tab.put x.lanes x.next l } } : State).readChunk r j x.next c).noteRead
            j x.next).stallClock.intPoll)) ∧
  (∀ (s u g : State) (t j : Nat) (c : Bytes) (x : Job) (r : Run), s.actsAt t u → g = u.regroup →
    Tab.find g.jobs j = some x → Tab.find g.runs x.run = some r →
    (x.running = false ∨ x.count ≤ x.next ∨ g.mayWork r = false ∨ g.placeFor j x x.next = none) →
    exec (.sampleStart t j c) s = .next g.stallClock.intPoll) ∧
  (∀ (u : State) (r : Run) (index no : Nat) (c : Bytes),
    let len := leAt c 20 4 % 2 ^ 31
    (leAt c 0 8 ≠ (u.label r.label).matter ∨ leAt c 8 8 ≠ index ∨ leAt c 16 4 ≠ no ∨ len = 0 ∨ 65536 < len →
      u.openChunk r index no c = none) ∧
    (∀ p last, u.openChunk r index no c = some (p, last) → last = bitOf (leAt c 20 4) 31 ∧
      gcmOpen (u.label r.label).kData (leBytes 8 index ++ leBytes 4 no) (slice c 0 24) (slice c 24 len)
        (slice c (24 + len) 16) = some p)) ∧
  (∀ (s u g : State) (t j k : Nat) (c : Bytes) (x : Job) (r : Run) (l : Lane), s.actsAt t u → g = u.regroup →
    Tab.find g.jobs j = some x → Tab.find g.runs x.run = some r → Tab.find x.lanes k = some l →
    (g.laneReads r j x k l = true ↔ g.mayWork r = true ∧ g.windowOver r l = false ∧ l.out = none ∧ l.ending = .more ∧
      g.laneWaits j k = false ∧ (isCoreStage x.stage = true → l.cores ≠ []) ∧
      (isCoreStage x.stage = false → g.tileReady l.tile = true)) ∧
    exec (.chunkRead t j k c) s = .next
      (if g.laneReads r j x k l = true then (g.readChunk r j k c).noteRead j k else g).stallClock.intPoll) ∧
  (∀ (u : State) (j k : Nat) (c : Bytes) (x : Job) (r : Run) (l : Lane), Tab.find u.jobs j = some x →
    Tab.find x.lanes k = some l → x.clock = none →
    let d := padTo (40 + leAt (padTo 24 c) 20 4 % 2 ^ 31) c
    let room := (x.tableEntry k).2 - l.taken
    let idx := jobBase r x + k
    let l₀ := if l.chunks = 0 then
        { l with start := u.now, fenced := u.fencedSoFar r.label, stall := 0, stalledFrom := none, again := false }
      else l
    let lane := fun (v : State) (m : Lane) =>
      ({ v with jobs := Tab.put v.jobs j { x with lanes := Tab.put x.lanes k m } } : State)
    (u.openChunk r idx l.chunks d = none ∨ room < d.length →
      u.readChunk r j k c = (lane u { l₀ with ending := .badAuth }).settleLane r j k) ∧
    (∀ p last, u.openChunk r idx l.chunks d = some (p, last) → d.length ≤ room →
      let v := if l.chunks = 0 ∧ Tab.find r.tadpoles idx = none then u.tadpoleBegin x.run idx else u
      u.readChunk r j k c = (lane v { l₀ with
        chunks := l.chunks + 1, taken := l.taken + d.length, data := l.data ++ p,
        ending := if last then .whole else if room = d.length then .badAuth else .more }).settleLane r j k)) ∧
  (∀ (u : State) (j k : Nat) (x : Job) (r : Run) (l : Lane), Tab.find u.jobs j = some x →
    Tab.find x.lanes k = some l → l.out = none → x.storeBytes l.data = 0 → x.stage ≠ 0x10 ∨ x.isPrepass = true →
    u.settleLane r j k =
      match u.evalSample r x k l.data x.cuts l.ending with
      | some o => u.laneDone r j x k o
      | none => u) ∧
  (∀ (u : State) (r : Run) (j k : Nat) (x : Job) (l : Lane) (o : SampleOut), Tab.find u.jobs j = some x →
    Tab.find x.lanes k = some l → x.planned r = false → (∀ m ∈ x.lanes, m.1 ≠ k → m.2.out = none) →
    (k = x.outs.length ∧ o.reason = 0) ∨
      (k ≠ x.outs.length ∧ o.reason ≠ 0 ∧ Tab.find x.done x.outs.length = none) →
    ∃ y : Job, Tab.find (u.laneDone r j x k o).jobs j = some y ∧ Tab.find y.done k = some o ∧
      Tab.find y.lanes k = none ∧ (∀ m, m ≠ k → Tab.find y.lanes m = Tab.find x.lanes m) ∧ y.outs = x.outs ∧
      u.changesOnly [.jobs, .pool, .regions] (u.laneDone r j x k o)) ∧
  (∀ (s u : State) (t j k : Nat) (x : Job) (r : Run) (l : Lane), s.actsAt t u →
    Tab.find u.jobs j = some x → Tab.find u.runs x.run = some r → Tab.find x.lanes k = some l →
    let ends := l.start + r.budget + (u.fencedSoFar r.label - l.fenced) + u.stallTicks r l
    let void := voidOut x.stage (jobBase r x + k) 0x22
    ((r.cls = 0 ∨ r.budget = 0 ∨ l.again = true ∨ u.now < ends ∨ l.out ≠ none ∨ u.faults.halt = true ∨
        (u.label r.label).state = .fenced) →
      exec (.budgetWindowEnd t j k) s = .next u.stallClock.intPoll) ∧
    (r.cls ≠ 0 → r.budget ≠ 0 → l.again = false → ends ≤ u.now → (∀ m ∈ x.lanes, m.2.out = none) →
      u.faults.halt = false → (u.label r.label).state ≠ .fenced →
      ∃ (w : State) (y : Job) (z : Run), exec (.budgetWindowEnd t j k) s = .next w.stallClock.intPoll ∧
        Tab.find w.jobs j = some y ∧ Tab.find y.lanes k = none ∧ Tab.find w.runs x.run = some z ∧
        (k ≠ x.outs.length → Tab.find x.done x.outs.length = none →
          y = { x with lanes := Tab.del x.lanes k, done := Tab.put x.done k void } ∧
          z = { r with ndc := r.ndc + 1 } ∧ w.det.ndcGlobal = satAdd 64 u.det.ndcGlobal 1 ∧
          (w.queue r.queue).ndc = satAdd 64 (u.queue r.queue).ndc 1 ∧
          u.changesOnly [.jobs, .runs, .qg, .det, .pool, .regions] w) ∧
        (k = x.outs.length → (u.queue r.queue).chorus = none →
          (∀ y ∈ u.jobs, y.2.run = x.run → y.2.snap.streamIn = false) →
          Tab.find y.outs k = some void ∧ jobBase r x + k ∈ z.voided)))

/-- R262: SAMPLE_RETIRE retires a job's next sample and no other, once the stage has its outcome, its unit is free for
it and its record has cells, unless the job stalls at its output; a void is counted in its entry. R258: at the end of
a deadline window the samples that have not arrived move to the next window, and each counts. R284: ENCODE_SPAWN takes
the next Spawn whole and makes one record of it, which a SEAL job takes in cells of its region (R371). R99:
TADPOLE_LIMIT Tail-drops the entry of a Tadpole at its limit. R378: BACKLOG_RESUME judges a backlog: producers stall
from RED until it is below AMBER, and spilling goes on from AMBER until it is below GREEN; then the stages that
stalled work on. -/
def Obligations.SampleRetirement : Prop :=
  (∀ (s u : State) (t j : Nat) (x : Job) (r : Run) (o : SampleOut), s.actsAt t u → Tab.find u.jobs j = some x →
    Tab.find u.runs x.run = some r → x.running = true → u.mayWork r = true → x.outs.length < x.count →
    u.outputStalls r j x x.outs.length = false →
    (x.snap.streamOut = false ∨ o.reason ≠ 0 ∨ u.holds (.record j x.outs.length) = true) →
    (∀ l ∈ x.lanes, l.2.out = none) → Tab.find x.done (x.outs.length + 1) = none →
    (readsSealed x.stage = true ∧ Tab.find x.done x.outs.length = some o) ∨
      (x.stage = 5 ∧ u.worksOnSample j x x.outs.length = true ∧ u.pyrWork r j x x.outs.length = some o) ∨
      (x.stage = 0x11 ∧ x.core ≠ none ∧ u.vencWork j x x.outs.length = some o) →
    let idx := jobBase r x + x.outs.length
    ∃ (w : State) (y : Job) (z : Run), exec (.sampleRetire t j) s = .next w.stallClock.intPoll ∧
      Tab.find w.jobs j = some y ∧
      y.outs = Tab.put x.outs x.outs.length o ∧ y.done = Tab.del x.done x.outs.length ∧ y.next = x.next ∧
      y.lanes = x.lanes ∧ Tab.find w.runs x.run = some z ∧
      (o.reason ≠ 0 → idx ∈ z.voided ∧ ∃ a ∈ z.affected, a.1 = idx) ∧
      (o.reason = 0 → z.voided = r.voided)) ∧
  (∀ (s u : State) (t j : Nat) (x : Job) (r : Run), s.actsAt t u → Tab.find u.jobs j = some x →
    Tab.find u.runs x.run = some r → x.stage ≠ 0x11 ∨ x.core ≠ none →
    (x.running = false ∨ u.mayWork r = false ∨
      (x.stage ≠ 6 ∧ (u.outputStalls r j x x.outs.length = true ∨ x.count ≤ x.outs.length)) ∨
      (readsSealed x.stage = true ∧ Tab.find x.done x.outs.length = none)) →
    exec (.sampleRetire t j) s = .next u.stallClock.intPoll) ∧
  (∀ (s u : State) (t j : Nat) (x : Job) (r : Run) (a : Arrival), s.actsAt t u → Tab.find u.jobs j = some x →
    Tab.find u.runs x.run = some r → x.running = true → u.mayWork r = true → x.outs.length < x.count →
    x.stage = 6 → (packCfg x.snap).mode = 0 → r.cls ≠ 0 → x.pack.due (packCfg x.snap) = false →
    u.worksOnSample j x x.outs.length = true → u.arrivalOf r j x x.outs.length = some a →
    (a.item.reason ≠ 0 ∨ u.holds (.waiting j x.outs.length) = true) →
    ∃ (w : State) (y : Job), exec (.sampleRetire t j) s = .next w.stallClock.intPoll ∧ Tab.find w.jobs j = some y ∧
      y.outs = Tab.put x.outs x.outs.length
        { index := jobBase r x + x.outs.length, reason := a.item.reason, detail := a.item.detail, role := a.item.role,
          concealed := a.concealed } ∧
      Tab.find y.pack.arrived (jobBase r x + x.outs.length) = some u.now) ∧
  (∀ (s u : State) (t j : Nat) (x : Job) (r : Run), s.actsAt t u → Tab.find u.jobs j = some x →
    Tab.find u.runs x.run = some r → x.stage = 6 → x.running = true → u.mayWork r = true →
    x.pack.ready (packCfg x.snap) = false →
    (∀ e, x.pack.windowEnd (packCfg x.snap) = some e → u.now < e →
      exec (.winDeadlineEnd t j) s = .next u.stallClock.intPoll) ∧
    (x.pack.windowEnd (packCfg x.snap) = none → exec (.winDeadlineEnd t j) s = .next u.stallClock.intPoll) ∧
    (∀ e, x.pack.windowEnd (packCfg x.snap) = some e → e ≤ u.now →
      ∃ (w : State) (y : Job) (z : Run), exec (.winDeadlineEnd t j) s = .next w.stallClock.intPoll ∧
        Tab.find w.jobs j = some y ∧ (∃ new, y.spawns = x.spawns ++ new) ∧ y.outs = x.outs ∧
        Tab.find w.runs x.run = some z ∧ z.ndc = r.ndc + (x.pack.moveLate (packCfg x.snap)).2)) ∧
  (∀ (s u : State) (t j n : Nat) (x p : Job) (r : Run) (f : Profile) (sp : Spawn), s.actsAt t u →
    Tab.find u.jobs j = some x → Tab.find u.runs x.run = some r → x.stage = 8 → x.running = true →
    u.mayWork r = true → u.chorusStalled r = false → u.profileOf r = some f → u.nextSpawn r j x = some (n, p, sp) →
    Tab.find u.jobs n = some p → n ≠ j →
    let seed := if encRound x.snap then some (Tab.getD r.seeds (encSeed x.snap) [], encStream x.snap) else none
    let c := encodeRecord f seed n sp
    let rows := fun y : Job => c.rows.flatMap (sealRows y.snap)
    (u.sealPlace r.planned (u.placeOf x.run j) = none →
      ∃ (w : State) (y z : Job), exec (.encodeSpawn t j) s = .next w.stallClock.intPoll ∧ Tab.find w.jobs j = some y ∧
        y.encoded = x.encoded ++ [c] ∧ Tab.find w.jobs n = some z ∧ z.encTaken = p.encTaken + 1 ∧
        w.seals = u.seals) ∧
    (∀ i m y d, u.sealPlace r.planned (u.placeOf x.run j) = some i → u.jobAt x.run i = some (m, y) →
      u.dealRegion = some d → y.running = false ∨ u.stallsAt (backKey 0x0B d) 0x0B (u.sealBacklog d) = true →
      exec (.encodeSpawn t j) s = .next u.stallClock.intPoll) ∧
    (∀ i m y d, u.sealPlace r.planned (u.placeOf x.run j) = some i → u.jobAt x.run i = some (m, y) →
      u.dealRegion = some d → y.running = true → u.stallsAt (backKey 0x0B d) 0x0B (u.sealBacklog d) = false →
      (∀ w ∈ c.rows, w.rows = []) ∨ u.holds (.encoded u.nextSeal) = true →
      ∃ (w : State) (y' z : Job), exec (.encodeSpawn t j) s = .next w.stallClock.intPoll ∧
        Tab.find w.jobs j = some y' ∧
        y'.encoded = x.encoded ++ [c] ∧ Tab.find w.jobs n = some z ∧ z.encTaken = p.encTaken + 1 ∧ w.dealt = d ∧
        (rows y ≠ [] → ∃ q : SealSpawn, Tab.find w.seals u.nextSeal = some q ∧ q.run = x.run ∧ q.job = m ∧
          q.region = d ∧ q.last = c.last ∧ q.batch = 0 ∧ q.pass = 0 ∧ q.total = (rows y).length ∧
          q.size = 64 + encRowsSize f c.rows ∧
          q.rows.map (fun w => { w with pos := 0 }) = (rows y).map (fun w => { w with pos := 0 }) ∧
          q.rows.map SealRow.pos = List.range (rows y).length))) ∧
  (∀ (s u : State) (t e i : Nat) (r : Run) (p : Tadpole), s.actsAt t u → Tab.find u.runs e = some r →
    Tab.find r.tadpoles i = some p →
    (u.now < p.start + u.cus.tadpoleLimit.toNat * 10 ^ 6 → exec (.tadpoleLimit t e i) s = .next u.stallClock.intPoll) ∧
    (p.start + u.cus.tadpoleLimit.toNat * 10 ^ 6 ≤ u.now →
      ∃ w : State, exec (.tadpoleLimit t e i) s = .next w.intPoll ∧ Tab.find w.runs e = none ∧
        bitOf w.cus.evt.bits.toNat 7 = true ∧ w.det.ndcGlobal = satAdd 64 u.det.ndcGlobal 1 ∧
        (u.faults.halt = false → ∀ x ∈ (u.queue r.queue).taken, x.serial = e → x.compl = none →
          ∃ y ∈ (w.queue r.queue).taken, y.serial = e ∧ ∃ c, y.compl = some c ∧ c.status = 0x60))) ∧
  (∀ (s u : State) (t key : Nat), s.actsAt t u →
    let stage := key / 4096
    let b := if stage = 0x0B then u.sealBacklog (key % 4096) else u.backlogOf stage (key % 4096)
    let w := u.waterOf (if stage = 0x0B then 0x0B else waterRole stage)
    let x := Tab.getD u.pool.backlogs key {}
    ∃ v : State, exec (.backlogResume t key) s = .next v.resumeAll.stallClock.intPoll ∧ u.changesOnly [.pool] v ∧
      ((Tab.getD v.pool.backlogs key {}).stalled = true ↔ w.2.2 ≤ b ∨ (x.stalled = true ∧ w.2.1 ≤ b)) ∧
      ((Tab.getD v.pool.backlogs key {}).spilling = true ↔ w.2.1 ≤ b ∨ (x.spilling = true ∧ w.1 ≤ b)) ∧
      (∀ k, k ≠ key → Tab.getD v.pool.backlogs k {} = Tab.getD u.pool.backlogs k {}))

/-! ### The seal fabric -/

/-- R298 to R300: SEAL_PASS writes the next limb pair of every row of the batch that a region's front Spawn is at,
each in its places of the row's column, and moves on to the next pass, and after the last to the next batch; a limb
pair of the public key that the pass's tile does not hold is loaded, and counts; with a second key area the pair of
the tile's following pass loads too (R290). A limb-row whose residues do not match is made again and counts; one that
does not match again marks the tile (R294). A region that is out of service, or whose matter is held, writes nothing.
R305 to R307: CIPHERTEXT_HEADER_WRITE writes the header of the first row of a region's front Spawn whose limbs are all
written, unless a manifest that it would close finds no room (R387); the row is sealed and leaves the fabric, and the
counts of ciphertexts take it in. -/
def Obligations.SealCommands : Prop :=
  (∀ (s u : State) (t n id : Nat) (r : BitVec 3) (x : SealSpawn) (run : Run) (job : Job) (f : Profile) (pk : PubKey)
      (rs : List ResidueFault) (ok : Bool),
    s.actsAt t u → u.frontSpawn r.toNat = some (n, x) → Tab.find u.seals n = some x → Tab.find u.runs x.run = some run →
    Tab.find u.jobs x.job = some job → u.profileOf run = some f → Tab.find u.keyCache run.label = some pk →
    u.mayWork run = true → u.inService r.toNat = true → (x.rows.map SealRow.g).Nodup →
    let batch := x.batchRows (sealK job.snap)
    let i := x.pass
    let kNoise := (u.label run.label).kNoise
    let limb := fun w : SealRow => limbOf f pk (w.key kNoise) w.coeffs i
    let key := (run.label, run.gen, i)
    let kept := (u.tile id).keys.filter fun k => k.1 == run.label && k.2.1 == run.gen
    let following := x.passNo f.limbs + (u.roleTiles r.toNat 9).length
    let met := (batch.filter fun w => rs.any fun f => f.row == w.g).length
    batch ≠ [] → u.passTile r.toNat (x.batch * f.limbs + i) = some id → (u.tile id).state = .bound →
    ((∀ a ∈ rs, a.again = false) →
      ∃ (w : State) (y : SealSpawn), exec (.sealPass t ⟨r, rs, ok⟩) s = .next w.stallClock.intPoll ∧
        Tab.find w.seals n = some y ∧ y.started = true ∧ y.pass = (if i + 1 < f.limbs then i + 1 else 0) ∧
        y.batch = (if i + 1 < f.limbs then x.batch else x.batch + 1) ∧
        (∀ v ∈ batch, .interior (v.column + 64 + 8 * 2 ^ f.logN * i) (limbBytes (limb v).1) ∈ w.outputs ∧
          .interior (v.column + 64 + 8 * 2 ^ f.logN * (f.limbs + i)) (limbBytes (limb v).2) ∈ w.outputs ∧
          (v.limbs.length = i → sealLimb f.limbs (v.key kNoise) (limb v) v ∈ y.rows)) ∧
        (∀ v ∈ x.rows, v ∉ batch → v ∈ y.rows) ∧ y.rows.length = x.rows.length ∧ key ∈ (w.tile id).keys ∧
        (u.overlap f.logN = true → following < (x.total + sealK job.snap - 1) / sealK job.snap * f.limbs →
          (run.label, run.gen, following % f.limbs) ∈ (w.tile id).keys) ∧
        (u.overlap f.logN = false → (w.region r.toNat).sealKeyload =
          (if key ∈ kept then (u.region r.toNat).sealKeyload else (u.region r.toNat).sealKeyload.add 32 1 u.now)) ∧
        (w.region r.toNat).sealMismatch =
          (if met = 0 then (u.region r.toNat).sealMismatch else (u.region r.toNat).sealMismatch.add 16 met u.now) ∧
        (w.tile id).mismatch = (if met = 0 then (u.tile id).mismatch else (u.tile id).mismatch.add 8 met u.now) ∧
        w.jobs = u.jobs) ∧
    ((∃ a ∈ rs, a.again = true ∧ ∃ v ∈ batch, v.g = a.row) → u.pwr.phase ≠ .basking →
      ∃ w : State, exec (.sealPass t ⟨r, rs, ok⟩) s = .next w.stallClock.intPoll ∧ (w.tile id).state = .marked ∧
        (w.tile id).cause = (if ok then 2 else 8))) ∧
  (∀ (s u : State) (t : Nat) (r : BitVec 3) (rs : List ResidueFault) (ok : Bool), s.actsAt t u →
    (u.frontSpawn r.toNat = none ∨ u.inService r.toNat = false ∨
      (∃ n x run, u.frontSpawn r.toNat = some (n, x) ∧ Tab.find u.runs x.run = some run ∧ u.mayWork run = false)) →
    exec (.sealPass t ⟨r, rs, ok⟩) s = .next u.stallClock.intPoll) ∧
  (∀ (f : Profile) (x : Label) (step kind g : Nat), 8 ≤ f.digest.length → 8 ≤ x.fingerprint.length →
    let h := ctHeader f x step kind g
    h.length = 64 ∧ slice h 0 8 = asciiBytes "HYNUSCTX" ∧ leAt h 16 8 = x.matter % 2 ^ 64 ∧
      leAt h 24 4 = x.epoch % 2 ^ 32 ∧ leAt h 32 8 = g % 2 ^ 64 ∧ leAt h 40 8 = step % 2 ^ 64 ∧
      slice h 48 8 = slice f.digest 0 8 ∧ slice h 56 8 = slice x.fingerprint 0 8) ∧
  (∀ (s u : State) (t n : Nat) (r : BitVec 3) (x : SealSpawn) (run : Run) (f : Profile) (v : SealRow), s.actsAt t u →
    u.frontSpawn r.toNat = some (n, x) → Tab.find u.runs x.run = some run → u.profileOf run = some f →
    x.rows.find? (fun w => w.limbs.length == f.limbs) = some v →
    u.mayWork run = true → u.inService r.toNat = true → u.chorusStalled run = false →
    ((u.sealRow n x run f v).manifestStalls x.run x.job false = true →
      exec (.ciphertextHeaderWrite t r) s = .next u.intPoll) ∧
    ((u.sealRow n x run f v).manifestStalls x.run x.job false = false →
    ∃ (w : State) (z : Run), exec (.ciphertextHeaderWrite t r) s = .next w.intPoll ∧
      .interior v.column (ctHeader f (u.label run.label) run.step v.kind v.g) ∈ w.outputs ∧
      (w.region r.toNat).sealCt = ((u.region r.toNat).sealCt + 1) % 2 ^ 64 ∧ w.stw.sealed = u.stw.sealed + 1 ∧
      Tab.find w.runs x.run = some z ∧ z.ciphertexts = run.ciphertexts + 1 ∧
      (w.queue run.queue).rowCursor = max (u.queue run.queue).rowCursor (v.g + 1) ∧
      (x.rows.erase v ≠ [] → Tab.find w.seals n = some { x with rows := x.rows.erase v }) ∧
      (x.rows.erase v = [] → Tab.find w.seals n = none))) ∧
  (∀ (s u : State) (t n : Nat) (r : BitVec 3) (x : SealSpawn) (run : Run) (f : Profile), s.actsAt t u →
    u.frontSpawn r.toNat = some (n, x) → Tab.find u.runs x.run = some run → u.profileOf run = some f →
    (x.rows.find? (fun w => w.limbs.length == f.limbs) = none ∨ u.mayWork run = false ∨
      u.inService r.toNat = false ∨ u.chorusStalled run = true) →
    exec (.ciphertextHeaderWrite t r) s = .next u.intPoll)

/-! ### Live channels -/

/-- R230 to R234, R239: at a tick of its frame clock, and every 100 µs, a live job reads its table entries again, and
what it read before stands behind; at the end of a picture's window its frame leaves at the latest, and one that was
not read whole at ticks before that end is late, with what was read of it by then, and counts as a timing-dependent
choice: so does each picture of a channel that has lost its core, until an IRAP picture. LIVE_PREEMPT gives a waiting
live job a free core, or that of a recorded lane that yields; which of several is the model's choice (log 77).
LIVE_SLICE_OUT sends the rows of the next slice that has been read, unless the job stalls at its output, and completes
the picture's record with its last. -/
def Obligations.LiveCommands : Prop :=
  (∀ (s u : State) (t p : Nat) (c : BitVec 3) (mem : HostMem), s.actsAt t u → u.clockPeriod c.toNat = some p →
    (p = 0 ∨ u.now % p ≠ 0 → exec (.frameClockTick t c mem) s = .next u.intPoll) ∧
    (p ≠ 0 → u.now % p = 0 → Tab.sorted u.jobs = true →
      ∃ w : State, exec (.frameClockTick t c mem) s = .next w.intPoll ∧ u.changesOnly [.jobs] w ∧
        ∀ j x, Tab.find u.jobs j = some x → Tab.find w.jobs j =
          some (if x.clock = some c.toNat ∧ (u.liveRun x).isSome = true then { x with host := mem ++ x.host } else x))) ∧
  (∀ (s u : State) (t : Nat) (c : BitVec 3) (mem : HostMem), s.actsAt t u → u.clockPeriod c.toNat = none →
    exec (.frameClockTick t c mem) s = .next u.intPoll) ∧
  (∀ (s u : State) (t j k : Nat) (mem : HostMem) (x : Job), s.actsAt t u → Tab.find u.jobs j = some x →
    exec (.liveTableRead t j k mem) s = .next
      (if (u.liveRun x).isSome = true ∧ (Tab.find x.lanes k).isSome = true then
        { u with jobs := Tab.put u.jobs j { x with host := mem ++ x.host } } else u).intPoll) ∧
  (∀ (s u : State) (t j k c p : Nat) (x : Job) (r : Run) (l : Lane) (v : Live), s.actsAt t u →
    Tab.find u.jobs j = some x → u.liveRun x = some r → Tab.find x.lanes k = some l → x.live = some v →
    x.clock = some c → u.clockPeriod c = some p →
    let ends := v.window0 + (v.next + 1) * p
    let cut := liveCut (vdecCfg x.snap) x.core.isSome v l.data ends
    (u.now < ends → exec (.liveWindowEnd t j k) s = .next u.intPoll) ∧
    (ends ≤ u.now →
      ∃ (w : State) (v' : Live), exec (.liveWindowEnd t j k) s = .next w.intPoll ∧
        w.jobs = Tab.put u.jobs j { x with live := some v' } ∧ v'.next = v.next + 1 ∧
        v'.late = (match cut with | none => v.late | some n => v.late ++ [(v.next, n)]) ∧
        v'.leaving = max v.leaving (v.next + 1) ∧ v'.window0 = v.window0 ∧ v'.reads = v.reads ∧
        w.det.ndcGlobal = (if cut = none then u.det.ndcGlobal else satAdd 64 u.det.ndcGlobal 1) ∧
        u.changesOnly (if cut = none then [.jobs] else [.jobs, .runs, .qg, .det]) w)) ∧
  (∀ (c : VdecCfg) (v : Live) (data : Bytes) (t : Nat),
    let a := vidArgs c 0 v.late
    let got := v.readBy t
    let irap := isIrap a v.next (data.take got)
    (∀ q ∈ v.reads, q.1 < t → q.2 ≤ got) ∧ (got = 0 ∨ ∃ q ∈ v.reads, q.1 < t ∧ q.2 = got) ∧
    liveCut c false v data t = some 0 ∧
    (v.resync = true → irap = false → liveCut c true v data t = some 0) ∧
    (v.resync = false ∨ irap = true →
      liveCut c true v data t = if pictureRead a v.next (data.take got) then none else some got)) ∧
  (∀ (s u : State) (t j : Nat) (x : Job), s.actsAt t u → Tab.find u.jobs j = some x →
    let held := fun c => { x with
      core := some c, wantsCore := false, lanes := Tab.mapVals (fun _ l => { l with cores := [c] }) x.lanes }
    (u.liveRun x = none ∨ x.wantsCore = false → exec (.livePreempt t j) s = .next u.intPoll) ∧
    (u.liveRun x ≠ none → x.wantsCore = true →
      (∀ c, u.freeCore = some c →
        exec (.livePreempt t j) s = .next { u with jobs := Tab.put u.jobs j (held c) }.intPoll) ∧
      (u.freeCore = none → u.yielding = [] → exec (.livePreempt t j) s = .next u.intPoll) ∧
      (∀ p ps z m c, u.freeCore = none → u.yielding = p :: ps → p.1 ≠ j → Tab.find u.jobs p.1 = some z →
        Tab.find z.lanes p.2 = some m →
        let v := { u with jobs := Tab.put u.jobs p.1 { z with lanes := Tab.put z.lanes p.2 { m with cores := [] } } }
        v.freeCore = some c →
        exec (.livePreempt t j) s = .next { v with jobs := Tab.put v.jobs j (held c) }.intPoll))) ∧
  (∀ (u : State) (p : Nat × Nat), p ∈ u.yielding → ∃ z m, (p.1, z) ∈ u.jobs ∧ (p.2, m) ∈ z.lanes ∧ z.stage = 0x10 ∧
    z.clock = none ∧ m.cores ≠ [] ∧
    ((u.basking = true ∨ ∃ r < 8, (u.region r).test = .testing ∨ (u.region r).state = .leaping ∨
        (u.region r).state = .folding) →
      atFrameEnd (vidArgs (vdecCfg z.snap) 0 []) m.data = true)) ∧
  (∀ (s u : State) (t j k : Nat) (x : Job) (r : Run) (l : Lane) (v : Live), s.actsAt t u →
    Tab.find u.jobs j = some x → u.liveRun x = some r → Tab.find x.lanes k = some l → x.live = some v →
    let a := vidArgs (vdecCfg x.snap) 0 v.late
    let sent := fun v' => { u with jobs := Tab.put u.jobs j { x with live := some v' } }
    exec (.liveSliceOut t j k) s = .next
      (if u.outputStalls r j x k = true ∨ x.core = none ∨ v.resync = true ∨ pictureBegun a v.leaving l.data = false then u
       else if pictureRead a v.leaving l.data = true then
         sent { v with leaving := v.leaving + 1, slices := 0, frames := liveFrames (vdecCfg x.snap) v.late v.leaving l.data }
       else if v.slices + 1 ≤ slicesRead a v.leaving l.data then sent { v with slices := v.slices + 1 }
       else u).intPoll)

/-! ### Frames -/

/-- What the admin commands leave unchanged: each changes nothing but the parts named beside it and what any command
may change; and where a reload of microcode waits, its end, which comes at a row of the queue, may change its parts
(R59). -/
def Obligations.AdminFrames : Prop :=
  ∀ (s s' : State) (t : Nat) (b b' : Bytes) (q : BitVec 12) (k : BitVec 2) (mem : HostMem) (n : Nat)
    (h : BitVec 16) (tr : TestResult),
    ∀ c ∈ ([
      (Instr.createQueue t, [Part.qg]), (.destroyQueue t, [.regions, .sil, .qg, .det, .pool]),
      (.disableQueue t, [.pwr, .erw, .qg]), (.queueInvalidate t, [.qg]), (.loadImage t b, [.pke, .sil, .qg]),
      (.activateImage t, [.sil, .qg]), (.imageSwitch t, [.pwr, .regions, .tiles, .erw, .sil, .qg, .pool, .runs]),
      (.reloadMicrocode t b, [.pke, .sil, .qg]), (.openMatter t b, [.pke, .qg]),
      (.closeMatter t, [.pwr, .regions, .tiles, .erw, .pke, .cus, .qg, .det, .pool, .runs, .jobs, .dicts,
        .dictSlots, .keyCache, .seals]),
      (.revokeMatter t, [.pwr, .regions, .tiles, .erw, .pke, .cus, .qg, .det, .pool, .runs, .jobs, .dicts,
        .dictSlots, .keyCache, .seals]), (.loadRingProfile t b, [.qg, .profiles]),
      (.loadPublicKey t b, [.regions, .qg, .pool, .keyCache]),
      (.loadDictionary t b, [.regions, .qg, .pool, .dicts, .dictSlots, .nextDict]), (.pause t, [.qg]),
      (.pauseBoundaryReached t q, [.qg]), (.saveContext t, [.pke, .qg]), (.restoreContext t b, [.pke, .qg]),
      (.armLaunch t, [.qg]), (.launch t k, [.qg]), (.chorusConfig t, [.qg, .det]), (.replayDigest t mem, [.qg]),
      (.pkJob t b b', [.pke, .qg]), (.sign t, [.pke, .qg]), (.verify t, [.pke, .qg]), (.keypair t n, [.pke, .qg]),
      (.ecdh t, [.pke, .qg]), (.curve t, [.pke, .qg]),
      (.pkJobEnd t ⟨k, h⟩, [.pwr, .regions, .erw, .pke, .cus, .sil, .qg, .det, .pool, .runs, .jobs]),
      (.claim t, [.regions, .sil, .qg]), (.releaseClaim t, [.regions, .sil, .qg]),
      (.recorderClear t b, [.pwr, .erw, .pke, .cus, .qg]), (.recorderFlush t, [.pwr, .erw, .qg]),
      (.regionOnline t tr, [.pwr, .regions, .tiles, .erw, .sil, .qg, .runs, .jobs]),
      (.tileRetire t, [.pwr, .regions, .tiles, .erw, .sil, .qg, .pool, .runs, .jobs]),
      (.poolConfig t b, [.pwr, .regions, .tiles, .stw, .erw, .qg, .det, .pool, .runs, .jobs]),
      (.flushEnd t, [.pwr, .erw, .qg]),
      (.completionWrite t q, [.pwr, .regions, .tiles, .erw, .pke, .cus, .qg, .det, .pool, .runs, .jobs, .dicts,
        .dictSlots, .keyCache, .seals])
    ] : List (Instr × List Part)),
    exec c.1 s = .next s' → s.changesOnly (always ++ c.2 ++ s.reloadParts) s'

/-- What the commands of the data path leave unchanged: each changes nothing but the parts named beside it and what any
command may change. None of them changes a profile, a dictionary, a cached key or a pseudo-channel. (SEAL_PASS stands
here with no mismatch.) -/
def Obligations.DataPathFrames : Prop :=
  ∀ (s s' : State) (t : Nat) (q : BitVec 12) (b : Bytes) (mem : HostMem) (n n' : Nat) (v : BitVec 32)
    (r : BitVec 3) (o : Bool) (x : PortTxn),
    ∀ c ∈ ([
      (Instr.runList t q b mem, [Part.sil, .qg, .runs]), (.fence t q, [.qg]), (.nop t q, [.qg]),
      (.desc t n, [.runs]), (.loadScb t n, [.runs]), (.writeReg t n, [.runs]),
      (.start t n, [.runs, .jobs, .nextJob]), (.wait t n, [.runs]),
      (.listEnd t n, [.pwr, .regions, .erw, .qg, .det, .pool, .runs, .jobs]),
      (.stageJobStart t n mem, [.pwr, .tiles, .erw, .jobs]),
      (.jobEnd t n, [.pwr, .regions, .tiles, .stw, .erw, .pke, .pool, .runs, .jobs]), (.entryFetch t q b, [.qg]),
      (.sqTailDoorbell t q v, [.pwr, .erw, .qg]), (.refetch t q v, [.pwr, .erw, .qg]),
      (.cqHeadDoorbell t q v, [.pwr, .erw, .qg]),
      (.chunkRead t n n' b, [.pwr, .regions, .tiles, .stw, .erw, .det, .pool, .runs, .jobs]),
      (.sampleStart t n b, [.pwr, .regions, .tiles, .stw, .erw, .det, .pool, .runs, .jobs]),
      (.sampleRetire t n, [.pwr, .regions, .tiles, .stw, .erw, .qg, .det, .pool, .runs, .jobs]),
      (.budgetWindowEnd t n n', [.pwr, .regions, .tiles, .stw, .erw, .qg, .det, .pool, .runs, .jobs]),
      (.winDeadlineEnd t n, [.regions, .qg, .det, .pool, .runs, .jobs]),
      (.encodeSpawn t n, [.pwr, .regions, .tiles, .stw, .erw, .pke, .det, .pool, .runs, .jobs, .seals, .nextSeal,
        .dealt]), (.sealPass t ⟨r, [], o⟩, [.regions, .tiles, .pool, .runs, .jobs, .seals]),
      (.ciphertextHeaderWrite t r, [.pwr, .regions, .stw, .erw, .pke, .qg, .det, .pool, .runs, .jobs, .seals]),
      (.tadpoleLimit t n n', [.pwr, .regions, .tiles, .erw, .pke, .cus, .qg, .det, .pool, .runs, .jobs, .seals]),
      (.backlogResume t n, [.pwr, .regions, .tiles, .stw, .erw, .det, .pool, .runs, .jobs]),
      (.frameClockTick t r mem, [.jobs]), (.liveTableRead t n n' mem, [.jobs]),
      (.liveWindowEnd t n n', [.qg, .det, .runs, .jobs]), (.livePreempt t n, [.jobs]),
      (.liveSliceOut t n n', [.jobs]),
      (.chorusMessage t o b, [.pwr, .regions, .tiles, .stw, .erw, .qg, .det, .pool, .runs, .jobs]),
      (.chorusMissingTimeout t o, [.pwr, .regions, .tiles, .stw, .erw, .qg, .det, .pool, .runs, .jobs]),
      (.portErrorResponse t x, [.pwr, .regions, .tiles, .stw, .erw, .pke, .sil, .qg, .det, .pool, .runs, .jobs,
        .seals])
    ] : List (Instr × List Part)),
    exec c.1 s = .next s' → s.changesOnly (always ++ c.2) s'

/-- What the commands of the registers, the panel, the pins, the timing and the Steward leave unchanged: each changes
nothing but the parts named beside it and what any command may change. (An erasure stands here with no Moult
that fails, and a TAP instruction with no access.) -/
def Obligations.HostFrames : Prop :=
  ∀ (s s' : State) (t : Nat) (v : BitVec 32) (wr : WorkRequest) (pc : BitVec 9) (ns : List Nat) (ec : EccError)
    (n : Nat) (r : BitVec 3) (l : BitVec 10) (o o' : Bool) (k : BitVec 2) (sf : StartFacts) (b : Bytes)
    (d : BitVec 64) (i : BitVec 4) (y y' : Byte) (ti : TapInstr),
    ∀ c ∈ ([
      (Instr.adminEnWrite t v, [Part.pwr, .erw, .qg]), (.seedCommit t v, [.pwr, .erw, .qg, .det]),
      (.seedClear t v, [.pwr, .erw, .qg, .det]), (.resume t v, [.pwr, .erw, .qg]),
      (.alloc t v, [.pwr, .regions, .erw, .pool]), (.share t v, [.pwr, .regions, .erw, .pool]),
      (.release t v, [.pwr, .regions, .erw, .pool]), (.free t v, [.pwr, .regions, .erw, .pool]),
      (.poolCellGrant t wr, [.pwr, .regions, .tiles, .stw, .erw, .det, .pool, .runs, .jobs]),
      (.retire t v, [.pwr, .erw, .cus, .pool, .emc]),
      (.pcRetireDone t pc ns, [.pwr, .regions, .tiles, .erw, .pke, .qg, .det, .pool, .emc, .runs, .jobs, .dicts,
        .keyCache, .seals]),
      (.enclaveEccError t pc ec n, [.pwr, .regions, .tiles, .erw, .pke, .cus, .qg, .det, .pool, .emc, .runs,
        .jobs, .seals]), (.keySlotClear t v, [.pwr, .erw, .pke]), (.armRecorderClear t v, [.cus]),
      (.armDebugUnlock t v, [.cus]), (.relock t v, [.pwr, .erw, .cus]), (.ident t v, [.pwr, .stw, .erw]),
      (.selftest t v, [.pwr, .stw, .erw]), (.stats t v, [.pwr, .stw, .erw]),
      (.hostValuesCommit t v, [.pwr, .erw]), (.flushAck t v, [.erw]), (.windowLoad t v, [.pwr, .erw]),
      (.rearm t v, []), (.presenceAbsent t r, [.pwr, .erw, .pke, .cus, .qg]), (.presencePresent t r, [.cus]),
      (.debounceWindowEnd t r, [.pwr, .regions, .tiles, .erw, .pke, .cus, .qg, .det, .pool, .runs, .jobs, .dicts,
        .dictSlots, .keyCache, .seals]), (.erasureEnd t ⟨l, []⟩, [.pwr, .erw, .cus, .qg]),
      (.buttonChange t o o', [.cus]), (.dualControlAct t, [.pwr, .erw, .cus]),
      (.debugUnlockExpiry t, [.pwr, .erw, .cus]),
      (.pwrFailAssert t, [.pwr, .regions, .tiles, .erw, .pke, .cus, .qg, .det, .pool, .runs, .jobs, .dicts,
        .dictSlots, .keyCache, .seals]), (.vWarnEntry t k, [.pwr, .erw]), (.vInhibitEntry t k, [.pwr, .erw]),
      (.vInhibitExit t k, [.pwr, .erw]), (.resetRelease t, [.pwr]),
      (.startMoultDone t sf, [.pwr, .stw, .pke, .sil]), (.kCtlDerived t b, [.pwr, .regions, .emc]),
      (.lockWaitExpiry t, [.pwr, .regions]), (.enclaveTestEnd t ns, [.pwr, .erw, .pool, .emc]),
      (.dieNumberWord t v, [.gctl, .pwr, .regions]), (.countWord t d, [.pwr, .regions, .erw]),
      (.timingLost t, [.pwr, .erw]),
      (.timingRelock t d, [.pwr, .regions, .tiles, .stw, .erw, .pke, .cus, .qg, .det, .pool, .runs, .jobs,
        .dicts, .dictSlots, .keyCache, .seals]), (.timerTick t i, []),
      (.leapfrogDone t r, [.pwr, .regions, .tiles, .erw, .qg]),
      (.foldDone t r, [.pwr, .regions, .tiles, .erw, .pke, .qg, .det, .pool, .runs, .jobs, .seals]),
      (.loadWindowEnd t n, [.pwr, .stw, .erw, .emc]), (.statsSweep t, [.stw]),
      (.scrubOverwrite t n, [.cus, .pool]), (.patrolScrubRead t n o, [.pwr, .erw, .cus, .pool, .emc]),
      (.stackTemperatureReport t r o, [.emc]), (.hello t y b, [.cus]), (.offer t y b, [.pwr, .erw, .cus]),
      (.probeAck t y b, [.pwr, .regions, .tiles, .erw, .pke, .cus, .qg, .det, .pool, .runs, .jobs, .dicts,
        .dictSlots, .keyCache, .seals]), (.counterAck t y b, [.pwr, .erw, .cus, .qg]),
      (.counterAckTimeout t, [.pwr, .erw, .cus, .qg]), (.windowRead t y b, [.erw, .cus]),
      (.ack t y b, [.cus, .fresh]), (.nak t y b, [.pwr, .erw, .cus]), (.custodyFrameCrcError t y y', [.cus]),
      (.frameResend t y, [.pwr, .erw, .cus]), (.tapInstruction t ⟨ti, .nothing⟩, [.cus]), (.frameLenExceeded t, []),
      (.dualControlWindowEnd t, [.cus]), (.vWarnExit t i, [.pwr]), (.pwrFailDeassert t, [.pwr]),
      (.ceWindowEnd t, [.emc]), (.crcWindowEnd t r, [.regions, .jobs])
    ] : List (Instr × List Part)),
    exec c.1 s = .next s' → s.changesOnly (always ++ c.2) s'
end

