-- ==== Sys2Proof/Laws/Bits.lean ====
section
/-!
SUPPORT. Bits and fields of numbers as arithmetic.
-/

namespace Sys2Proof

theorem bitOf_iff (w n : Nat) : bitOf w n = true ↔ w / 2 ^ n % 2 = 1 := by
  simp [bitOf, Nat.shiftRight_eq_div_pow]

theorem bitOf_false (w n : Nat) : bitOf w n = false ↔ w / 2 ^ n % 2 = 0 := by
  simp [bitOf, Nat.shiftRight_eq_div_pow]

theorem fieldOf_eq (w lo k : Nat) : fieldOf w lo k = w / 2 ^ lo % 2 ^ k := by
  simp [fieldOf, Nat.shiftRight_eq_div_pow]

theorem ofBool_if (b : Bool) : ofBool b = if b then 1 else 0 := by
  cases b <;> rfl

end Sys2Proof
end

