-- ==== Sys2Proof/Laws/State.lean ====
section
/-!
SUPPORT. What each update of State leaves: one lemma per field and update, so that no proof unfolds a record update.
-/

namespace Sys2Proof.Machine

/-! ### modGctl -/

@[simp] theorem State.modGctl_gctl (s : State) (f : Gctl → Gctl) : (s.modGctl f).gctl = f s.gctl := rfl
@[simp] theorem State.modGctl_intb (s : State) (f : Gctl → Gctl) : (s.modGctl f).intb = s.intb := rfl
@[simp] theorem State.modGctl_time (s : State) (f : Gctl → Gctl) : (s.modGctl f).time = s.time := rfl
@[simp] theorem State.modGctl_pwr (s : State) (f : Gctl → Gctl) : (s.modGctl f).pwr = s.pwr := rfl
@[simp] theorem State.modGctl_regions (s : State) (f : Gctl → Gctl) : (s.modGctl f).regions = s.regions := rfl
@[simp] theorem State.modGctl_tiles (s : State) (f : Gctl → Gctl) : (s.modGctl f).tiles = s.tiles := rfl
@[simp] theorem State.modGctl_faults (s : State) (f : Gctl → Gctl) : (s.modGctl f).faults = s.faults := rfl
@[simp] theorem State.modGctl_stw (s : State) (f : Gctl → Gctl) : (s.modGctl f).stw = s.stw := rfl
@[simp] theorem State.modGctl_erw (s : State) (f : Gctl → Gctl) : (s.modGctl f).erw = s.erw := rfl
@[simp] theorem State.modGctl_pke (s : State) (f : Gctl → Gctl) : (s.modGctl f).pke = s.pke := rfl
@[simp] theorem State.modGctl_cus (s : State) (f : Gctl → Gctl) : (s.modGctl f).cus = s.cus := rfl
@[simp] theorem State.modGctl_sil (s : State) (f : Gctl → Gctl) : (s.modGctl f).sil = s.sil := rfl
@[simp] theorem State.modGctl_qg (s : State) (f : Gctl → Gctl) : (s.modGctl f).qg = s.qg := rfl
@[simp] theorem State.modGctl_det (s : State) (f : Gctl → Gctl) : (s.modGctl f).det = s.det := rfl
@[simp] theorem State.modGctl_pool (s : State) (f : Gctl → Gctl) : (s.modGctl f).pool = s.pool := rfl
@[simp] theorem State.modGctl_emc (s : State) (f : Gctl → Gctl) : (s.modGctl f).emc = s.emc := rfl
@[simp] theorem State.modGctl_runs (s : State) (f : Gctl → Gctl) : (s.modGctl f).runs = s.runs := rfl
@[simp] theorem State.modGctl_jobs (s : State) (f : Gctl → Gctl) : (s.modGctl f).jobs = s.jobs := rfl
@[simp] theorem State.modGctl_nextJob (s : State) (f : Gctl → Gctl) : (s.modGctl f).nextJob = s.nextJob := rfl
@[simp] theorem State.modGctl_profiles (s : State) (f : Gctl → Gctl) : (s.modGctl f).profiles = s.profiles := rfl
@[simp] theorem State.modGctl_dicts (s : State) (f : Gctl → Gctl) : (s.modGctl f).dicts = s.dicts := rfl
@[simp] theorem State.modGctl_dictSlots (s : State) (f : Gctl → Gctl) : (s.modGctl f).dictSlots = s.dictSlots := rfl
@[simp] theorem State.modGctl_nextDict (s : State) (f : Gctl → Gctl) : (s.modGctl f).nextDict = s.nextDict := rfl
@[simp] theorem State.modGctl_keyCache (s : State) (f : Gctl → Gctl) : (s.modGctl f).keyCache = s.keyCache := rfl
@[simp] theorem State.modGctl_seals (s : State) (f : Gctl → Gctl) : (s.modGctl f).seals = s.seals := rfl
@[simp] theorem State.modGctl_nextSeal (s : State) (f : Gctl → Gctl) : (s.modGctl f).nextSeal = s.nextSeal := rfl
@[simp] theorem State.modGctl_dealt (s : State) (f : Gctl → Gctl) : (s.modGctl f).dealt = s.dealt := rfl
@[simp] theorem State.modGctl_outputs (s : State) (f : Gctl → Gctl) : (s.modGctl f).outputs = s.outputs := rfl
@[simp] theorem State.modGctl_fresh (s : State) (f : Gctl → Gctl) : (s.modGctl f).fresh = s.fresh := rfl
@[simp] theorem State.modGctl_pending (s : State) (f : Gctl → Gctl) : (s.modGctl f).pending = s.pending := rfl

/-! ### modInt -/

@[simp] theorem State.modInt_gctl (s : State) (f : IntBlock → IntBlock) : (s.modInt f).gctl = s.gctl := rfl
@[simp] theorem State.modInt_intb (s : State) (f : IntBlock → IntBlock) : (s.modInt f).intb = f s.intb := rfl
@[simp] theorem State.modInt_time (s : State) (f : IntBlock → IntBlock) : (s.modInt f).time = s.time := rfl
@[simp] theorem State.modInt_pwr (s : State) (f : IntBlock → IntBlock) : (s.modInt f).pwr = s.pwr := rfl
@[simp] theorem State.modInt_regions (s : State) (f : IntBlock → IntBlock) : (s.modInt f).regions = s.regions := rfl
@[simp] theorem State.modInt_tiles (s : State) (f : IntBlock → IntBlock) : (s.modInt f).tiles = s.tiles := rfl
@[simp] theorem State.modInt_faults (s : State) (f : IntBlock → IntBlock) : (s.modInt f).faults = s.faults := rfl
@[simp] theorem State.modInt_stw (s : State) (f : IntBlock → IntBlock) : (s.modInt f).stw = s.stw := rfl
@[simp] theorem State.modInt_erw (s : State) (f : IntBlock → IntBlock) : (s.modInt f).erw = s.erw := rfl
@[simp] theorem State.modInt_pke (s : State) (f : IntBlock → IntBlock) : (s.modInt f).pke = s.pke := rfl
@[simp] theorem State.modInt_cus (s : State) (f : IntBlock → IntBlock) : (s.modInt f).cus = s.cus := rfl
@[simp] theorem State.modInt_sil (s : State) (f : IntBlock → IntBlock) : (s.modInt f).sil = s.sil := rfl
@[simp] theorem State.modInt_qg (s : State) (f : IntBlock → IntBlock) : (s.modInt f).qg = s.qg := rfl
@[simp] theorem State.modInt_det (s : State) (f : IntBlock → IntBlock) : (s.modInt f).det = s.det := rfl
@[simp] theorem State.modInt_pool (s : State) (f : IntBlock → IntBlock) : (s.modInt f).pool = s.pool := rfl
@[simp] theorem State.modInt_emc (s : State) (f : IntBlock → IntBlock) : (s.modInt f).emc = s.emc := rfl
@[simp] theorem State.modInt_runs (s : State) (f : IntBlock → IntBlock) : (s.modInt f).runs = s.runs := rfl
@[simp] theorem State.modInt_jobs (s : State) (f : IntBlock → IntBlock) : (s.modInt f).jobs = s.jobs := rfl
@[simp] theorem State.modInt_nextJob (s : State) (f : IntBlock → IntBlock) : (s.modInt f).nextJob = s.nextJob := rfl
@[simp] theorem State.modInt_profiles (s : State) (f : IntBlock → IntBlock) : (s.modInt f).profiles = s.profiles := rfl
@[simp] theorem State.modInt_dicts (s : State) (f : IntBlock → IntBlock) : (s.modInt f).dicts = s.dicts := rfl
@[simp] theorem State.modInt_dictSlots (s : State) (f : IntBlock → IntBlock) : (s.modInt f).dictSlots = s.dictSlots := rfl
@[simp] theorem State.modInt_nextDict (s : State) (f : IntBlock → IntBlock) : (s.modInt f).nextDict = s.nextDict := rfl
@[simp] theorem State.modInt_keyCache (s : State) (f : IntBlock → IntBlock) : (s.modInt f).keyCache = s.keyCache := rfl
@[simp] theorem State.modInt_seals (s : State) (f : IntBlock → IntBlock) : (s.modInt f).seals = s.seals := rfl
@[simp] theorem State.modInt_nextSeal (s : State) (f : IntBlock → IntBlock) : (s.modInt f).nextSeal = s.nextSeal := rfl
@[simp] theorem State.modInt_dealt (s : State) (f : IntBlock → IntBlock) : (s.modInt f).dealt = s.dealt := rfl
@[simp] theorem State.modInt_outputs (s : State) (f : IntBlock → IntBlock) : (s.modInt f).outputs = s.outputs := rfl
@[simp] theorem State.modInt_fresh (s : State) (f : IntBlock → IntBlock) : (s.modInt f).fresh = s.fresh := rfl
@[simp] theorem State.modInt_pending (s : State) (f : IntBlock → IntBlock) : (s.modInt f).pending = s.pending := rfl

/-! ### modTime -/

@[simp] theorem State.modTime_gctl (s : State) (f : Time → Time) : (s.modTime f).gctl = s.gctl := rfl
@[simp] theorem State.modTime_intb (s : State) (f : Time → Time) : (s.modTime f).intb = s.intb := rfl
@[simp] theorem State.modTime_time (s : State) (f : Time → Time) : (s.modTime f).time = f s.time := rfl
@[simp] theorem State.modTime_pwr (s : State) (f : Time → Time) : (s.modTime f).pwr = s.pwr := rfl
@[simp] theorem State.modTime_regions (s : State) (f : Time → Time) : (s.modTime f).regions = s.regions := rfl
@[simp] theorem State.modTime_tiles (s : State) (f : Time → Time) : (s.modTime f).tiles = s.tiles := rfl
@[simp] theorem State.modTime_faults (s : State) (f : Time → Time) : (s.modTime f).faults = s.faults := rfl
@[simp] theorem State.modTime_stw (s : State) (f : Time → Time) : (s.modTime f).stw = s.stw := rfl
@[simp] theorem State.modTime_erw (s : State) (f : Time → Time) : (s.modTime f).erw = s.erw := rfl
@[simp] theorem State.modTime_pke (s : State) (f : Time → Time) : (s.modTime f).pke = s.pke := rfl
@[simp] theorem State.modTime_cus (s : State) (f : Time → Time) : (s.modTime f).cus = s.cus := rfl
@[simp] theorem State.modTime_sil (s : State) (f : Time → Time) : (s.modTime f).sil = s.sil := rfl
@[simp] theorem State.modTime_qg (s : State) (f : Time → Time) : (s.modTime f).qg = s.qg := rfl
@[simp] theorem State.modTime_det (s : State) (f : Time → Time) : (s.modTime f).det = s.det := rfl
@[simp] theorem State.modTime_pool (s : State) (f : Time → Time) : (s.modTime f).pool = s.pool := rfl
@[simp] theorem State.modTime_emc (s : State) (f : Time → Time) : (s.modTime f).emc = s.emc := rfl
@[simp] theorem State.modTime_runs (s : State) (f : Time → Time) : (s.modTime f).runs = s.runs := rfl
@[simp] theorem State.modTime_jobs (s : State) (f : Time → Time) : (s.modTime f).jobs = s.jobs := rfl
@[simp] theorem State.modTime_nextJob (s : State) (f : Time → Time) : (s.modTime f).nextJob = s.nextJob := rfl
@[simp] theorem State.modTime_profiles (s : State) (f : Time → Time) : (s.modTime f).profiles = s.profiles := rfl
@[simp] theorem State.modTime_dicts (s : State) (f : Time → Time) : (s.modTime f).dicts = s.dicts := rfl
@[simp] theorem State.modTime_dictSlots (s : State) (f : Time → Time) : (s.modTime f).dictSlots = s.dictSlots := rfl
@[simp] theorem State.modTime_nextDict (s : State) (f : Time → Time) : (s.modTime f).nextDict = s.nextDict := rfl
@[simp] theorem State.modTime_keyCache (s : State) (f : Time → Time) : (s.modTime f).keyCache = s.keyCache := rfl
@[simp] theorem State.modTime_seals (s : State) (f : Time → Time) : (s.modTime f).seals = s.seals := rfl
@[simp] theorem State.modTime_nextSeal (s : State) (f : Time → Time) : (s.modTime f).nextSeal = s.nextSeal := rfl
@[simp] theorem State.modTime_dealt (s : State) (f : Time → Time) : (s.modTime f).dealt = s.dealt := rfl
@[simp] theorem State.modTime_outputs (s : State) (f : Time → Time) : (s.modTime f).outputs = s.outputs := rfl
@[simp] theorem State.modTime_fresh (s : State) (f : Time → Time) : (s.modTime f).fresh = s.fresh := rfl
@[simp] theorem State.modTime_pending (s : State) (f : Time → Time) : (s.modTime f).pending = s.pending := rfl

/-! ### modPwr -/

@[simp] theorem State.modPwr_gctl (s : State) (f : Pwr → Pwr) : (s.modPwr f).gctl = s.gctl := rfl
@[simp] theorem State.modPwr_intb (s : State) (f : Pwr → Pwr) : (s.modPwr f).intb = s.intb := rfl
@[simp] theorem State.modPwr_time (s : State) (f : Pwr → Pwr) : (s.modPwr f).time = s.time := rfl
@[simp] theorem State.modPwr_pwr (s : State) (f : Pwr → Pwr) : (s.modPwr f).pwr = f s.pwr := rfl
@[simp] theorem State.modPwr_regions (s : State) (f : Pwr → Pwr) : (s.modPwr f).regions = s.regions := rfl
@[simp] theorem State.modPwr_tiles (s : State) (f : Pwr → Pwr) : (s.modPwr f).tiles = s.tiles := rfl
@[simp] theorem State.modPwr_faults (s : State) (f : Pwr → Pwr) : (s.modPwr f).faults = s.faults := rfl
@[simp] theorem State.modPwr_stw (s : State) (f : Pwr → Pwr) : (s.modPwr f).stw = s.stw := rfl
@[simp] theorem State.modPwr_erw (s : State) (f : Pwr → Pwr) : (s.modPwr f).erw = s.erw := rfl
@[simp] theorem State.modPwr_pke (s : State) (f : Pwr → Pwr) : (s.modPwr f).pke = s.pke := rfl
@[simp] theorem State.modPwr_cus (s : State) (f : Pwr → Pwr) : (s.modPwr f).cus = s.cus := rfl
@[simp] theorem State.modPwr_sil (s : State) (f : Pwr → Pwr) : (s.modPwr f).sil = s.sil := rfl
@[simp] theorem State.modPwr_qg (s : State) (f : Pwr → Pwr) : (s.modPwr f).qg = s.qg := rfl
@[simp] theorem State.modPwr_det (s : State) (f : Pwr → Pwr) : (s.modPwr f).det = s.det := rfl
@[simp] theorem State.modPwr_pool (s : State) (f : Pwr → Pwr) : (s.modPwr f).pool = s.pool := rfl
@[simp] theorem State.modPwr_emc (s : State) (f : Pwr → Pwr) : (s.modPwr f).emc = s.emc := rfl
@[simp] theorem State.modPwr_runs (s : State) (f : Pwr → Pwr) : (s.modPwr f).runs = s.runs := rfl
@[simp] theorem State.modPwr_jobs (s : State) (f : Pwr → Pwr) : (s.modPwr f).jobs = s.jobs := rfl
@[simp] theorem State.modPwr_nextJob (s : State) (f : Pwr → Pwr) : (s.modPwr f).nextJob = s.nextJob := rfl
@[simp] theorem State.modPwr_profiles (s : State) (f : Pwr → Pwr) : (s.modPwr f).profiles = s.profiles := rfl
@[simp] theorem State.modPwr_dicts (s : State) (f : Pwr → Pwr) : (s.modPwr f).dicts = s.dicts := rfl
@[simp] theorem State.modPwr_dictSlots (s : State) (f : Pwr → Pwr) : (s.modPwr f).dictSlots = s.dictSlots := rfl
@[simp] theorem State.modPwr_nextDict (s : State) (f : Pwr → Pwr) : (s.modPwr f).nextDict = s.nextDict := rfl
@[simp] theorem State.modPwr_keyCache (s : State) (f : Pwr → Pwr) : (s.modPwr f).keyCache = s.keyCache := rfl
@[simp] theorem State.modPwr_seals (s : State) (f : Pwr → Pwr) : (s.modPwr f).seals = s.seals := rfl
@[simp] theorem State.modPwr_nextSeal (s : State) (f : Pwr → Pwr) : (s.modPwr f).nextSeal = s.nextSeal := rfl
@[simp] theorem State.modPwr_dealt (s : State) (f : Pwr → Pwr) : (s.modPwr f).dealt = s.dealt := rfl
@[simp] theorem State.modPwr_outputs (s : State) (f : Pwr → Pwr) : (s.modPwr f).outputs = s.outputs := rfl
@[simp] theorem State.modPwr_fresh (s : State) (f : Pwr → Pwr) : (s.modPwr f).fresh = s.fresh := rfl
@[simp] theorem State.modPwr_pending (s : State) (f : Pwr → Pwr) : (s.modPwr f).pending = s.pending := rfl

/-! ### modStw -/

@[simp] theorem State.modStw_gctl (s : State) (f : Stw → Stw) : (s.modStw f).gctl = s.gctl := rfl
@[simp] theorem State.modStw_intb (s : State) (f : Stw → Stw) : (s.modStw f).intb = s.intb := rfl
@[simp] theorem State.modStw_time (s : State) (f : Stw → Stw) : (s.modStw f).time = s.time := rfl
@[simp] theorem State.modStw_pwr (s : State) (f : Stw → Stw) : (s.modStw f).pwr = s.pwr := rfl
@[simp] theorem State.modStw_regions (s : State) (f : Stw → Stw) : (s.modStw f).regions = s.regions := rfl
@[simp] theorem State.modStw_tiles (s : State) (f : Stw → Stw) : (s.modStw f).tiles = s.tiles := rfl
@[simp] theorem State.modStw_faults (s : State) (f : Stw → Stw) : (s.modStw f).faults = s.faults := rfl
@[simp] theorem State.modStw_stw (s : State) (f : Stw → Stw) : (s.modStw f).stw = f s.stw := rfl
@[simp] theorem State.modStw_erw (s : State) (f : Stw → Stw) : (s.modStw f).erw = s.erw := rfl
@[simp] theorem State.modStw_pke (s : State) (f : Stw → Stw) : (s.modStw f).pke = s.pke := rfl
@[simp] theorem State.modStw_cus (s : State) (f : Stw → Stw) : (s.modStw f).cus = s.cus := rfl
@[simp] theorem State.modStw_sil (s : State) (f : Stw → Stw) : (s.modStw f).sil = s.sil := rfl
@[simp] theorem State.modStw_qg (s : State) (f : Stw → Stw) : (s.modStw f).qg = s.qg := rfl
@[simp] theorem State.modStw_det (s : State) (f : Stw → Stw) : (s.modStw f).det = s.det := rfl
@[simp] theorem State.modStw_pool (s : State) (f : Stw → Stw) : (s.modStw f).pool = s.pool := rfl
@[simp] theorem State.modStw_emc (s : State) (f : Stw → Stw) : (s.modStw f).emc = s.emc := rfl
@[simp] theorem State.modStw_runs (s : State) (f : Stw → Stw) : (s.modStw f).runs = s.runs := rfl
@[simp] theorem State.modStw_jobs (s : State) (f : Stw → Stw) : (s.modStw f).jobs = s.jobs := rfl
@[simp] theorem State.modStw_nextJob (s : State) (f : Stw → Stw) : (s.modStw f).nextJob = s.nextJob := rfl
@[simp] theorem State.modStw_profiles (s : State) (f : Stw → Stw) : (s.modStw f).profiles = s.profiles := rfl
@[simp] theorem State.modStw_dicts (s : State) (f : Stw → Stw) : (s.modStw f).dicts = s.dicts := rfl
@[simp] theorem State.modStw_dictSlots (s : State) (f : Stw → Stw) : (s.modStw f).dictSlots = s.dictSlots := rfl
@[simp] theorem State.modStw_nextDict (s : State) (f : Stw → Stw) : (s.modStw f).nextDict = s.nextDict := rfl
@[simp] theorem State.modStw_keyCache (s : State) (f : Stw → Stw) : (s.modStw f).keyCache = s.keyCache := rfl
@[simp] theorem State.modStw_seals (s : State) (f : Stw → Stw) : (s.modStw f).seals = s.seals := rfl
@[simp] theorem State.modStw_nextSeal (s : State) (f : Stw → Stw) : (s.modStw f).nextSeal = s.nextSeal := rfl
@[simp] theorem State.modStw_dealt (s : State) (f : Stw → Stw) : (s.modStw f).dealt = s.dealt := rfl
@[simp] theorem State.modStw_outputs (s : State) (f : Stw → Stw) : (s.modStw f).outputs = s.outputs := rfl
@[simp] theorem State.modStw_fresh (s : State) (f : Stw → Stw) : (s.modStw f).fresh = s.fresh := rfl
@[simp] theorem State.modStw_pending (s : State) (f : Stw → Stw) : (s.modStw f).pending = s.pending := rfl

/-! ### modErw -/

@[simp] theorem State.modErw_gctl (s : State) (f : Erw → Erw) : (s.modErw f).gctl = s.gctl := rfl
@[simp] theorem State.modErw_intb (s : State) (f : Erw → Erw) : (s.modErw f).intb = s.intb := rfl
@[simp] theorem State.modErw_time (s : State) (f : Erw → Erw) : (s.modErw f).time = s.time := rfl
@[simp] theorem State.modErw_pwr (s : State) (f : Erw → Erw) : (s.modErw f).pwr = s.pwr := rfl
@[simp] theorem State.modErw_regions (s : State) (f : Erw → Erw) : (s.modErw f).regions = s.regions := rfl
@[simp] theorem State.modErw_tiles (s : State) (f : Erw → Erw) : (s.modErw f).tiles = s.tiles := rfl
@[simp] theorem State.modErw_faults (s : State) (f : Erw → Erw) : (s.modErw f).faults = s.faults := rfl
@[simp] theorem State.modErw_stw (s : State) (f : Erw → Erw) : (s.modErw f).stw = s.stw := rfl
@[simp] theorem State.modErw_erw (s : State) (f : Erw → Erw) : (s.modErw f).erw = f s.erw := rfl
@[simp] theorem State.modErw_pke (s : State) (f : Erw → Erw) : (s.modErw f).pke = s.pke := rfl
@[simp] theorem State.modErw_cus (s : State) (f : Erw → Erw) : (s.modErw f).cus = s.cus := rfl
@[simp] theorem State.modErw_sil (s : State) (f : Erw → Erw) : (s.modErw f).sil = s.sil := rfl
@[simp] theorem State.modErw_qg (s : State) (f : Erw → Erw) : (s.modErw f).qg = s.qg := rfl
@[simp] theorem State.modErw_det (s : State) (f : Erw → Erw) : (s.modErw f).det = s.det := rfl
@[simp] theorem State.modErw_pool (s : State) (f : Erw → Erw) : (s.modErw f).pool = s.pool := rfl
@[simp] theorem State.modErw_emc (s : State) (f : Erw → Erw) : (s.modErw f).emc = s.emc := rfl
@[simp] theorem State.modErw_runs (s : State) (f : Erw → Erw) : (s.modErw f).runs = s.runs := rfl
@[simp] theorem State.modErw_jobs (s : State) (f : Erw → Erw) : (s.modErw f).jobs = s.jobs := rfl
@[simp] theorem State.modErw_nextJob (s : State) (f : Erw → Erw) : (s.modErw f).nextJob = s.nextJob := rfl
@[simp] theorem State.modErw_profiles (s : State) (f : Erw → Erw) : (s.modErw f).profiles = s.profiles := rfl
@[simp] theorem State.modErw_dicts (s : State) (f : Erw → Erw) : (s.modErw f).dicts = s.dicts := rfl
@[simp] theorem State.modErw_dictSlots (s : State) (f : Erw → Erw) : (s.modErw f).dictSlots = s.dictSlots := rfl
@[simp] theorem State.modErw_nextDict (s : State) (f : Erw → Erw) : (s.modErw f).nextDict = s.nextDict := rfl
@[simp] theorem State.modErw_keyCache (s : State) (f : Erw → Erw) : (s.modErw f).keyCache = s.keyCache := rfl
@[simp] theorem State.modErw_seals (s : State) (f : Erw → Erw) : (s.modErw f).seals = s.seals := rfl
@[simp] theorem State.modErw_nextSeal (s : State) (f : Erw → Erw) : (s.modErw f).nextSeal = s.nextSeal := rfl
@[simp] theorem State.modErw_dealt (s : State) (f : Erw → Erw) : (s.modErw f).dealt = s.dealt := rfl
@[simp] theorem State.modErw_outputs (s : State) (f : Erw → Erw) : (s.modErw f).outputs = s.outputs := rfl
@[simp] theorem State.modErw_fresh (s : State) (f : Erw → Erw) : (s.modErw f).fresh = s.fresh := rfl
@[simp] theorem State.modErw_pending (s : State) (f : Erw → Erw) : (s.modErw f).pending = s.pending := rfl

/-! ### modPke -/

@[simp] theorem State.modPke_gctl (s : State) (f : Pke → Pke) : (s.modPke f).gctl = s.gctl := rfl
@[simp] theorem State.modPke_intb (s : State) (f : Pke → Pke) : (s.modPke f).intb = s.intb := rfl
@[simp] theorem State.modPke_time (s : State) (f : Pke → Pke) : (s.modPke f).time = s.time := rfl
@[simp] theorem State.modPke_pwr (s : State) (f : Pke → Pke) : (s.modPke f).pwr = s.pwr := rfl
@[simp] theorem State.modPke_regions (s : State) (f : Pke → Pke) : (s.modPke f).regions = s.regions := rfl
@[simp] theorem State.modPke_tiles (s : State) (f : Pke → Pke) : (s.modPke f).tiles = s.tiles := rfl
@[simp] theorem State.modPke_faults (s : State) (f : Pke → Pke) : (s.modPke f).faults = s.faults := rfl
@[simp] theorem State.modPke_stw (s : State) (f : Pke → Pke) : (s.modPke f).stw = s.stw := rfl
@[simp] theorem State.modPke_erw (s : State) (f : Pke → Pke) : (s.modPke f).erw = s.erw := rfl
@[simp] theorem State.modPke_pke (s : State) (f : Pke → Pke) : (s.modPke f).pke = f s.pke := rfl
@[simp] theorem State.modPke_cus (s : State) (f : Pke → Pke) : (s.modPke f).cus = s.cus := rfl
@[simp] theorem State.modPke_sil (s : State) (f : Pke → Pke) : (s.modPke f).sil = s.sil := rfl
@[simp] theorem State.modPke_qg (s : State) (f : Pke → Pke) : (s.modPke f).qg = s.qg := rfl
@[simp] theorem State.modPke_det (s : State) (f : Pke → Pke) : (s.modPke f).det = s.det := rfl
@[simp] theorem State.modPke_pool (s : State) (f : Pke → Pke) : (s.modPke f).pool = s.pool := rfl
@[simp] theorem State.modPke_emc (s : State) (f : Pke → Pke) : (s.modPke f).emc = s.emc := rfl
@[simp] theorem State.modPke_runs (s : State) (f : Pke → Pke) : (s.modPke f).runs = s.runs := rfl
@[simp] theorem State.modPke_jobs (s : State) (f : Pke → Pke) : (s.modPke f).jobs = s.jobs := rfl
@[simp] theorem State.modPke_nextJob (s : State) (f : Pke → Pke) : (s.modPke f).nextJob = s.nextJob := rfl
@[simp] theorem State.modPke_profiles (s : State) (f : Pke → Pke) : (s.modPke f).profiles = s.profiles := rfl
@[simp] theorem State.modPke_dicts (s : State) (f : Pke → Pke) : (s.modPke f).dicts = s.dicts := rfl
@[simp] theorem State.modPke_dictSlots (s : State) (f : Pke → Pke) : (s.modPke f).dictSlots = s.dictSlots := rfl
@[simp] theorem State.modPke_nextDict (s : State) (f : Pke → Pke) : (s.modPke f).nextDict = s.nextDict := rfl
@[simp] theorem State.modPke_keyCache (s : State) (f : Pke → Pke) : (s.modPke f).keyCache = s.keyCache := rfl
@[simp] theorem State.modPke_seals (s : State) (f : Pke → Pke) : (s.modPke f).seals = s.seals := rfl
@[simp] theorem State.modPke_nextSeal (s : State) (f : Pke → Pke) : (s.modPke f).nextSeal = s.nextSeal := rfl
@[simp] theorem State.modPke_dealt (s : State) (f : Pke → Pke) : (s.modPke f).dealt = s.dealt := rfl
@[simp] theorem State.modPke_outputs (s : State) (f : Pke → Pke) : (s.modPke f).outputs = s.outputs := rfl
@[simp] theorem State.modPke_fresh (s : State) (f : Pke → Pke) : (s.modPke f).fresh = s.fresh := rfl
@[simp] theorem State.modPke_pending (s : State) (f : Pke → Pke) : (s.modPke f).pending = s.pending := rfl

/-! ### modCus -/

@[simp] theorem State.modCus_gctl (s : State) (f : Cus → Cus) : (s.modCus f).gctl = s.gctl := rfl
@[simp] theorem State.modCus_intb (s : State) (f : Cus → Cus) : (s.modCus f).intb = s.intb := rfl
@[simp] theorem State.modCus_time (s : State) (f : Cus → Cus) : (s.modCus f).time = s.time := rfl
@[simp] theorem State.modCus_pwr (s : State) (f : Cus → Cus) : (s.modCus f).pwr = s.pwr := rfl
@[simp] theorem State.modCus_regions (s : State) (f : Cus → Cus) : (s.modCus f).regions = s.regions := rfl
@[simp] theorem State.modCus_tiles (s : State) (f : Cus → Cus) : (s.modCus f).tiles = s.tiles := rfl
@[simp] theorem State.modCus_faults (s : State) (f : Cus → Cus) : (s.modCus f).faults = s.faults := rfl
@[simp] theorem State.modCus_stw (s : State) (f : Cus → Cus) : (s.modCus f).stw = s.stw := rfl
@[simp] theorem State.modCus_erw (s : State) (f : Cus → Cus) : (s.modCus f).erw = s.erw := rfl
@[simp] theorem State.modCus_pke (s : State) (f : Cus → Cus) : (s.modCus f).pke = s.pke := rfl
@[simp] theorem State.modCus_cus (s : State) (f : Cus → Cus) : (s.modCus f).cus = f s.cus := rfl
@[simp] theorem State.modCus_sil (s : State) (f : Cus → Cus) : (s.modCus f).sil = s.sil := rfl
@[simp] theorem State.modCus_qg (s : State) (f : Cus → Cus) : (s.modCus f).qg = s.qg := rfl
@[simp] theorem State.modCus_det (s : State) (f : Cus → Cus) : (s.modCus f).det = s.det := rfl
@[simp] theorem State.modCus_pool (s : State) (f : Cus → Cus) : (s.modCus f).pool = s.pool := rfl
@[simp] theorem State.modCus_emc (s : State) (f : Cus → Cus) : (s.modCus f).emc = s.emc := rfl
@[simp] theorem State.modCus_runs (s : State) (f : Cus → Cus) : (s.modCus f).runs = s.runs := rfl
@[simp] theorem State.modCus_jobs (s : State) (f : Cus → Cus) : (s.modCus f).jobs = s.jobs := rfl
@[simp] theorem State.modCus_nextJob (s : State) (f : Cus → Cus) : (s.modCus f).nextJob = s.nextJob := rfl
@[simp] theorem State.modCus_profiles (s : State) (f : Cus → Cus) : (s.modCus f).profiles = s.profiles := rfl
@[simp] theorem State.modCus_dicts (s : State) (f : Cus → Cus) : (s.modCus f).dicts = s.dicts := rfl
@[simp] theorem State.modCus_dictSlots (s : State) (f : Cus → Cus) : (s.modCus f).dictSlots = s.dictSlots := rfl
@[simp] theorem State.modCus_nextDict (s : State) (f : Cus → Cus) : (s.modCus f).nextDict = s.nextDict := rfl
@[simp] theorem State.modCus_keyCache (s : State) (f : Cus → Cus) : (s.modCus f).keyCache = s.keyCache := rfl
@[simp] theorem State.modCus_seals (s : State) (f : Cus → Cus) : (s.modCus f).seals = s.seals := rfl
@[simp] theorem State.modCus_nextSeal (s : State) (f : Cus → Cus) : (s.modCus f).nextSeal = s.nextSeal := rfl
@[simp] theorem State.modCus_dealt (s : State) (f : Cus → Cus) : (s.modCus f).dealt = s.dealt := rfl
@[simp] theorem State.modCus_outputs (s : State) (f : Cus → Cus) : (s.modCus f).outputs = s.outputs := rfl
@[simp] theorem State.modCus_fresh (s : State) (f : Cus → Cus) : (s.modCus f).fresh = s.fresh := rfl
@[simp] theorem State.modCus_pending (s : State) (f : Cus → Cus) : (s.modCus f).pending = s.pending := rfl

/-! ### modSil -/

@[simp] theorem State.modSil_gctl (s : State) (f : Sil → Sil) : (s.modSil f).gctl = s.gctl := rfl
@[simp] theorem State.modSil_intb (s : State) (f : Sil → Sil) : (s.modSil f).intb = s.intb := rfl
@[simp] theorem State.modSil_time (s : State) (f : Sil → Sil) : (s.modSil f).time = s.time := rfl
@[simp] theorem State.modSil_pwr (s : State) (f : Sil → Sil) : (s.modSil f).pwr = s.pwr := rfl
@[simp] theorem State.modSil_regions (s : State) (f : Sil → Sil) : (s.modSil f).regions = s.regions := rfl
@[simp] theorem State.modSil_tiles (s : State) (f : Sil → Sil) : (s.modSil f).tiles = s.tiles := rfl
@[simp] theorem State.modSil_faults (s : State) (f : Sil → Sil) : (s.modSil f).faults = s.faults := rfl
@[simp] theorem State.modSil_stw (s : State) (f : Sil → Sil) : (s.modSil f).stw = s.stw := rfl
@[simp] theorem State.modSil_erw (s : State) (f : Sil → Sil) : (s.modSil f).erw = s.erw := rfl
@[simp] theorem State.modSil_pke (s : State) (f : Sil → Sil) : (s.modSil f).pke = s.pke := rfl
@[simp] theorem State.modSil_cus (s : State) (f : Sil → Sil) : (s.modSil f).cus = s.cus := rfl
@[simp] theorem State.modSil_sil (s : State) (f : Sil → Sil) : (s.modSil f).sil = f s.sil := rfl
@[simp] theorem State.modSil_qg (s : State) (f : Sil → Sil) : (s.modSil f).qg = s.qg := rfl
@[simp] theorem State.modSil_det (s : State) (f : Sil → Sil) : (s.modSil f).det = s.det := rfl
@[simp] theorem State.modSil_pool (s : State) (f : Sil → Sil) : (s.modSil f).pool = s.pool := rfl
@[simp] theorem State.modSil_emc (s : State) (f : Sil → Sil) : (s.modSil f).emc = s.emc := rfl
@[simp] theorem State.modSil_runs (s : State) (f : Sil → Sil) : (s.modSil f).runs = s.runs := rfl
@[simp] theorem State.modSil_jobs (s : State) (f : Sil → Sil) : (s.modSil f).jobs = s.jobs := rfl
@[simp] theorem State.modSil_nextJob (s : State) (f : Sil → Sil) : (s.modSil f).nextJob = s.nextJob := rfl
@[simp] theorem State.modSil_profiles (s : State) (f : Sil → Sil) : (s.modSil f).profiles = s.profiles := rfl
@[simp] theorem State.modSil_dicts (s : State) (f : Sil → Sil) : (s.modSil f).dicts = s.dicts := rfl
@[simp] theorem State.modSil_dictSlots (s : State) (f : Sil → Sil) : (s.modSil f).dictSlots = s.dictSlots := rfl
@[simp] theorem State.modSil_nextDict (s : State) (f : Sil → Sil) : (s.modSil f).nextDict = s.nextDict := rfl
@[simp] theorem State.modSil_keyCache (s : State) (f : Sil → Sil) : (s.modSil f).keyCache = s.keyCache := rfl
@[simp] theorem State.modSil_seals (s : State) (f : Sil → Sil) : (s.modSil f).seals = s.seals := rfl
@[simp] theorem State.modSil_nextSeal (s : State) (f : Sil → Sil) : (s.modSil f).nextSeal = s.nextSeal := rfl
@[simp] theorem State.modSil_dealt (s : State) (f : Sil → Sil) : (s.modSil f).dealt = s.dealt := rfl
@[simp] theorem State.modSil_outputs (s : State) (f : Sil → Sil) : (s.modSil f).outputs = s.outputs := rfl
@[simp] theorem State.modSil_fresh (s : State) (f : Sil → Sil) : (s.modSil f).fresh = s.fresh := rfl
@[simp] theorem State.modSil_pending (s : State) (f : Sil → Sil) : (s.modSil f).pending = s.pending := rfl

/-! ### modQg -/

@[simp] theorem State.modQg_gctl (s : State) (f : Qg → Qg) : (s.modQg f).gctl = s.gctl := rfl
@[simp] theorem State.modQg_intb (s : State) (f : Qg → Qg) : (s.modQg f).intb = s.intb := rfl
@[simp] theorem State.modQg_time (s : State) (f : Qg → Qg) : (s.modQg f).time = s.time := rfl
@[simp] theorem State.modQg_pwr (s : State) (f : Qg → Qg) : (s.modQg f).pwr = s.pwr := rfl
@[simp] theorem State.modQg_regions (s : State) (f : Qg → Qg) : (s.modQg f).regions = s.regions := rfl
@[simp] theorem State.modQg_tiles (s : State) (f : Qg → Qg) : (s.modQg f).tiles = s.tiles := rfl
@[simp] theorem State.modQg_faults (s : State) (f : Qg → Qg) : (s.modQg f).faults = s.faults := rfl
@[simp] theorem State.modQg_stw (s : State) (f : Qg → Qg) : (s.modQg f).stw = s.stw := rfl
@[simp] theorem State.modQg_erw (s : State) (f : Qg → Qg) : (s.modQg f).erw = s.erw := rfl
@[simp] theorem State.modQg_pke (s : State) (f : Qg → Qg) : (s.modQg f).pke = s.pke := rfl
@[simp] theorem State.modQg_cus (s : State) (f : Qg → Qg) : (s.modQg f).cus = s.cus := rfl
@[simp] theorem State.modQg_sil (s : State) (f : Qg → Qg) : (s.modQg f).sil = s.sil := rfl
@[simp] theorem State.modQg_qg (s : State) (f : Qg → Qg) : (s.modQg f).qg = f s.qg := rfl
@[simp] theorem State.modQg_det (s : State) (f : Qg → Qg) : (s.modQg f).det = s.det := rfl
@[simp] theorem State.modQg_pool (s : State) (f : Qg → Qg) : (s.modQg f).pool = s.pool := rfl
@[simp] theorem State.modQg_emc (s : State) (f : Qg → Qg) : (s.modQg f).emc = s.emc := rfl
@[simp] theorem State.modQg_runs (s : State) (f : Qg → Qg) : (s.modQg f).runs = s.runs := rfl
@[simp] theorem State.modQg_jobs (s : State) (f : Qg → Qg) : (s.modQg f).jobs = s.jobs := rfl
@[simp] theorem State.modQg_nextJob (s : State) (f : Qg → Qg) : (s.modQg f).nextJob = s.nextJob := rfl
@[simp] theorem State.modQg_profiles (s : State) (f : Qg → Qg) : (s.modQg f).profiles = s.profiles := rfl
@[simp] theorem State.modQg_dicts (s : State) (f : Qg → Qg) : (s.modQg f).dicts = s.dicts := rfl
@[simp] theorem State.modQg_dictSlots (s : State) (f : Qg → Qg) : (s.modQg f).dictSlots = s.dictSlots := rfl
@[simp] theorem State.modQg_nextDict (s : State) (f : Qg → Qg) : (s.modQg f).nextDict = s.nextDict := rfl
@[simp] theorem State.modQg_keyCache (s : State) (f : Qg → Qg) : (s.modQg f).keyCache = s.keyCache := rfl
@[simp] theorem State.modQg_seals (s : State) (f : Qg → Qg) : (s.modQg f).seals = s.seals := rfl
@[simp] theorem State.modQg_nextSeal (s : State) (f : Qg → Qg) : (s.modQg f).nextSeal = s.nextSeal := rfl
@[simp] theorem State.modQg_dealt (s : State) (f : Qg → Qg) : (s.modQg f).dealt = s.dealt := rfl
@[simp] theorem State.modQg_outputs (s : State) (f : Qg → Qg) : (s.modQg f).outputs = s.outputs := rfl
@[simp] theorem State.modQg_fresh (s : State) (f : Qg → Qg) : (s.modQg f).fresh = s.fresh := rfl
@[simp] theorem State.modQg_pending (s : State) (f : Qg → Qg) : (s.modQg f).pending = s.pending := rfl

/-! ### modDet -/

@[simp] theorem State.modDet_gctl (s : State) (f : Det → Det) : (s.modDet f).gctl = s.gctl := rfl
@[simp] theorem State.modDet_intb (s : State) (f : Det → Det) : (s.modDet f).intb = s.intb := rfl
@[simp] theorem State.modDet_time (s : State) (f : Det → Det) : (s.modDet f).time = s.time := rfl
@[simp] theorem State.modDet_pwr (s : State) (f : Det → Det) : (s.modDet f).pwr = s.pwr := rfl
@[simp] theorem State.modDet_regions (s : State) (f : Det → Det) : (s.modDet f).regions = s.regions := rfl
@[simp] theorem State.modDet_tiles (s : State) (f : Det → Det) : (s.modDet f).tiles = s.tiles := rfl
@[simp] theorem State.modDet_faults (s : State) (f : Det → Det) : (s.modDet f).faults = s.faults := rfl
@[simp] theorem State.modDet_stw (s : State) (f : Det → Det) : (s.modDet f).stw = s.stw := rfl
@[simp] theorem State.modDet_erw (s : State) (f : Det → Det) : (s.modDet f).erw = s.erw := rfl
@[simp] theorem State.modDet_pke (s : State) (f : Det → Det) : (s.modDet f).pke = s.pke := rfl
@[simp] theorem State.modDet_cus (s : State) (f : Det → Det) : (s.modDet f).cus = s.cus := rfl
@[simp] theorem State.modDet_sil (s : State) (f : Det → Det) : (s.modDet f).sil = s.sil := rfl
@[simp] theorem State.modDet_qg (s : State) (f : Det → Det) : (s.modDet f).qg = s.qg := rfl
@[simp] theorem State.modDet_det (s : State) (f : Det → Det) : (s.modDet f).det = f s.det := rfl
@[simp] theorem State.modDet_pool (s : State) (f : Det → Det) : (s.modDet f).pool = s.pool := rfl
@[simp] theorem State.modDet_emc (s : State) (f : Det → Det) : (s.modDet f).emc = s.emc := rfl
@[simp] theorem State.modDet_runs (s : State) (f : Det → Det) : (s.modDet f).runs = s.runs := rfl
@[simp] theorem State.modDet_jobs (s : State) (f : Det → Det) : (s.modDet f).jobs = s.jobs := rfl
@[simp] theorem State.modDet_nextJob (s : State) (f : Det → Det) : (s.modDet f).nextJob = s.nextJob := rfl
@[simp] theorem State.modDet_profiles (s : State) (f : Det → Det) : (s.modDet f).profiles = s.profiles := rfl
@[simp] theorem State.modDet_dicts (s : State) (f : Det → Det) : (s.modDet f).dicts = s.dicts := rfl
@[simp] theorem State.modDet_dictSlots (s : State) (f : Det → Det) : (s.modDet f).dictSlots = s.dictSlots := rfl
@[simp] theorem State.modDet_nextDict (s : State) (f : Det → Det) : (s.modDet f).nextDict = s.nextDict := rfl
@[simp] theorem State.modDet_keyCache (s : State) (f : Det → Det) : (s.modDet f).keyCache = s.keyCache := rfl
@[simp] theorem State.modDet_seals (s : State) (f : Det → Det) : (s.modDet f).seals = s.seals := rfl
@[simp] theorem State.modDet_nextSeal (s : State) (f : Det → Det) : (s.modDet f).nextSeal = s.nextSeal := rfl
@[simp] theorem State.modDet_dealt (s : State) (f : Det → Det) : (s.modDet f).dealt = s.dealt := rfl
@[simp] theorem State.modDet_outputs (s : State) (f : Det → Det) : (s.modDet f).outputs = s.outputs := rfl
@[simp] theorem State.modDet_fresh (s : State) (f : Det → Det) : (s.modDet f).fresh = s.fresh := rfl
@[simp] theorem State.modDet_pending (s : State) (f : Det → Det) : (s.modDet f).pending = s.pending := rfl

/-! ### modPool -/

@[simp] theorem State.modPool_gctl (s : State) (f : Pool → Pool) : (s.modPool f).gctl = s.gctl := rfl
@[simp] theorem State.modPool_intb (s : State) (f : Pool → Pool) : (s.modPool f).intb = s.intb := rfl
@[simp] theorem State.modPool_time (s : State) (f : Pool → Pool) : (s.modPool f).time = s.time := rfl
@[simp] theorem State.modPool_pwr (s : State) (f : Pool → Pool) : (s.modPool f).pwr = s.pwr := rfl
@[simp] theorem State.modPool_regions (s : State) (f : Pool → Pool) : (s.modPool f).regions = s.regions := rfl
@[simp] theorem State.modPool_tiles (s : State) (f : Pool → Pool) : (s.modPool f).tiles = s.tiles := rfl
@[simp] theorem State.modPool_faults (s : State) (f : Pool → Pool) : (s.modPool f).faults = s.faults := rfl
@[simp] theorem State.modPool_stw (s : State) (f : Pool → Pool) : (s.modPool f).stw = s.stw := rfl
@[simp] theorem State.modPool_erw (s : State) (f : Pool → Pool) : (s.modPool f).erw = s.erw := rfl
@[simp] theorem State.modPool_pke (s : State) (f : Pool → Pool) : (s.modPool f).pke = s.pke := rfl
@[simp] theorem State.modPool_cus (s : State) (f : Pool → Pool) : (s.modPool f).cus = s.cus := rfl
@[simp] theorem State.modPool_sil (s : State) (f : Pool → Pool) : (s.modPool f).sil = s.sil := rfl
@[simp] theorem State.modPool_qg (s : State) (f : Pool → Pool) : (s.modPool f).qg = s.qg := rfl
@[simp] theorem State.modPool_det (s : State) (f : Pool → Pool) : (s.modPool f).det = s.det := rfl
@[simp] theorem State.modPool_pool (s : State) (f : Pool → Pool) : (s.modPool f).pool = f s.pool := rfl
@[simp] theorem State.modPool_emc (s : State) (f : Pool → Pool) : (s.modPool f).emc = s.emc := rfl
@[simp] theorem State.modPool_runs (s : State) (f : Pool → Pool) : (s.modPool f).runs = s.runs := rfl
@[simp] theorem State.modPool_jobs (s : State) (f : Pool → Pool) : (s.modPool f).jobs = s.jobs := rfl
@[simp] theorem State.modPool_nextJob (s : State) (f : Pool → Pool) : (s.modPool f).nextJob = s.nextJob := rfl
@[simp] theorem State.modPool_profiles (s : State) (f : Pool → Pool) : (s.modPool f).profiles = s.profiles := rfl
@[simp] theorem State.modPool_dicts (s : State) (f : Pool → Pool) : (s.modPool f).dicts = s.dicts := rfl
@[simp] theorem State.modPool_dictSlots (s : State) (f : Pool → Pool) : (s.modPool f).dictSlots = s.dictSlots := rfl
@[simp] theorem State.modPool_nextDict (s : State) (f : Pool → Pool) : (s.modPool f).nextDict = s.nextDict := rfl
@[simp] theorem State.modPool_keyCache (s : State) (f : Pool → Pool) : (s.modPool f).keyCache = s.keyCache := rfl
@[simp] theorem State.modPool_seals (s : State) (f : Pool → Pool) : (s.modPool f).seals = s.seals := rfl
@[simp] theorem State.modPool_nextSeal (s : State) (f : Pool → Pool) : (s.modPool f).nextSeal = s.nextSeal := rfl
@[simp] theorem State.modPool_dealt (s : State) (f : Pool → Pool) : (s.modPool f).dealt = s.dealt := rfl
@[simp] theorem State.modPool_outputs (s : State) (f : Pool → Pool) : (s.modPool f).outputs = s.outputs := rfl
@[simp] theorem State.modPool_fresh (s : State) (f : Pool → Pool) : (s.modPool f).fresh = s.fresh := rfl
@[simp] theorem State.modPool_pending (s : State) (f : Pool → Pool) : (s.modPool f).pending = s.pending := rfl

/-! ### modEmc -/

@[simp] theorem State.modEmc_gctl (s : State) (f : Emc → Emc) : (s.modEmc f).gctl = s.gctl := rfl
@[simp] theorem State.modEmc_intb (s : State) (f : Emc → Emc) : (s.modEmc f).intb = s.intb := rfl
@[simp] theorem State.modEmc_time (s : State) (f : Emc → Emc) : (s.modEmc f).time = s.time := rfl
@[simp] theorem State.modEmc_pwr (s : State) (f : Emc → Emc) : (s.modEmc f).pwr = s.pwr := rfl
@[simp] theorem State.modEmc_regions (s : State) (f : Emc → Emc) : (s.modEmc f).regions = s.regions := rfl
@[simp] theorem State.modEmc_tiles (s : State) (f : Emc → Emc) : (s.modEmc f).tiles = s.tiles := rfl
@[simp] theorem State.modEmc_faults (s : State) (f : Emc → Emc) : (s.modEmc f).faults = s.faults := rfl
@[simp] theorem State.modEmc_stw (s : State) (f : Emc → Emc) : (s.modEmc f).stw = s.stw := rfl
@[simp] theorem State.modEmc_erw (s : State) (f : Emc → Emc) : (s.modEmc f).erw = s.erw := rfl
@[simp] theorem State.modEmc_pke (s : State) (f : Emc → Emc) : (s.modEmc f).pke = s.pke := rfl
@[simp] theorem State.modEmc_cus (s : State) (f : Emc → Emc) : (s.modEmc f).cus = s.cus := rfl
@[simp] theorem State.modEmc_sil (s : State) (f : Emc → Emc) : (s.modEmc f).sil = s.sil := rfl
@[simp] theorem State.modEmc_qg (s : State) (f : Emc → Emc) : (s.modEmc f).qg = s.qg := rfl
@[simp] theorem State.modEmc_det (s : State) (f : Emc → Emc) : (s.modEmc f).det = s.det := rfl
@[simp] theorem State.modEmc_pool (s : State) (f : Emc → Emc) : (s.modEmc f).pool = s.pool := rfl
@[simp] theorem State.modEmc_emc (s : State) (f : Emc → Emc) : (s.modEmc f).emc = f s.emc := rfl
@[simp] theorem State.modEmc_runs (s : State) (f : Emc → Emc) : (s.modEmc f).runs = s.runs := rfl
@[simp] theorem State.modEmc_jobs (s : State) (f : Emc → Emc) : (s.modEmc f).jobs = s.jobs := rfl
@[simp] theorem State.modEmc_nextJob (s : State) (f : Emc → Emc) : (s.modEmc f).nextJob = s.nextJob := rfl
@[simp] theorem State.modEmc_profiles (s : State) (f : Emc → Emc) : (s.modEmc f).profiles = s.profiles := rfl
@[simp] theorem State.modEmc_dicts (s : State) (f : Emc → Emc) : (s.modEmc f).dicts = s.dicts := rfl
@[simp] theorem State.modEmc_dictSlots (s : State) (f : Emc → Emc) : (s.modEmc f).dictSlots = s.dictSlots := rfl
@[simp] theorem State.modEmc_nextDict (s : State) (f : Emc → Emc) : (s.modEmc f).nextDict = s.nextDict := rfl
@[simp] theorem State.modEmc_keyCache (s : State) (f : Emc → Emc) : (s.modEmc f).keyCache = s.keyCache := rfl
@[simp] theorem State.modEmc_seals (s : State) (f : Emc → Emc) : (s.modEmc f).seals = s.seals := rfl
@[simp] theorem State.modEmc_nextSeal (s : State) (f : Emc → Emc) : (s.modEmc f).nextSeal = s.nextSeal := rfl
@[simp] theorem State.modEmc_dealt (s : State) (f : Emc → Emc) : (s.modEmc f).dealt = s.dealt := rfl
@[simp] theorem State.modEmc_outputs (s : State) (f : Emc → Emc) : (s.modEmc f).outputs = s.outputs := rfl
@[simp] theorem State.modEmc_fresh (s : State) (f : Emc → Emc) : (s.modEmc f).fresh = s.fresh := rfl
@[simp] theorem State.modEmc_pending (s : State) (f : Emc → Emc) : (s.modEmc f).pending = s.pending := rfl

/-! ### emit -/

@[simp] theorem State.emit_gctl (s : State) (o : Output) : (s.emit o).gctl = s.gctl := rfl
@[simp] theorem State.emit_intb (s : State) (o : Output) : (s.emit o).intb = s.intb := rfl
@[simp] theorem State.emit_time (s : State) (o : Output) : (s.emit o).time = s.time := rfl
@[simp] theorem State.emit_pwr (s : State) (o : Output) : (s.emit o).pwr = s.pwr := rfl
@[simp] theorem State.emit_regions (s : State) (o : Output) : (s.emit o).regions = s.regions := rfl
@[simp] theorem State.emit_tiles (s : State) (o : Output) : (s.emit o).tiles = s.tiles := rfl
@[simp] theorem State.emit_faults (s : State) (o : Output) : (s.emit o).faults = s.faults := rfl
@[simp] theorem State.emit_stw (s : State) (o : Output) : (s.emit o).stw = s.stw := rfl
@[simp] theorem State.emit_erw (s : State) (o : Output) : (s.emit o).erw = s.erw := rfl
@[simp] theorem State.emit_pke (s : State) (o : Output) : (s.emit o).pke = s.pke := rfl
@[simp] theorem State.emit_cus (s : State) (o : Output) : (s.emit o).cus = s.cus := rfl
@[simp] theorem State.emit_sil (s : State) (o : Output) : (s.emit o).sil = s.sil := rfl
@[simp] theorem State.emit_qg (s : State) (o : Output) : (s.emit o).qg = s.qg := rfl
@[simp] theorem State.emit_det (s : State) (o : Output) : (s.emit o).det = s.det := rfl
@[simp] theorem State.emit_pool (s : State) (o : Output) : (s.emit o).pool = s.pool := rfl
@[simp] theorem State.emit_emc (s : State) (o : Output) : (s.emit o).emc = s.emc := rfl
@[simp] theorem State.emit_runs (s : State) (o : Output) : (s.emit o).runs = s.runs := rfl
@[simp] theorem State.emit_jobs (s : State) (o : Output) : (s.emit o).jobs = s.jobs := rfl
@[simp] theorem State.emit_nextJob (s : State) (o : Output) : (s.emit o).nextJob = s.nextJob := rfl
@[simp] theorem State.emit_profiles (s : State) (o : Output) : (s.emit o).profiles = s.profiles := rfl
@[simp] theorem State.emit_dicts (s : State) (o : Output) : (s.emit o).dicts = s.dicts := rfl
@[simp] theorem State.emit_dictSlots (s : State) (o : Output) : (s.emit o).dictSlots = s.dictSlots := rfl
@[simp] theorem State.emit_nextDict (s : State) (o : Output) : (s.emit o).nextDict = s.nextDict := rfl
@[simp] theorem State.emit_keyCache (s : State) (o : Output) : (s.emit o).keyCache = s.keyCache := rfl
@[simp] theorem State.emit_seals (s : State) (o : Output) : (s.emit o).seals = s.seals := rfl
@[simp] theorem State.emit_nextSeal (s : State) (o : Output) : (s.emit o).nextSeal = s.nextSeal := rfl
@[simp] theorem State.emit_dealt (s : State) (o : Output) : (s.emit o).dealt = s.dealt := rfl
@[simp] theorem State.emit_outputs (s : State) (o : Output) : (s.emit o).outputs = o :: s.outputs := rfl
@[simp] theorem State.emit_fresh (s : State) (o : Output) : (s.emit o).fresh = s.fresh := rfl
@[simp] theorem State.emit_pending (s : State) (o : Output) : (s.emit o).pending = s.pending := rfl

/-! ### modRegion, modTile -/

@[simp] theorem State.modRegion_gctl (s : State) (r : Nat) (f : Region → Region) : (s.modRegion r f).gctl = s.gctl := rfl
@[simp] theorem State.modRegion_intb (s : State) (r : Nat) (f : Region → Region) : (s.modRegion r f).intb = s.intb := rfl
@[simp] theorem State.modRegion_time (s : State) (r : Nat) (f : Region → Region) : (s.modRegion r f).time = s.time := rfl
@[simp] theorem State.modRegion_pwr (s : State) (r : Nat) (f : Region → Region) : (s.modRegion r f).pwr = s.pwr := rfl
@[simp] theorem State.modRegion_tiles (s : State) (r : Nat) (f : Region → Region) : (s.modRegion r f).tiles = s.tiles := rfl
@[simp] theorem State.modRegion_faults (s : State) (r : Nat) (f : Region → Region) : (s.modRegion r f).faults = s.faults := rfl
@[simp] theorem State.modRegion_stw (s : State) (r : Nat) (f : Region → Region) : (s.modRegion r f).stw = s.stw := rfl
@[simp] theorem State.modRegion_erw (s : State) (r : Nat) (f : Region → Region) : (s.modRegion r f).erw = s.erw := rfl
@[simp] theorem State.modRegion_pke (s : State) (r : Nat) (f : Region → Region) : (s.modRegion r f).pke = s.pke := rfl
@[simp] theorem State.modRegion_cus (s : State) (r : Nat) (f : Region → Region) : (s.modRegion r f).cus = s.cus := rfl
@[simp] theorem State.modRegion_sil (s : State) (r : Nat) (f : Region → Region) : (s.modRegion r f).sil = s.sil := rfl
@[simp] theorem State.modRegion_qg (s : State) (r : Nat) (f : Region → Region) : (s.modRegion r f).qg = s.qg := rfl
@[simp] theorem State.modRegion_det (s : State) (r : Nat) (f : Region → Region) : (s.modRegion r f).det = s.det := rfl
@[simp] theorem State.modRegion_pool (s : State) (r : Nat) (f : Region → Region) : (s.modRegion r f).pool = s.pool := rfl
@[simp] theorem State.modRegion_emc (s : State) (r : Nat) (f : Region → Region) : (s.modRegion r f).emc = s.emc := rfl
@[simp] theorem State.modRegion_runs (s : State) (r : Nat) (f : Region → Region) : (s.modRegion r f).runs = s.runs := rfl
@[simp] theorem State.modRegion_jobs (s : State) (r : Nat) (f : Region → Region) : (s.modRegion r f).jobs = s.jobs := rfl
@[simp] theorem State.modRegion_nextJob (s : State) (r : Nat) (f : Region → Region) : (s.modRegion r f).nextJob = s.nextJob := rfl
@[simp] theorem State.modRegion_profiles (s : State) (r : Nat) (f : Region → Region) : (s.modRegion r f).profiles = s.profiles := rfl
@[simp] theorem State.modRegion_dicts (s : State) (r : Nat) (f : Region → Region) : (s.modRegion r f).dicts = s.dicts := rfl
@[simp] theorem State.modRegion_dictSlots (s : State) (r : Nat) (f : Region → Region) : (s.modRegion r f).dictSlots = s.dictSlots := rfl
@[simp] theorem State.modRegion_nextDict (s : State) (r : Nat) (f : Region → Region) : (s.modRegion r f).nextDict = s.nextDict := rfl
@[simp] theorem State.modRegion_keyCache (s : State) (r : Nat) (f : Region → Region) : (s.modRegion r f).keyCache = s.keyCache := rfl
@[simp] theorem State.modRegion_seals (s : State) (r : Nat) (f : Region → Region) : (s.modRegion r f).seals = s.seals := rfl
@[simp] theorem State.modRegion_nextSeal (s : State) (r : Nat) (f : Region → Region) : (s.modRegion r f).nextSeal = s.nextSeal := rfl
@[simp] theorem State.modRegion_dealt (s : State) (r : Nat) (f : Region → Region) : (s.modRegion r f).dealt = s.dealt := rfl
@[simp] theorem State.modRegion_outputs (s : State) (r : Nat) (f : Region → Region) : (s.modRegion r f).outputs = s.outputs := rfl
@[simp] theorem State.modRegion_fresh (s : State) (r : Nat) (f : Region → Region) : (s.modRegion r f).fresh = s.fresh := rfl
@[simp] theorem State.modRegion_pending (s : State) (r : Nat) (f : Region → Region) : (s.modRegion r f).pending = s.pending := rfl
@[simp] theorem State.modTile_gctl (s : State) (i : Nat) (f : Tile → Tile) : (s.modTile i f).gctl = s.gctl := rfl
@[simp] theorem State.modTile_intb (s : State) (i : Nat) (f : Tile → Tile) : (s.modTile i f).intb = s.intb := rfl
@[simp] theorem State.modTile_time (s : State) (i : Nat) (f : Tile → Tile) : (s.modTile i f).time = s.time := rfl
@[simp] theorem State.modTile_pwr (s : State) (i : Nat) (f : Tile → Tile) : (s.modTile i f).pwr = s.pwr := rfl
@[simp] theorem State.modTile_regions (s : State) (i : Nat) (f : Tile → Tile) : (s.modTile i f).regions = s.regions := rfl
@[simp] theorem State.modTile_faults (s : State) (i : Nat) (f : Tile → Tile) : (s.modTile i f).faults = s.faults := rfl
@[simp] theorem State.modTile_stw (s : State) (i : Nat) (f : Tile → Tile) : (s.modTile i f).stw = s.stw := rfl
@[simp] theorem State.modTile_erw (s : State) (i : Nat) (f : Tile → Tile) : (s.modTile i f).erw = s.erw := rfl
@[simp] theorem State.modTile_pke (s : State) (i : Nat) (f : Tile → Tile) : (s.modTile i f).pke = s.pke := rfl
@[simp] theorem State.modTile_cus (s : State) (i : Nat) (f : Tile → Tile) : (s.modTile i f).cus = s.cus := rfl
@[simp] theorem State.modTile_sil (s : State) (i : Nat) (f : Tile → Tile) : (s.modTile i f).sil = s.sil := rfl
@[simp] theorem State.modTile_qg (s : State) (i : Nat) (f : Tile → Tile) : (s.modTile i f).qg = s.qg := rfl
@[simp] theorem State.modTile_det (s : State) (i : Nat) (f : Tile → Tile) : (s.modTile i f).det = s.det := rfl
@[simp] theorem State.modTile_pool (s : State) (i : Nat) (f : Tile → Tile) : (s.modTile i f).pool = s.pool := rfl
@[simp] theorem State.modTile_emc (s : State) (i : Nat) (f : Tile → Tile) : (s.modTile i f).emc = s.emc := rfl
@[simp] theorem State.modTile_runs (s : State) (i : Nat) (f : Tile → Tile) : (s.modTile i f).runs = s.runs := rfl
@[simp] theorem State.modTile_jobs (s : State) (i : Nat) (f : Tile → Tile) : (s.modTile i f).jobs = s.jobs := rfl
@[simp] theorem State.modTile_nextJob (s : State) (i : Nat) (f : Tile → Tile) : (s.modTile i f).nextJob = s.nextJob := rfl
@[simp] theorem State.modTile_profiles (s : State) (i : Nat) (f : Tile → Tile) : (s.modTile i f).profiles = s.profiles := rfl
@[simp] theorem State.modTile_dicts (s : State) (i : Nat) (f : Tile → Tile) : (s.modTile i f).dicts = s.dicts := rfl
@[simp] theorem State.modTile_dictSlots (s : State) (i : Nat) (f : Tile → Tile) : (s.modTile i f).dictSlots = s.dictSlots := rfl
@[simp] theorem State.modTile_nextDict (s : State) (i : Nat) (f : Tile → Tile) : (s.modTile i f).nextDict = s.nextDict := rfl
@[simp] theorem State.modTile_keyCache (s : State) (i : Nat) (f : Tile → Tile) : (s.modTile i f).keyCache = s.keyCache := rfl
@[simp] theorem State.modTile_seals (s : State) (i : Nat) (f : Tile → Tile) : (s.modTile i f).seals = s.seals := rfl
@[simp] theorem State.modTile_nextSeal (s : State) (i : Nat) (f : Tile → Tile) : (s.modTile i f).nextSeal = s.nextSeal := rfl
@[simp] theorem State.modTile_dealt (s : State) (i : Nat) (f : Tile → Tile) : (s.modTile i f).dealt = s.dealt := rfl
@[simp] theorem State.modTile_outputs (s : State) (i : Nat) (f : Tile → Tile) : (s.modTile i f).outputs = s.outputs := rfl
@[simp] theorem State.modTile_fresh (s : State) (i : Nat) (f : Tile → Tile) : (s.modTile i f).fresh = s.fresh := rfl
@[simp] theorem State.modTile_pending (s : State) (i : Nat) (f : Tile → Tile) : (s.modTile i f).pending = s.pending := rfl

/-! ### tickTo -/

/-- The passing of time touches nothing but the clock. -/
theorem State.tickTo_eq (s : State) (t : Nat) : ∃ m, s.tickTo t = { s with time := m } := by
  unfold State.tickTo
  split
  · exact ⟨s.time, rfl⟩
  · exact ⟨_, rfl⟩

@[simp] theorem State.tickTo_gctl (s : State) (t : Nat) : (s.tickTo t).gctl = s.gctl := by
  obtain ⟨m, h⟩ := s.tickTo_eq t
  rw [h]
@[simp] theorem State.tickTo_intb (s : State) (t : Nat) : (s.tickTo t).intb = s.intb := by
  obtain ⟨m, h⟩ := s.tickTo_eq t
  rw [h]
@[simp] theorem State.tickTo_pwr (s : State) (t : Nat) : (s.tickTo t).pwr = s.pwr := by
  obtain ⟨m, h⟩ := s.tickTo_eq t
  rw [h]
@[simp] theorem State.tickTo_regions (s : State) (t : Nat) : (s.tickTo t).regions = s.regions := by
  obtain ⟨m, h⟩ := s.tickTo_eq t
  rw [h]
@[simp] theorem State.tickTo_tiles (s : State) (t : Nat) : (s.tickTo t).tiles = s.tiles := by
  obtain ⟨m, h⟩ := s.tickTo_eq t
  rw [h]
@[simp] theorem State.tickTo_faults (s : State) (t : Nat) : (s.tickTo t).faults = s.faults := by
  obtain ⟨m, h⟩ := s.tickTo_eq t
  rw [h]
@[simp] theorem State.tickTo_stw (s : State) (t : Nat) : (s.tickTo t).stw = s.stw := by
  obtain ⟨m, h⟩ := s.tickTo_eq t
  rw [h]
@[simp] theorem State.tickTo_erw (s : State) (t : Nat) : (s.tickTo t).erw = s.erw := by
  obtain ⟨m, h⟩ := s.tickTo_eq t
  rw [h]
@[simp] theorem State.tickTo_pke (s : State) (t : Nat) : (s.tickTo t).pke = s.pke := by
  obtain ⟨m, h⟩ := s.tickTo_eq t
  rw [h]
@[simp] theorem State.tickTo_cus (s : State) (t : Nat) : (s.tickTo t).cus = s.cus := by
  obtain ⟨m, h⟩ := s.tickTo_eq t
  rw [h]
@[simp] theorem State.tickTo_sil (s : State) (t : Nat) : (s.tickTo t).sil = s.sil := by
  obtain ⟨m, h⟩ := s.tickTo_eq t
  rw [h]
@[simp] theorem State.tickTo_qg (s : State) (t : Nat) : (s.tickTo t).qg = s.qg := by
  obtain ⟨m, h⟩ := s.tickTo_eq t
  rw [h]
@[simp] theorem State.tickTo_det (s : State) (t : Nat) : (s.tickTo t).det = s.det := by
  obtain ⟨m, h⟩ := s.tickTo_eq t
  rw [h]
@[simp] theorem State.tickTo_pool (s : State) (t : Nat) : (s.tickTo t).pool = s.pool := by
  obtain ⟨m, h⟩ := s.tickTo_eq t
  rw [h]
@[simp] theorem State.tickTo_emc (s : State) (t : Nat) : (s.tickTo t).emc = s.emc := by
  obtain ⟨m, h⟩ := s.tickTo_eq t
  rw [h]
@[simp] theorem State.tickTo_runs (s : State) (t : Nat) : (s.tickTo t).runs = s.runs := by
  obtain ⟨m, h⟩ := s.tickTo_eq t
  rw [h]
@[simp] theorem State.tickTo_jobs (s : State) (t : Nat) : (s.tickTo t).jobs = s.jobs := by
  obtain ⟨m, h⟩ := s.tickTo_eq t
  rw [h]
@[simp] theorem State.tickTo_nextJob (s : State) (t : Nat) : (s.tickTo t).nextJob = s.nextJob := by
  obtain ⟨m, h⟩ := s.tickTo_eq t
  rw [h]
@[simp] theorem State.tickTo_profiles (s : State) (t : Nat) : (s.tickTo t).profiles = s.profiles := by
  obtain ⟨m, h⟩ := s.tickTo_eq t
  rw [h]
@[simp] theorem State.tickTo_dicts (s : State) (t : Nat) : (s.tickTo t).dicts = s.dicts := by
  obtain ⟨m, h⟩ := s.tickTo_eq t
  rw [h]
@[simp] theorem State.tickTo_dictSlots (s : State) (t : Nat) : (s.tickTo t).dictSlots = s.dictSlots := by
  obtain ⟨m, h⟩ := s.tickTo_eq t
  rw [h]
@[simp] theorem State.tickTo_nextDict (s : State) (t : Nat) : (s.tickTo t).nextDict = s.nextDict := by
  obtain ⟨m, h⟩ := s.tickTo_eq t
  rw [h]
@[simp] theorem State.tickTo_keyCache (s : State) (t : Nat) : (s.tickTo t).keyCache = s.keyCache := by
  obtain ⟨m, h⟩ := s.tickTo_eq t
  rw [h]
@[simp] theorem State.tickTo_seals (s : State) (t : Nat) : (s.tickTo t).seals = s.seals := by
  obtain ⟨m, h⟩ := s.tickTo_eq t
  rw [h]
@[simp] theorem State.tickTo_nextSeal (s : State) (t : Nat) : (s.tickTo t).nextSeal = s.nextSeal := by
  obtain ⟨m, h⟩ := s.tickTo_eq t
  rw [h]
@[simp] theorem State.tickTo_dealt (s : State) (t : Nat) : (s.tickTo t).dealt = s.dealt := by
  obtain ⟨m, h⟩ := s.tickTo_eq t
  rw [h]
@[simp] theorem State.tickTo_outputs (s : State) (t : Nat) : (s.tickTo t).outputs = s.outputs := by
  obtain ⟨m, h⟩ := s.tickTo_eq t
  rw [h]
@[simp] theorem State.tickTo_fresh (s : State) (t : Nat) : (s.tickTo t).fresh = s.fresh := by
  obtain ⟨m, h⟩ := s.tickTo_eq t
  rw [h]
@[simp] theorem State.tickTo_pending (s : State) (t : Nat) : (s.tickTo t).pending = s.pending := by
  obtain ⟨m, h⟩ := s.tickTo_eq t
  rw [h]

/-! ### intPoll -/

/-- The engine interrupt touches nothing but its own block and what leaves the engine. -/
theorem State.intPoll_eq (s : State) : ∃ i os, s.intPoll = { s with intb := i, outputs := os } := by
  unfold State.intPoll
  split
  · exact ⟨_, _, rfl⟩
  · exact ⟨s.intb, s.outputs, rfl⟩

@[simp] theorem State.intPoll_gctl (s : State) : s.intPoll.gctl = s.gctl := by
  obtain ⟨i, os, h⟩ := s.intPoll_eq
  rw [h]
@[simp] theorem State.intPoll_time (s : State) : s.intPoll.time = s.time := by
  obtain ⟨i, os, h⟩ := s.intPoll_eq
  rw [h]
@[simp] theorem State.intPoll_pwr (s : State) : s.intPoll.pwr = s.pwr := by
  obtain ⟨i, os, h⟩ := s.intPoll_eq
  rw [h]
@[simp] theorem State.intPoll_regions (s : State) : s.intPoll.regions = s.regions := by
  obtain ⟨i, os, h⟩ := s.intPoll_eq
  rw [h]
@[simp] theorem State.intPoll_tiles (s : State) : s.intPoll.tiles = s.tiles := by
  obtain ⟨i, os, h⟩ := s.intPoll_eq
  rw [h]
@[simp] theorem State.intPoll_faults (s : State) : s.intPoll.faults = s.faults := by
  obtain ⟨i, os, h⟩ := s.intPoll_eq
  rw [h]
@[simp] theorem State.intPoll_stw (s : State) : s.intPoll.stw = s.stw := by
  obtain ⟨i, os, h⟩ := s.intPoll_eq
  rw [h]
@[simp] theorem State.intPoll_erw (s : State) : s.intPoll.erw = s.erw := by
  obtain ⟨i, os, h⟩ := s.intPoll_eq
  rw [h]
@[simp] theorem State.intPoll_pke (s : State) : s.intPoll.pke = s.pke := by
  obtain ⟨i, os, h⟩ := s.intPoll_eq
  rw [h]
@[simp] theorem State.intPoll_cus (s : State) : s.intPoll.cus = s.cus := by
  obtain ⟨i, os, h⟩ := s.intPoll_eq
  rw [h]
@[simp] theorem State.intPoll_sil (s : State) : s.intPoll.sil = s.sil := by
  obtain ⟨i, os, h⟩ := s.intPoll_eq
  rw [h]
@[simp] theorem State.intPoll_qg (s : State) : s.intPoll.qg = s.qg := by
  obtain ⟨i, os, h⟩ := s.intPoll_eq
  rw [h]
@[simp] theorem State.intPoll_det (s : State) : s.intPoll.det = s.det := by
  obtain ⟨i, os, h⟩ := s.intPoll_eq
  rw [h]
@[simp] theorem State.intPoll_pool (s : State) : s.intPoll.pool = s.pool := by
  obtain ⟨i, os, h⟩ := s.intPoll_eq
  rw [h]
@[simp] theorem State.intPoll_emc (s : State) : s.intPoll.emc = s.emc := by
  obtain ⟨i, os, h⟩ := s.intPoll_eq
  rw [h]
@[simp] theorem State.intPoll_runs (s : State) : s.intPoll.runs = s.runs := by
  obtain ⟨i, os, h⟩ := s.intPoll_eq
  rw [h]
@[simp] theorem State.intPoll_jobs (s : State) : s.intPoll.jobs = s.jobs := by
  obtain ⟨i, os, h⟩ := s.intPoll_eq
  rw [h]
@[simp] theorem State.intPoll_nextJob (s : State) : s.intPoll.nextJob = s.nextJob := by
  obtain ⟨i, os, h⟩ := s.intPoll_eq
  rw [h]
@[simp] theorem State.intPoll_profiles (s : State) : s.intPoll.profiles = s.profiles := by
  obtain ⟨i, os, h⟩ := s.intPoll_eq
  rw [h]
@[simp] theorem State.intPoll_dicts (s : State) : s.intPoll.dicts = s.dicts := by
  obtain ⟨i, os, h⟩ := s.intPoll_eq
  rw [h]
@[simp] theorem State.intPoll_dictSlots (s : State) : s.intPoll.dictSlots = s.dictSlots := by
  obtain ⟨i, os, h⟩ := s.intPoll_eq
  rw [h]
@[simp] theorem State.intPoll_nextDict (s : State) : s.intPoll.nextDict = s.nextDict := by
  obtain ⟨i, os, h⟩ := s.intPoll_eq
  rw [h]
@[simp] theorem State.intPoll_keyCache (s : State) : s.intPoll.keyCache = s.keyCache := by
  obtain ⟨i, os, h⟩ := s.intPoll_eq
  rw [h]
@[simp] theorem State.intPoll_seals (s : State) : s.intPoll.seals = s.seals := by
  obtain ⟨i, os, h⟩ := s.intPoll_eq
  rw [h]
@[simp] theorem State.intPoll_nextSeal (s : State) : s.intPoll.nextSeal = s.nextSeal := by
  obtain ⟨i, os, h⟩ := s.intPoll_eq
  rw [h]
@[simp] theorem State.intPoll_dealt (s : State) : s.intPoll.dealt = s.dealt := by
  obtain ⟨i, os, h⟩ := s.intPoll_eq
  rw [h]
@[simp] theorem State.intPoll_fresh (s : State) : s.intPoll.fresh = s.fresh := by
  obtain ⟨i, os, h⟩ := s.intPoll_eq
  rw [h]
@[simp] theorem State.intPoll_pending (s : State) : s.intPoll.pending = s.pending := by
  obtain ⟨i, os, h⟩ := s.intPoll_eq
  rw [h]

end Sys2Proof.Machine
end

