-- ==== Sys2Proof/Laws/Table.lean ====
section
/-!
SUPPORT. Laws of sparse tables and of the contents of buffers: what is read after a write, and that every
operation keeps the canonical form.
-/

namespace Sys2Proof.Machine

/-! ### Reading after writing -/

@[simp] theorem Tab.find_put_same {α : Type} (t : Tab α) (k : Nat) (v : α) : Tab.find (Tab.put t k v) k = some v := by
  induction t with
  | nil => simp [Tab.put, Tab.find]
  | cons p t ih =>
    obtain ⟨i, w⟩ := p
    simp only [Tab.put]
    split
    · simp [Tab.find]
    · split
      · simp [Tab.find]
      · next h => simp [Tab.find, h, ih]

theorem Tab.find_put_other {α : Type} (t : Tab α) (k l : Nat) (v : α) (h : l ≠ k) :
    Tab.find (Tab.put t k v) l = Tab.find t l := by
  have hk : ¬ k = l := fun e => h e.symm
  induction t with
  | nil => simp [Tab.put, Tab.find, hk]
  | cons p t ih =>
    obtain ⟨i, w⟩ := p
    simp only [Tab.put]
    split
    · simp [Tab.find, hk]
    · split
      · next e => subst e; simp [Tab.find, hk]
      · simp only [Tab.find]
        split
        · rfl
        · exact ih

@[simp] theorem Tab.getD_put_same {α : Type} (t : Tab α) (k : Nat) (v d : α) : Tab.getD (Tab.put t k v) k d = v := by
  simp [Tab.getD]

theorem Tab.getD_put_other {α : Type} (t : Tab α) (k l : Nat) (v d : α) (h : l ≠ k) :
    Tab.getD (Tab.put t k v) l d = Tab.getD t l d := by
  simp [Tab.getD, Tab.find_put_other t k l v h]

/-! ### The canonical form -/

/-- Every listed index lies above `n`. -/
def Tab.above {α : Type} (n : Nat) (t : Tab α) : Prop := ∀ p ∈ t, n < p.1

theorem Tab.sorted_cons {α : Type} (p : Nat × α) (t : Tab α) :
    Tab.sorted (p :: t) = true ↔ Tab.above p.1 t ∧ Tab.sorted t = true := by
  induction t generalizing p with
  | nil => simp [Tab.sorted, Tab.above]
  | cons q t ih =>
    simp only [Tab.sorted, Bool.and_eq_true, decide_eq_true_eq]
    constructor
    · rintro ⟨h, hs⟩
      refine ⟨fun x hx => ?_, hs⟩
      rcases List.mem_cons.1 hx with rfl | hx
      · exact h
      · exact Nat.lt_trans h (((ih q).1 hs).1 x hx)
    · rintro ⟨h, hs⟩
      exact ⟨h q (List.mem_cons_self ..), hs⟩

theorem Tab.above_put {α : Type} (n : Nat) (t : Tab α) (k : Nat) (v : α) (h : Tab.above n t) (hk : n < k) :
    Tab.above n (Tab.put t k v) := by
  induction t with
  | nil => simpa [Tab.put, Tab.above] using hk
  | cons p t ih =>
    obtain ⟨i, w⟩ := p
    have ht : Tab.above n t := fun x hx => h x (List.mem_cons_of_mem _ hx)
    have hi : n < i := h (i, w) (List.mem_cons_self ..)
    simp only [Tab.put]
    split
    · intro x hx
      rcases List.mem_cons.1 hx with rfl | hx
      · exact hk
      · exact h x hx
    · split
      · intro x hx
        rcases List.mem_cons.1 hx with rfl | hx
        · exact hk
        · exact ht x hx
      · intro x hx
        rcases List.mem_cons.1 hx with rfl | hx
        · exact hi
        · exact ih ht x hx

theorem Tab.put_sorted {α : Type} (t : Tab α) (k : Nat) (v : α) (h : Tab.sorted t = true) :
    Tab.sorted (Tab.put t k v) = true := by
  induction t with
  | nil => rfl
  | cons p t ih =>
    obtain ⟨i, w⟩ := p
    obtain ⟨ha, hs⟩ := (Tab.sorted_cons (i, w) t).1 h
    simp only [Tab.put]
    split
    · next hk =>
      refine (Tab.sorted_cons _ _).2 ⟨fun x hx => ?_, h⟩
      rcases List.mem_cons.1 hx with rfl | hx
      · exact hk
      · exact Nat.lt_trans hk (ha x hx)
    · split
      · next e => subst e; exact (Tab.sorted_cons _ _).2 ⟨ha, hs⟩
      · next h1 h2 => exact (Tab.sorted_cons _ _).2 ⟨Tab.above_put i t k v ha (by omega), ih hs⟩

theorem Tab.del_subset {α : Type} (t : Tab α) (k : Nat) : ∀ x ∈ Tab.del t k, x ∈ t := by
  induction t with
  | nil => simp [Tab.del]
  | cons p t ih =>
    obtain ⟨i, w⟩ := p
    simp only [Tab.del]
    split
    · exact fun x hx => List.mem_cons_of_mem _ (ih x hx)
    · intro x hx
      rcases List.mem_cons.1 hx with rfl | hx
      · exact List.mem_cons_self ..
      · exact List.mem_cons_of_mem _ (ih x hx)

theorem Tab.del_sorted {α : Type} (t : Tab α) (k : Nat) (h : Tab.sorted t = true) : Tab.sorted (Tab.del t k) = true := by
  induction t with
  | nil => rfl
  | cons p t ih =>
    obtain ⟨i, w⟩ := p
    obtain ⟨ha, hs⟩ := (Tab.sorted_cons (i, w) t).1 h
    simp only [Tab.del]
    split
    · exact ih hs
    · exact (Tab.sorted_cons _ _).2 ⟨fun x hx => ha x (Tab.del_subset t k x hx), ih hs⟩

@[simp] theorem Tab.find_del_same {α : Type} (t : Tab α) (k : Nat) : Tab.find (Tab.del t k) k = none := by
  induction t with
  | nil => rfl
  | cons p t ih =>
    simp only [Tab.del]
    split
    · exact ih
    · next h => simp [Tab.find, h, ih]

theorem Tab.find_del_other {α : Type} (t : Tab α) (k l : Nat) (h : l ≠ k) : Tab.find (Tab.del t k) l = Tab.find t l := by
  induction t with
  | nil => rfl
  | cons p t ih =>
    simp only [Tab.del]
    split
    · next e => subst e; simp [Tab.find, Ne.symm h, ih]
    · simp [Tab.find, ih]

@[simp] theorem Tab.find_mapVals {α β : Type} (f : Nat → α → β) (t : Tab α) (k : Nat) :
    Tab.find (Tab.mapVals f t) k = (Tab.find t k).map (f k) := by
  induction t with
  | nil => rfl
  | cons p t ih =>
    by_cases h : p.1 = k
    · subst h; simp [Tab.mapVals, Tab.find]
    · have : Tab.find (Tab.mapVals f t) k = (Tab.find t k).map (f k) := ih
      simp only [Tab.mapVals] at this
      simp [Tab.mapVals, Tab.find, h, this]

/-! ### Contents of a buffer -/

theorem Memory.write_wf (m : Memory) (a : Nat) (bs : Bytes) (h : Memory.wf m = true) : Memory.wf (Memory.write m a bs) = true := by
  induction bs generalizing m a with
  | nil => exact h
  | cons b bs ih => exact ih _ _ (Tab.put_sorted m a b h)

/-- A write leaves every byte below it alone. -/
theorem Memory.read_write_below (m : Memory) (a k : Nat) (bs : Bytes) (h : k < a) :
    Memory.readByte? (Memory.write m a bs) k = Memory.readByte? m k := by
  induction bs generalizing m a with
  | nil => rfl
  | cons b bs ih =>
    simp only [Memory.write]
    rw [ih _ _ (by omega)]
    exact Tab.find_put_other m a k b (by omega)

/-- A write leaves every byte past it alone. -/
theorem Memory.read_write_past (m : Memory) (a k : Nat) (bs : Bytes) (h : a + bs.length ≤ k) :
    Memory.readByte? (Memory.write m a bs) k = Memory.readByte? m k := by
  induction bs generalizing m a with
  | nil => rfl
  | cons b bs ih =>
    simp only [List.length_cons] at h
    simp only [Memory.write]
    rw [ih _ _ (by omega)]
    exact Tab.find_put_other m a k b (by omega)

/-- A byte that was written reads back. -/
theorem Memory.read_write_at (m : Memory) (a i : Nat) (bs : Bytes) (h : i < bs.length) :
    Memory.readByte? (Memory.write m a bs) (a + i) = some bs[i] := by
  induction bs generalizing m a i with
  | nil => simp at h
  | cons b bs ih =>
    simp only [Memory.write]
    cases i with
    | zero =>
      rw [Memory.read_write_below _ _ _ _ (by omega)]
      simp [Memory.readByte?, Memory.writeByte]
    | succ i =>
      have := ih (Memory.writeByte m a b) (a + 1) i (by simpa using h)
      rw [show a + 1 + i = a + (i + 1) by omega] at this
      simpa using this

theorem Memory.merge_wf (m w : Memory) (h : Memory.wf m = true) : Memory.wf (Memory.merge m w) = true := by
  induction w generalizing m with
  | nil => exact h
  | cons p w ih => exact ih _ (Tab.put_sorted m p.1 p.2 h)

/-- A byte that is not among those written stays. -/
theorem Memory.read_merge_other (m w : Memory) (a : Nat) (h : Tab.find w a = none) :
    Memory.readByte? (Memory.merge m w) a = Memory.readByte? m a := by
  induction w generalizing m with
  | nil => rfl
  | cons p w ih =>
    obtain ⟨i, b⟩ := p
    simp only [Tab.find] at h
    split at h
    · exact absurd h (by simp)
    · next hi =>
      exact (ih (Tab.put m i b) h).trans (Tab.find_put_other m i a b (fun e => hi e.symm))

/-- In a table in canonical form, nothing past the front has the front's index. -/
theorem Tab.find_none_of_above {α : Type} (t : Tab α) (n : Nat) (h : Tab.above n t) : Tab.find t n = none := by
  induction t with
  | nil => rfl
  | cons p t ih =>
    obtain ⟨i, b⟩ := p
    have hi : n < i := h (i, b) (List.mem_cons_self ..)
    simp only [Tab.find, if_neg (show ¬ i = n by omega)]
    exact ih fun x hx => h x (List.mem_cons_of_mem _ hx)

/-- A byte that is written reads back. -/
theorem Memory.read_merge_same (m w : Memory) (a : Nat) (b : Byte) (hw : Memory.wf w = true) (h : Tab.find w a = some b) :
    Memory.readByte? (Memory.merge m w) a = some b := by
  induction w generalizing m with
  | nil => simp [Tab.find] at h
  | cons p w ih =>
    obtain ⟨i, c⟩ := p
    obtain ⟨ha, hs⟩ := (Tab.sorted_cons (i, c) w).1 hw
    simp only [Tab.find] at h
    split at h
    · next e =>
      injection h with h
      have := Memory.read_merge_other (Tab.put m i c) w i (Tab.find_none_of_above w i ha)
      rw [← e, ← h]
      simpa [Memory.merge, Memory.readByte?] using this
    · exact ih (Tab.put m i c) hs h

end Sys2Proof.Machine
end

