-- ==== Sys2Proof/Laws/Ops.lean ====
section
/-!
SUPPORT. What the shared operations can do: one lemma per operation, which says all that it changes.
-/

namespace Sys2Proof.Machine

/-! ### Frames of the commands -/

theorem act_of_acts {s u : State} {t : Nat} (h : s.actsAt t u) (f : State → State) : act t s f = .next (f u).intPoll := by
  obtain ⟨h, rfl⟩ := h
  simp [act, h]

theorem actInReset_eq (s : State) (t : Nat) (f : State → State) :
    actInReset t s f = .next (f (s.tickTo t)).intPoll := rfl

/-- In reset a command that waits for release does nothing. -/
theorem act_in_reset {s : State} (h : s.pwr.inReset = true) (t : Nat) (f : State → State) : act t s f = .next s := by
  simp [act, h]

seal act actInReset in
/-- Every command runs in one of the two frames. -/
theorem exec_frame (c : Instr) (s : State) :
    (c.actsInReset = false ∧ ∃ t f, exec c s = act t s f) ∨ (c.actsInReset = true ∧ ∃ t f, exec c s = actInReset t s f) := by
  cases c with
  | reset t x => exact .inr ⟨rfl, t, _, rfl⟩
  | resetRelease t => exact .inr ⟨rfl, t, _, rfl⟩
  | pwrFailAssert t => exact .inr ⟨rfl, t, _, rfl⟩
  | pwrFailDeassert t => exact .inr ⟨rfl, t, _, rfl⟩
  | _ => exact .inl ⟨rfl, _, _, rfl⟩

/-- With no admin command running no reload ends. -/
theorem reloadEnd_idle {s : State} (h : s.qg.run = none) : s.reloadEnd = s := by
  simp [State.reloadEnd, State.waiting, h]

theorem adminRow_of_takes {s u : State} {t op : Nat} {b : Bytes} (h : s.takesAdmin t op b u) (f : Bytes → State → State) :
    act t s (fun s => s.adminRow op f) = .next (f b u).intPoll := by
  obtain ⟨v, hv, h1, h2, h3, h4, h5, h6, h7, rfl⟩ := h
  rw [act_of_acts hv]
  unfold State.adminRow
  cases hq : v.qg.todo with
  | nil => simp [hq] at h5
  | cons x xs =>
    simp only [hq, List.head?_cons, Option.some.injEq] at h5
    subst h5
    rw [reloadEnd_idle h1]
    rcases h4 with h4 | h4 <;> simp [hq, h1, h2, h3, h4, h6, h7]

theorem workRow_of_takes {s u : State} {t q op : Nat} {b : Bytes} (h : s.takesEntry t q op b u) (f : Bytes → State → State) :
    act t s (fun s => s.workRow q op f) = .next (f b u).intPoll := by
  obtain ⟨hv, h1, h2, h3, h4, h5, h6⟩ := h
  rw [act_of_acts hv]
  unfold State.workRow
  cases hq : (u.queue q).cache.map Cached.entry with
  | nil => rw [hq] at h3; cases h3
  | cons x xs =>
    rw [hq] at h3
    simp only [List.head?_cons, Option.some.injEq] at h3
    subst h3
    simp [h1, h2, hq, h4, h5, h6]

theorem listRow_of_takes {s u : State} {t e op : Nat} {r : Run} {c : ListCmd} (h : s.takesCommand t e op r c u)
    (f : Run → ListCmd → State → State) : act t s (fun s => s.listRow e op f) = .next (f r c u).intPoll := by
  obtain ⟨v, r₀, cs, n, hv, h1, h2, h3, h4, h5, rfl, rfl⟩ := h
  rw [act_of_acts hv]
  unfold State.listRow
  simp [h1, h2, h3, h4, h5, State.modRun]

/-! ### Records -/

/-- Changes of channels change the recorder alone. -/
theorem State.foldl_modChan_eq (f : State → Channel → Channel) (l : List Nat) (s : State) :
    ∃ e, l.foldl (fun s c => s.modChan c (f s)) s = { s with erw := e } := by
  induction l generalizing s with
  | nil => exact ⟨s.erw, rfl⟩
  | cons c l ih =>
    obtain ⟨e, he⟩ := ih (s.modChan c (f s))
    exact ⟨e, he⟩

/-- The start of a flush changes the recorder, and of PWR_STAT the two flush bits. -/
theorem State.issueFlush_eq (s : State) (tr : Nat) :
    ∃ e a d, s.issueFlush tr = { s with erw := e, pwr := { s.pwr with flushActive := a, flushDone := d } } := by
  unfold State.issueFlush
  split
  · exact ⟨_, s.pwr.flushActive, s.pwr.flushDone, rfl⟩
  · split
    · exact ⟨_, s.pwr.flushActive, s.pwr.flushDone, rfl⟩
    · obtain ⟨e, he⟩ := State.foldl_modChan_eq (fun s => closeTaken s.now) clearable s
      rw [he]
      dsimp only
      split
      · exact ⟨_, true, false, rfl⟩
      · exact ⟨_, s.pwr.flushActive, s.pwr.flushDone, rfl⟩

theorem State.triggerFlush_eq (s : State) (tr : Nat) :
    ∃ e a d, s.triggerFlush tr = { s with erw := e, pwr := { s.pwr with flushActive := a, flushDone := d } } := by
  unfold State.triggerFlush
  split
  · exact ⟨_, s.pwr.flushActive, s.pwr.flushDone, rfl⟩
  · exact s.issueFlush_eq tr

theorem State.joinFlush_eq (s : State) (tr : Nat) :
    ∃ e a d, s.joinFlush tr = { s with erw := e, pwr := { s.pwr with flushActive := a, flushDone := d } } := by
  unfold State.joinFlush
  split
  · split
    · exact ⟨s.erw, true, false, rfl⟩
    · exact ⟨s.erw, s.pwr.flushActive, s.pwr.flushDone, rfl⟩
  · exact s.issueFlush_eq tr

theorem State.putRecord_eq (s : State) (c code sev : Nat) (p : Bytes) : ∃ e, s.putRecord c code sev p = { s with erw := e } := by
  unfold State.putRecord
  simp only [State.modChan, State.modErw]
  split
  · exact ⟨_, rfl⟩
  · split <;> split <;> exact ⟨_, rfl⟩

theorem State.recordTriggers_eq (s : State) (c sev : Nat) (b : Bool) :
    ∃ e a d, s.recordTriggers c sev b = { s with erw := e, pwr := { s.pwr with flushActive := a, flushDone := d } } := by
  have third : ∀ y : State, (∃ e a d, y = { s with erw := e, pwr := { s.pwr with flushActive := a, flushDone := d } }) →
      ∀ p : Prop, [Decidable p] → ∃ e a d, (if p then y.triggerFlush 3 else y) =
        { s with erw := e, pwr := { s.pwr with flushActive := a, flushDone := d } } := by
    rintro y ⟨e, a, d, rfl⟩ p _
    split
    · obtain ⟨e', a', d', h⟩ := State.triggerFlush_eq { s with erw := e, pwr := { s.pwr with flushActive := a, flushDone := d } } 3
      exact ⟨e', a', d', h⟩
    · exact ⟨e, a, d, rfl⟩
  have second : ∀ p : Prop, [Decidable p] → ∃ e a d,
      (if p then (s.modErw fun e => { e with lastFault := some s.now }).triggerFlush 1 else s) =
        { s with erw := e, pwr := { s.pwr with flushActive := a, flushDone := d } } := by
    intro p _
    split
    · obtain ⟨e', a', d', h⟩ := (s.modErw fun e => { e with lastFault := some s.now }).triggerFlush_eq 1
      exact ⟨e', a', d', h⟩
    · exact ⟨s.erw, s.pwr.flushActive, s.pwr.flushDone, rfl⟩
  exact third _ (second _) _

/-- A record changes the recorder, and of PWR_STAT the two flush bits. -/
theorem State.record_eq (s : State) (c code sev : Nat) (p : Bytes) :
    ∃ e a d, s.record c code sev p = { s with erw := e, pwr := { s.pwr with flushActive := a, flushDone := d } } := by
  unfold State.record
  obtain ⟨e, he⟩ := s.putRecord_eq c code sev p
  simp only [he]
  split
  · exact ⟨e, s.pwr.flushActive, s.pwr.flushDone, rfl⟩
  · obtain ⟨e2, a, d, h⟩ := State.recordTriggers_eq { s with erw := e } c sev (over75 c (s.chan c))
    exact ⟨e2, a, d, h⟩

/-! ### Admin completions -/

theorem State.adminDone_eq (s : State) (b : Bytes) (st r : Nat) :
    s.adminDone b st r = { s with qg := { s.qg with due := s.qg.due ++ [complOf b st r] } } := rfl

theorem State.finishAdmin_eq (s : State) (st r : Nat) : ∃ g, s.finishAdmin st r = { s with qg := g } := by
  unfold State.finishAdmin
  split
  · exact ⟨s.qg, rfl⟩
  · split <;> exact ⟨_, rfl⟩

theorem State.adminWaits_eq (s : State) (b : Bytes) (w : AdminWait) :
    s.adminWaits b w = { s with qg := { s.qg with run := some { entry := b, wait := w } } } := rfl

/-- The message of a queue's vector changes the queues, and leaves the engine. -/
theorem State.queueMessage_eq (s : State) (q : Nat) : ∃ g os, s.queueMessage q = { s with qg := g, outputs := os } := by
  unfold State.queueMessage
  split
  · exact ⟨_, _, rfl⟩
  · exact ⟨s.qg, s.outputs, rfl⟩

end Sys2Proof.Machine
end

