-- ==== Sys2Proof/Laws/Frames.lean ====
section
/-!
SUPPORT. What leaves which parts of the state unchanged: how such facts compose, and the frames of the shared operations.
-/

namespace Sys2Proof.Machine

/-! ### Composition -/

theorem Part.same_refl (s : State) (p : Part) : p.same s s := by cases p <;> rfl

theorem Part.same_trans {s t u : State} {p : Part} (h : p.same s t) (k : p.same t u) : p.same s u := by
  cases p <;> exact Eq.trans k h

theorem only_refl (ps : List Part) (s : State) : s.changesOnly ps s := fun p _ => p.same_refl s

theorem only_trans {ps : List Part} {s t u : State} (h : s.changesOnly ps t) (k : t.changesOnly ps u) :
    s.changesOnly ps u := fun p hp => Part.same_trans (h p hp) (k p hp)

theorem only_mono {ps qs : List Part} {s t : State} (h : s.changesOnly ps t) (hs : ps ⊆ qs) : s.changesOnly qs t :=
  fun p hp => h p fun m => hp (hs m)

/-- One change after others. -/
theorem only_after {ps qs : List Part} {s t u : State} (k : t.changesOnly qs u) (hs : qs ⊆ ps) (h : s.changesOnly ps t) :
    s.changesOnly ps u := only_trans h (only_mono k hs)

theorem only_ite {ps : List Part} {s a b : State} {c : Prop} [Decidable c] (ha : s.changesOnly ps a)
    (hb : s.changesOnly ps b) : s.changesOnly ps (if c then a else b) := by
  split <;> assumption

theorem only_foldl {α : Type} {ps : List Part} {f : State → α → State} (h : ∀ (s : State) a, s.changesOnly ps (f s a)) (l : List α)
    (s : State) : s.changesOnly ps (l.foldl f s) := by
  induction l generalizing s with
  | nil => exact only_refl ps s
  | cons a l ih => exact only_trans (h s a) (ih (f s a))

/-! ### The frame of a command -/

theorem tickTo_only (s : State) (t : Nat) : s.changesOnly [.time] (s.tickTo t) := by
  unfold State.tickTo
  refine only_ite (only_refl _ _) ?_
  intro p hp; cases p <;> first | rfl | simp at hp

theorem intPoll_only (s : State) : s.changesOnly [.intb, .outputs] s.intPoll := by
  unfold State.intPoll
  refine only_ite ?_ (only_refl _ _)
  intro p hp; cases p <;> first | rfl | simp at hp

theorem act_only {ps : List Part} {f : State → State} (h : ∀ u : State, u.changesOnly (always ++ ps) (f u)) {s s' : State} {t : Nat}
    (e : act t s f = .next s') : s.changesOnly (always ++ ps) s' := by
  unfold act at e
  cases e
  refine only_ite (only_refl _ _) ?_
  exact only_trans (only_mono (tickTo_only s t) (by simp [always]))
    (only_trans (h _) (only_mono (intPoll_only _) (by simp [always])))

theorem actInReset_only {ps : List Part} {f : State → State} (h : ∀ u : State, u.changesOnly (always ++ ps) (f u)) {s s' : State}
    {t : Nat} (e : actInReset t s f = .next s') : s.changesOnly (always ++ ps) s' := by
  unfold actInReset at e
  cases e
  exact only_trans (only_mono (tickTo_only s t) (by simp [always]))
    (only_trans (h _) (only_mono (intPoll_only _) (by simp [always])))

/-! ### Setters -/

theorem emit_only (s : State) (o : Output) : s.changesOnly [.outputs] (s.emit o) := by
  intro p hp; cases p <;> first | rfl | simp at hp
theorem modQg_only (s : State) (f : Qg → Qg) : s.changesOnly [.qg] (s.modQg f) := by
  intro p hp; cases p <;> first | rfl | simp at hp
theorem modDet_only (s : State) (f : Det → Det) : s.changesOnly [.det] (s.modDet f) := by
  intro p hp; cases p <;> first | rfl | simp at hp
theorem modPke_only (s : State) (f : Pke → Pke) : s.changesOnly [.pke] (s.modPke f) := by
  intro p hp; cases p <;> first | rfl | simp at hp
theorem modPool_only (s : State) (f : Pool → Pool) : s.changesOnly [.pool] (s.modPool f) := by
  intro p hp; cases p <;> first | rfl | simp at hp
theorem modCus_only (s : State) (f : Cus → Cus) : s.changesOnly [.cus] (s.modCus f) := by
  intro p hp; cases p <;> first | rfl | simp at hp
theorem modSil_only (s : State) (f : Sil → Sil) : s.changesOnly [.sil] (s.modSil f) := by
  intro p hp; cases p <;> first | rfl | simp at hp
theorem modStw_only (s : State) (f : Stw → Stw) : s.changesOnly [.stw] (s.modStw f) := by
  intro p hp; cases p <;> first | rfl | simp at hp
theorem modErw_only (s : State) (f : Erw → Erw) : s.changesOnly [.erw] (s.modErw f) := by
  intro p hp; cases p <;> first | rfl | simp at hp
theorem modPwr_only (s : State) (f : Pwr → Pwr) : s.changesOnly [.pwr] (s.modPwr f) := by
  intro p hp; cases p <;> first | rfl | simp at hp
theorem modQueue_only (s : State) (q : Nat) (f : Queue → Queue) : s.changesOnly [.qg] (s.modQueue q f) := by
  intro p hp; cases p <;> first | rfl | simp at hp
theorem modRegion_only (s : State) (r : Nat) (f : Region → Region) : s.changesOnly [.regions] (s.modRegion r f) := by
  intro p hp; cases p <;> first | rfl | simp at hp
theorem modTile_only (s : State) (i : Nat) (f : Tile → Tile) : s.changesOnly [.tiles] (s.modTile i f) := by
  intro p hp; cases p <;> first | rfl | simp at hp
theorem modLabel_only (s : State) (l : Nat) (f : Label → Label) : s.changesOnly [.cus] (s.modLabel l f) := by
  intro p hp; cases p <;> first | rfl | simp at hp
theorem modRun_only (s : State) (e : Nat) (f : Run → Run) : s.changesOnly [.runs] (s.modRun e f) := by
  unfold State.modRun
  split
  · exact only_refl _ _
  · intro p hp; cases p <;> first | rfl | simp at hp
theorem modJob_only (s : State) (j : Nat) (f : Job → Job) : s.changesOnly [.jobs] (s.modJob j f) := by
  unfold State.modJob
  split
  · exact only_refl _ _
  · intro p hp; cases p <;> first | rfl | simp at hp

theorem modRun_of_find {s : State} {e : Nat} {r : Run} (h : Tab.find s.runs e = some r) (f : Run → Run) :
    s.modRun e f = { s with runs := Tab.put s.runs e (f r) } := by
  unfold State.modRun; rw [h]

theorem modJob_of_find {s : State} {j : Nat} {x : Job} (h : Tab.find s.jobs j = some x) (f : Job → Job) :
    s.modJob j f = { s with jobs := Tab.put s.jobs j (f x) } := by
  unfold State.modJob; rw [h]

/-! ### Records, counts and the admin queue -/

theorem record_only (s : State) (c code sev : Nat) (b : Bytes) : s.changesOnly [.pwr, .erw] (s.record c code sev b) := by
  obtain ⟨e, a, d, h⟩ := s.record_eq c code sev b
  rw [h]
  intro p hp; cases p <;> first | rfl | simp at hp

theorem addNdc_only (s : State) (e : Nat) : s.changesOnly [.qg, .det, .runs] (s.addNdc e) := by
  unfold State.addNdc
  split
  · exact only_refl _ _
  · exact only_after (modDet_only _ _) (by simp) (only_after (modQueue_only _ _ _) (by simp)
      (only_after (modRun_only _ _ _) (by simp) (only_refl _ _)))

theorem affect_only (s : State) (e i r : Nat) (l : Bool) : s.changesOnly [.runs] (s.affect e i r l) := modRun_only s e _

theorem voidSample_only (s : State) (e i r : Nat) : s.changesOnly [.stw, .runs] (s.voidSample e i r) := by
  unfold State.voidSample
  split
  · exact only_refl _ _
  · exact only_after (affect_only _ _ _ _ _) (by simp)
      (only_ite (only_refl _ _) (only_mono (modStw_only s _) (by simp)))

theorem takeFront_only (s : State) (q : Nat) (b : Bytes) (f : Bool) (c : Option Compl) :
    s.changesOnly [.qg] (s.takeFront q b f c) := by
  unfold State.takeFront State.serveRound
  refine only_after (modQueue_only _ _ _) (by simp) ?_
  dsimp only
  refine only_ite (only_after (modQueue_only _ _ _) (by simp) (modQg_only s _)) ?_
  exact only_after (modQueue_only _ _ _) (by simp) (only_after (modQg_only _ _) (by simp) (modQg_only s _))

theorem adminDone_only (s : State) (b : Bytes) (st r : Nat) : s.changesOnly [.qg] (s.adminDone b st r) := by
  obtain h := s.adminDone_eq b st r
  rw [h]
  intro p hp; cases p <;> first | rfl | simp at hp

theorem adminWaits_only (s : State) (b : Bytes) (w : AdminWait) : s.changesOnly [.qg] (s.adminWaits b w) := by
  rw [s.adminWaits_eq b w]
  intro p hp; cases p <;> first | rfl | simp at hp

theorem finishAdmin_only (s : State) (st r : Nat) : s.changesOnly [.qg] (s.finishAdmin st r) := by
  obtain ⟨g, h⟩ := s.finishAdmin_eq st r
  rw [h]
  intro p hp; cases p <;> first | rfl | simp at hp

theorem modTime_only (s : State) (f : Time → Time) : s.changesOnly [.time] (s.modTime f) := by
  intro p hp; cases p <;> first | rfl | simp at hp

theorem reload_only (s : State) (d : Bytes) : s.changesOnly [.pwr, .erw, .sil] (s.reload d) := by
  unfold State.reload
  exact only_after (record_only _ _ _ _ _) (by simp) (only_mono (modSil_only s _) (by simp))

/-- The end of a waiting reload changes what a reload changes; with none waiting nothing. -/
theorem reloadEnd_only (s : State) : s.changesOnly (.qg :: s.reloadParts) s.reloadEnd := by
  unfold State.reloadEnd State.reloadParts
  cases s.waiting with
  | none => exact only_refl _ _
  | some w =>
    cases w with
    | reload d =>
      exact only_ite (only_refl _ _) (only_after (finishAdmin_only _ _ _) (by simp) (only_mono (reload_only s _) (by simp)))
    | _ => exact only_refl _ _

/-- A row of the admin queue changes the queue, what the end of a waiting reload changes and what its command changes. -/
theorem adminRow_only {ps : List Part} {f : Bytes → State → State} (h : ∀ (b : Bytes) (u : State), u.changesOnly ps (f b u)) (hq : .qg ∈ ps)
    (s : State) (hr : s.reloadParts ⊆ ps) (op : Nat) : s.changesOnly ps (s.adminRow op f) := by
  have hs : [Part.qg] ⊆ ps := by simpa using hq
  have h0 : s.changesOnly ps s.reloadEnd := only_mono (reloadEnd_only s) (by simpa using ⟨hq, hr⟩)
  unfold State.adminRow State.popAdmin
  dsimp only
  refine only_trans h0 ?_
  refine only_ite (only_refl _ _) ?_
  split
  · exact only_refl _ _
  · exact only_after (modQg_only _ _) hs (only_mono (modQg_only _ _) hs)
  · refine only_ite (only_after (adminDone_only _ _ _ _) hs (only_mono (modQg_only _ _) hs)) ?_
    split
    · exact only_after (adminDone_only _ _ _ _) hs (only_after (modQg_only _ _) hs (only_mono (modQg_only _ _) hs))
    · exact only_ite (only_trans (only_mono (modQg_only _ _) hs) (h _ _)) (only_refl _ _)

/-- A row of a work queue changes the queue and what its command changes. -/
theorem workRow_only {ps : List Part} {f : Bytes → State → State} (h : ∀ (b : Bytes) (u : State), u.changesOnly ps (f b u)) (hq : .qg ∈ ps)
    (s : State) (q op : Nat) : s.changesOnly ps (s.workRow q op f) := by
  have hs : [Part.qg] ⊆ ps := by simpa using hq
  unfold State.workRow
  dsimp only
  refine only_ite (only_refl _ _) ?_
  split
  · exact only_refl _ _
  · exact only_mono (takeFront_only _ _ _ _ _) hs
  · refine only_ite (only_mono (takeFront_only _ _ _ _ _) hs) ?_
    split
    · exact only_after (takeFront_only _ _ _ _ _) hs (only_mono (modQg_only s _) hs)
    · exact only_ite (h _ _) (only_refl _ _)

/-- A row of a list changes the entry's run and what its command changes. -/
theorem listRow_only {ps : List Part} {f : Run → ListCmd → State → State} (h : ∀ (r : Run) (c : ListCmd) (u : State), u.changesOnly ps (f r c u))
    (hr : .runs ∈ ps) (s : State) (e op : Nat) : s.changesOnly ps (s.listRow e op f) := by
  have hs : [Part.runs] ⊆ ps := by simpa using hr
  unfold State.listRow
  split
  · exact only_refl _ _
  · refine only_ite (only_refl _ _) ?_
    split
    · exact only_refl _ _
    · exact only_ite (only_trans (only_mono (modRun_only s e _) hs) (h _ _ _)) (only_refl _ _)

/-! ### The end of an entry -/

theorem dropPoints_only (s : State) (e : Nat) : s.changesOnly [.det] (s.dropPoints e) := modDet_only s _

theorem spillUpdate_only (s : State) (r : Nat) : s.changesOnly [.regions] (s.spillUpdate r) := modRegion_only s r _

theorem giveCells_only (s : State) (r : Nat) (enc : Bool) (cs : List Nat) (l : Nat) :
    s.changesOnly [.regions, .pool] (s.giveCells r enc cs l) := by
  unfold State.giveCells
  exact only_ite (only_mono (modPool_only s _) (by simp))
    (only_after (spillUpdate_only _ _) (by simp) (only_mono (modPool_only s _) (by simp)))

theorem freeWork_only (s : State) (f : WorkBuffer → Bool) : s.changesOnly [.regions, .pool] (s.freeWork f) := by
  unfold State.freeWork
  exact only_trans (only_mono (modPool_only s _) (by simp)) (only_foldl (fun s w => giveCells_only s _ _ _ _) _ _)

theorem dropWork_only (s : State) (e : Nat) : s.changesOnly [.regions, .pool] (s.dropWork e) :=
  only_after (modPool_only _ _) (by simp) (freeWork_only s _)

theorem runsJobs_only (s : State) (x : Tab Run) (y : Tab Job) : s.changesOnly [.runs, .jobs] { s with runs := x, jobs := y } := by
  intro p hp; cases p <;> first | rfl | simp at hp

theorem endRun_only (s : State) (e : Nat) : s.changesOnly [.regions, .qg, .det, .pool, .runs, .jobs] (s.endRun e) := by
  unfold State.endRun
  split
  · exact only_refl _ _
  · dsimp only
    refine only_trans ?_ (only_mono (runsJobs_only _ _ _) (by simp))
    exact only_after (dropWork_only _ e) (by simp) (only_after (dropPoints_only _ e) (by simp) (only_mono (modQueue_only s _ _) (by simp)))

theorem setSeals_only (s : State) (x : Tab SealSpawn) : s.changesOnly [.seals] { s with seals := x } := by
  intro p hp; cases p <;> first | rfl | simp at hp

theorem dropSeals_only (s : State) (e : Nat) : s.changesOnly [.regions, .tiles, .seals, .outputs] (s.dropSeals e) := by
  unfold State.dropSeals
  dsimp only
  refine only_after (setSeals_only _ _) (by simp) ?_
  have h1 : s.changesOnly [.regions, .tiles, .seals, .outputs] (List.foldl (fun s x => s.modRegion x.2.region fun w => { w with sealBusy := false })
      (List.foldl (fun s a => s.emit (.interior a (zeroBytes 64))) s
        ((s.seals.filter fun x => x.2.run == e).flatMap fun x => (x.2.rows.filter SealRow.touched).map SealRow.column))
      (s.seals.filter fun x => x.2.run == e)) := by
    refine only_trans ?_ (only_foldl (fun s x => only_mono (modRegion_only s _ _) (by simp)) _ _)
    exact only_mono (only_foldl (fun s a => emit_only s _) _ s) (by simp)
  refine only_trans h1 ?_
  split
  · exact only_refl _ _
  · exact only_mono (only_foldl (fun s id => modTile_only s id _) _ _) (by simp)

theorem settleDivs_only (s : State) (e : Nat) : s.changesOnly [.pwr, .erw, .det, .runs] (s.settleDivs e) := by
  unfold State.settleDivs
  split
  · exact only_refl _ _
  · split
    · refine only_after (record_only _ _ _ _ _) (by simp) ?_
      refine only_ite (only_mono (modRun_only s e _) (by simp)) ?_
      exact only_after (modDet_only _ _) (by simp) (only_mono (modRun_only s e _) (by simp))
    · exact only_mono (modRun_only s e _) (by simp)
    · exact only_refl _ _

theorem settleRun_only (s : State) (e : Nat) :
    s.changesOnly [.pwr, .regions, .erw, .qg, .det, .pool, .runs, .jobs] (s.settleRun e) := by
  unfold State.settleRun
  split
  · exact only_refl _ _
  · exact only_ite (only_after (endRun_only _ e) (by simp) (only_mono (settleDivs_only s e) (by simp))) (only_refl _ _)

/-! ### Points, Tadpoles, stores -/

theorem comparePoints_only (s : State) (a b : ChorusPoint) : s.changesOnly [.runs] (s.comparePoints a b) := by
  unfold State.comparePoints
  exact only_ite (only_refl _ _) (modRun_only s _ _)

theorem modLane_only (s : State) (l : Nat) (f : Chorus → Chorus) : s.changesOnly [.det] (s.modLane l f) := modDet_only s _

theorem point_only (s : State) (e st i : Nat) (d : Bytes) (unit : Option Nat) :
    s.changesOnly [.det, .runs, .outputs] (s.point e st i d unit) := by
  unfold State.point
  split
  · exact only_refl _ _
  · split
    · exact only_refl _ _
    · dsimp only
      split
      · exact only_after (modLane_only _ _ _) (by simp) (only_after (comparePoints_only _ _ _) (by simp)
          (only_after (emit_only _ _) (by simp) (only_mono (modRun_only s e _) (by simp))))
      · exact only_after (modLane_only _ _ _) (by simp)
          (only_after (emit_only _ _) (by simp) (only_mono (modRun_only s e _) (by simp)))

theorem unitDone_only (s : State) (role : Nat) : s.changesOnly [.tiles] (s.unitDone role) :=
  only_foldl (fun s i => modTile_only s i _) _ s

theorem store_only (s : State) (e st : Nat) (d : Desc) (m : Memory) :
    s.changesOnly [.pwr, .erw, .pool, .runs, .outputs] (s.store e st d m) := by
  unfold State.store
  split
  · split
    · exact only_ite (only_mono (modPool_only s _) (by simp)) (only_mono (record_only s _ _ _ _) (by simp))
    · exact only_refl _ _
  · exact only_mono (modRun_only s e _) (by simp)
  · exact only_mono (only_foldl (fun s x => emit_only s _) _ s) (by simp)

theorem writeElems_only (s : State) (e st : Nat) (d : Desc) (es : List (List Nat × Nat)) :
    s.changesOnly [.pwr, .erw, .pool, .runs, .outputs] (s.writeElems e st d es) := by
  unfold State.writeElems State.countOob
  exact only_after (modRun_only _ _ _) (by simp) (store_only s e st d _)

theorem noteLevel_only (s : State) (k r b : Nat) : s.changesOnly [.pool] (s.noteLevel k r b) := modPool_only s _

theorem noteOutput_only (s : State) (j : Nat) (x : Job) (k : Nat) : s.changesOnly [.pool] (s.noteOutput j x k) := by
  unfold State.noteOutput
  exact only_foldl (fun s c => noteLevel_only s _ _ _) _ s

theorem putCopy_only (s : State) (x : Job) (f : Nat → Bool) :
    s.changesOnly [.pwr, .erw, .pool, .runs, .outputs] (s.putCopy x f) := by
  unfold State.putCopy State.countOob
  split
  · exact only_refl _ _
  · exact only_after (modRun_only _ _ _) (by simp) (store_only s _ _ _ _)

theorem dropLoops_only (s : State) (id : Nat) : s.changesOnly [.tiles] (s.dropLoops id) := modTile_only s id _

theorem dropRun_only (s : State) (e : Nat) :
    s.changesOnly [.pwr, .regions, .tiles, .erw, .pke, .qg, .det, .pool, .runs, .jobs, .seals, .outputs] (s.dropRun e) := by
  unfold State.dropRun State.dropManifests
  refine only_after (endRun_only _ e) (by simp) (only_after (modPke_only _ _) (by simp)
    (only_after (dropSeals_only _ e) (by simp) (only_after (modRun_only _ e _) (by simp) ?_)))
  unfold State.dropEntryLoops State.dropCopies
  refine only_trans ?_ (only_mono (only_foldl (fun s id => dropLoops_only s id) _ _) (by simp))
  exact only_foldl (fun s j => only_mono (putCopy_only s _ _) (by simp)) _ s

end Sys2Proof.Machine
end

