-- ==== Sys2Proof/Laws/Queues.lean ====
section
/-!
SUPPORT. Queues and labels: what a change of one leaves of the others.
-/

namespace Sys2Proof.Machine

@[simp] theorem State.queue_modQueue_same (s : State) (q : Nat) (f : Queue → Queue) :
    (s.modQueue q f).queue q = f (s.queue q) := by
  unfold State.queue State.modQueue State.modQg
  split <;> simp

theorem State.queue_modQueue_other (s : State) (q p : Nat) (f : Queue → Queue) (h : p ≠ q) :
    (s.modQueue q f).queue p = s.queue p := by
  unfold State.queue State.modQueue State.modQg
  by_cases hp : p = 0
  · simp [hp, show ¬ q = 0 by omega]
  · by_cases hq : q = 0
    · simp [hp, hq]
    · simp [hp, hq, Tab.getD_put_other _ _ _ _ _ h]

/-- Two states with the same queues. -/
theorem State.queue_congr {s t : State} (h : t.qg = s.qg) (q : Nat) : t.queue q = s.queue q := by
  unfold State.queue; rw [h]

@[simp] theorem State.queue_modGctl (s : State) (f : Gctl → Gctl) (q : Nat) : (s.modGctl f).queue q = s.queue q := rfl
@[simp] theorem State.queue_modInt (s : State) (f : IntBlock → IntBlock) (q : Nat) : (s.modInt f).queue q = s.queue q := rfl
@[simp] theorem State.queue_modTime (s : State) (f : Time → Time) (q : Nat) : (s.modTime f).queue q = s.queue q := rfl
@[simp] theorem State.queue_modPwr (s : State) (f : Pwr → Pwr) (q : Nat) : (s.modPwr f).queue q = s.queue q := rfl
@[simp] theorem State.queue_modStw (s : State) (f : Stw → Stw) (q : Nat) : (s.modStw f).queue q = s.queue q := rfl
@[simp] theorem State.queue_modErw (s : State) (f : Erw → Erw) (q : Nat) : (s.modErw f).queue q = s.queue q := rfl
@[simp] theorem State.queue_modPke (s : State) (f : Pke → Pke) (q : Nat) : (s.modPke f).queue q = s.queue q := rfl
@[simp] theorem State.queue_modCus (s : State) (f : Cus → Cus) (q : Nat) : (s.modCus f).queue q = s.queue q := rfl
@[simp] theorem State.queue_modSil (s : State) (f : Sil → Sil) (q : Nat) : (s.modSil f).queue q = s.queue q := rfl
@[simp] theorem State.queue_modDet (s : State) (f : Det → Det) (q : Nat) : (s.modDet f).queue q = s.queue q := rfl
@[simp] theorem State.queue_modPool (s : State) (f : Pool → Pool) (q : Nat) : (s.modPool f).queue q = s.queue q := rfl
@[simp] theorem State.queue_modEmc (s : State) (f : Emc → Emc) (q : Nat) : (s.modEmc f).queue q = s.queue q := rfl
@[simp] theorem State.label_modGctl (s : State) (f : Gctl → Gctl) (l : Nat) : (s.modGctl f).label l = s.label l := rfl
@[simp] theorem State.label_modInt (s : State) (f : IntBlock → IntBlock) (l : Nat) : (s.modInt f).label l = s.label l := rfl
@[simp] theorem State.label_modTime (s : State) (f : Time → Time) (l : Nat) : (s.modTime f).label l = s.label l := rfl
@[simp] theorem State.label_modPwr (s : State) (f : Pwr → Pwr) (l : Nat) : (s.modPwr f).label l = s.label l := rfl
@[simp] theorem State.label_modStw (s : State) (f : Stw → Stw) (l : Nat) : (s.modStw f).label l = s.label l := rfl
@[simp] theorem State.label_modErw (s : State) (f : Erw → Erw) (l : Nat) : (s.modErw f).label l = s.label l := rfl
@[simp] theorem State.label_modPke (s : State) (f : Pke → Pke) (l : Nat) : (s.modPke f).label l = s.label l := rfl
@[simp] theorem State.label_modSil (s : State) (f : Sil → Sil) (l : Nat) : (s.modSil f).label l = s.label l := rfl
@[simp] theorem State.label_modQg (s : State) (f : Qg → Qg) (l : Nat) : (s.modQg f).label l = s.label l := rfl
@[simp] theorem State.label_modDet (s : State) (f : Det → Det) (l : Nat) : (s.modDet f).label l = s.label l := rfl
@[simp] theorem State.label_modPool (s : State) (f : Pool → Pool) (l : Nat) : (s.modPool f).label l = s.label l := rfl
@[simp] theorem State.label_modEmc (s : State) (f : Emc → Emc) (l : Nat) : (s.modEmc f).label l = s.label l := rfl
@[simp] theorem State.label_emit (s : State) (o : Output) (l : Nat) : (s.emit o).label l = s.label l := rfl
@[simp] theorem State.label_modLabel_same (s : State) (l : Nat) (f : Label → Label) : (s.modLabel l f).label l = f (s.label l) := by
  simp [State.label, State.modLabel]
theorem State.label_modLabel_other (s : State) (l k : Nat) (f : Label → Label) (h : k ≠ l) : (s.modLabel l f).label k = s.label k := by
  simp [State.label, State.modLabel, Tab.getD_put_other _ _ _ _ _ h]
@[simp] theorem State.queue_emit (s : State) (o : Output) (q : Nat) : (s.emit o).queue q = s.queue q := rfl
@[simp] theorem State.modQueue_outputs (s : State) (q : Nat) (f : Queue → Queue) : (s.modQueue q f).outputs = s.outputs := rfl
@[simp] theorem State.modQueue_intb (s : State) (q : Nat) (f : Queue → Queue) : (s.modQueue q f).intb = s.intb := rfl

/-- The running admin command ends: its completion is due. -/
theorem State.finishAdmin_run {s : State} {r : AdminRun} (h : s.qg.run = some r) (hr : s.stw.restarting = false) (st x : Nat) :
    s.finishAdmin st x = { s with qg := { s.qg with run := none, due := s.qg.due ++ [complOf r.entry st x] } } := by
  unfold State.finishAdmin
  simp only [h, hr, Bool.false_and, Bool.false_eq_true, if_false]
  rfl

/-- The message of a vector disarms it, and leaves the rest of its queue. -/
@[simp] theorem State.queue_queueMessage_same (s : State) (q : Nat) :
    (s.queueMessage q).queue q = { s.queue q with armed := false } := by
  unfold State.queueMessage
  split
  · simp
  · next h => cases hx : s.queue q; rw [hx] at h; simp_all

/-- The message of a vector leaves every other queue. -/
theorem State.queue_queueMessage_other (s : State) (q p : Nat) (h : p ≠ q) : (s.queueMessage q).queue p = s.queue p := by
  unfold State.queueMessage
  split
  · rw [State.queue_modQueue_other _ _ _ _ h, State.queue_emit]
  · rfl

theorem State.queueMessage_outputs (s : State) (q : Nat) : ∀ o ∈ s.outputs, o ∈ (s.queueMessage q).outputs := by
  intro o ho
  unfold State.queueMessage
  split
  · simpa using Or.inr ho
  · exact ho

end Sys2Proof.Machine
end

