-- ==== Sys2Proof/Laws/Custody.lean ====
section
/-!
SUPPORT. Custody: what the receiver does with a frame, and what fencing, lifting and erasing a matter do to its label and
to every other label.
-/

namespace Sys2Proof.Machine

/-- A frame that is no repeat is judged, answered, and acted on or refused. -/
theorem State.receive_new {s : State} {type seq : Nat} {p : Bytes} (h : s.hears type seq p) (judge : State → Nat)
    (effect refused : State → State) :
    s.receive type seq p judge effect refused =
      if judge s = 0 then effect (s.answered type seq p 0) else refused (s.answered type seq p (judge s)) := by
  have hgo : State.receive.go s seq judge effect refused (frameCrc type seq p) =
      if judge s = 0 then effect (s.answered type seq p 0) else refused (s.answered type seq p (judge s)) := by
    unfold State.receive.go State.answered State.answerFrame
    by_cases hj : judge s = 0
    · simp only [hj, if_true]; rw [List.append_nil]; rfl
    · simp only [hj, if_false]; rfl
  unfold State.receive
  rw [if_neg h.1]
  simp only
  split
  · next x hx => rw [if_neg (h.2 x hx)]; exact hgo
  · exact hgo

/-! ### Records and completions leave the labels -/

theorem State.record_cus (s : State) (c code sev : Nat) (p : Bytes) : (s.record c code sev p).cus = s.cus := by
  obtain ⟨e, a, d, h⟩ := s.record_eq c code sev p
  rw [h]

theorem State.custodyRecord_cus (s : State) (code sev : Nat) (p : Bytes) : (s.custodyRecord code sev p).cus = s.cus :=
  s.record_cus 3 code sev p

theorem State.record_qg (s : State) (c code sev : Nat) (p : Bytes) : (s.record c code sev p).qg = s.qg := by
  obtain ⟨e, a, d, h⟩ := s.record_eq c code sev p
  rw [h]

theorem State.finishAdmin_cus (s : State) (st x : Nat) : (s.finishAdmin st x).cus = s.cus := by
  obtain ⟨g, h⟩ := s.finishAdmin_eq st x
  rw [h]

theorem State.label_of_cus {s t : State} (h : t.cus = s.cus) (l : Nat) : t.label l = s.label l := by
  unfold State.label; rw [h]

theorem State.label_modCus (s : State) (f : Cus → Cus) (l : Nat) (h : (f s.cus).labels = s.cus.labels) :
    (s.modCus f).label l = s.label l := by
  unfold State.label
  rw [State.modCus_cus, h]

theorem State.fenceAdmin_cus (s : State) (src l : Nat) : (s.fenceAdmin src l).cus = s.cus := by
  unfold State.fenceAdmin
  have h : ∀ (y : State) (p : Prop) [Decidable p], y.cus = s.cus → (if p then y.finishAdmin 0x30 0 else s).cus = s.cus := by
    intro y p _ hy
    split
    · rw [State.finishAdmin_cus, hy]
    · rfl
  split
  · exact h _ _ rfl
  · exact h _ _ rfl
  · exact h _ _ rfl
  · exact h _ _ rfl
  · rfl

theorem State.foldl_cus {α : Type} (f : State → α → State) (h : ∀ s a, (f s a).cus = s.cus) (l : List α) (s : State) :
    (l.foldl f s).cus = s.cus := by
  induction l generalizing s with
  | nil => rfl
  | cons a l ih => rw [List.foldl_cons, ih, h]

theorem State.changesOnly_cus {ps : List Part} {s t : State} (h : s.changesOnly ps t) (hp : Part.cus ∉ ps) : t.cus = s.cus :=
  h .cus hp

theorem State.dropRun_cus (s : State) (e : Nat) : (s.dropRun e).cus = s.cus :=
  State.changesOnly_cus (dropRun_only s e) (by simp)

theorem State.dropRuns_cus (s : State) (p : Run → Bool) : (s.dropRuns p).cus = s.cus :=
  State.foldl_cus _ State.dropRun_cus _ _

/-! ### Fence, lift, erase -/

/-- A fence acts on its own label alone. -/
theorem State.label_fenceOne_other (s : State) (src slot l k : Nat) (h : k ≠ l) : (s.fenceOne src slot l).label k = s.label k := by
  unfold State.fenceOne
  split
  · split
    · exact State.label_modLabel_other _ _ _ _ h
    · unfold State.openFails
      rw [State.label_of_cus (State.finishAdmin_cus ..), State.label_of_cus (State.custodyRecord_cus ..), State.label_modLabel_other _ _ _ _ h]
      rfl
  · rw [State.label_of_cus (State.fenceAdmin_cus ..), State.label_of_cus (State.custodyRecord_cus ..)]
    rw [State.label_modCus _ _ _ rfl]
    rw [State.label_modLabel_other _ _ _ _ h]
  · rw [State.label_of_cus (State.fenceAdmin_cus ..), State.label_of_cus (State.custodyRecord_cus ..)]
    rw [State.label_modCus _ _ _ rfl]
    rw [State.label_modLabel_other _ _ _ _ h]
  · rfl

/-- What a fence does to its label. -/
theorem State.label_fenceOne_same (s : State) (src slot l : Nat) :
    (s.fenceOne src slot l).label l = match (s.label l).state with
      | .opening => if src = 0 then { s.label l with edge := true } else freeLabel (s.label l)
      | .opened => { s.label l with state := .fenced, wasClosing := false, fencedAt := s.now }
      | .closing => { s.label l with state := .fenced, wasClosing := true, fencedAt := s.now }
      | _ => s.label l := by
  unfold State.fenceOne
  cases (s.label l).state with
  | opening =>
    dsimp only
    split
    · exact State.label_modLabel_same ..
    · unfold State.openFails
      rw [State.label_of_cus (State.finishAdmin_cus ..), State.label_of_cus (State.custodyRecord_cus ..), State.label_modLabel_same]
      rfl
  | opened =>
    dsimp only
    rw [State.label_of_cus (State.fenceAdmin_cus ..), State.label_of_cus (State.custodyRecord_cus ..)]
    rw [State.label_modCus _ _ _ rfl]
    rw [State.label_modLabel_same]
    all_goals rfl
  | closing =>
    dsimp only
    rw [State.label_of_cus (State.fenceAdmin_cus ..), State.label_of_cus (State.custodyRecord_cus ..)]
    rw [State.label_modCus _ _ _ rfl]
    rw [State.label_modLabel_same]
    all_goals rfl
  | _ => rfl

theorem State.label_liftOne_other (s : State) (slot l k : Nat) (h : k ≠ l) : (s.liftOne slot l).label k = s.label k := by
  unfold State.liftOne
  split
  · rw [State.label_of_cus (State.custodyRecord_cus ..)]
    rw [State.label_modCus _ _ _ rfl]
    rw [State.label_modLabel_other _ _ _ _ h]
  · rfl

/-- What a lift does to its label. -/
theorem State.label_liftOne_same (s : State) (slot l : Nat) :
    (s.liftOne slot l).label l = if (s.label l).state = .fenced then
        { s.label l with state := if (s.label l).wasClosing then .closing else .opened, wasClosing := false,
                         fencedTicks := (s.label l).fencedTicks + (s.now - (s.label l).fencedAt) }
      else s.label l := by
  unfold State.liftOne
  split
  · next h =>
    rw [State.label_of_cus (State.custodyRecord_cus ..)]
    rw [State.label_modCus _ _ _ rfl]
    rw [State.label_modLabel_same, if_pos h]
  · next h => rw [if_neg h]

/-- Two states agree in a label. -/
theorem State.label_cancelWindow (s : State) (l k : Nat) : (s.cancelWindow l).label k = s.label k := by
  unfold State.cancelWindow
  simp only
  split <;> rfl

theorem State.label_eraseOne_other (s : State) (src l k : Nat) (h : k ≠ l) : (s.eraseOne src l).label k = s.label k := by
  have key : ∀ y : State, (State.cancelWindow (regionNumbers.foldl State.spillUpdate ((y.modPool fun p => p.erase l).eraseKeys l)) l).label k = y.label k := by
    intro y
    rw [State.label_cancelWindow, State.label_of_cus (State.foldl_cus State.spillUpdate (fun _ _ => rfl) ..)]; rfl
  unfold State.eraseOne
  split
  iterate 3
    simp only [key]
    rw [State.label_modLabel_other _ _ _ _ h, State.label_of_cus (State.dropRuns_cus ..)]; rfl
  · rfl

/-- What an erasure does to its label. -/
theorem State.label_eraseOne_same (s : State) (src l : Nat) :
    (s.eraseOne src l).label l =
      if (s.label l).state = .opened ∨ (s.label l).state = .fenced ∨ (s.label l).state = .closing then
        { s.label l with state := .erasing, source := src, kData := [], kMem := [], kNoise := [], wasClosing := false }
      else s.label l := by
  have key : ∀ y : State, (State.cancelWindow (regionNumbers.foldl State.spillUpdate ((y.modPool fun p => p.erase l).eraseKeys l)) l).label l = y.label l := by
    intro y
    rw [State.label_cancelWindow, State.label_of_cus (State.foldl_cus State.spillUpdate (fun _ _ => rfl) ..)]; rfl
  unfold State.eraseOne
  split
  · next h =>
    simp only [key]
    rw [State.label_modLabel_same, State.label_of_cus (State.dropRuns_cus ..), if_pos (.inl h)]; rfl
  · next h =>
    simp only [key]
    rw [State.label_modLabel_same, State.label_of_cus (State.dropRuns_cus ..), if_pos (.inr (.inl h))]; rfl
  · next h =>
    simp only [key]
    rw [State.label_modLabel_same, State.label_of_cus (State.dropRuns_cus ..), if_pos (.inr (.inr h))]; rfl
  · next h1 h2 h3 => rw [if_neg]; rintro (h | h | h); exacts [h1 h, h2 h, h3 h]

/-! ### The labels of a slot -/

theorem Tab.mem_of_find {α : Type} (t : Tab α) (k : Nat) (v : α) (h : Tab.find t k = some v) : (k, v) ∈ t := by
  induction t with
  | nil => cases h
  | cons p t ih =>
    obtain ⟨i, w⟩ := p
    unfold Tab.find at h
    split at h
    · next e => subst e; cases h; exact List.mem_cons_self ..
    · exact List.mem_cons_of_mem _ (ih h)

/-- The labels of a slot that satisfy `p`, which FREE does not. -/
theorem State.mem_slotLabels (s : State) (slot l : Nat) (p : Label → Bool) (h0 : p {} = false) :
    l ∈ s.slotLabels slot p ↔ (s.label l).slot = slot ∧ p (s.label l) = true := by
  unfold State.slotLabels
  rw [List.mem_filter]
  simp only [Bool.and_eq_true, beq_iff_eq, and_iff_right_iff_imp]
  rintro ⟨_, hp⟩
  cases hf : Tab.find s.cus.labels l with
  | none =>
    have : s.label l = {} := by unfold State.label Tab.getD; rw [hf]; rfl
    rw [this, h0] at hp; cases hp
  | some x => exact List.mem_map.2 ⟨(l, x), Tab.mem_of_find _ _ _ hf, rfl⟩

end Sys2Proof.Machine
end

