-- ==== Sys2Proof/Laws/PerInstr.lean ====
section
/-!
SUPPORT. Statements made for every command: no word spells one (spec/opcode_table.json gives no row bits).
-/

namespace Sys2Proof.Laws.NoWord

/-- No word of the table spells the command. -/
def Statement (i : Instr) : Prop := ∀ n w : Nat, decodeTableWord n w ≠ some i

theorem any (i : Instr) : Statement i := fun _ _ h => nomatch h

theorem createQueue (t : Nat) : Statement (.createQueue t) := any _
theorem destroyQueue (t : Nat) : Statement (.destroyQueue t) := any _
theorem disableQueue (t : Nat) : Statement (.disableQueue t) := any _
theorem queueInvalidate (t : Nat) : Statement (.queueInvalidate t) := any _
theorem loadImage (t : Nat) (data : Bytes) : Statement (.loadImage t data) := any _
theorem activateImage (t : Nat) : Statement (.activateImage t) := any _
theorem imageSwitch (t : Nat) : Statement (.imageSwitch t) := any _
theorem reloadMicrocode (t : Nat) (data : Bytes) : Statement (.reloadMicrocode t data) := any _
theorem openMatter (t : Nat) (manifest : Bytes) : Statement (.openMatter t manifest) := any _
theorem closeMatter (t : Nat) : Statement (.closeMatter t) := any _
theorem revokeMatter (t : Nat) : Statement (.revokeMatter t) := any _
theorem loadRingProfile (t : Nat) (data : Bytes) : Statement (.loadRingProfile t data) := any _
theorem loadPublicKey (t : Nat) (data : Bytes) : Statement (.loadPublicKey t data) := any _
theorem loadDictionary (t : Nat) (data : Bytes) : Statement (.loadDictionary t data) := any _
theorem pause (t : Nat) : Statement (.pause t) := any _
theorem pauseBoundaryReached (t : Nat) (q : BitVec 12) : Statement (.pauseBoundaryReached t q) := any _
theorem saveContext (t : Nat) : Statement (.saveContext t) := any _
theorem restoreContext (t : Nat) (data : Bytes) : Statement (.restoreContext t data) := any _
theorem armLaunch (t : Nat) : Statement (.armLaunch t) := any _
theorem launch (t : Nat) (n : BitVec 2) : Statement (.launch t n) := any _
theorem chorusConfig (t : Nat) : Statement (.chorusConfig t) := any _
theorem replayDigest (t : Nat) (mem : HostMem) : Statement (.replayDigest t mem) := any _
theorem pkJob (t : Nat) (desc operands : Bytes) : Statement (.pkJob t desc operands) := any _
theorem sign (t : Nat) : Statement (.sign t) := any _
theorem verify (t : Nat) : Statement (.verify t) := any _
theorem keypair (t : Nat) (entropy : Nat) : Statement (.keypair t entropy) := any _
theorem ecdh (t : Nat) : Statement (.ecdh t) := any _
theorem curve (t : Nat) : Statement (.curve t) := any _
theorem pkJobEnd (t : Nat) (runs : PkRuns) : Statement (.pkJobEnd t runs) := any _
theorem claim (t : Nat) : Statement (.claim t) := any _
theorem releaseClaim (t : Nat) : Statement (.releaseClaim t) := any _
theorem recorderClear (t : Nat) (token : Bytes) : Statement (.recorderClear t token) := any _
theorem recorderFlush (t : Nat) : Statement (.recorderFlush t) := any _
theorem regionOffline (t : Nat) : Statement (.regionOffline t) := any _
theorem regionOnline (t : Nat) (result : TestResult) : Statement (.regionOnline t result) := any _
theorem tileRetire (t : Nat) : Statement (.tileRetire t) := any _
theorem poolConfig (t : Nat) (data : Bytes) : Statement (.poolConfig t data) := any _
theorem runList (t : Nat) (q : BitVec 12) (list : Bytes) (mem : HostMem) : Statement (.runList t q list mem) := any _
theorem fence (t : Nat) (q : BitVec 12) : Statement (.fence t q) := any _
theorem nop (t : Nat) (q : BitVec 12) : Statement (.nop t q) := any _
theorem desc (t : Nat) (e : Nat) : Statement (.desc t e) := any _
theorem loadScb (t : Nat) (e : Nat) : Statement (.loadScb t e) := any _
theorem writeReg (t : Nat) (e : Nat) : Statement (.writeReg t e) := any _
theorem start (t : Nat) (e : Nat) : Statement (.start t e) := any _
theorem wait (t : Nat) (e : Nat) : Statement (.wait t e) := any _
theorem listEnd (t : Nat) (e : Nat) : Statement (.listEnd t e) := any _
theorem stageJobStart (t : Nat) (job : Nat) (mem : HostMem) : Statement (.stageJobStart t job mem) := any _
theorem jobEnd (t : Nat) (job : Nat) : Statement (.jobEnd t job) := any _
theorem sqTailDoorbell (t : Nat) (q : BitVec 12) (value : BitVec 32) : Statement (.sqTailDoorbell t q value) := any _
theorem refetch (t : Nat) (q : BitVec 12) (value : BitVec 32) : Statement (.refetch t q value) := any _
theorem cqHeadDoorbell (t : Nat) (q : BitVec 12) (value : BitVec 32) : Statement (.cqHeadDoorbell t q value) := any _
theorem entryFetch (t : Nat) (q : BitVec 12) (data : Bytes) : Statement (.entryFetch t q data) := any _
theorem completionWrite (t : Nat) (q : BitVec 12) : Statement (.completionWrite t q) := any _
theorem adminEnWrite (t : Nat) (value : BitVec 32) : Statement (.adminEnWrite t value) := any _
theorem seedCommit (t : Nat) (value : BitVec 32) : Statement (.seedCommit t value) := any _
theorem seedClear (t : Nat) (value : BitVec 32) : Statement (.seedClear t value) := any _
theorem resume (t : Nat) (value : BitVec 32) : Statement (.resume t value) := any _
theorem alloc (t : Nat) (value : BitVec 32) : Statement (.alloc t value) := any _
theorem share (t : Nat) (value : BitVec 32) : Statement (.share t value) := any _
theorem release (t : Nat) (value : BitVec 32) : Statement (.release t value) := any _
theorem free (t : Nat) (value : BitVec 32) : Statement (.free t value) := any _
theorem poolCellGrant (t : Nat) (req : WorkRequest) : Statement (.poolCellGrant t req) := any _
theorem retire (t : Nat) (value : BitVec 32) : Statement (.retire t value) := any _
theorem pcRetireDone (t : Nat) (pc : BitVec 9) (lost : List Nat) : Statement (.pcRetireDone t pc lost) := any _
theorem enclaveEccError (t : Nat) (pc : BitVec 9) (err : EccError) (cell : Nat) : Statement (.enclaveEccError t pc err cell) := any _
theorem keySlotClear (t : Nat) (value : BitVec 32) : Statement (.keySlotClear t value) := any _
theorem armRecorderClear (t : Nat) (value : BitVec 32) : Statement (.armRecorderClear t value) := any _
theorem armDebugUnlock (t : Nat) (value : BitVec 32) : Statement (.armDebugUnlock t value) := any _
theorem relock (t : Nat) (value : BitVec 32) : Statement (.relock t value) := any _
theorem ident (t : Nat) (value : BitVec 32) : Statement (.ident t value) := any _
theorem selftest (t : Nat) (value : BitVec 32) : Statement (.selftest t value) := any _
theorem stats (t : Nat) (value : BitVec 32) : Statement (.stats t value) := any _
theorem hostValuesCommit (t : Nat) (value : BitVec 32) : Statement (.hostValuesCommit t value) := any _
theorem flushAck (t : Nat) (value : BitVec 32) : Statement (.flushAck t value) := any _
theorem windowLoad (t : Nat) (value : BitVec 32) : Statement (.windowLoad t value) := any _
theorem rearm (t : Nat) (value : BitVec 32) : Statement (.rearm t value) := any _
theorem registerWrite (t : Nat) (offset : BitVec 19) (width : Nat) (value : BitVec 64) : Statement (.registerWrite t offset width value) := any _
theorem rcRead (t : Nat) (offset : BitVec 19) (width : Nat) : Statement (.rcRead t offset width) := any _
theorem lowHalfRead (t : Nat) (offset : BitVec 19) : Statement (.lowHalfRead t offset) := any _
theorem presenceAbsent (t : Nat) (slot : BitVec 3) : Statement (.presenceAbsent t slot) := any _
theorem presencePresent (t : Nat) (slot : BitVec 3) : Statement (.presencePresent t slot) := any _
theorem debounceWindowEnd (t : Nat) (slot : BitVec 3) : Statement (.debounceWindowEnd t slot) := any _
theorem erasureEnd (t : Nat) (result : ErasureResult) : Statement (.erasureEnd t result) := any _
theorem buttonChange (t : Nat) (b pressed : Bool) : Statement (.buttonChange t b pressed) := any _
theorem dualControlAct (t : Nat) : Statement (.dualControlAct t) := any _
theorem debugUnlockExpiry (t : Nat) : Statement (.debugUnlockExpiry t) := any _
theorem pwrFailAssert (t : Nat) : Statement (.pwrFailAssert t) := any _
theorem vWarnEntry (t : Nat) (rail : BitVec 2) : Statement (.vWarnEntry t rail) := any _
theorem vInhibitEntry (t : Nat) (rail : BitVec 2) : Statement (.vInhibitEntry t rail) := any _
theorem vInhibitExit (t : Nat) (rail : BitVec 2) : Statement (.vInhibitExit t rail) := any _
theorem reset (t : Nat) (source : ResetSource) : Statement (.reset t source) := any _
theorem resetRelease (t : Nat) : Statement (.resetRelease t) := any _
theorem startMoultDone (t : Nat) (facts : StartFacts) : Statement (.startMoultDone t facts) := any _
theorem kCtlDerived (t : Nat) (entropy : Bytes) : Statement (.kCtlDerived t entropy) := any _
theorem lockWaitExpiry (t : Nat) : Statement (.lockWaitExpiry t) := any _
theorem enclaveTestEnd (t : Nat) (failed : List Nat) : Statement (.enclaveTestEnd t failed) := any _
theorem regionSelftestEnd (t : Nat) (r : BitVec 3) (result : TestResult) : Statement (.regionSelftestEnd t r result) := any _
theorem dieNumberWord (t : Nat) (die : BitVec 32) : Statement (.dieNumberWord t die) := any _
theorem countWord (t : Nat) (count : BitVec 64) : Statement (.countWord t count) := any _
theorem timingLost (t : Nat) : Statement (.timingLost t) := any _
theorem timingRelock (t : Nat) (count : BitVec 64) : Statement (.timingRelock t count) := any _
theorem timerTick (t : Nat) (i : BitVec 4) : Statement (.timerTick t i) := any _
theorem frameClockTick (t : Nat) (clock : BitVec 3) (mem : HostMem) : Statement (.frameClockTick t clock mem) := any _
theorem liveTableRead (t : Nat) (job sample : Nat) (mem : HostMem) : Statement (.liveTableRead t job sample mem) := any _
theorem liveWindowEnd (t : Nat) (job sample : Nat) : Statement (.liveWindowEnd t job sample) := any _
theorem livePreempt (t : Nat) (job : Nat) : Statement (.livePreempt t job) := any _
theorem liveSliceOut (t : Nat) (job sample : Nat) : Statement (.liveSliceOut t job sample) := any _
theorem chunkRead (t : Nat) (job sample : Nat) (chunk : Bytes) : Statement (.chunkRead t job sample chunk) := any _
theorem sampleStart (t : Nat) (job : Nat) (chunk : Bytes) : Statement (.sampleStart t job chunk) := any _
theorem sampleRetire (t : Nat) (job : Nat) : Statement (.sampleRetire t job) := any _
theorem budgetWindowEnd (t : Nat) (job sample : Nat) : Statement (.budgetWindowEnd t job sample) := any _
theorem winDeadlineEnd (t : Nat) (job : Nat) : Statement (.winDeadlineEnd t job) := any _
theorem encodeSpawn (t : Nat) (job : Nat) : Statement (.encodeSpawn t job) := any _
theorem sealPass (t : Nat) (pass : SealStep) : Statement (.sealPass t pass) := any _
theorem ciphertextHeaderWrite (t : Nat) (region : BitVec 3) : Statement (.ciphertextHeaderWrite t region) := any _
theorem tadpoleLimit (t : Nat) (e sample : Nat) : Statement (.tadpoleLimit t e sample) := any _
theorem backlogResume (t : Nat) (unit_ : Nat) : Statement (.backlogResume t unit_) := any _
theorem sequencerWatchdogExpiry (t : Nat) (fault : TileFault) : Statement (.sequencerWatchdogExpiry t fault) := any _
theorem microcodeEccError (t : Nat) (fault : TileFault) : Statement (.microcodeEccError t fault) := any _
theorem sramError (t : Nat) (tile : BitVec 8) (err : SramError) (moultOk : Bool) : Statement (.sramError t tile err moultOk) := any _
theorem laneParityError (t : Nat) (tile : BitVec 8) (moultOk : Bool) : Statement (.laneParityError t tile moultOk) := any _
theorem generatorParityError (t : Nat) (fault : GenFault) : Statement (.generatorParityError t fault) := any _
theorem leapfrogDone (t : Nat) (r : BitVec 3) : Statement (.leapfrogDone t r) := any _
theorem linkCrcFail (t : Nat) (r : BitVec 3) (failure : LinkFailure) : Statement (.linkCrcFail t r failure) := any _
theorem auditPass (t : Nat) (r : BitVec 3) (result : AuditResult) : Statement (.auditPass t r result) := any _
theorem foldDone (t : Nat) (r : BitVec 3) : Statement (.foldDone t r) := any _
theorem spineUnitFault (t : Nat) : Statement (.spineUnitFault t) := any _
theorem stewardWatchdogExpiry (t : Nat) : Statement (.stewardWatchdogExpiry t) := any _
theorem stewardMemoryError (t : Nat) (rom : Bool) : Statement (.stewardMemoryError t rom) := any _
theorem stewardRestartEnd (t : Nat) : Statement (.stewardRestartEnd t) := any _
theorem loadWindowEnd (t : Nat) (busy : Nat) : Statement (.loadWindowEnd t busy) := any _
theorem statsSweep (t : Nat) : Statement (.statsSweep t) := any _
theorem scrubOverwrite (t : Nat) (cell : Nat) : Statement (.scrubOverwrite t cell) := any _
theorem patrolScrubRead (t : Nat) (cell : Nat) (corrected : Bool) : Statement (.patrolScrubRead t cell corrected) := any _
theorem stackTemperatureReport (t : Nat) (stack : BitVec 3) (hot : Bool) : Statement (.stackTemperatureReport t stack hot) := any _
theorem hello (t : Nat) (seq : Byte) (payload : Bytes) : Statement (.hello t seq payload) := any _
theorem offer (t : Nat) (seq : Byte) (payload : Bytes) : Statement (.offer t seq payload) := any _
theorem probeAck (t : Nat) (seq : Byte) (payload : Bytes) : Statement (.probeAck t seq payload) := any _
theorem counterAck (t : Nat) (seq : Byte) (payload : Bytes) : Statement (.counterAck t seq payload) := any _
theorem counterAckTimeout (t : Nat) : Statement (.counterAckTimeout t) := any _
theorem windowRead (t : Nat) (seq : Byte) (payload : Bytes) : Statement (.windowRead t seq payload) := any _
theorem ack (t : Nat) (seq : Byte) (payload : Bytes) : Statement (.ack t seq payload) := any _
theorem nak (t : Nat) (seq : Byte) (payload : Bytes) : Statement (.nak t seq payload) := any _
theorem custodyFrameCrcError (t : Nat) (type seq : Byte) : Statement (.custodyFrameCrcError t type seq) := any _
theorem frameResend (t : Nat) (seq : Byte) : Statement (.frameResend t seq) := any _
theorem chorusMessage (t : Nat) (lane : Bool) (frame : Bytes) : Statement (.chorusMessage t lane frame) := any _
theorem chorusMissingTimeout (t : Nat) (lane : Bool) : Statement (.chorusMissingTimeout t lane) := any _
theorem portErrorResponse (t : Nat) (txn : PortTxn) : Statement (.portErrorResponse t txn) := any _
theorem tapInstruction (t : Nat) (scan : TapScan) : Statement (.tapInstruction t scan) := any _
theorem flushEnd (t : Nat) : Statement (.flushEnd t) := any _
theorem frameLenExceeded (t : Nat) : Statement (.frameLenExceeded t) := any _
theorem dualControlWindowEnd (t : Nat) : Statement (.dualControlWindowEnd t) := any _
theorem vWarnExit (t : Nat) (rails : BitVec 4) : Statement (.vWarnExit t rails) := any _
theorem pwrFailDeassert (t : Nat) : Statement (.pwrFailDeassert t) := any _
theorem ceWindowEnd (t : Nat) : Statement (.ceWindowEnd t) := any _
theorem crcWindowEnd (t : Nat) (r : BitVec 3) : Statement (.crcWindowEnd t r) := any _

end Sys2Proof.Laws.NoWord
end

