-- ==== Sys2Proof/Laws/Regs.lean ====
section
/-!
SUPPORT. Where the register blocks stand, and what a read leaves alone.
-/

namespace Sys2Proof.Machine

/-- The words of a region's page. -/
theorem State.word_region (s : State) (r o : Nat) (hr : r < 8) (ho : o < 0x1000) :
    s.word (0x30000 + 0x1000 * r + o) = s.readRegion r o := by
  have h1 : (0x30000 + 0x1000 * r + o - 0x30000) / 0x1000 = r := by omega
  have h2 : (0x30000 + 0x1000 * r + o) % 0x1000 = o := by omega
  unfold State.word
  iterate 14 rw [if_neg (by omega)]
  rw [if_pos (by omega), h1, h2]

/-- The words of a tile's status block. -/
theorem State.word_tile (s : State) (i o : Nat) (hi : i < 256) (ho : o < 0x100) :
    s.word (0x40000 + 0x100 * i + o) = s.readTile i o := by
  have h1 : (0x40000 + 0x100 * i + o - 0x40000) / 0x100 = i := by omega
  have h2 : (0x40000 + 0x100 * i + o) % 0x100 = o := by omega
  unfold State.word
  iterate 16 rw [if_neg (by omega)]
  rw [if_pos (by omega), h1, h2]

/-- A read of a region's page clears that region's counters. -/
theorem State.clearOnRead_region (s : State) (r o : Nat) : r < 8 → o < 0x1000 →
    s.clearOnRead (0x30000 + 0x1000 * r + o) = s.modRegion r fun g =>
      match o with
      | 0x00C => { g with crc := g.crc.clear s.now, resends := g.resends.clear s.now }
      | 0x010 => { g with fixed := g.fixed.clear s.now }
      | 0x810 => { g with sealMismatch := g.sealMismatch.clear s.now, sealMarked := g.sealMarked.clear s.now,
                          sealDropped := g.sealDropped.clear s.now }
      | 0x814 => { g with sealKeyload := g.sealKeyload.clear s.now }
      | _ => g := by
  intro hr ho
  have h1 : (0x30000 + 0x1000 * r + o - 0x30000) / 0x1000 = r := by omega
  have h2 : (0x30000 + 0x1000 * r + o) % 0x1000 = o := by omega
  unfold State.clearOnRead
  rw [if_pos (by omega), h1, h2]
  try rfl

/-- A read of a tile's counters clears them. -/
theorem State.clearOnRead_tile (s : State) (i : Nat) (hi : i < 256) :
    s.clearOnRead (0x40000 + 0x100 * i + 4) = s.modTile i fun t =>
      { t with ce := t.ce.clear s.now, mismatch := t.mismatch.clear s.now, wd := t.wd.clear s.now,
               retry := t.retry.clear s.now } := by
  have h1 : (0x40000 + 0x100 * i + 4 - 0x40000) / 0x100 = i := by omega
  have h2 : (0x40000 + 0x100 * i + 4) % 0x100 = 4 := by omega
  unfold State.clearOnRead
  rw [if_neg (by omega), if_pos (by omega), if_pos h2, h1]

@[simp] theorem State.region_modRegion (s : State) (r : Nat) (f : Region → Region) :
    (s.modRegion r f).region r = f (s.region r) := by
  simp [State.region, State.modRegion]

@[simp] theorem State.tile_modTile (s : State) (i : Nat) (f : Tile → Tile) : (s.modTile i f).tile i = f (s.tile i) := by
  simp [State.tile, State.modTile]

/-! ### RC fields and the engine's sets of one tick (R15, R16) -/

/-- A set of the tick of a read is not seen by it. -/
theorem Rc.read_add_same (r : Rc) (w n now : Nat) : (r.add w n now).read now = r.read now := by
  unfold Rc.add Rc.read; simp only [if_true]

/-- A later read sees the count. -/
theorem Rc.read_add_later (r : Rc) (w n : Nat) {now t : Nat} (h : now ≠ t) : (r.add w n now).read t = satAdd w r.val n := by
  unfold Rc.add Rc.read; rw [if_neg h]

/-- A read leaves a field that was set in its own tick. -/
theorem Rc.clear_add_same (r : Rc) (w n now : Nat) : (r.add w n now).clear now = r.add w n now := by
  unfold Rc.clear; exact if_pos rfl

/-- A read clears a field that was not. -/
theorem Rc.clear_of_ne {r : Rc} {now : Nat} (h : r.tick ≠ now) : r.clear now = {} := by
  unfold Rc.clear; rw [if_neg h]

/-- A field that was cleared reads 0. -/
theorem Rc.read_empty (now : Nat) : ({} : Rc).read now = 0 := by
  unfold Rc.read; split <;> rfl

/-- A read sends nothing but its answer. -/
@[simp] theorem State.clearOnRead_outputs (s : State) (off : Nat) : (s.clearOnRead off).outputs = s.outputs := by
  unfold State.clearOnRead
  split
  · simp
  · split
    · split <;> simp
    · split <;> first | rfl | simp | (split <;> rfl)

end Sys2Proof.Machine
end

