-- ==== Sys2Proof/Laws/Recorder.lean ====
section
/-!
SUPPORT. The event recorder: what a record does to its channel and to the others, room in a partition, flushes and clears.
-/

namespace Sys2Proof.Machine

theorem leBytes_length (n v : Nat) : (leBytes n v).length = n := by
  induction n generalizing v with
  | zero => rfl
  | succ n ih => simp [leBytes, ih]

theorem chan_modChan_same (s : State) (c : Nat) (f : Channel → Channel) : (s.modChan c f).chan c = f (s.chan c) := by
  unfold State.modChan State.chan; simp

theorem chan_modChan_other (s : State) (c k : Nat) (f : Channel → Channel) (h : k ≠ c) : (s.modChan c f).chan k = s.chan k := by
  unfold State.modChan State.chan; simp [Tab.getD_put_other _ _ _ _ _ h]

theorem closeTaken_facts (now : Nat) (ch : Channel) : (closeTaken now ch).next = ch.next ∧ (closeTaken now ch).gap = ch.gap ∧ (closeTaken now ch).lost = ch.lost ∧
   (closeTaken now ch).records.map (fun r => { r with closed := false }) = ch.records.map (fun r => { r with closed := false }) ∧
   ((∀ r, ch.records.getLast? = some r → now ≤ r.first) → (closeTaken now ch).records.getLast? = ch.records.getLast?) := by
  refine ⟨rfl, rfl, rfl, ?_, ?_⟩
  · simp only [closeTaken, List.map_map]; congr 1; funext r; simp only [Function.comp]; split <;> rfl
  · intro h
    simp only [closeTaken, List.getLast?_map]
    cases hl : ch.records.getLast? with
    | none => rfl
    | some r => simp [Nat.not_lt.2 (h r hl)]

/-- Two channels agree but for what their records allow to coalesce (R474); the last record agrees whole while it was taken
no earlier than `now`. -/

def chanAgree (now : Nat) (a b : Channel) : Prop := a.next = b.next ∧ a.gap = b.gap ∧ a.lost = b.lost ∧ a.gen = b.gen ∧
   a.records.map (fun r => { r with closed := false }) = b.records.map (fun r => { r with closed := false }) ∧
   ((∀ r, b.records.getLast? = some r → now ≤ r.first) → a.records.getLast? = b.records.getLast?)

theorem chanAgree_rfl (n : Nat) (a : Channel) : chanAgree n a a := ⟨rfl, rfl, rfl, rfl, rfl, fun _ => rfl⟩

theorem chanAgree_trans {n : Nat} {a b c : Channel} (h : chanAgree n a b) (k : chanAgree n b c) : chanAgree n a c := by
  obtain ⟨h1, h2, h3, h3', h4, h5⟩ := h; obtain ⟨k1, k2, k3, k3', k4, k5⟩ := k
  refine ⟨h1.trans k1, h2.trans k2, h3.trans k3, h3'.trans k3', h4.trans k4, fun hh => ?_⟩
  have := k5 hh
  rw [h5 (by intro r hr; rw [this] at hr; exact hh r hr), this]

theorem chan_modErw (s : State) (f : Erw → Erw) (h : (f s.erw).chans = s.erw.chans) (k : Nat) : (s.modErw f).chan k = s.chan k := by
  unfold State.chan; rw [State.modErw_erw, h]

theorem issueFlush_chan (s : State) (tr k : Nat) : chanAgree s.now ((s.issueFlush tr).chan k) (s.chan k) := by
  unfold State.issueFlush
  split
  · rw [chan_modErw _ _ (by rfl)]; exact chanAgree_rfl _ _
  · split
    · rw [chan_modErw _ _ (by rfl)]; exact chanAgree_rfl _ _
    · have key : ∀ y : State, chanAgree s.now (y.chan k) (s.chan k) → ∀ f : Erw → Erw, (f y.erw).chans = y.erw.chans → ∀ (p : Prop) [Decidable p] (g : Pwr → Pwr), chanAgree s.now ((if p then (y.modErw f).modPwr g else y.modErw f).chan k) (s.chan k) := by
        intro y hy f hf p _ g
        split
        · show chanAgree _ ((y.modErw f).chan k) _
          rw [chan_modErw _ _ hf]; exact hy
        · rw [chan_modErw _ _ hf]; exact hy
      refine key _ ?_ _ rfl _ _
      have step : ∀ (y : State) (c : Nat), chanAgree s.now ((y.modChan c (closeTaken s.now)).chan k) (y.chan k) := by
        intro y c
        by_cases h : k = c
        · subst h; rw [chan_modChan_same]; obtain ⟨a, b, c, d, e⟩ := closeTaken_facts s.now (y.chan k); exact ⟨a, b, c, rfl, d, e⟩
        · rw [chan_modChan_other _ _ _ _ h]; exact chanAgree_rfl _ _
      simp only [clearable, List.foldl_cons, List.foldl_nil]
      exact chanAgree_trans (step _ 2) (chanAgree_trans (step _ 1) (step _ 0))

theorem triggerFlush_chan (s : State) (tr k : Nat) : chanAgree s.now ((s.triggerFlush tr).chan k) (s.chan k) := by
  unfold State.triggerFlush
  split
  · rw [chan_modErw _ _ (by rfl)]; exact chanAgree_rfl _ _
  · exact issueFlush_chan s tr k

theorem triggerFlush_now (s : State) (tr : Nat) : (s.triggerFlush tr).now = s.now := by
  obtain ⟨e, a, d, h⟩ := s.triggerFlush_eq tr; rw [h]

theorem recordTriggers_chan (s : State) (c sev : Nat) (b : Bool) (k : Nat) : chanAgree s.now ((s.recordTriggers c sev b).chan k) (s.chan k) := by
  unfold State.recordTriggers
  have one : ∀ (p : Prop) [Decidable p], chanAgree s.now ((if p then (s.modErw fun e => { e with lastFault := some s.now }).triggerFlush 1 else s).chan k) (s.chan k) ∧ (if p then (s.modErw fun e => { e with lastFault := some s.now }).triggerFlush 1 else s).now = s.now := by
    intro p _
    split
    · refine ⟨?_, triggerFlush_now _ _⟩
      have := triggerFlush_chan (s.modErw fun e => { e with lastFault := some s.now }) 1 k
      rw [chan_modErw _ _ (by rfl)] at this; exact this
    · exact ⟨chanAgree_rfl _ _, rfl⟩
  generalize hy : (if c = 1 ∧ 3 ≤ sev ∧ (match s.erw.lastFault with | none => true | some t => decide (t + 10 ^ 8 ≤ s.now)) = true then (s.modErw fun e => { e with lastFault := some s.now }).triggerFlush 1 else s) = y
  have := one (c = 1 ∧ 3 ≤ sev ∧ (match s.erw.lastFault with | none => true | some t => decide (t + 10 ^ 8 ≤ s.now)) = true)
  rw [hy] at this
  simp only
  split
  · have h3 := triggerFlush_chan y 3 k
    rw [this.2] at h3
    exact chanAgree_trans h3 this.1
  · exact this.1

theorem record_chan (s : State) (c code sev : Nat) (p : Bytes) (k : Nat) : chanAgree s.now ((s.record c code sev p).chan k) ((s.putRecord c code sev p).chan k) := by
  have hn : (s.putRecord c code sev p).now = s.now := by obtain ⟨e, h⟩ := s.putRecord_eq c code sev p; rw [h]
  unfold State.record
  simp only
  split
  · exact chanAgree_rfl _ _
  · rw [← hn]; exact recordTriggers_chan _ _ _ _ _

theorem putRecord_other (s : State) (c code sev : Nat) (p : Bytes) (k : Nat) (h : k ≠ c) : (s.putRecord c code sev p).chan k = s.chan k := by
  unfold State.putRecord
  simp only
  split
  · exact chan_modChan_other _ _ _ _ h
  · split <;> split <;> (try rw [chan_modErw _ _ (by rfl)]) <;> (try rw [chan_modErw _ _ (by rfl)]) <;> exact chan_modChan_other _ _ _ _ h

theorem putRecord_new (s : State) (c code sev : Nat) (p : Bytes) (h : coalesces s.erw.window.toNat s.now code (padPayload p) (s.chan c).records.getLast? = false) :
    let m := makeRoom s.now (partition c) (32 + (padPayload p).length) ((s.chan c).records.length + 1) (s.chan c) false
    (s.putRecord c code sev p).chan c = { m.1 with records := m.1.records ++ [{ code := code, severity := sev, payload := padPayload p, gen := m.1.gen, gap := m.1.gap, pcc := s.pccNow, optime := s.optime, last := s.optime, seq := m.1.next, first := s.now }], next := m.1.next + 1, gap := false } := by
  intro m
  unfold State.putRecord
  simp only [h, Bool.false_eq_true, if_false]
  split <;> split <;> (try rw [chan_modErw _ _ (by rfl)]) <;> (try rw [chan_modErw _ _ (by rfl)]) <;> exact chan_modChan_same _ _ _

theorem putRecord_old (s : State) (c code sev : Nat) (p : Bytes) (h : coalesces s.erw.window.toNat s.now code (padPayload p) (s.chan c).records.getLast? = true) :
    ((s.putRecord c code sev p).chan c).next = (s.chan c).next ∧ ((s.putRecord c code sev p).chan c).records = onLast (fun r => { r with rep := satAdd 16 r.rep 1, last := s.optime }) (s.chan c).records := by
  unfold State.putRecord
  simp only [h, if_true]
  rw [chan_modChan_same]
  refine ⟨?_, ?_⟩ <;> (split <;> (try split) <;> rfl)

theorem onLast_length (f : Record → Record) (l : List Record) : (onLast f l).length = l.length := by
  induction l with
  | nil => rfl
  | cons a l ih => cases l with
    | nil => rfl
    | cons b l => simp only [onLast, List.length_cons]; rw [ih]; rfl

theorem onLast_last (f : Record → Record) (l : List Record) : (onLast f l).getLast? = l.getLast?.map f := by
  induction l with
  | nil => rfl
  | cons a l ih => cases l with
    | nil => rfl
    | cons b l =>
      have hne : onLast f (b :: l) ≠ [] := by intro h; have := onLast_length f (b :: l); rw [h] at this; cases this
      obtain ⟨x, xs, hx⟩ := List.exists_cons_of_ne_nil hne
      show (a :: onLast f (b :: l)).getLast? = _
      rw [hx, List.getLast?_cons_cons, ← hx, ih, List.getLast?_cons_cons]

theorem onLast_bytes (f : Record → Record) (hf : ∀ r, (f r).size = r.size) (l : List Record) : bytesOf (onLast f l) = bytesOf l := by
  induction l with
  | nil => rfl
  | cons a l ih => cases l with
    | nil => simp [onLast, bytesOf, hf]
    | cons b l => simp only [onLast, bytesOf, List.map_cons, List.sum_cons] at *; rw [ih]

theorem chanAgree_len {n : Nat} {a b : Channel} (h : chanAgree n a b) : a.records.length = b.records.length := by
  have := congrArg List.length h.2.2.2.2.1; simpa using this

theorem chanAgree_bytes {n : Nat} {a b : Channel} (h : chanAgree n a b) : bytesOf a.records = bytesOf b.records := by
  have := congrArg bytesOf h.2.2.2.2.1
  unfold bytesOf at *
  rw [List.map_map, List.map_map] at this
  exact this

theorem chanAgree_map {n : Nat} {α : Type} (g : Record → α) (hg : ∀ r : Record, g { r with closed := false } = g r) {a b : Channel} (h : chanAgree n a b) : a.records.map g = b.records.map g := by
  have := congrArg (List.map g) h.2.2.2.2.1
  rw [List.map_map, List.map_map] at this
  simpa [Function.comp_def, hg] using this

theorem dropFirstFree_some (l : List Record) (r : Record) (rest : List Record) (h : dropFirstFree l = some (r, rest)) : rest.length + 1 = l.length := by
  induction l generalizing r rest with
  | nil => cases h
  | cons a l ih =>
    unfold dropFirstFree at h
    split at h
    · cases h; rfl
    · split at h
      · cases h
      · next x rest' hx => cases h; have := ih _ _ hx; simp; omega

theorem makeRoom_fits (now cap need : Nat) (h : need ≤ cap) (f : Nat) (ch : Channel) (b : Bool) (hf : ch.records.length < f) : bytesOf (makeRoom now cap need f ch b).1.records + need ≤ cap := by
  induction f generalizing ch b with
  | zero => cases hf
  | succ f ih =>
    unfold makeRoom
    split
    · assumption
    · split
      · next r rest hr => apply ih; have := dropFirstFree_some _ _ _ hr; show rest.length < f; omega
      · split
        · next hn => rw [hn]; simpa [bytesOf] using h
        · next r rest hr => apply ih; rw [hr] at hf; simpa using hf

theorem issue_fresh (u : State) (tr : Nat) (h1 : u.pwr.inhibitRail = 0) (h3 : flushMin ≤ u.erw.size.toNat) (ht : tr ≠ 2) :
    ∃ f : Flush, (u.issueFlush tr).erw.flush = some f ∧ f.trigger = tr ∧
      f.number = u.erw.number ∧ f.taken = clearable.flatMap (fun c => takenOf c (u.chan c) u.now) ∧
      (u.issueFlush tr).erw.number = u.erw.number + 1 ∧ (u.issueFlush tr).qg = u.qg ∧ (∀ k, 2 < k → (u.issueFlush tr).chan k = u.chan k) := by
  unfold State.issueFlush
  have h3' : ¬ u.erw.size.toNat < flushMin := by omega
  simp only [h1, bne_self_eq_false, Bool.false_eq_true, if_false, h3', ht]
  refine ⟨_, rfl, rfl, rfl, rfl, rfl, rfl, ?_⟩
  intro k hk
  rw [chan_modErw _ _ (by rfl)]
  simp only [clearable, List.foldl_cons, List.foldl_nil]
  rw [chan_modChan_other _ _ _ _ (by omega), chan_modChan_other _ _ _ _ (by omega), chan_modChan_other _ _ _ _ (by omega)]

theorem freeTaken_eq (s : State) (f : Flush) : ∃ c, s.freeTaken f = { s with erw := { s.erw with chans := c } } := by
  unfold State.freeTaken
  simp only [clearable, List.foldl_cons, List.foldl_nil]
  exact ⟨_, rfl⟩

theorem clearStatus_le (u : State) (b token : Bytes) (h : u.clearStatus b token = 0) : entLen b % 8 ≤ 2 := by
  unfold State.clearStatus at h
  have : fieldOf (entLen b) 0 3 = entLen b % 8 := by rw [fieldOf_eq]; simp
  rw [this] at h
  simp only at h
  split at h
  · cases h
  · split at h
    · cases h
    · omega

theorem record_code (s : State) (c code sev : Nat) (p : Bytes) (h : (s.chan c).records = []) (h1 : 32 + (padPayload p).length ≤ partition c) :
    ((s.record c code sev p).chan c).records.map Record.code = [code] ∧ ((s.record c code sev p).chan c).gen = (s.chan c).gen := by
  have he := record_chan s c code sev p c
  have hp := putRecord_new s c code sev p (by rw [h]; rfl)
  have hm : makeRoom s.now (partition c) (32 + (padPayload p).length) ((s.chan c).records.length + 1) (s.chan c) false = (s.chan c, false) := by
    unfold makeRoom; rw [if_pos]; rw [h]; simpa [bytesOf] using h1
  simp only [hm] at hp
  rw [hp] at he
  refine ⟨?_, he.2.2.2.1⟩
  have := chanAgree_map Record.code (fun _ => rfl) he
  rw [this, h]; rfl

theorem clearChannel_facts (s : State) (c a : Nat) (hc : c ≤ 2) : ((s.clearChannel c a).chan c).gen = ((s.chan c).gen + 1) % 256 ∧ ((s.clearChannel c a).chan c).records.map Record.code = [1] ∧
    (s.clearChannel c a).qg = s.qg ∧ (s.clearChannel c a).cus = s.cus := by
  unfold State.clearChannel
  simp only
  have hn : (s.modChan c Channel.cleared).now = s.now := rfl
  rw [hn]
  generalize hy : ((s.modChan c Channel.cleared).modErw fun e => { e with evt := e.evt.set 5 s.now }) = y
  have y1 : y.chan c = (s.chan c).cleared := by rw [← hy, chan_modErw _ _ (by rfl), chan_modChan_same]
  have yq : y.qg = s.qg := by rw [← hy]; rfl
  have yc : y.cus = s.cus := by rw [← hy]; rfl
  generalize hp : (leBytes 4 (s.chan c).records.length ++ leBytes 8 ((s.chan c).highest c) ++ leBytes 1 a) = p
  have hl : 32 + (padPayload p).length ≤ partition c := by
    have : p.length = 13 := by rw [← hp]; simp [leBytes_length]
    have h2 : (padPayload p).length = 16 := by unfold padPayload padTo; simp [this, zeroBytes]
    rw [h2]; unfold partition; split <;> decide
  have h1 := record_code y c 1 1 p (by rw [y1]; rfl) hl
  generalize hz : y.record c 1 1 p = z at h1
  have zq : z.qg = s.qg := by rw [← hz, State.record_qg, yq]
  have zc : z.cus = s.cus := by rw [← hz, State.record_cus, yc]
  have he := record_chan z 4 0x0504 1 (leBytes 1 c ++ leBytes 4 (s.chan c).records.length ++ leBytes 1 a) c
  rw [putRecord_other _ _ _ _ _ _ (by omega)] at he
  refine ⟨by rw [he.2.2.2.1, h1.2, y1]; rfl, by rw [chanAgree_map Record.code (fun _ => rfl) he]; exact h1.1, by rw [State.record_qg, zq], by rw [State.record_cus, zc]⟩

theorem record_tokens (s : State) (c code sev : Nat) (p : Bytes) : (s.record c code sev p).erw.tokens = s.erw.tokens := by
  have hi : ∀ (s : State) tr, (s.issueFlush tr).erw.tokens = s.erw.tokens := by
    intro s tr; unfold State.issueFlush; split
    · rfl
    · split
      · rfl
      · split <;> rfl
  have ht : ∀ (s : State) tr, (s.triggerFlush tr).erw.tokens = s.erw.tokens := by
    intro s tr; unfold State.triggerFlush; split
    · rfl
    · exact hi _ _
  have hc : ∀ (p : Prop) [Decidable p] (a b : State) (x : List Bytes), a.erw.tokens = x → b.erw.tokens = x →
      (if p then a else b).erw.tokens = x := by
    intro p _ a b x ha hb; split <;> assumption
  have hr : ∀ (s : State) c v b, (s.recordTriggers c v b).erw.tokens = s.erw.tokens := by
    intro s c v b; unfold State.recordTriggers; simp only
    refine hc _ _ _ _ ?_ ?_
    · rw [ht]; exact hc _ _ _ _ (by rw [ht]; rfl) rfl
    · exact hc _ _ _ _ (by rw [ht]; rfl) rfl
  have hp : (s.putRecord c code sev p).erw.tokens = s.erw.tokens := by
    unfold State.putRecord; simp only
    split
    · rfl
    · split <;> split <;> rfl
  unfold State.record; simp only
  split
  · exact hp
  · rw [hr, hp]

end Sys2Proof.Machine
end

