-- ==== Sys2Proof/WellFormed.lean ====
section
/-!
DEFINITION. Which commands the outside can send: the shape of operands that the types of Syntax.lean do not
fix. A meaning does not rely on it.
-/

namespace Sys2Proof

/-- R474 and R75: a custody frame's payload that the receiver takes is at most 1,024 bytes. -/
def framePayloadOk (p : Bytes) : Bool := decide (p.length ≤ 1024)

/-- R57, R75: a delivered key is an encoded P-384 point of 97 bytes. -/
def keysOk (ks : List (Nat × Bytes)) : Bool := ks.all fun k => k.2.length == 97

/-- R57: what the root of trust delivers: grade 7 or 9, stepping letter A to Z, digit 0 to 9, keys of 97 bytes. -/
def StartFacts.ok (f : StartFacts) : Bool :=
  (f.cert.grade == 7 || f.cert.grade == 9) && decide (0x41 ≤ f.cert.stepLetter) &&
    decide (f.cert.stepLetter ≤ 0x5A) && decide (f.cert.stepDigit ≤ 9) &&
    keysOk f.imageKeys && keysOk f.manifestKeys && keysOk f.tokenKeys

/-- A command that a sender can send. -/
def Instr.wf : Instr → Bool
  | .entryFetch _ _ data => data.length == 64
  | .chorusMessage _ _ frame => frame.length == 80
  | .enclaveTestEnd _ failed => failed.all fun p => decide (p < 384)
  | .pcRetireDone _ pc _ => decide (pc.toNat < 384)
  | .enclaveEccError _ pc _ cell => decide (pc.toNat < 384) && cell % 384 == pc.toNat && decide (cell < 7324032)
  | .loadWindowEnd _ busy => decide (busy ≤ 1000)
  | .kCtlDerived _ entropy => entropy.length == 48
  | .pkJobEnd _ runs => decide (runs.failed.toNat ≤ 2)
  | .startMoultDone _ facts => facts.ok
  | .stackTemperatureReport _ stack _ => decide (stack.toNat < 6)
  | .scrubOverwrite _ cell => decide (cell < 7324032)
  | .patrolScrubRead _ cell _ => decide (cell < 7324032)
  | .lowHalfRead _ off => off.toNat % 8 == 0
  | .linkCrcFail _ _ failure => decide (1 ≤ failure.failures) && decide (failure.failures ≤ 4)
  | .hello _ _ p | .offer _ _ p | .probeAck _ _ p | .counterAck _ _ p | .windowRead _ _ p
  | .ack _ _ p | .nak _ _ p => framePayloadOk p
  | _ => true

end Sys2Proof
end

