-- ==== Sys2Proof/Tests/Slice0.lean ====
section
/-!
SUPPORT. Tests: for each statement, states and operands that meet the hypotheses of each of its clauses together; an
ill-formed command that each check of WellFormed refuses; and the effect of single commands on small states.
-/

namespace Sys2Proof.Tests

set_option maxRecDepth 100000
set_option linter.unusedVariables false
set_option Elab.async false

open Sys2Proof Sys2Proof.Machine

/-! ### Small states -/

/-- A work-queue or admin entry, from its fields. -/
def entry (op : Nat) (flags cid matter addr len step base count budget : Nat := 0) : Bytes :=
  leBytes 1 op ++ leBytes 1 flags ++ leBytes 2 cid ++ leBytes 4 matter ++ leBytes 8 addr ++ leBytes 8 len ++
    leBytes 8 step ++ leBytes 8 base ++ leBytes 4 count ++ leBytes 4 budget ++ zeroBytes 16

/-- The engine in phase READY, its Steward running, with nothing loaded. -/
def ready : State :=
  { State.reset with pwr := { phase := .ready }, stw := { running := true }, qg := { adminEn := true } }

/-- A state with one work queue. -/
def withQ (s : State) (q : Nat) (x : Queue) : State := { s with qg := { s.qg with queues := [(q, x)] } }

/-- A state with an admin entry in front. -/
def withAdmin (s : State) (b : Bytes) : State := { s with qg := { s.qg with todo := [some b] } }

/-- A state in which an admin entry runs. -/
def withRun (s : State) (r : AdminRun) : State := { s with qg := { s.qg with run := some r } }

/-- A state in which matter label 3 is open. -/
def opened (s : State) (gen : Nat := 0) : State :=
  { s with cus := { s.cus with labels := [(3, { state := .opened, gen := gen })] } }

/-- An enabled queue of label 3. -/
def queue3 : Queue := { state := .enabled, label := 3, weight := 1, logSize := 4 }

/-- A fence entry of queue 3's matter, and an entry taken before. -/
def taken1 : Taken := { serial := 1, bytes := entry 0x83, head := 1 }

/-- A completion. -/
def compl1 : Compl := { cid := 1, status := 0, opaqueLo := 0, noIrq := false }

/-- An engine in which queue 5 belongs to open label 3 and holds a cached entry. -/
def cached (b : Bytes) : State := withQ (opened ready) 5 { queue3 with sqTail := 1, cache := [{ entry := some b }] }

/-- A halted engine. -/
def halted : State := { ready with faults := { halt := true } }

/-- A signed context record, of the empty certificate and scalar 1, for a queue of label 3. -/
@[irreducible] def contextRecord : Bytes :=
  let body := padTo 896 (asciiBytes "HYNUSCTS" ++ leBytes 2 1 ++ zeroBytes 2 ++ leBytes 4 1024 ++ zeroBytes 752 ++
    zeroBytes 2 ++ encodePoint curveP384 curveP384.gen)
  body ++
    beBytes 48 0xa17fa53475268a65aeeceeca2b4b795ce213540a3ce8ffec5350cdc6cbe63aa1738a444eb74039afe82640c0e7d4e3cd ++
    beBytes 48 0x5beedf926cc5c13fe69bf2abd9e29c4f2d98ecffceea491ba6343a7f21676c1042ed327eba8e84f58115f38861e091a7 ++
        zeroBytes 32

/-- A queue paused at a boundary. -/
def paused : State := withQ (opened ready) 5 { queue3 with paused := true }

/-- An engine in which the lanes of a Chorus pair belong to queue 5 and entry 1 runs. -/
def chorus5 (x : Chorus) (r : Run) : State :=
  { withQ (opened ready) 5 queue3 with det := { lanes := [(1, { x with queue := 5 })] }, runs := [(1, r)] }

/-- The run of an entry of queue 5. -/
def run5 : Run := { queue := 5, label := 3, gen := 0, count := 1 }

/-- A Chorus point of entry 1. -/
def point1 : ChorusPoint := { step := 0, index := 0, stage := 1, digest := [], serial := 1 }

/-- A claim of one resource. -/
def claimed (s : State) (kind index holder : Nat) (arg : Nat := 0) : State :=
  { s with sil := { s.sil with claims := [(claimKey kind index, { holder := holder, arg := arg, tick := 0 })] } }

/-- A frame of a Chorus pair from die 0, with its CRC. -/
@[irreducible] def chorusFrame : Bytes :=
  let f := zeroBytes 72
  f ++ leBytes 4 (crc32With 0xedb88320 f) ++ zeroBytes 4

/-- A ledger record of an entry of one sample whose list stands at address 64 and starts HASH. -/
def ledger1 : Ledger :=
  { entry := entry 0x80 (addr := 64) (len := 16) (count := 1), prog := [], seeds := sha256 (zeroBytes 512), dicts := [],
    tiles := [], ndc := 0 }

/-- Host memory with a list of START and END at address 64. -/
def list64 : HostMem := [(64, [4, 1, 0, 0, 0, 0, 0, 0, 7, 0, 0, 0, 0, 0, 0, 0])]

/-- The public key of scalar 1, under which the records of these tests are signed. -/
@[irreducible] def key1 : Bytes := encodePoint curveP384 curveP384.gen

/-- What answers an Except that is known to answer. -/
def getOk {ε α : Type} (d : α) : Except ε α → α
  | .ok x => x
  | .error _ => d

def isOk {ε α : Type} : Except ε α → Bool
  | .ok _ => true
  | .error _ => false

/-- The smallest structure image: no work, the spares alone, and no routes, microcode or claims. -/
@[irreducible] def image : Bytes :=
  let dir := fun (i off len : Nat) => leBytes 8 i ++ leBytes 4 off ++ leBytes 4 len
  let body := asciiBytes "HYNUSIMG" ++ leBytes 2 1 ++ leBytes 2 256 ++ leBytes 4 1728 ++ leBytes 4 1 ++ zeroBytes 44 ++
    dir 1 256 64 ++ dir 2 320 1152 ++ dir 3 1472 0 ++ dir 4 1472 0 ++ dir 5 1472 0 ++ dir 6 1472 128 ++
    dir 7 1600 128 ++ zeroBytes 80 ++
    [7, 0x41, 0, 0] ++ zeroBytes 60 ++
    (List.range 144).flatMap (fun i => [if i % 9 = 8 then 0x0F else 0, 0, 0xFF, 0xFF, 0, 0, 0, 0]) ++
    zeroBytes 64 ++ [13, 1] ++ zeroBytes 62
  body ++
    beBytes 48 0x3e6556d40a09e41dc7d661f34885d333944e2cd64e71bab5b37232837dab10201e8f4b11f0565a14b230f43bdb21bc27 ++
    beBytes 48 0x77357caa75e9697ef1c3025b70c5c70e424412a44182080cfb7bf6c8fdac952afaa8c93cb70ef89821e9993d6208c928 ++
        zeroBytes 32

/-- A die whose grade certificate was read, every region of which is out of service. -/
def graded : State :=
  { ready with
    regions := (List.range 8).map fun r => (r, { test := .outOfService, state := .out }),
    sil := { certOk := true, grade := 7, stepLetter := 0x41, imageKeys := [(1, key1)], manifestKeys := [(1, key1)] } }

/-- A microcode record of role 1, of 64 bytes. -/
@[irreducible] def microcode : Bytes :=
  let body := asciiBytes "HYNUSMCR" ++ leBytes 1 1 ++ leBytes 3 0 ++ leBytes 4 64 ++ leBytes 4 1 ++ zeroBytes 12 ++
    beBytes 48 0x2de3f56f2caa352b4883dc506539c2639114129de6073c12b803881d84f447441de2aec149daebe3bb85f57bfbf4fe54 ++
    zeroBytes 112
  body ++
    beBytes 48 0xd12a2da88a41e53f203dd0a09df72618a04b403470f95cb0ae1084abc40293fc2870d5c25bab08476260ccaec38175aa ++
    beBytes 48 0x7255ae15ed0489032e1206c0647520b8500d34fd7994e8f1fa4f897dbdc3ce3a08f2a23454926f836a913111e3bb7c12 ++
        zeroBytes 32

/-- A manifest of matter 1 for the ring profile of zero digest. -/
@[irreducible] def manifest : Bytes :=
  let body := asciiBytes "HYNUSMAT" ++ leBytes 4 1 ++ leBytes 4 1 ++ leBytes 8 1 ++ zeroBytes 104
  body ++
    beBytes 48 0xa5079d60523a35874d831f53f0049f39456a19364f30e557e2cec79588f77755bd20d5811b2e8612a86c94426954b37c ++
    beBytes 48 0x92cc88487a56e685404a7c8bc489d1cf6fadb25784c39e4940c49f76563b3709780ec94c53b5d55835a4961d29c8fce0 ++
        zeroBytes 32

/-- An offer of matter 1 from Lilypad 2, wrapped for the session key of scalar 1. -/
@[irreducible] def offer : Bytes :=
  leBytes 1 2 ++ leBytes 8 9 ++ leBytes 8 1 ++ leBytes 4 0 ++ leBytes 8 5 ++ key1 ++ zeroBytes 12 ++
    beBytes 32 0xd594873200ac89635871f9c89fd4b7f53831dfba53943bae315f7a1d146cae99 ++
    beBytes 32 0x83e5b3a88fb299e1e9d9abf987c74bcb3a9d963bb036b3d036156a17fb9f2f2c

/-- A ring profile of one coefficient and one limb. -/
def profile1 : Profile :=
  { record := [], digest := zeroBytes 48, scheme := 0, logN := 0, limbs := 1, outCoeff := false, t := 300, omega := 0,
    scaleExp := 0, coeffLog := 0, q := [5], psi := [], cdt := [], delta := [] }

/-- An engine that the offer of matter 1 has reached, with a session key and a ring profile. -/
def offered : State :=
  { graded with
    profiles := [(0, profile1)],
    cus := { present := 4, offers := [{ payload := offer }], sessionD := 1, sessionPub := key1, sessionOk := true } }

/-- A public key for that profile, of one coefficient. -/
@[irreducible] def publicKey : Bytes :=
  asciiBytes "HYNUSPUB" ++ leBytes 2 1 ++ leBytes 1 0 ++ leBytes 1 1 ++ zeroBytes 4 ++ zeroBytes 48 ++ leBytes 8 1
      ++ leBytes 8 2

/-- A dictionary of the one entry "a". -/
@[irreducible] def dictionary : Bytes :=
  asciiBytes "HYNUSDCT" ++ leBytes 2 1 ++ leBytes 2 0 ++ leBytes 4 1 ++ leBytes 4 1 ++ zeroBytes 44 ++
    leBytes 4 0 ++ leBytes 1 1 ++ zeroBytes 3 ++ asciiBytes "a" ++ zeroBytes 7

/-- An engine in which label 3, of the matter whose key that is, is open, and enclave cells are free. -/
def loading : State :=
  { offered with
    cus := { offered.cus with labels := [(3, { state := .opened, fingerprint := sha384 publicKey })] },
    emc := { inService := 384, ctlKeyOk := true }, pool := { encKnown := true } }

/-- A pool record that sets the region marks. -/
def poolRecord : Bytes :=
  asciiBytes "HYNUSPCF" ++ leBytes 2 1 ++ leBytes 2 2 ++ zeroBytes 16 ++ leBytes 2 4095 ++ leBytes 2 4096 ++
      zeroBytes 224

/-- An engine whose PROBE waits for its answer. -/
def awaiting : State := { ready with cus := { awaiting := [{ type := 6, seq := 4, payload := [] }] } }

/-- A record of code 2, and an engine that holds it. -/
def record1 : Record := { code := 2, severity := 3, payload := zeroBytes 8 }
def withChan (r : Record) : State := { ready with erw := { chans := [(1, { records := [r] })] } }

/-- A running flush that took nothing. -/
def flush1 : Flush :=
  { trigger := 1, start := 0, number := 0, taken := [], optime := 0, pcc := 0, opsNext := 0, custodyNext := 0,
    auditNext := 0, addr := 0, buffer := 0 }

/-- Every region passed its self-test and is in service; queues 5 and 6 belong to open label 3. -/
def serving : State :=
  { opened ready with
    regions := (List.range 8).map fun r => (r, { test := .passed }),
    qg := { adminEn := true, queues := [(5, queue3), (6, queue3)] },
    emc := { inService := 384 } }

/-- A buffer of one enclave cell that queue 5 holds. -/
def buffer5 : Buffer :=
  { label := 3, gen := 0, size := 4096, inEnclave := true, cells := [encFirst], res := none, owners := [5], holder := 5,
    serial := 0 }

/-- The pools hold one buffer, which the request registers name; SHARE would name queue 6. -/
def buffered (b : Buffer) (arg : Nat := 9) : State :=
  { serving with
    pool := { encKnown := true, buffers := [(9, b)], encUsed := [encFirst], reqArg := BitVec.ofNat 32 arg,
              owners := 0x1000000000006 } }

/-- A host's SIGN job that waits or runs, with a key of its own or from a slot. -/
def job (op : PkOp) (key : Nat := 0) : PkJob := { op := op, client := .host, slot := 1, hash := 2, key := key }

/-- A PKJ descriptor: KEYPAIR on curve slot 1, for a key that is not kept. -/
def descriptor : Bytes :=
  asciiBytes "HYNUSPKJ" ++ leBytes 2 1 ++ [3, 1, 0, 0] ++ zeroBytes 18 ++ leBytes 8 64 ++ leBytes 4 145 ++ zeroBytes 20

/-- One tile of region 0 in a state, its spare in another, every region in service. -/
def tiled (x y : TileState) (retried : Bool := false) (r : RegionState := .inService) : State :=
  { serving with
    tiles := [(3, { state := x, retried := retried }), (8, { state := y })],
    regions := (0, { test := .passed, state := r }) :: (List.range 7).map fun k => (k + 1, { test := .passed }) }

/-- The Steward's mailbox is free and the region argument is 7. -/
def region7 : State := { ready with stw := { running := true, args := [(0, 7)] } }

/-- The context words of a START, those named given and the rest zero, and input 0 described by slot 0. -/
def snap1 (stage : Nat) (ws : Tab Nat := []) : Snap :=
  { stage := stage, tag := 0, words := (List.range 64).map fun i => Tab.getD ws i 0,
    descs := [(0, (leBytes 8 256 ++ zeroBytes 56, none))] }

/-- A running job of entry 1 over two samples, whose tables stand at address 256. -/
def job1 (stage : Nat) (ws : Tab Nat := []) : Job :=
  { run := 1, stage := stage, tag := 0, snap := snap1 stage ws, first := 0, count := 2, running := true,
    host := [(256, leBytes 8 0 ++ leBytes 4 41)] }

/-- One START of a list whose stages stream to one another. -/
def start1 (stage : Nat) : StartPlan :=
  { stage := stage, mode := 0, routeIn := 0, routeOut := 0, streamIn := true, streamOut := true }

/-- Entry 1 of queue 5 runs with its jobs; one tile, in region 0, serves every role that is asked for. -/
def working (js : Tab Job) (r : Run := run5) (role : Nat := 1) : State :=
  { serving with
    sil := { active := some { imgParse [] with roles := List.replicate 144 (role, 0) }, bind := [(0, 128)] },
    tiles := [(128, { state := .bound, role := role })], profiles := [(0, profile1)], runs := [(1, r)], jobs := js,
    cus := { labels := [(3, { state := .opened, kData := zeroBytes 32, fingerprint := zeroBytes 48 })] } }

/-- The list of entry 1 has one command left. -/
def listing (c : ListCmd) (r : Run := run5) (js : Tab Job := []) : State := working js { r with cmds := [c] }
def cmd (op : Nat) (arg : Nat := 0) : ListCmd := { op := op, stage := 1, len := 0, arg := arg, payload := [] }

/-- Chunk 1 of sample 0, of one byte, under a key of zeros. -/
@[irreducible] def chunk : Bytes := zeroBytes 16 ++ leBytes 4 1 ++ leBytes 4 1 ++ beBytes 17
      0x5bc56dea484dd46f79985b99c939d30f1d

/-- A lane that has read chunk 0. -/
def lane1 : Lane := { start := 0, fenced := 0, chunks := 1 }

/-- A job whose first sample began at tick 0, and a class S run with a budget of one tick. -/
def lateJob : Job := { job1 1 with lanes := [(0, { start := 0, fenced := 0 })] }
def classS : Run := { run5 with cls := 1, budget := 1 }

/-- A row in the seal fabric with some of its limbs sealed. -/
def row1 (limbs : List (Bytes × Bytes) := []) : SealRow :=
  { g := 0, kind := 0, dataRow := 0, coeffs := [0], digest := zeroBytes 48, column := 0, limbs := limbs }

/-- A Spawn of entry 1 in the seal fabric of region 0. -/
def spawn0 (w : SealRow) : SealSpawn := { run := 1, job := 4, region := 0, last := true, rows := [w], total := 1 }

/-- An engine with that Spawn. -/
def sealing (w : SealRow) : State :=
  { working [(4, job1 9)] run5 9 with
    seals := [(0, spawn0 w)],
    keyCache := [(3, { gen := 0, pk0 := [[1]], pk1 := [[2]], cells := [] })] }

def spawn1 : Spawn := { rows := [], rpr := 1, dtype := 0, last := true }

/-- A PACK job with one Spawn, an ENCODE job that may take it, and a SEAL job. -/
def packed (sealed : Bool) (plan : List Nat := [6, 8, 9]) : State :=
  working [(2, { job1 6 with spawns := [spawn1] }), (4, job1 8), (7, { job1 9 with running := sealed })]
    { run5 with planned := plan.map start1 } 9

/-- A PACK job of which two samples have yet to arrive, with a deadline of 3 ticks. -/
def packing : Job :=
  { job1 6 [(9, 2), (13, 3)] with pack := { waiting := [0, 1, 2], arrived := [(0, 5)] } }

/-- A manifest that waits for its signature, and an entry whose list stands at address 64. -/
def manifest1 : Manifest := { run := 1, number := 0, addr := 0, body := [] }
def entry5 : Bytes := entry 0x80 (matter := 3) (addr := 64) (len := 8)

/-- A queue in which that entry is next. -/
def listed : State := { cached entry5 with profiles := [(0, profile1)], keyCache := [] }

/-- A live job on frame clock 2, which queue 5 has claimed with a period of 4 ticks. -/
def liveJob : Job := { job1 0x10 with clock := some 2, live := some { window0 := 0 }, lanes := [(0, lane1)] }
def onAir (now : Nat) : State :=
  { claimed (working [(4, liveJob)]) 5 2 5 4 with time := { gcnt := now } }

/-- A SEAL job that writes manifests of one row, with one sealed row in none yet, and an engine whose manifest stream is
full. -/
def closingJob : Job := { job1 9 [(8, 256), (11, 2 ^ 32 + 1)] with sealed := [(0, [])] }
def closing : State := { working [(4, closingJob)] run5 9 with pke := { manifests := List.range 256 } }

/-- A tokeniser job whose next sample is its second. -/
def unread4 : Job := { job1 4 with next := 1 }

/-- A live job that waits for a core, a recorded job whose lane holds core 0, and an engine with `n` cores. -/
def waiter : Job := { liveJob with wantsCore := true }
def recorded : Job := { job1 0x10 with lanes := [(0, { lane1 with cores := [0] })] }
def waitingLive (js : Tab Job) (n : Nat) : State :=
  { onAir 8 with
    jobs := (4, waiter) :: js,
    regions := (0, { test := .passed, vcPass := BitVec.ofNat 2 n }) :: (List.range 7).map fun k => (k + 1,
        { test := .passed }) }

/-- A PACK job of class S that waits for its two samples, the first of which has cells. -/
def packer : Job := { job1 6 with pack := { waiting := [0, 1] } }
def arriving : State :=
  { working [(4, packer)] { run5 with cls := 1 } 6 with
    pool := { work := [{ label := 3, gen := 0, inEnclave := false, region := 0, cells := [], use := .waiting 4 0 }] } }

theorem sample_arrives : (arriving.arrivalOf { run5 with cls := 1 } 4 packer 0).isSome = true := by decide +kernel

/-- What arrives at that job. -/
def arrival1 : Arrival := Option.get _ sample_arrives

theorem arrives : arriving.arrivalOf { run5 with cls := 1 } 4 packer 0 = some arrival1 := (Option.some_get _).symm

theorem now {s : State} (h : s.pwr.inReset = false) : s.actsAt 0 s := ⟨h, by simp [State.tickTo, h]⟩

theorem takesAdmin_now {s : State} {op : Nat} {b : Bytes}
    (h : s.pwr.inReset = false ∧ s.qg.run = none ∧ s.stw.restarting = false ∧ s.adminMayRun = true ∧
      (s.faults.halt = false ∨ runsInHalt op = true) ∧ s.qg.todo.head? = some (some b) ∧ s.adminCheck b = none ∧
      entOp b = op) : s.takesAdmin 0 op b s.popAdmin :=
  have ⟨h1, h2, h3, h4, h5, h6, h7, h8⟩ := h
  ⟨s, now h1, h2, h3, h4, h5, h6, h7, h8, rfl⟩

theorem takesEntry_now {s : State} {q op : Nat} {b : Bytes}
    (h : s.pwr.inReset = false ∧ q ≠ 0 ∧ s.nextQueue = some q ∧
      ((s.queue q).cache.map Cached.entry).head? = some (some b) ∧
      s.faults.halt = false ∧ s.workCheck (s.queue q) b = none ∧ entOp b = op) : s.takesEntry 0 q op b s :=
  ⟨now h.1, h.2⟩

theorem takesCommand_now {s : State} {e op : Nat} {r : Run} {c : ListCmd} {cs : List ListCmd}
    (h1 : Tab.find s.runs e = some r) (h2 : s.pwr.inReset = false ∧ s.mayWork r = true ∧ r.ended = false ∧ c.op = op)
    (h3 : dropNops r.cmds r.pos = (c :: cs, r.pos)) (h4 : r.cmds = c :: cs) :
    s.takesCommand 0 e op r c { s with runs := Tab.put s.runs e r } :=
  ⟨s, r, cs, r.pos, now h2.1, h1, h2.2.1, h2.2.2.1, h3, h2.2.2.2, by cases r; cases h4; rfl,
    by cases r; cases h4; rfl⟩

theorem hears_fresh {s : State} {type seq : Nat} {p : Bytes} (h1 : s.pwr.phase ≠ .moult) (h2 : s.cus.rxLast = none) :
    s.hears type seq p := ⟨h1, fun x h => by rw [h2] at h; cases h⟩

theorem isOk_eq {ε α : Type} {d : α} {e : Except ε α} (h : isOk e = true) : e = .ok (getOk d e) := by
  cases e with
  | ok x => rfl
  | error x => cases h

theorem mayFold_of {s : State} {r : Nat}
    (h : s.inService r = true ∧ s.stw.restarting = false ∧ s.foldingCount < 2 ∧ s.outCount + s.foldingCount < 3 ∧
      s.pwr.phase ≠ .basking) : s.mayFold r := h

/-- The images and records above pass their checks. -/
def load (n : Nat) : State := withAdmin graded (entry 0x08 (len := n))

theorem image_accepted :
    (load 1728).popAdmin.loadRefusal (portRead (entLen (entry 0x08 (len := 1728))) image) = none := by decide +kernel

theorem nothing_refused : ((load 0).popAdmin.loadRefusal (portRead (entLen (entry 0x08)) [])).isSome = true := by
  decide +kernel

/-- A die on which the image is staged. -/
def staged : State := { graded with sil := { graded.sil with staged := some (imgParse image) } }

theorem image_activates :
    (withAdmin staged (entry 0x09)).popAdmin.activateRefusal (imgParse image)
      ((withAdmin staged (entry 0x09)).popAdmin.profileTooBig (imgParse image)) = none := by
  decide +kernel

theorem image_binds : (withRun staged ⟨entry 0x09, .switch⟩).bindAll (imgParse image) = .ok [] := by decide +kernel

/-- The die on which `microcode` may be loaded: it runs `image` with a tile of role 1. -/
def reloading : State :=
  { graded with sil := { graded.sil with bind := [(0, 0)], active := some { imgParse image with roles := [(1, 0)] } } }

theorem microcode_signed :
    imgSigned reloading.sil.imageKeys (leAt microcode 16 4) (microcode.take (128 + (mcLen microcode + 63) / 64 * 64))
      (slice microcode (128 + (mcLen microcode + 63) / 64 * 64) 128) = none := by
  decide +kernel

/-- An engine that agrees on the key of the offer of matter 1, for label 0. -/
def agreeing : State :=
  withRun { offered with cus := { offered.cus with labels := [(0, assignLabel {} manifest ⟨offer⟩ 0)] } }
    ⟨entry 0x10, .pk (.agree 0 offer)⟩

theorem offer_opens : isOk (agreeing.openKeys (agreeing.label 0) offer) = true := by decide +kernel

/-- An engine with no enclave cell to give. -/
def full : State := { loading with emc := { loading.emc with pcs := (List.range 384).map fun p => (p, { state := 2 }) } }

theorem full_gives_none : (withAdmin full []).popAdmin.takeEnc 1 = none := by decide +kernel

/-- A clear token for channel 2 of the engine whose session key's fingerprint is zero. -/
@[irreducible] def token2 : Bytes :=
  asciiBytes "HYNUSCLR" ++ leBytes 2 1 ++ [2, 0] ++ leBytes 4 1 ++ zeroBytes 48 ++ leBytes 8 1 ++ zeroBytes 56 ++
    beBytes 48 0x9f27439b777be6ed8c04a13748da429cd501c66598dfa2b7dc9acc446ac31a07868ecca9ba7078ef8ccaf8a03d2a6ac0 ++
    beBytes 48 0xd8e209bc339a3be77d6f31eaf5eeb1d4e5df35eb8e019cdf0a964440995a3392592b6aa95537d2812225a854e2c16652 ++
        zeroBytes 32

def clearing : State :=
  { ready with cus := { sessionFp := zeroBytes 48 }, sil := { tokenKeys := [(1, key1)] } }

theorem token_passes : clearing.clearStatus (entry 0x30 (len := 2) (addr := 64) (count := 256)) token2 = 0 := by
  decide +kernel

/-! ### Hypotheses that are met -/

theorem test_witness_StepRunsFrontCommand :
    ∃ (s : State) (c : Instr) (cs : List Instr), s.pending = c :: cs :=
  ⟨{ ready with pending := [.crcWindowEnd 0 0] }, .crcWindowEnd 0 0, [], by decide +kernel⟩

theorem test_witness_ResetHoldsTheEngine :
    ∃ (s : State) (c : Instr), s.pwr.inReset = true ∧ c.actsInReset = false :=
  ⟨{ State.reset with pwr := { inReset := true } }, .crcWindowEnd 0 0, by decide +kernel, by decide +kernel⟩

theorem test_witness_RegisterRead :
    (∃ (s u : State) (t : Nat) (off : BitVec 19), s.actsAt t u ∧ off.toNat % 4 = 0) ∧
    (∃ (u : State) (off : Nat), (off ∈ [0x0101C, 0x0200C, 0x04044, 0x08008, 0x21018, 0x28020, 0x29020] ∨ (∃ r o,
      r < 8 ∧ o ∈ [0x00C, 0x810, 0x814] ∧ off = 0x30000 + 0x1000 * r + o) ∨ (∃ i, i < 256 ∧ i % 16 < 9 ∧
      off = 0x40000 + 0x100 * i + 4)) ∧ (∀ r ∈ u.rcFields off, r.tick ≠ u.now)) :=
  ⟨⟨ready, _, 0, 0x14, now rfl, by decide +kernel⟩,
   ⟨{ ready with time := { gcnt := 1 } }, 0x0101C, .inl (by decide), by decide +kernel⟩⟩

theorem test_witness_LowHalfLatches :
    (∃ (s u : State) (t : Nat) (off : BitVec 19), s.actsAt t u ∧ is64 off.toNat = true ∧ off.toNat % 4 = 0) ∧
    (∃ (s u : State) (t low high : Nat) (off : BitVec 19), s.actsAt t u ∧ u.gctl.latch = some (low, high) ∧
      off.toNat = low + 4 ∧ off.toNat % 4 = 0) ∧
    (∃ (s u : State) (t : Nat) (off : BitVec 19), s.actsAt t u ∧ off.toNat % 4 = 0 ∧ (∀ low high,
      u.gctl.latch = some (low, high) → off.toNat ≠ low + 4)) :=
  ⟨⟨ready, _, 0, 0x02000, now rfl, by decide +kernel, by decide +kernel⟩,
   ⟨{ ready with gctl := { ready.gctl with latch := some (0x02000, 7) } }, _, 0, 0x02000, 7, 0x02004, now rfl,
    by decide +kernel, by decide +kernel, by decide +kernel⟩,
   ⟨ready, _, 0, 0x02004, now rfl, by decide +kernel, fun _ _ h => by cases h⟩⟩

theorem test_witness_EmptyOffsets :
    (∃ (s u : State) (t : Nat) (off : BitVec 19), s.actsAt t u ∧ off.toNat % 4 = 0 ∧ u.word off.toNat = none ∧
      (∀ low high, u.gctl.latch = some (low, high) → off.toNat ≠ low + 4)) ∧
    (∃ (s u : State) (t : Nat) (off : BitVec 19) (v : BitVec 64), s.actsAt t u ∧ off.toNat % 4 = 0 ∧
      u.word off.toNat = none) ∧
    (∃ (s u : State) (t : Nat) (q : BitVec 12) (off : BitVec 19) (k : Nat) (v : BitVec 64), s.actsAt t u ∧ k < 4 ∧
      off.toNat = 0x10000 + 16 * q.toNat + 4 * k ∧ u.ringExists q.toNat = false) ∧
    (∃ (u : State) (i k : Nat), i < 256 ∧ 9 ≤ i % 16 ∧ k < 64) :=
  ⟨⟨ready, _, 0, 0x7FFFC, now rfl, by decide +kernel, by decide +kernel, fun _ _ h => by cases h⟩,
   ⟨ready, _, 0, 0x7FFFC, 5, now rfl, by decide +kernel, by decide +kernel⟩,
   ⟨ready, _, 0, 4095, 0x1FFFC, 3, 1, now rfl, by decide +kernel, by decide +kernel, by decide +kernel⟩,
   ⟨ready, 255, 63, by decide +kernel, by decide +kernel, by decide +kernel⟩⟩

theorem test_witness_RegisterWrite :
    (∃ (s u : State) (t : Nat) (i : Nat) (off : BitVec 19) (v : BitVec 64), s.actsAt t u ∧ i < 4 ∧
      off.toNat = 0x40 + 4 * i) ∧
    (∃ (s u : State) (t : Nat) (v : BitVec 64), s.actsAt t u) ∧
    (∃ (s u : State) (t : Nat) (v : BitVec 64), s.actsAt t u) ∧
    (∃ (s u : State) (t : Nat) (v : BitVec 64), s.actsAt t u) :=
  ⟨⟨ready, _, 0, 3, 0x4C, 9, now rfl, by decide +kernel, by decide +kernel⟩,
   ⟨ready, _, 0, 1, now rfl⟩,
   ⟨ready, _, 0, 1, now rfl⟩,
   ⟨ready, _, 0, 500, now rfl⟩⟩

theorem test_witness_LockedFields :
    (∃ (s u : State) (t : Nat) (off : BitVec 19) (v : BitVec 64), s.actsAt t u ∧ off.toNat ∈ [0x01010, 0x01014,
      0x01018] ∧ u.sil.locked = true) ∧
    (∃ (s u : State) (t : Nat) (v : BitVec 64), s.actsAt t u ∧ u.sil.locked = false) ∧
    (∃ (s u : State) (t : Nat) (v : BitVec 64), s.actsAt t u) :=
  ⟨⟨{ ready with sil := { locked := true } }, _, 0, 0x01018, 1, now rfl, by decide +kernel, by decide +kernel⟩,
   ⟨ready, _, 0, 1, now rfl, by decide +kernel⟩,
   ⟨ready, _, 0, 1, now rfl⟩⟩

theorem test_witness_Rearm :
    (∃ (s u : State) (t : Nat) (v : BitVec 32), s.actsAt t u ∧ bitOf v.toNat 0 = true ∧
      u.intb.msgAddr &&& ~~~3#48 ≠ 0 ∧ u.sources &&& u.intb.enable ≠ 0) ∧
    (∃ (s u : State) (t : Nat) (v : BitVec 32), s.actsAt t u ∧ bitOf v.toNat 0 = true ∧
      (u.intb.msgAddr &&& ~~~3#48 = 0 ∨ u.sources &&& u.intb.enable = 0)) :=
  ⟨⟨{ halted with intb := { msgAddr := 4, enable := 64 } }, _, 0, 1, now rfl, by decide +kernel,
    by decide +kernel, by decide +kernel⟩,
   ⟨ready, _, 0, 1, now rfl, by decide +kernel, by decide +kernel⟩⟩

theorem test_witness_IgnoredDoorbells :
    (∃ (s u : State) (t : Nat) (q : BitVec 12) (v : BitVec 32), s.actsAt t u ∧
      (let x := u.queue q.toNat
       let reason := if (q = 0#12 ∧ u.qg.adminEn = false) ∨ (q ≠ 0#12 ∧
          x.state = .absent) then 1 else if 2 ^ x.logSize ≤ v.toNat % 2 ^ 16 then 2 else if v.toNat / 2 ^ 16 % 2 ^
          14 ≠ 0 ∨ v.toNat / 2 ^ 31 % 2 = 1 then 3 else if q ≠ 0#12 ∧
          (x.state = .disabling ∨ x.state = .disabled) then 4 else 0
       reason ≠ 0)) ∧
    (∃ (s u : State) (t : Nat) (q : BitVec 12) (v : BitVec 32), s.actsAt t u ∧
      (let x := u.queue q.toNat
       let reason := if (q = 0#12 ∧ u.qg.adminEn = false) ∨ (q ≠ 0#12 ∧
          x.state = .absent) then 1 else if 2 ^ x.logSize ≤ v.toNat % 2 ^ 16 then 2 else if v.toNat / 2 ^ 16 ≠ 0
          then 3 else if q ≠ 0#12 ∧
          x.state = .disabled then 4 else if (x.cqTail + 2 ^ x.logSize - x.cqHead) % 2 ^ x.logSize < (v.toNat % 2
          ^ 16 + 2 ^ x.logSize - x.cqHead) % 2 ^ x.logSize then 5 else 0
       reason ≠ 0)) ∧
    (∃ (s u : State) (t : Nat) (q : BitVec 12) (off : BitVec 19) (v : BitVec 64), s.actsAt t u ∧
      (off.toNat = 0x10008 + 16 * q.toNat ∨ off.toNat = 0x1000C + 16 * q.toNat) ∧
      (if q = 0#12 then u.qg.adminEn = false else (u.queue q.toNat).state = .absent)) ∧
    (∃ (u : State) (q k : Nat), q < 4096 ∧ k < 4 ∧
      (if q = 0 then u.qg.adminEn = false else (u.queue q).state = .absent)) :=
  ⟨⟨withQ ready 5 queue3, _, 0, 5, 16, now rfl, by decide +kernel⟩,
   ⟨withQ ready 5 queue3, _, 0, 5, 1, now rfl, by decide +kernel⟩,
   ⟨ready, _, 0, 4095, 0x1FFF8, 1, now rfl, by decide +kernel, by decide +kernel⟩,
   ⟨ready, 4095, 3, by decide +kernel, by decide +kernel, by decide +kernel⟩⟩

theorem test_witness_AcceptedDoorbells :
    (∃ (s u : State) (t : Nat) (q : BitVec 12) (v : BitVec 32), s.actsAt t u ∧ q ≠ 0#12 ∧
      (u.queue q.toNat).state = .enabled ∧ v.toNat < 2 ^ (u.queue q.toNat).logSize ∧ v.toNat < 2 ^ 16) ∧
    (∃ (s u : State) (t : Nat) (q : BitVec 12) (v : BitVec 32), s.actsAt t u ∧ q ≠ 0#12 ∧
      (u.queue q.toNat).state = .enabled ∧ 2 ^ 30 ≤ v.toNat ∧ v.toNat - 2 ^ 30 < 2 ^ (u.queue q.toNat).logSize ∧
      v.toNat - 2 ^ 30 < 2 ^ 16) ∧
    (∃ (s u : State) (t : Nat) (v : BitVec 32), s.actsAt t u ∧ u.qg.adminEn = true ∧
      v.toNat < 2 ^ (u.queue 0).logSize ∧ v.toNat < 2 ^ 16) ∧
    (∃ (s u : State) (t : Nat) (q : BitVec 12) (v : BitVec 32), s.actsAt t u ∧ q ≠ 0#12 ∧
      ((u.queue q.toNat).state = .enabled ∨ (u.queue q.toNat).state = .disabling) ∧
      v.toNat < 2 ^ (u.queue q.toNat).logSize ∧ v.toNat < 2 ^ 16 ∧
      (v.toNat + 2 ^ (u.queue q.toNat).logSize - (u.queue q.toNat).cqHead) % 2 ^ (u.queue q.toNat).logSize ≤
      ((u.queue q.toNat).cqTail + 2 ^ (u.queue q.toNat).logSize - (u.queue q.toNat).cqHead) % 2 ^ (u.queue
      q.toNat).logSize) :=
  ⟨⟨withQ ready 5 queue3, _, 0, 5, 15, now rfl, by decide +kernel, by decide +kernel, by decide +kernel,
    by decide +kernel⟩,
   ⟨withQ ready 5 queue3, _, 0, 5, 0x4000000F, now rfl, by decide +kernel, by decide +kernel, by decide +kernel,
    by decide +kernel, by decide +kernel⟩,
   ⟨ready, _, 0, 255, now rfl, by decide +kernel, by decide +kernel, by decide +kernel⟩,
   ⟨withQ ready 5 queue3, _, 0, 5, 0, now rfl, by decide +kernel, by decide +kernel, by decide +kernel,
    by decide +kernel, by decide +kernel⟩⟩

theorem test_witness_UnreadNeverSilent :
    (∃ (u : State) (q p : Nat) (c : Compl), q ≠ 0 ∧ p ≠ 0 ∧ (¬ ((u.queue p).armed = true ∧
      false ∈ (u.queue p).unread))) ∧
    (∃ (s w : State) (t p : Nat) (q : BitVec 12) (v : BitVec 32), p ≠ 0 ∧ (¬ ((s.queue p).armed = true ∧
      false ∈ (s.queue p).unread))) :=
  ⟨⟨ready, 5, 6, compl1, by decide +kernel, by decide +kernel, by decide +kernel⟩,
   ⟨ready, ready, 0, 6, 5, 0, by decide +kernel, by decide +kernel⟩⟩

theorem test_witness_EntriesFetchedAndTaken :
    (∃ (s u : State) (t : Nat) (q : BitVec 12) (d : Bytes), s.actsAt t u ∧ q ≠ 0#12 ∧
      ((u.queue q.toNat).state = .enabled ∨ (u.queue q.toNat).state = .disabling) ∧
      (u.label (u.queue q.toNat).label).state = .opened ∧ (u.queue q.toNat).cache.length < 16 ∧
      (u.queue q.toNat).cache.length < (u.queue q.toNat).posted) ∧
    (∃ (s u : State) (t : Nat) (d : Bytes), s.actsAt t u ∧ u.qg.adminEn = true ∧ u.qg.admin.state = .enabled ∧
      u.qg.admin.cache = [] ∧ 0 < u.qg.admin.posted ∧ u.qg.admin.cqFull = false ∧ u.qg.admin.stuck = false) ∧
    (∃ (s u : State) (t : Nat) (q : BitVec 12) (b : Bytes), s.takesEntry t q.toNat 0x82 b u) ∧
    (∃ (s u : State) (t : Nat) (q : BitVec 12) (b : Bytes), s.takesEntry t q.toNat 0x83 b u) ∧
    (∃ (u : State) (q : Nat) (b : Bytes) (f : Bool) (c : Option Compl), q ≠ 0 ∧ f = true) :=
  ⟨⟨withQ (opened ready) 5 { queue3 with sqTail := 1 }, _, 0, 5, [], now rfl, by decide +kernel,
    by decide +kernel, by decide +kernel, by decide +kernel, by decide +kernel⟩,
   ⟨{ ready with qg := { adminEn := true, admin := { ready.qg.admin with state := .enabled, sqTail := 1 } } }, _,
    0, [], now rfl, by decide +kernel, by decide +kernel, by decide +kernel, by decide +kernel, by decide +kernel,
    by decide +kernel⟩,
   ⟨cached (entry 0x82 (matter := 3)), _, 0, 5, entry 0x82 (matter := 3), takesEntry_now (by decide +kernel)⟩,
   ⟨cached (entry 0x83 (matter := 3)), _, 0, 5, entry 0x83 (matter := 3), takesEntry_now (by decide +kernel)⟩,
   ⟨ready, 5, [], true, none, by decide +kernel, by decide +kernel⟩⟩

theorem test_witness_CompletionWritten :
    (∃ (s u : State) (t : Nat) (q : BitVec 12) (e : Taken) (es : List Taken) (c : Compl), s.actsAt t u ∧
      q ≠ 0#12 ∧ (u.queue q.toNat).state ≠ .absent ∧ (u.queue q.toNat).cqFull = false ∧
      (u.queue q.toNat).stuck = false ∧ (u.queue q.toNat).mute = false ∧ (u.queue q.toNat).taken = e :: es ∧
      e.compl = some c) ∧
    (∃ (s u : State) (t : Nat) (q : BitVec 12), s.actsAt t u ∧ (u.queue q.toNat).cqFull = true) ∧
    (∃ (s u : State) (t : Nat) (q : BitVec 12) (e : Taken) (es : List Taken), s.actsAt t u ∧ q ≠ 0#12 ∧
      (u.queue q.toNat).taken = e :: es ∧ e.compl = none) ∧
    (∃ (s v : State) (t : Nat) (c : Compl) (cs : List Compl), s.actsAt t v ∧
      (let u := v.reloadEnd
       u.qg.adminEn = true ∧ u.qg.admin.cqFull = false ∧ u.qg.admin.stuck = false ∧ u.qg.admin.mute = false ∧
          u.qg.due = c :: cs)) :=
  ⟨⟨withQ ready 5 { queue3 with taken := [{ taken1 with compl := some compl1 }] }, _, 0, 5,
    { taken1 with compl := some compl1 }, [], compl1, now rfl, by decide +kernel, by decide +kernel,
    by decide +kernel, by decide +kernel, by decide +kernel, by decide +kernel, by decide +kernel⟩,
   ⟨withQ ready 5 { queue3 with cqTail := 15 }, _, 0, 5, now rfl, by decide +kernel⟩,
   ⟨withQ ready 5 { queue3 with taken := [taken1] }, _, 0, 5, taken1, [], now rfl, by decide +kernel,
    by decide +kernel, by decide +kernel⟩,
   ⟨{ ready with qg := { adminEn := true, due := [compl1] } }, _, 0, compl1, [], now rfl, by decide +kernel,
    by decide +kernel, by decide +kernel, by decide +kernel, by decide +kernel⟩⟩

theorem test_witness_AdminEnable :
    (∃ (s u : State) (t : Nat) (v : BitVec 32), s.actsAt t u ∧ v.toNat % 2 = 1 ∧ u.qg.adminEn = false) ∧
    (∃ (s u : State) (t : Nat) (v : BitVec 32), s.actsAt t u ∧ v.toNat % 2 = 0 ∧ u.qg.adminEn = true ∧
      u.qg.todo = [] ∧ u.qg.run = none ∧ u.qg.revokes = [] ∧ u.qg.due = []) ∧
    (∃ (s u : State) (t : Nat) (v : BitVec 32), s.actsAt t u ∧ v.toNat % 2 = 0 ∧ u.qg.adminEn = true ∧
      (u.qg.todo ≠ [] ∨ u.qg.run ≠ none ∨ u.qg.revokes ≠ [] ∨ u.qg.due ≠ [])) :=
  ⟨⟨{ ready with qg := {} }, _, 0, 1, now rfl, by decide +kernel, by decide +kernel⟩,
   ⟨ready, _, 0, 0, now rfl, by decide +kernel, by decide +kernel, by decide +kernel, by decide +kernel,
    by decide +kernel, by decide +kernel⟩,
   ⟨{ ready with qg := { adminEn := true, due := [compl1] } }, _, 0, 0, now rfl, by decide +kernel,
    by decide +kernel, by decide +kernel⟩⟩

theorem test_witness_QueueLifeCycle :
    (∃ (s u : State) (t q : Nat) (b : Bytes), s.takesAdmin t 0x01 b u ∧ 4 ≤ crLogSize b ∧ crLogSize b ≤ 16 ∧
      crWeight b ≠ 0 ∧ entAddr b ≠ 0 ∧ entAddr b % 4096 = 0 ∧ entStep b ≠ 0 ∧ entStep b % 4096 = 0 ∧
      (crHeld b = false → crCmp b = 0) ∧ u.createNumber b = some q ∧ (u.basking = true → entClass b = 0) ∧
      (u.label (entMatter b)).state = .opened ∧ (u.label (entMatter b)).gen = entGen b ∧ (crHeld b = true → ∃ c,
      u.claimOf 2 (crCmp b) = some c ∧ (c.holder = 0 ∨ c.holder = q))) ∧
    (∃ (s u : State) (t : Nat) (b : Bytes), s.takesAdmin t 0x03 b u ∧ (u.queue (entQueue b)).state = .enabled) ∧
    (∃ (s u : State) (t : Nat) (b : Bytes), s.takesAdmin t 0x03 b u ∧
      ((u.queue (entQueue b)).state = .disabling ∨ (u.queue (entQueue b)).state = .disabled)) ∧
    (∃ (s u : State) (t : Nat) (b : Bytes), s.takesAdmin t 0x02 b u ∧ (u.queue (entQueue b)).state = .disabled) ∧
    (∃ (s u : State) (t : Nat) (b : Bytes), s.takesAdmin t 0x02 b u ∧ (u.queue (entQueue b)).state ≠ .disabled) ∧
    (∃ (s u : State) (t : Nat) (b : Bytes), s.takesAdmin t 0x04 b u) :=
  ⟨⟨withAdmin (opened ready) (entry 0x01 (matter := 3) (addr := 4096) (len := 0x41005) (step := 4096)), _, 0, 5,
    entry 0x01 (matter := 3) (addr := 4096) (len := 0x41005) (step := 4096), takesAdmin_now (by decide +kernel),
    by decide +kernel, by decide +kernel, by decide +kernel, by decide +kernel, by decide +kernel,
    by decide +kernel, by decide +kernel, by decide +kernel, by decide +kernel, by decide +kernel,
    by decide +kernel, by decide +kernel, fun h => absurd h (by decide +kernel)⟩,
   ⟨withAdmin (withQ ready 5 queue3) (entry 0x03 (len := 5)), _, 0, entry 0x03 (len := 5),
    takesAdmin_now (by decide +kernel), by decide +kernel⟩,
   ⟨withAdmin (withQ ready 5 { queue3 with state := .disabling }) (entry 0x03 (len := 5)), _, 0,
    entry 0x03 (len := 5), takesAdmin_now (by decide +kernel), by decide +kernel⟩,
   ⟨withAdmin (withQ ready 5 { queue3 with state := .disabled }) (entry 0x02 (len := 5)), _, 0,
    entry 0x02 (len := 5), takesAdmin_now (by decide +kernel), by decide +kernel⟩,
   ⟨withAdmin (withQ ready 5 queue3) (entry 0x02 (len := 5)), _, 0, entry 0x02 (len := 5),
    takesAdmin_now (by decide +kernel), by decide +kernel⟩,
   ⟨withAdmin (withQ ready 5 queue3) (entry 0x04 (len := 5)), _, 0, entry 0x04 (len := 5),
    takesAdmin_now (by decide +kernel)⟩⟩

theorem test_witness_PauseCommand :
    (∃ (s u : State) (t : Nat) (b : Bytes), s.takesAdmin t 0x20 b u ∧
      (let x := u.queue (entQueue b)
       (x.paused = true ∨ x.launchHeld = true ∨ (x.state = .enabled ∧ u.queueFenced x = false ∧
          x.atBoundary = true)))) ∧
    (∃ (s u : State) (t : Nat) (b : Bytes), s.takesAdmin t 0x20 b u ∧
      (let x := u.queue (entQueue b)
       x.paused = false ∧ x.launchHeld = false ∧ x.state = .enabled ∧ u.queueFenced x = false ∧
          x.atBoundary = false)) ∧
    (∃ (s u : State) (t : Nat) (b : Bytes), s.takesAdmin t 0x20 b u ∧
      (let x := u.queue (entQueue b)
       x.paused = false ∧ x.launchHeld = false ∧ (x.state ≠ .enabled ∨ u.queueFenced x = true))) ∧
    (∃ (s u : State) (t : Nat) (q : BitVec 12) (b : Bytes), s.actsAt t u ∧ q ≠ 0#12 ∧ u.qg.run = some ⟨b,
      .boundary q.toNat⟩ ∧ u.stw.restarting = false ∧ (u.queue q.toNat).atBoundary = true) ∧
    (∃ (u v : State) (q : Nat), (u.queue q).paused = true) ∧
    (∃ (u : State) (x : Queue) (b : Bytes) (cs : List (Option Bytes)), x.pausePending = true ∧
      x.cache.map Cached.entry = some b :: cs) :=
  ⟨⟨withAdmin paused (entry 0x20 (len := 5)), _, 0, entry 0x20 (len := 5), takesAdmin_now (by decide +kernel),
    by decide +kernel⟩,
   ⟨withAdmin (withQ (opened ready) 5 { queue3 with taken := [taken1] }) (entry 0x20 (len := 5)), _, 0,
    entry 0x20 (len := 5), takesAdmin_now (by decide +kernel), by decide +kernel, by decide +kernel,
    by decide +kernel, by decide +kernel, by decide +kernel⟩,
   ⟨withAdmin (withQ ready 5 { queue3 with state := .disabled }) (entry 0x20 (len := 5)), _, 0,
    entry 0x20 (len := 5), takesAdmin_now (by decide +kernel), by decide +kernel, by decide +kernel,
    by decide +kernel⟩,
   ⟨withRun (withQ ready 5 queue3) ⟨[], .boundary 5⟩, _, 0, 5, [], now rfl, by decide +kernel, by decide +kernel,
    by decide +kernel, by decide +kernel⟩,
   ⟨paused, paused, 5, by decide +kernel⟩,
   ⟨ready, { queue3 with pausePending := true, cache := [⟨some [], 0⟩] }, [], [], by decide +kernel, rfl⟩⟩

theorem test_witness_ResumeCommand :
    (∃ (s u : State) (t : Nat) (v : BitVec 32), s.actsAt t u ∧ v.toNat % 2 = 1 ∧ u.det.qSel ≠ 0#12 ∧
      (u.queue u.det.qSel.toNat).paused = true) ∧
    (∃ (s u : State) (t : Nat) (v : BitVec 32), s.actsAt t u ∧ v.toNat % 2 = 1 ∧
      (u.det.qSel = 0#12 ∨ (u.queue u.det.qSel.toNat).paused = false)) :=
  ⟨⟨{ paused with det := { qSel := 5 } }, _, 0, 1, now rfl, by decide +kernel, by decide +kernel, by decide +kernel⟩,
   ⟨paused, _, 0, 1, now rfl, by decide +kernel, by decide +kernel⟩⟩

theorem test_witness_SeedSlots :
    (∃ (s u : State) (t : Nat) (v : BitVec 32), s.actsAt t u ∧ v.toNat % 4 = 1 ∧ u.det.seedQueue ≠ 0#12 ∧
      (u.queue u.det.seedQueue.toNat).state ≠ .absent ∧ (u.queue u.det.seedQueue.toNat).state ≠ .disabled) ∧
    (∃ (s u : State) (t : Nat) (v : BitVec 32), s.actsAt t u ∧ v.toNat % 4 = 2 ∧ u.det.seedQueue ≠ 0#12 ∧
      (u.queue u.det.seedQueue.toNat).state ≠ .absent ∧ (u.queue u.det.seedQueue.toNat).state ≠ .disabled) ∧
    (∃ (s u : State) (t : Nat) (v : BitVec 32), s.actsAt t u ∧ (v.toNat % 4 = 3 ∨ (v.toNat % 4 = 1 ∧
      (u.det.seedQueue = 0#12 ∨ (u.queue u.det.seedQueue.toNat).state = .absent ∨ (u.queue
      u.det.seedQueue.toNat).state = .disabled)))) ∧
    (∃ (s u : State) (t : Nat) (v : BitVec 32), s.actsAt t u ∧ v.toNat % 4 = 2 ∧
      (u.det.seedQueue = 0#12 ∨ (u.queue u.det.seedQueue.toNat).state = .absent ∨ (u.queue
      u.det.seedQueue.toNat).state = .disabled)) :=
  ⟨⟨{ paused with det := { seedQueue := 5 } }, _, 0, 1, now rfl, by decide +kernel, by decide +kernel,
    by decide +kernel, by decide +kernel⟩,
   ⟨{ paused with det := { seedQueue := 5 } }, _, 0, 2, now rfl, by decide +kernel, by decide +kernel,
    by decide +kernel, by decide +kernel⟩,
   ⟨paused, _, 0, 3, now rfl, by decide +kernel⟩,
   ⟨paused, _, 0, 2, now rfl, by decide +kernel, by decide +kernel⟩⟩

theorem test_witness_LaunchCommands :
    (∃ (s u : State) (t : Nat) (b : Bytes), s.takesAdmin t 0x23 b u ∧
      (let n := entLen b % 4
       entStep b ≤ u.now + 10 ^ 10 ∧ (u.claimOf 2 n).isSome = true ∧ (u.comparator n).armed = false)) ∧
    (∃ (s u : State) (t : Nat) (b : Bytes), s.takesAdmin t 0x23 b u ∧
      (let n := entLen b % 4
       (u.now + 10 ^ 10 < entStep b ∨ u.claimOf 2 n = none ∨ (u.comparator n).armed = true))) ∧
    (∃ (s u : State) (t : Nat) (n : BitVec 2) (b : Bytes) (l : Bool), s.actsAt t u ∧
      (u.comparator n.toNat).armed = true ∧ (u.comparator n.toNat).t ≤ u.now ∧ u.qg.run = some ⟨b,
      .launch n.toNat l⟩ ∧ u.stw.restarting = false) :=
  ⟨⟨withAdmin (claimed ready 2 3 0) (entry 0x23 (len := 3) (step := 10 ^ 10)), _, 0,
    entry 0x23 (len := 3) (step := 10 ^ 10), takesAdmin_now (by decide +kernel), by decide +kernel,
    by decide +kernel, by decide +kernel⟩,
   ⟨withAdmin (claimed ready 2 3 0) (entry 0x23 (len := 3) (step := 10 ^ 10 + 1)), _, 0,
    entry 0x23 (len := 3) (step := 10 ^ 10 + 1), takesAdmin_now (by decide +kernel), by decide +kernel⟩,
   ⟨withRun { ready with time := { cmp := [(3, { armed := true })] } } ⟨[], .launch 3 false⟩, _, 0, 3, [], false,
    now rfl, by decide +kernel, by decide +kernel, by decide +kernel, by decide +kernel⟩⟩

theorem test_witness_ChorusLanes :
    (∃ (s u : State) (t : Nat) (b : Bytes) (c : Claim), s.takesAdmin t 0x24 b u ∧
      (let q := entQueue b
       let l := entLen b / 2 ^ 16 % 2
       u.claimOf 3 l = some c ∧ (c.holder = 0 ∨ c.holder = q) ∧ ((u.lane l).queue = 0 ∨ (u.lane l).queue = q))) ∧
    (∃ (s u : State) (t : Nat) (b : Bytes), s.takesAdmin t 0x24 b u ∧
      (let l := entLen b / 2 ^ 16 % 2
       (u.claimOf 3 l = none ∨ (∃ c, u.claimOf 3 l = some c ∧ c.holder ≠ 0 ∧
          c.holder ≠ entQueue b) ∨ ((u.lane l).queue ≠ 0 ∧ (u.lane l).queue ≠ entQueue b)))) ∧
    (∃ (u : State) (b : Bytes) (q l : Nat), u.qg.run = some ⟨b, .detach q l⟩ ∧ u.stw.restarting = false ∧
      (u.queue q).taken = []) ∧
    (∃ (s u v : State) (t : Nat) (lane : Bool) (f : Bytes), s.actsAt t u ∧ f.length = 80 ∧
      (let l := if lane then 1 else 0
       v = u.missingOn l)) ∧
    (∃ (u : State) (h p : ChorusPoint) (r : Run), Tab.find u.runs h.serial = some r) ∧
    (∃ (s u : State) (t : Nat) (lane : Bool) (e : Nat) (r : Run), s.actsAt t u ∧
      (let l := if lane then 1 else 0
       (u.lane l).here ≠ [] ∧ (∀ p ∈ (u.lane l).here, p.serial = e) ∧ Tab.find u.runs e = some r ∧
          r.ended = true ∧ r.lastPoint + 10 ^ 8 ≤ u.now)) :=
  ⟨⟨withAdmin (claimed (withQ ready 5 queue3) 3 1 5) (entry 0x24 (len := 0x10005)), _, 0,
    entry 0x24 (len := 0x10005), ⟨5, 0, 0⟩, takesAdmin_now (by decide +kernel), by decide +kernel,
    by decide +kernel, by decide +kernel⟩,
   ⟨withAdmin (withQ ready 5 queue3) (entry 0x24 (len := 0x10005)), _, 0, entry 0x24 (len := 0x10005),
    takesAdmin_now (by decide +kernel), .inl (by decide +kernel)⟩,
   ⟨withRun ready ⟨[], .detach 5 1⟩, [], 5, 1, rfl, by decide +kernel, by decide +kernel⟩,
   ⟨ready, _, _, 0, true, chorusFrame, now rfl, by decide +kernel, rfl⟩,
   ⟨chorus5 {} run5, point1, point1, run5, by decide +kernel⟩,
   ⟨{ chorus5 { here := [point1] } { run5 with ended := true } with time := { gcnt := 10 ^ 8 } }, _, 0, true, 1,
    { run5 with ended := true }, now rfl, by decide +kernel, by decide +kernel, by decide +kernel,
    by decide +kernel, by decide +kernel⟩⟩

theorem test_witness_ContextsAndReplay :
    (∃ (s u : State) (t : Nat) (b : Bytes), s.takesAdmin t 0x21 b u) ∧
    (∃ (u : State) (b body : Bytes), u.qg.run = some ⟨b, .pk (.sign body)⟩ ∧ u.stw.restarting = false) ∧
    (∃ (s u : State) (t : Nat) (b data : Bytes), s.takesAdmin t 0x22 b u) ∧
    (∃ (u : State) (b d : Bytes), u.qg.run = some ⟨b, .pk (.certificate d)⟩ ∧ u.stw.restarting = false) ∧
    (∃ (u : State) (b d : Bytes), u.qg.run = some ⟨b, .pk (.verify d)⟩ ∧ u.stw.restarting = false) ∧
    (∃ (s u : State) (t : Nat) (b : Bytes) (mem : HostMem) (l : Ledger) (cs : List ListCmd), s.takesAdmin t 0x25 b u ∧
      (let x := u.queue (entQueue b)
       let stage := entLen b / 2 ^ 16 % 2 ^ 8
       u.queueFenced x = false ∧ replayStage stage = true ∧
          latestLedger (entStep b) (entBase b) x.ledger = some l ∧
          parseList (hostRead mem (entAddr l.entry) (entLen l.entry)) = some cs ∧ (∃ y ∈ (walkList cs).starts,
          y.snap.stage = stage) ∧ u.ledgerCurrent x l = true ∧ (x.cls = 0 ∨ l.ndc = 0 ∨ stage ∉ [6, 8, 9]))) :=
  ⟨⟨withAdmin paused (entry 0x21 (len := 5) (count := 16384)), _, 0, entry 0x21 (len := 5) (count := 16384),
    takesAdmin_now (by decide +kernel)⟩,
   ⟨withRun ready ⟨[], .pk (.sign [])⟩, [], [], rfl, by decide +kernel⟩,
   ⟨withAdmin paused (entry 0x22 (len := 5) (count := 1024)), _, 0, entry 0x22 (len := 5) (count := 1024),
    contextRecord, takesAdmin_now (by decide +kernel)⟩,
   ⟨withRun ready ⟨[], .pk (.certificate [])⟩, [], [], rfl, by decide +kernel⟩,
   ⟨withRun ready ⟨[], .pk (.verify [])⟩, [], [], rfl, by decide +kernel⟩,
   ⟨withAdmin (withQ (opened ready) 5 { queue3 with ledger := [ledger1] }) (entry 0x25 (len := 0x10005)), _, 0,
    entry 0x25 (len := 0x10005), list64, ledger1, [⟨4, 1, 0, 0, []⟩, ⟨7, 0, 0, 0, []⟩],
    takesAdmin_now (by decide +kernel), by decide +kernel, by decide +kernel, by decide +kernel,
    by decide +kernel, by decide +kernel, by decide +kernel, by decide +kernel⟩⟩

theorem test_witness_ClaimCommands :
    (∃ (s u : State) (t : Nat) (b : Bytes), s.takesAdmin t 0x2C b u ∧
      (let k := entLen b % 16
       let i := entLen b / 2 ^ 8 % 2 ^ 8
       let q := entLen b / 2 ^ 16 % 2 ^ 12
       let free := if i = 0xFF then (List.range (kindIndices k)).find? fun j => (u.claimOf k j).isNone else if
          u.claimOf k i = none then some i else none
       let status :=
          if ¬ (1 ≤ k ∧ k ≤ 6 ∧ q ≠ 0 ∧ (u.queue q).state ≠ .absent ∧ (i < kindIndices k ∨ i = 0xFF)) then 0x12
          else if (k = 2 ∨ k = 3 ∨ k = 4) ∧ entCount b ≠ 0 then 0x12
          else if k = 4 ∧ u.dbgAllowed = false then 0x32
          else match free with
          | none => 0x42
          | some j => if k = 6 ∧ u.reserveFits (j / 8) (entCount b) = false then 0x41 else 0
       status ≠ 0)) ∧
    (∃ (s u : State) (t : Nat) (b : Bytes), s.takesAdmin t 0x2C b u ∧
      (let k := entLen b % 16
       let i := entLen b / 2 ^ 8 % 2 ^ 8
       let q := entLen b / 2 ^ 16 % 2 ^ 12
       let free := if i = 0xFF then (List.range (kindIndices k)).find? fun j => (u.claimOf k j).isNone else if
          u.claimOf k i = none then some i else none
       let status :=
          if ¬ (1 ≤ k ∧ k ≤ 6 ∧ q ≠ 0 ∧ (u.queue q).state ≠ .absent ∧ (i < kindIndices k ∨ i = 0xFF)) then 0x12
          else if (k = 2 ∨ k = 3 ∨ k = 4) ∧ entCount b ≠ 0 then 0x12
          else if k = 4 ∧ u.dbgAllowed = false then 0x32
          else match free with
          | none => 0x42
          | some j => if k = 6 ∧ u.reserveFits (j / 8) (entCount b) = false then 0x41 else 0
       ∃ j, status = 0 ∧ free = some j)) ∧
    (∃ (s u : State) (t : Nat) (b : Bytes), s.takesAdmin t 0x2D b u ∧
      (let k := entLen b % 16
       let i := entLen b / 2 ^ 8 % 2 ^ 8
       let q := entLen b / 2 ^ 16 % 2 ^ 12
       let status :=
          if ¬ (1 ≤ k ∧ k ≤ 6 ∧ q ≠ 0 ∧ (u.queue q).state ≠ .absent ∧ i < kindIndices k) then 0x12
          else match u.claimOf k i with
          | none => 0x40
          | some c => if c.holder ≠ q then 0x42 else if u.resourceUsed k i = true then 0x42 else 0
       status ≠ 0)) ∧
    (∃ (s u : State) (t : Nat) (b : Bytes), s.takesAdmin t 0x2D b u ∧
      (let k := entLen b % 16
       let i := entLen b / 2 ^ 8 % 2 ^ 8
       let q := entLen b / 2 ^ 16 % 2 ^ 12
       let status :=
          if ¬ (1 ≤ k ∧ k ≤ 6 ∧ q ≠ 0 ∧ (u.queue q).state ≠ .absent ∧ i < kindIndices k) then 0x12
          else match u.claimOf k i with
          | none => 0x40
          | some c => if c.holder ≠ q then 0x42 else if u.resourceUsed k i = true then 0x42 else 0
       status = 0)) :=
  ⟨⟨withAdmin ready (entry 0x2C (len := 0x5FF07)), _, 0, entry 0x2C (len := 0x5FF07),
    takesAdmin_now (by decide +kernel), by decide +kernel⟩,
   ⟨withAdmin (withQ ready 5 queue3) (entry 0x2C (len := 0x53F06)), _, 0, entry 0x2C (len := 0x53F06),
    takesAdmin_now (by decide +kernel), 63, by decide +kernel, by decide +kernel⟩,
   ⟨withAdmin (withQ ready 5 queue3) (entry 0x2D (len := 0x50F01)), _, 0, entry 0x2D (len := 0x50F01),
    takesAdmin_now (by decide +kernel), by decide +kernel⟩,
   ⟨withAdmin (claimed (withQ ready 5 queue3) 1 15 5 9) (entry 0x2D (len := 0x50F01)), _, 0,
    entry 0x2D (len := 0x50F01), takesAdmin_now (by decide +kernel), by decide +kernel⟩⟩

theorem test_witness_PoolRecord :
    (∃ (s u : State) (t : Nat) (b d : Bytes), s.takesAdmin t 0x40 b u ∧ u.poolRecordStatus b d = 0) ∧
    (∃ (s u : State) (t : Nat) (b d : Bytes), s.takesAdmin t 0x40 b u ∧ u.poolRecordStatus b d ≠ 0) ∧
    (∃ (u : State) (b d : Bytes), (entLen b ≠ 256 ∨ slice d 0 8 ≠ asciiBytes "HYNUSPCF" ∨ leAt d 8 2 ≠ 1)) ∧
    (∃ (u : State) (b d : Bytes), u.poolRecordStatus b d = 0 ∧ leAt d 10 2 / 2 % 2 = 1) :=
  ⟨⟨withAdmin ready (entry 0x40 (len := 256)), _, 0, entry 0x40 (len := 256), poolRecord,
    takesAdmin_now (by decide +kernel), by decide +kernel⟩,
   ⟨withAdmin ready (entry 0x40 (len := 255)), _, 0, entry 0x40 (len := 255), poolRecord,
    takesAdmin_now (by decide +kernel), by decide +kernel⟩,
   ⟨ready, entry 0x40 (len := 255), poolRecord, by decide +kernel⟩,
   ⟨ready, entry 0x40 (len := 256), poolRecord, by decide +kernel, by decide +kernel⟩⟩

theorem test_witness_ImageCommands :
    (∃ (s u : State) (t : Nat) (b data : Bytes), s.takesAdmin t 0x08 b u) ∧
    (∃ (u : State) (b d : Bytes), u.loadRefusal d = none) ∧
    (∃ (u : State) (b d : Bytes) (r : Refused), u.loadRefusal d = some r) ∧
    (∃ (s u : State) (t : Nat) (b : Bytes) (im : Image), s.takesAdmin t 0x09 b u ∧ u.sil.staged = some im ∧
      u.allTested = true ∧ u.activateRefusal im (u.profileTooBig im) = none) ∧
    (∃ (s u : State) (t : Nat) (b : Bytes), s.takesAdmin t 0x09 b u ∧ u.sil.staged = none) ∧
    (∃ (s u : State) (t : Nat) (b : Bytes) (im : Image) (bind gs : List (Nat × Nat)), s.actsAt t u ∧
      u.qg.run = some ⟨b, .switch⟩ ∧ u.sil.staged = some im ∧ u.stw.restarting = false ∧ u.sil.actFailed = false ∧
      u.bindAll im = .ok bind ∧ grantClaims u.heldByQueue im.claims 0 [] = .ok gs) ∧
    (∃ (s u : State) (t : Nat) (b : Bytes) (im : Image), s.actsAt t u ∧ u.qg.run = some ⟨b, .switch⟩ ∧
      u.sil.staged = some im ∧ u.stw.restarting = false ∧ u.sil.actFailed = true) ∧
    (∃ (s u : State) (t : Nat) (b : Bytes) (im : Image) (r : Nat), s.actsAt t u ∧ u.qg.run = some ⟨b, .switch⟩ ∧
      u.sil.staged = some im ∧ u.stw.restarting = false ∧ u.sil.actFailed = false ∧
      (u.bindAll im = .error r ∨ grantClaims u.heldByQueue im.claims 0 [] = .error r)) :=
  ⟨⟨load 1728, _, 0, entry 0x08 (len := 1728), image, takesAdmin_now (by decide +kernel)⟩,
   ⟨(load 1728).popAdmin, [], portRead (entLen (entry 0x08 (len := 1728))) image, image_accepted⟩,
   ⟨(load 0).popAdmin, [], portRead (entLen (entry 0x08)) [],
    ((load 0).popAdmin.loadRefusal (portRead (entLen (entry 0x08)) [])).get nothing_refused,
    (Option.some_get _).symm⟩,
   ⟨withAdmin staged (entry 0x09), _, 0, entry 0x09, imgParse image, takesAdmin_now (by decide +kernel), rfl,
    by decide +kernel, image_activates⟩,
   ⟨withAdmin graded (entry 0x09), _, 0, entry 0x09, takesAdmin_now (by decide +kernel), by decide +kernel⟩,
   ⟨withRun staged ⟨entry 0x09, .switch⟩, _, 0, entry 0x09, imgParse image, [], [], now rfl, rfl, rfl,
    by decide +kernel, by decide +kernel, image_binds, by decide +kernel⟩,
   ⟨withRun { graded with sil := { graded.sil with staged := some (imgParse image), actFailed := true } } ⟨entry
    0x09, .switch⟩, _, 0, entry 0x09, imgParse image, now rfl, rfl, rfl, by decide +kernel, by decide +kernel⟩,
   ⟨withRun { graded with sil := { graded.sil with staged := some { imgParse image with claims := [⟨1, 1, 0⟩, ⟨1, 1, 0⟩] } } } ⟨entry 0x09,
    .switch⟩, _, 0, entry 0x09, { imgParse image with claims := [⟨1, 1, 0⟩, ⟨1, 1, 0⟩] }, 1, now rfl, rfl, rfl,
    by decide +kernel, by decide +kernel, .inr (by decide +kernel)⟩⟩

theorem test_witness_MicrocodeReload :
    (∃ (s u : State) (t : Nat) (b data : Bytes), s.takesAdmin t 0x0A b u) ∧
    (∃ (u : State) (b d : Bytes),
       let c := mcRole d
       let n := 128 + (mcLen d + 63) / 64 * 64
       entLen b = n + 128 ∧ slice d 0 8 = asciiBytes "HYNUSMCR" ∧ mcBank d ≤ 1 ∧ allZero (slice d 10 2) = true ∧
          allZero (slice d 20 12) = true ∧ allZero (slice d 80 48) = true ∧ allZero (slice d (n + 96) 32) = true ∧
          imgSigned u.sil.imageKeys (leAt d 16 4) (d.take n) (slice d n 128) = none ∧ bears c = true ∧
          mcLen d ≤ 32768 ∧ u.sil.active.map Image.digest = some (slice d 32 48) ∧ u.tileCount c ≠ 0 ∧ (∃ c',
          c' ≠ c)) ∧
    (∃ (u : State) (b d : Bytes), u.qg.run = some ⟨b, .reload d⟩ ∧ u.stw.restarting = false ∧
      u.faults.halt = false ∧ mcBank d ≤ 1 ∧
      (let c := mcRole d
       ∃ c', c' ≠ c)) :=
  ⟨⟨withAdmin reloading (entry 0x0A (len := 320)), _, 0, entry 0x0A (len := 320), microcode,
    takesAdmin_now (by decide +kernel)⟩,
   ⟨reloading, entry 0x0A (len := 320), microcode, by decide +kernel, by decide +kernel, by decide +kernel,
    by decide +kernel, by decide +kernel, by decide +kernel, by decide +kernel, microcode_signed,
    by decide +kernel, by decide +kernel, by decide +kernel, by decide +kernel, 2, by decide +kernel⟩,
   ⟨withRun ready ⟨[], .reload microcode⟩, [], microcode, rfl, by decide +kernel, by decide +kernel,
    by decide +kernel, 2, by decide +kernel⟩⟩

theorem test_witness_MatterOpens :
    (∃ (s u : State) (t : Nat) (b m : Bytes), s.takesAdmin t 0x10 b u ∧ m.length = 256) ∧
    (∃ (u : State) (b m : Bytes) (o : Offer) (p l : Nat), u.manifestStatus b m = 0 ∧ u.openPlan m = .ok (o, p,
      l) ∧ (∃ k, k ≠ l)) ∧
    (∃ (u : State) (b m : Bytes) (st : Nat), u.qg.run = some ⟨b, .pk (.verify m)⟩ ∧ u.stw.restarting = false ∧
      (if u.manifestStatus b m ≠ 0 then st = u.manifestStatus b m else u.openPlan m = .error st)) ∧
    (∃ (u : State) (b off : Bytes) (l : Nat) (x : Label), (u.label l).edge = false ∧
      u.openKeys (u.label l) off = .ok x ∧ u.pwr.inhibitRail = 0#4 ∧ (∃ k, k ≠ l)) ∧
    (∃ (u : State) (b off : Bytes) (l : Nat) (x : Label), (u.label l).edge = false ∧
      u.openKeys (u.label l) off = .ok x ∧ u.pwr.inhibitRail = 0#4 ∧ offCounter off + 1 < 2 ^ 64) ∧
    (∃ (u : State) (b off : Bytes) (l : Nat) (e : Nat × Nat), u.qg.run = some ⟨b, .pk (.agree l off)⟩ ∧
      u.stw.restarting = false ∧
      (if (u.label l).edge = true then e.2 = 0x32 else u.openKeys (u.label l) off = .error e) ∧ (∃ k, k ≠ l)) ∧
    (∃ (s u : State) (t : Nat) (seq : Byte) (p b : Bytes) (l gen slot token counter deadline : Nat),
      s.actsAt t u ∧ u.hears 0x09 seq.toNat p ∧ p.length = 17 ∧ u.qg.run = some ⟨b,
      .counter l gen slot token counter deadline⟩ ∧ leAt p 0 1 = slot ∧ leAt p 1 8 = token ∧
      leAt p 9 8 = counter ∧ u.now < deadline ∧ u.stw.restarting = false) ∧
    (∃ (s u : State) (t : Nat) (b : Bytes) (l gen slot token counter deadline : Nat), s.actsAt t u ∧
      u.qg.run = some ⟨b, .counter l gen slot token counter deadline⟩ ∧ deadline ≤ u.now ∧
      u.stw.restarting = false) :=
  ⟨⟨withAdmin offered (entry 0x10 (len := 256)), _, 0, entry 0x10 (len := 256), manifest,
    takesAdmin_now (by decide +kernel), by decide +kernel⟩,
   ⟨withRun offered ⟨[], .pk (.verify manifest)⟩, entry 0x10 (len := 256), manifest, ⟨offer⟩, 0, 0,
    by decide +kernel, by decide +kernel, 1, by decide +kernel⟩,
   ⟨withRun offered ⟨entry 0x10, .pk (.verify [])⟩, entry 0x10, [], 0x12, rfl, by decide +kernel, by decide +kernel⟩,
   ⟨agreeing, entry 0x10, offer, 0, getOk {} (agreeing.openKeys (agreeing.label 0) offer), by decide +kernel,
    isOk_eq offer_opens, by decide +kernel, 1, by decide +kernel⟩,
   ⟨agreeing, entry 0x10, offer, 0, getOk {} (agreeing.openKeys (agreeing.label 0) offer), by decide +kernel,
    isOk_eq offer_opens, by decide +kernel, by decide +kernel⟩,
   ⟨withRun { offered with cus := { offered.cus with labels := [(0, { edge := true })] } } ⟨entry 0x10,
    .pk (.agree 0 offer)⟩, entry 0x10, offer, 0, (0, 0x32), rfl, by decide +kernel, by decide +kernel, 1,
    by decide +kernel⟩,
   ⟨withRun offered ⟨entry 0x10, .counter 0 1 2 9 5 100⟩, _, 0, 1, leBytes 1 2 ++ leBytes 8 9 ++ leBytes 8 5,
    entry 0x10, 0, 1, 2, 9, 5, 100, now rfl, hears_fresh (by decide) rfl, by decide +kernel, by decide +kernel,
    by decide +kernel, by decide +kernel, by decide +kernel, by decide +kernel, by decide +kernel⟩,
   ⟨withRun offered ⟨entry 0x10, .counter 0 1 2 9 5 0⟩, _, 0, entry 0x10, 0, 1, 2, 9, 5, 0, now rfl,
    by decide +kernel, by decide +kernel, by decide +kernel⟩⟩

theorem test_witness_MatterEnds :
    (∃ (s u : State) (t : Nat) (b : Bytes), s.takesAdmin t 0x11 b u ∧ (u.label (entMatter b)).state = .opened) ∧
    (∃ (s u : State) (t : Nat) (b : Bytes) (rest : List (Option Bytes)), s.actsAt t u ∧
      u.qg.todo = some b :: rest ∧ entOp b = 0x12 ∧ u.faults.halt = false ∧ u.adminCheck b = none ∧
      (u.label (entMatter b)).gen = entGen b ∧
      ((u.label (entMatter b)).state = .opened ∨ (u.label (entMatter b)).state = .fenced ∨ (u.label (entMatter
      b)).state = .closing)) ∧
    (∃ (s u : State) (t : Nat) (l : BitVec 10) (failed : List (BitVec 8)), s.actsAt t u ∧
      (u.label l.toNat).state = .erasing) ∧
    (∃ (u : State) (l : Nat), (u.label l).state = .erasing ∧ (∃ k, k ≠ l)) ∧
    (∃ (u : State) (l : Nat), (u.label l).state = .erasing ∧ (∃ b x, u.qg.run = some ⟨b, .erase l⟩ ∧
      u.stw.restarting = false ∧ x = (u.label l).source)) :=
  ⟨⟨withAdmin (opened ready) (entry 0x11 (matter := 3)), _, 0, entry 0x11 (matter := 3),
    takesAdmin_now (by decide +kernel), by decide +kernel⟩,
   ⟨withAdmin (opened ready) (entry 0x12 (matter := 3)), _, 0, entry 0x12 (matter := 3), [], now rfl,
    by decide +kernel, by decide +kernel, by decide +kernel, by decide +kernel, by decide +kernel, by decide +kernel⟩,
   ⟨{ ready with cus := { labels := [(1023, { state := .erasing })] } }, _, 0, 1023, [], now rfl, by decide +kernel⟩,
   ⟨{ ready with cus := { labels := [(1023, { state := .erasing })] } }, 1023, by decide +kernel, 3,
    by decide +kernel⟩,
   ⟨withRun { ready with cus := { labels := [(1023, { state := .erasing })] } } ⟨[], .erase 1023⟩, 1023,
    by decide +kernel, [], 0, by decide +kernel, by decide +kernel, by decide +kernel⟩⟩

theorem test_witness_PresenceRules :
    (∃ (s u : State) (t : Nat) (slot : BitVec 3), s.actsAt t u ∧ u.isPresent slot.toNat = true) ∧
    (∃ (s u : State) (t : Nat) (slot : BitVec 3), s.actsAt t u ∧ u.isPresent slot.toNat = false) ∧
    (∃ (s u : State) (t : Nat) (seq : Byte) (p : Bytes), s.actsAt t u ∧ u.hears 0x06 seq.toNat p ∧ p.length = 10 ∧
      leAt p 0 1 ≤ 7 ∧ leAt p 9 1 = 1 ∧ u.inWindow (leAt p 0 1) = true) ∧
    (∃ (s u : State) (t : Nat) (seq : Byte) (p : Bytes), s.actsAt t u ∧ u.hears 0x06 seq.toNat p ∧ p.length = 10 ∧
      leAt p 0 1 ≤ 7 ∧ (∀ l,
      (u.label l).slot = leAt p 0 1 → (u.label l).state.live = true → (u.label l).token ≠ leAt p 1 8)) ∧
    (∃ (s u : State) (t : Nat) (slot : BitVec 3) (w : Nat × Nat), s.actsAt t u ∧
      Tab.find u.cus.windows slot.toNat = some w ∧ w.1 + w.2 ≤ u.now) :=
  ⟨⟨offered, _, 0, 2, now rfl, by decide +kernel⟩,
   ⟨offered, _, 0, 7, now rfl, by decide +kernel⟩,
   ⟨{ offered with cus := { offered.cus with windows := [(2, (0, 1))] } }, _, 0, 1,
    leBytes 1 2 ++ leBytes 8 9 ++ [1], now rfl, hears_fresh (by decide) rfl, by decide +kernel, by decide +kernel,
    by decide +kernel, by decide +kernel⟩,
   ⟨offered, _, 0, 1, leBytes 1 2 ++ leBytes 8 9 ++ [0], now rfl, hears_fresh (by decide) rfl, by decide +kernel,
    by decide +kernel, fun _ _ h => absurd (show false = true from h) Bool.false_ne_true⟩,
   ⟨{ offered with cus := { offered.cus with windows := [(7, (0, 0))] } }, _, 0, 7, (0, 0), now rfl,
    by decide +kernel, by decide +kernel⟩⟩

theorem test_witness_CustodyFrames :
    (∃ (s u : State) (t : Nat) (seq : Byte) (p : Bytes), s.actsAt t u ∧ u.hears 0x01 seq.toNat p ∧ p.length = 10 ∧
      leAt p 8 2 = 1 ∧ u.cus.sessionOk = true) ∧
    (∃ (s u : State) (t : Nat) (seq : Byte) (p : Bytes), s.actsAt t u ∧ u.hears 0x01 seq.toNat p ∧ p.length = 10 ∧
      leAt p 8 2 = 1 ∧ u.cus.sessionOk = false) ∧
    (∃ (s u : State) (t k : Nat) (seq : Byte) (p : Bytes) (x : Received) (i : Instr), s.actsAt t u ∧
      u.pwr.phase ≠ .moult ∧ (k, i) ∈ [(0x01, Instr.hello t seq p), (0x03, .offer t seq p), (0x06,
      .probeAck t seq p), (0x09, .counterAck t seq p), (0x0A, .windowRead t seq p)] ∧ u.cus.rxLast = some x ∧
      x.seq = seq.toNat ∧ x.crc = frameCrc k seq.toNat p) ∧
    (∃ (s u : State) (t : Nat) (seq : Byte) (p : Bytes), s.actsAt t u ∧ u.hears 0x03 seq.toNat p) ∧
    (∃ (u : State) (p : Bytes), u.judgeOffer p = 0) ∧
    (∃ (s u : State) (t : Nat) (seq : Byte) (p : Bytes), s.actsAt t u ∧ u.hears 0x0A seq.toNat p ∧ p.length = 11 ∧
      leAt p 0 1 ≤ 4 ∧ 288 ≤ leAt p 9 2) ∧
    (∃ (s u : State) (t : Nat) (seq n : Byte) (f : Frame), s.actsAt t u ∧ u.pwr.phase ≠ .moult ∧
      u.awaits n.toNat = some f) ∧
    (∃ (s u : State) (t : Nat) (seq n r : Byte) (f : Frame), s.actsAt t u ∧ u.pwr.phase ≠ .moult ∧
      u.awaits n.toNat = some f ∧ r ≠ 1#8) ∧
    (∃ (s u : State) (t : Nat) (seq n : Byte) (f : Frame), s.actsAt t u ∧ u.pwr.phase ≠ .moult ∧
      u.awaits n.toNat = some f) ∧
    (∃ (s u : State) (t : Nat) (type seq : Byte), s.actsAt t u ∧ u.pwr.phase ≠ .moult) ∧
    (∃ (s u : State) (t : Nat) (seq : Byte) (f : Frame), s.actsAt t u ∧ u.awaits seq.toNat = some f ∧
      (f.type ≠ 8 ∨ u.pwr.inhibitRail = 0)) ∧
    (∃ (s u : State) (t : Nat) (seq : Byte) (f : Frame), s.actsAt t u ∧ u.awaits seq.toNat = some f ∧ f.type = 8 ∧
      f.resends < 3 ∧ u.pwr.inhibitRail ≠ 0) ∧
    (∃ (s u : State) (t : Nat), s.actsAt t u) :=
  ⟨⟨offered, _, 0, 1, zeroBytes 8 ++ leBytes 2 1, now rfl, hears_fresh (by decide) rfl, by decide +kernel,
    by decide +kernel, by decide +kernel⟩,
   ⟨ready, _, 0, 1, zeroBytes 8 ++ leBytes 2 1, now rfl, hears_fresh (by decide) rfl, by decide +kernel,
    by decide +kernel, by decide +kernel⟩,
   ⟨{ ready with cus := { rxLast := some { seq := 1, crc := frameCrc 3 1 [], ansType := 14, answer := [1] } } },
    _, 0, 3, 1, [], { seq := 1, crc := frameCrc 3 1 [], ansType := 14, answer := [1] }, .offer 0 1 [], now rfl,
    by decide +kernel, by decide +kernel, by decide +kernel, by decide +kernel, by decide +kernel⟩,
   ⟨offered, _, 0, 1, offer, now rfl, hears_fresh (by decide) rfl⟩,
   ⟨{ offered with cus := { offered.cus with offers := [] } }, offer, by decide +kernel⟩,
   ⟨offered, _, 0, 1, leBytes 9 4 ++ leBytes 2 288, now rfl, hears_fresh (by decide) rfl, by decide +kernel,
    by decide +kernel, by decide +kernel⟩,
   ⟨awaiting, _, 0, 1, 4, { type := 6, seq := 4, payload := [] }, now rfl, by decide +kernel, by decide +kernel⟩,
   ⟨awaiting, _, 0, 1, 4, 2, { type := 6, seq := 4, payload := [] }, now rfl, by decide +kernel,
    by decide +kernel, by decide +kernel⟩,
   ⟨awaiting, _, 0, 1, 4, { type := 6, seq := 4, payload := [] }, now rfl, by decide +kernel, by decide +kernel⟩,
   ⟨ready, _, 0, 3, 1, now rfl, by decide +kernel⟩,
   ⟨awaiting, _, 0, 4, { type := 6, seq := 4, payload := [] }, now rfl, by decide +kernel, by decide +kernel⟩,
   ⟨{ ready with pwr := { phase := .ready, inhibitRail := 1 }, cus := { awaiting := [{ type := 8, seq := 4, payload := [] }] } },
    _, 0, 4, { type := 8, seq := 4, payload := [] }, now rfl, by decide +kernel, by decide +kernel,
    by decide +kernel, by decide +kernel⟩,
   ⟨ready, _, 0, now rfl⟩⟩

theorem test_witness_DualControl :
    (∃ (s u : State) (t : Nat) (v : BitVec 32), s.actsAt t u ∧ v.toNat % 4 = 1) ∧
    (∃ (s u : State) (t : Nat) (v : BitVec 32), s.actsAt t u ∧ v.toNat % 4 = 2) ∧
    (∃ (s u : State) (t : Nat) (v : BitVec 32), s.actsAt t u ∧ v.toNat % 4 = 3) ∧
    (∃ (s u : State) (t : Nat), s.actsAt t u) ∧
    (∃ (s u : State) (t : Nat), s.actsAt t u) ∧
    (∃ (s u : State) (t a b : Nat), s.actsAt t u ∧ u.cus.btnA = some a ∧ u.cus.btnB = some b ∧
      u.cus.acted = false ∧ max a b + 10 ^ 9 ≤ u.now ∧ max a b - min a b < 5 * 10 ^ 8 ∧ u.cus.armTick ≤ u.now ∧
      u.now < u.cus.armTick + 10 ^ 10) ∧
    (∃ (s u : State) (t : Nat), s.actsAt t u) ∧
    (∃ (s u : State) (t : Nat), s.actsAt t u ∧ u.cus.dbgUnlocked = true ∧ u.cus.dbgExpiry ≤ u.now) ∧
    (∃ (s u : State) (t : Nat) (i : TapInstr) (a : DebugAccess), s.actsAt t u) ∧
    (∃ (u : State) (off : BitVec 19) (w : Nat) (v : BitVec 64), u.cus.tap = .hyReg) ∧
    (∃ (u : State) (x : DebugUnit) (n : Nat) (d : Bytes), u.cus.tap = .hyMem ∧ u.holdsLabel x = true) ∧
    (∃ (u : State) (a : DebugAccess), (a = .nothing ∨ (u.cus.tap ≠ .hyReg ∧ u.cus.tap ≠ .hyMem))) :=
  ⟨⟨ready, _, 0, 1, now rfl, by decide +kernel⟩,
   ⟨ready, _, 0, 2, now rfl, by decide +kernel⟩,
   ⟨ready, _, 0, 3, now rfl, by decide +kernel⟩,
   ⟨ready, _, 0, now rfl⟩,
   ⟨ready, _, 0, now rfl⟩,
   ⟨{ ready with time := { gcnt := 2 * 10 ^ 9 }, cus := { btnA := some (10 ^ 9), btnB := some 600000000, armedKind := 1 } },
    _, 0, 10 ^ 9, 600000000, now rfl, by decide +kernel, by decide +kernel, by decide +kernel, by decide +kernel,
    by decide +kernel, by decide +kernel, by decide +kernel⟩,
   ⟨ready, _, 0, now rfl⟩,
   ⟨{ ready with cus := { dbgUnlocked := true } }, _, 0, now rfl, by decide +kernel, by decide +kernel⟩,
   ⟨ready, _, 0, .hyTrace, .nothing, now rfl⟩,
   ⟨{ ready with cus := { tap := .hyReg } }, 0, 4, 0, by decide +kernel⟩,
   ⟨{ ready with cus := { tap := .hyMem } }, .keySlot 3, 1, [], by decide +kernel, by decide +kernel⟩,
   ⟨ready, .nothing, .inl rfl⟩⟩

theorem test_witness_TableLoads :
    (∃ (s u : State) (t : Nat) (b data : Bytes), s.takesAdmin t 0x18 b u) ∧
    (∃ (s u : State) (t : Nat) (b data : Bytes) (cs : List Nat), s.takesAdmin t 0x19 b u ∧
      (let d := padTo (entLen b) data
       let l := entMatter b
       u.publicKeyStatus b d = 0 ∧ Tab.find u.keyCache l = none ∧ u.takeEnc ((entLen b + 65535) / 65536) = some cs)) ∧
    (∃ (s u : State) (t : Nat) (b data : Bytes), s.takesAdmin t 0x19 b u ∧
      u.publicKeyStatus b (padTo (entLen b) data) ≠ 0) ∧
    (∃ (s u : State) (t : Nat) (b data : Bytes), s.takesAdmin t 0x19 b u ∧
      (let d := padTo (entLen b) data
       u.publicKeyStatus b d = 0 ∧
          (Tab.find u.keyCache (entMatter b) ≠ none ∨ u.takeEnc ((entLen b + 65535) / 65536) = none))) ∧
    (∃ (s u : State) (t : Nat) (b data : Bytes), s.takesAdmin t 0x1A b u ∧
      (let d := padTo (entLen b) data
       u.dictionaryStatus b d = 0 ∧ u.takeEnc (dctCells d) = none)) ∧
    (∃ (s u : State) (t : Nat) (b data : Bytes) (cs : List Nat), s.takesAdmin t 0x1A b u ∧
      (let d := padTo (entLen b) data
       u.dictionaryStatus b d = 0 ∧ u.takeEnc (dctCells d) = some cs)) ∧
    (∃ (s u : State) (t : Nat) (b data : Bytes), s.takesAdmin t 0x1A b u ∧
      u.dictionaryStatus b (padTo (entLen b) data) ≠ 0) :=
  ⟨⟨withAdmin ready (entry 0x18), _, 0, entry 0x18, [], takesAdmin_now (by decide +kernel)⟩,
   ⟨withAdmin loading (entry 0x19 (matter := 3) (len := 80)), _, 0, entry 0x19 (matter := 3) (len := 80),
    publicKey, [encFirst], takesAdmin_now (by decide +kernel), by decide +kernel, by decide +kernel,
    by decide +kernel⟩,
   ⟨withAdmin loading (entry 0x19 (matter := 3)), _, 0, entry 0x19 (matter := 3), publicKey,
    takesAdmin_now (by decide +kernel), by decide +kernel⟩,
   ⟨withAdmin { loading with keyCache := [(3, ⟨0, [], [], []⟩)] } (entry 0x19 (matter := 3) (len := 80)), _, 0,
    entry 0x19 (matter := 3) (len := 80), publicKey, takesAdmin_now (by decide +kernel), by decide +kernel,
    .inl (by decide +kernel)⟩,
   ⟨withAdmin full (entry 0x1A (matter := 3) (len := 80)), _, 0, entry 0x1A (matter := 3) (len := 80), dictionary,
    takesAdmin_now (by decide +kernel), by decide +kernel, by decide +kernel⟩,
   ⟨withAdmin loading (entry 0x1A (matter := 3) (len := 80)), _, 0, entry 0x1A (matter := 3) (len := 80),
    dictionary, [encFirst], takesAdmin_now (by decide +kernel), by decide +kernel, by decide +kernel⟩,
   ⟨withAdmin loading (entry 0x1A (matter := 3)), _, 0, entry 0x1A (matter := 3), dictionary,
    takesAdmin_now (by decide +kernel), by decide +kernel⟩⟩

theorem test_witness_EventRecords :
    (∃ (s : State) (c code sev : Nat) (p : Bytes),
      coalesces s.erw.window.toNat s.now code (padPayload p) (s.chan c).records.getLast? = false ∧
      bytesOf (s.chan c).records + (32 + (padPayload p).length) ≤ partition c) ∧
    (∃ (s : State) (c code sev : Nat) (p : Bytes) (r : Record), (s.chan c).records.getLast? = some r ∧
      r.code = code ∧ r.payload = padPayload p ∧ r.closed = false ∧ r.free = false ∧ r.first ≤ s.now ∧
      s.now < r.first + s.erw.window.toNat * 10 ^ 6) ∧
    (∃ (s : State) (c code sev : Nat) (p : Bytes), bytesOf (s.chan c).records ≤ partition c ∧
      32 + (padPayload p).length ≤ partition c) ∧
    (∃ (s : State) (c k code sev : Nat) (p : Bytes), k ≠ c) :=
  ⟨⟨ready, 0, 0x0201, 1, [], by decide +kernel, by decide +kernel⟩,
   ⟨withChan record1, 1, 2, 3, [], record1, by decide +kernel, by decide +kernel, by decide +kernel,
    by decide +kernel, by decide +kernel, by decide +kernel, by decide +kernel⟩,
   ⟨ready, 2, 1, 1, [], by decide +kernel, by decide +kernel⟩,
   ⟨ready, 0, 1, 1, 1, [], by decide +kernel⟩⟩

theorem test_witness_RecorderCommands :
    (∃ (s u : State) (t : Nat) (v : BitVec 32), s.actsAt t u ∧ v.toNat / 2 ^ 8 % 2 = 1) ∧
    (∃ (s u : State) (t : Nat) (v : BitVec 32), s.actsAt t u) ∧
    (∃ (s u : State) (t : Nat) (b : Bytes), s.takesAdmin t 0x31 b u ∧ u.pwr.inhibitRail = 0 ∧ u.erw.flush = none ∧
      flushMin ≤ u.erw.size.toNat) ∧
    (∃ (s u : State) (t : Nat) (b : Bytes), s.takesAdmin t 0x31 b u ∧ u.pwr.inhibitRail ≠ 0) ∧
    (∃ (s u : State) (t : Nat) (b : Bytes), s.takesAdmin t 0x31 b u ∧ u.pwr.inhibitRail = 0 ∧ u.erw.flush ≠ none) ∧
    (∃ (s u : State) (t : Nat) (b : Bytes), s.takesAdmin t 0x31 b u ∧ u.pwr.inhibitRail = 0 ∧ u.erw.flush = none ∧
      u.erw.size.toNat < flushMin) ∧
    (∃ (s u : State) (t : Nat) (f : Flush), s.actsAt t u ∧ u.erw.flush = some f ∧ u.stw.restarting = false) ∧
    (∃ (s u : State) (t : Nat) (b token : Bytes), s.takesAdmin t 0x30 b u) ∧
    (∃ (u : State) (b token : Bytes), u.qg.run = some ⟨b, .pk (.verify token)⟩ ∧ u.stw.restarting = false) ∧
    (∃ (u : State) (b token : Bytes), u.clearStatus b token = 0 ∧ entCount b = 256) ∧
    (∃ (u : State) (b token : Bytes), u.clearStatus b token = 0 ∧ entCount b ≠ 256) :=
  ⟨⟨ready, _, 0, 0x100, now rfl, by decide +kernel⟩,
   ⟨ready, _, 0, 0, now rfl⟩,
   ⟨withAdmin { ready with erw := { size := 2621504 } } (entry 0x31), _, 0, entry 0x31,
    takesAdmin_now (by decide +kernel), by decide +kernel, by decide +kernel, by decide +kernel⟩,
   ⟨withAdmin { ready with pwr := { phase := .ready, inhibitRail := 8 } } (entry 0x31), _, 0, entry 0x31,
    takesAdmin_now (by decide +kernel), by decide +kernel⟩,
   ⟨withAdmin { ready with erw := { flush := some flush1 } } (entry 0x31), _, 0, entry 0x31,
    takesAdmin_now (by decide +kernel), by decide +kernel, by decide +kernel⟩,
   ⟨withAdmin ready (entry 0x31), _, 0, entry 0x31, takesAdmin_now (by decide +kernel), by decide +kernel,
    by decide +kernel, by decide +kernel⟩,
   ⟨{ ready with erw := { flush := some flush1 } }, _, 0, flush1, now rfl, by decide +kernel, by decide +kernel⟩,
   ⟨withAdmin ready (entry 0x30 (len := 3)), _, 0, entry 0x30 (len := 3), [], takesAdmin_now (by decide +kernel)⟩,
   ⟨withRun ready ⟨[], .pk (.verify [])⟩, [], [], rfl, by decide +kernel⟩,
   ⟨clearing, entry 0x30 (len := 2) (addr := 64) (count := 256), token2, token_passes, by decide +kernel⟩,
   ⟨{ ready with cus := { clearGranted := true, grantEnd := 1 } }, entry 0x30 (len := 2), [], by decide +kernel,
    by decide +kernel⟩⟩

theorem test_witness_PkJobStarts :
    (∃ (s u : State) (t : Nat) (b desc operands : Bytes), s.takesAdmin t 0x28 b u ∧ (∃ j,
      u.pkChecks b desc operands = .ok j)) ∧
    (∃ (s u : State) (t : Nat) (b desc operands : Bytes), s.takesAdmin t 0x28 b u ∧ (∃ e,
      u.pkChecks b desc operands = .error e)) ∧
    (∃ (u : State) (op : PkOp) (rest : List PkOp), u.pke.startup = op :: rest) ∧
    (∃ (u : State) (a : PkJob), u.pke.startup = [] ∧ u.pke.admin = some a ∧
      (u.pke.manifests = [] ∨ u.pke.ended = false ∨ u.pke.lastManifest = true)) ∧
    (∃ (u : State) (n : Nat) (rest : List Nat), u.pke.startup = [] ∧ u.pke.manifests = n :: rest ∧
      (u.pke.admin = none ∨ (u.pke.ended = true ∧ u.pke.lastManifest = false))) ∧
    (∃ (s u : State) (t draw : Nat) (j : PkJob), s.actsAt t u ∧ u.pke.running = none ∧ u.nextPk = some j ∧
      u.keyGone j = false ∧ j.op = .sign) ∧
    (∃ (s u : State) (t draw : Nat) (j : PkJob), s.actsAt t u ∧ u.pke.running = none ∧ u.nextPk = some j ∧
      u.keyGone j = false ∧ j.op = .verify) ∧
    (∃ (s u : State) (t draw : Nat) (j : PkJob), s.actsAt t u ∧ u.pke.running = none ∧ u.nextPk = some j ∧
      u.keyGone j = false ∧ j.op = .keypair) ∧
    (∃ (s u : State) (t draw : Nat) (j : PkJob), s.actsAt t u ∧ u.pke.running = none ∧ u.nextPk = some j ∧
      u.keyGone j = false ∧ j.op = .ecdh) ∧
    (∃ (s u : State) (t draw : Nat) (j : PkJob), s.actsAt t u ∧ u.pke.running = none ∧ u.nextPk = some j ∧
      u.keyGone j = false ∧ j.op = .curve) ∧
    (∃ (s u : State) (t : Nat) (j : PkJob), s.actsAt t u ∧ u.pke.running = none ∧ u.nextPk = some j ∧
      u.keyGone j = true ∧ j.op = .sign) ∧
    (∃ (s u : State) (t : Nat) (j : PkJob), s.actsAt t u ∧ u.pke.running = none ∧ u.nextPk = some j ∧
      u.keyGone j = true ∧ j.op = .ecdh) ∧
    (∃ (s u : State) (t draw : Nat), s.actsAt t u ∧ u.pke.running ≠ none ∧ (∃ c, c ∈ [Instr.sign t, .verify t,
      .keypair t draw, .ecdh t, .curve t])) ∧
    (∃ (s u : State) (t : Nat) (v : BitVec 32), s.actsAt t u ∧ v.toNat / 16 % 2 = 1 ∧
      (let k := v.toNat % 16
       k = 0)) ∧
    (∃ (s u : State) (t : Nat) (v : BitVec 32), s.actsAt t u ∧ v.toNat / 16 % 2 = 1 ∧
      (let k := v.toNat % 16
       let used := ∃ j, u.pke.running = some j ∧ j.client = .host ∧ j.key = k ∧
          (j.op = .sign ∨ j.op = .ecdh ∨ j.keep = true)
       k ≠ 0 ∧ ¬ used)) ∧
    (∃ (s u : State) (t : Nat) (v : BitVec 32), s.actsAt t u ∧ v.toNat / 16 % 2 = 1 ∧
      (let k := v.toNat % 16
       let used := ∃ j, u.pke.running = some j ∧ j.client = .host ∧ j.key = k ∧
          (j.op = .sign ∨ j.op = .ecdh ∨ j.keep = true)
       k ≠ 0 ∧ used)) :=
  ⟨⟨withAdmin ready (entry 0x28 (len := 64)), _, 0, entry 0x28 (len := 64), descriptor, [],
    takesAdmin_now (by decide +kernel), { job .keypair with hash := 0, outAddr := 64, outLen := 145 },
    by decide +kernel⟩,
   ⟨withAdmin ready (entry 0x28 (len := 63)), _, 0, entry 0x28 (len := 63), descriptor, [],
    takesAdmin_now (by decide +kernel), 0x12, by decide +kernel⟩,
   ⟨{ ready with pke := { startup := [.keypair, .verify] } }, .keypair, [.verify], by decide +kernel⟩,
   ⟨{ ready with pke := { admin := some (job .sign) } }, job .sign, by decide +kernel, by decide +kernel,
    by decide +kernel⟩,
   ⟨{ ready with pke := { manifests := [0] } }, 0, [], by decide +kernel, by decide +kernel, by decide +kernel⟩,
   ⟨{ ready with pke := { admin := some (job .sign) } }, _, 0, 0, job .sign, now rfl, by decide +kernel,
    by decide +kernel, by decide +kernel, by decide +kernel⟩,
   ⟨{ ready with pke := { admin := some (job .verify) } }, _, 0, 0, job .verify, now rfl, by decide +kernel,
    by decide +kernel, by decide +kernel, by decide +kernel⟩,
   ⟨{ ready with pke := { admin := some (job .keypair) } }, _, 0, 0, job .keypair, now rfl, by decide +kernel,
    by decide +kernel, by decide +kernel, by decide +kernel⟩,
   ⟨{ ready with pke := { admin := some (job .ecdh) } }, _, 0, 0, job .ecdh, now rfl, by decide +kernel,
    by decide +kernel, by decide +kernel, by decide +kernel⟩,
   ⟨{ ready with pke := { admin := some (job .curve) } }, _, 0, 0, job .curve, now rfl, by decide +kernel,
    by decide +kernel, by decide +kernel, by decide +kernel⟩,
   ⟨{ ready with pke := { admin := some (job .sign 15) } }, _, 0, job .sign 15, now rfl, by decide +kernel,
    by decide +kernel, by decide +kernel, by decide +kernel⟩,
   ⟨{ ready with pke := { admin := some (job .ecdh 1) } }, _, 0, job .ecdh 1, now rfl, by decide +kernel,
    by decide +kernel, by decide +kernel, by decide +kernel⟩,
   ⟨{ ready with pke := { running := some (job .sign) } }, _, 0, 0, now rfl, by decide +kernel, .sign 0,
    by decide +kernel⟩,
   ⟨ready, _, 0, 16, now rfl, by decide +kernel, by decide +kernel⟩,
   ⟨ready, _, 0, 17, now rfl, by decide +kernel, by decide +kernel, fun ⟨_, h, _⟩ => by cases h⟩,
   ⟨{ ready with pke := { running := some (job .sign 15) } }, _, 0, 31, now rfl, by decide +kernel,
    by decide +kernel, ⟨_, rfl, by decide +kernel⟩⟩⟩

theorem test_witness_PkJobEnds :
    (∃ (s u : State) (t : Nat) (n : BitVec 2) (c : BitVec 16) (j : PkJob), s.actsAt t u ∧ u.pke.running = some j ∧
      u.now < (if n = 0 then j.start + j.dur else j.start + 2 * j.dur)) ∧
    (∃ (s u v : State) (t : Nat) (n : BitVec 2) (c : BitVec 16) (j : PkJob), s.actsAt t u ∧
      u.pke.running = some j ∧ (if n = 0 then j.start + j.dur else j.start + 2 * j.dur) ≤ u.now ∧
      v = (let w := if c = 0 then u else
      { u with pke := { u.pke with eccCe := u.pke.eccCe.add 16 c.toNat u.now } };
      if n = 0 then w else { w with pke := { w.pke with outchk := w.pke.outchk.add 16 n.toNat w.now } }.record 1
      0x0115 3 (leBytes 1 0 ++ leBytes 1 0 ++ (leBytes 1 j.op.code ++ leBytes 1 j.slot)))) ∧
    (∃ (p : Pke) (j : PkJob), p.clearing = []) ∧
    (∃ (u : State) (j : PkJob) (b : Bytes), u.qg.run = some ⟨b, .pkJob⟩ ∧ (∃ aborted,
       let o := if aborted = true then (0x60, []) else u.pkOutcome j
       o.1 = 0)) ∧
    (∃ (u : State) (j : PkJob) (b : Bytes), u.qg.run = some ⟨b, .pkJob⟩ ∧ (∃ aborted,
       let o := if aborted = true then (0x60, []) else u.pkOutcome j
       o.1 ≠ 0)) ∧
    (∃ (u : State) (j : PkJob) (aborted : Bool), j.op = .keypair ∧ aborted = false) ∧
    (∃ (u : State) (j : PkJob) (aborted : Bool), j.op = .keypair ∧ aborted = true) ∧
    (∃ (u : State) (j : PkJob) (aborted : Bool), j.op = .verify ∧ aborted = false ∧ u.sil.cert.ok = true) ∧
    (∃ (u : State) (j : PkJob) (aborted : Bool), j.op = .verify ∧ aborted = true) ∧
    (∃ (u : State) (j : PkJob) (m : Manifest), Tab.find u.pke.held j.manifest = some m ∧ u.runFenced m.run = false) ∧
    (∃ (u : State) (j : PkJob) (m : Manifest), Tab.find u.pke.held j.manifest = some m ∧ u.runFenced m.run = true) ∧
    (∃ (u : State) (j : PkJob) (x : CurveSlot), u.curveAt j.slot = some x ∧
      (let d := u.jobScalar j x.curve.w
       j.op = .sign ∧ scalarOk x.curve d = false)) ∧
    (∃ (u : State) (j : PkJob) (x : CurveSlot), u.curveAt j.slot = some x ∧
      (let d := u.jobScalar j x.curve.w
       j.op = .ecdh ∧ scalarOk x.curve d = false)) ∧
    (∃ (u : State) (j : PkJob) (x : CurveSlot), u.curveAt j.slot = some x ∧ j.op = .verify) ∧
    (∃ (u : State) (j : PkJob) (x : CurveSlot), u.curveAt j.slot = some x ∧ j.op = .keypair) ∧
    (∃ (u : State) (j : PkJob), j.op = .curve) ∧
    (∃ (u : State) (j : PkJob), j.op = .curve ∧ 3 ≤ j.slot ∧ j.slot < 16) :=
  ⟨⟨{ ready with pke := { running := some { job .sign with dur := 1 } } }, _, 0, 1, 0,
    { job .sign with dur := 1 }, now rfl, by decide +kernel, by decide +kernel⟩,
   ⟨{ ready with pke := { running := some (job .sign) } }, _, _, 0, 3, 1, job .sign, now rfl, by decide +kernel,
    by decide +kernel, rfl⟩,
   ⟨{}, job .sign, by decide +kernel⟩,
   ⟨withRun ready ⟨[], .pkJob⟩, job .keypair, [], rfl, false, by decide +kernel⟩,
   ⟨withRun ready ⟨[], .pkJob⟩, job .sign, [], rfl, false, by decide +kernel⟩,
   ⟨ready, job .keypair, false, by decide +kernel, by decide +kernel⟩,
   ⟨ready, job .keypair, true, by decide +kernel, by decide +kernel⟩,
   ⟨{ ready with sil := { cert := ⟨true, 1, 0x41, 0, 0⟩ } }, job .verify, false, by decide +kernel,
    by decide +kernel, by decide +kernel⟩,
   ⟨ready, job .verify, true, by decide +kernel, by decide +kernel⟩,
   ⟨{ working [] with pke := { held := [(0, ⟨1, 0, 0, [], none⟩)] } }, job .sign, ⟨1, 0, 0, [], none⟩,
    by decide +kernel, by decide +kernel⟩,
   ⟨{ working [] with pke := { held := [(0, ⟨1, 0, 0, [], none⟩)] }, cus := { labels := [(3, { state := .fenced })] } },
    job .sign, ⟨1, 0, 0, [], none⟩, by decide +kernel, by decide +kernel⟩,
   ⟨ready, job .sign, ⟨curveP384, sha384 (curveRecord curveP384)⟩, by decide +kernel, by decide +kernel,
    by decide +kernel⟩,
   ⟨ready, job .ecdh, ⟨curveP384, sha384 (curveRecord curveP384)⟩, by decide +kernel, by decide +kernel,
    by decide +kernel⟩,
   ⟨ready, job .verify, ⟨curveP384, sha384 (curveRecord curveP384)⟩, by decide +kernel, by decide +kernel⟩,
   ⟨ready, job .keypair, ⟨curveP384, sha384 (curveRecord curveP384)⟩, by decide +kernel, by decide +kernel⟩,
   ⟨ready, job .curve, by decide +kernel⟩,
   ⟨ready, { job .curve with slot := 15 }, by decide +kernel, by decide +kernel, by decide +kernel⟩⟩

theorem test_witness_TimeCommands :
    (∃ (s u : State) (t : Nat) (x : BitVec 64), s.actsAt t u ∧ u.pwr.phase ≠ .moult ∧ u.time.locked = true ∧
      x.toNat = u.now + 1) ∧
    (∃ (s u : State) (t : Nat) (x : BitVec 64), s.actsAt t u ∧ u.pwr.phase ≠ .moult ∧ u.time.locked = true ∧
      x.toNat ≠ u.now + 1) ∧
    (∃ (s u : State) (t : Nat) (x : BitVec 64), s.actsAt t u ∧ u.pwr.phase ≠ .moult ∧ u.time.locked = false ∧
      x.toNat = u.now + 1) ∧
    (∃ (s u : State) (t : Nat) (x : BitVec 64), s.actsAt t u ∧ u.pwr.phase ≠ .moult ∧ u.time.locked = false ∧
      u.time.holdover = false ∧ u.now + 1 < x.toNat) ∧
    (∃ (s u : State) (t : Nat), s.actsAt t u ∧ u.time.locked = false) ∧
    (∃ (s u : State) (t : Nat), s.actsAt t u ∧ u.time.locked = true) ∧
    (∃ (s u : State) (t : Nat) (x : BitVec 64), s.actsAt t u ∧ u.time.holdover = true ∧ u.time.holding = false) ∧
    (∃ (s : State) (t : Nat), s.pwr.inReset = false ∧ s.time.gcnt < t ∧ s.time.holding = true) ∧
    (∃ (s u : State) (t : Nat) (d : BitVec 32), s.actsAt t u ∧ u.pwr.phase ≠ .moult) ∧
    (∃ (s u : State) (t : Nat) (i : BitVec 4) (c : Claim), s.actsAt t u ∧ u.claimOf 1 i.toNat = some c ∧
      c.tick < u.now ∧ c.arg ≠ 0 ∧ u.now % c.arg = 0) :=
  ⟨⟨{ ready with time := { locked := true } }, _, 0, 1, now rfl, by decide +kernel, by decide +kernel,
    by decide +kernel⟩,
   ⟨{ ready with time := { locked := true } }, _, 0, 2, now rfl, by decide +kernel, by decide +kernel,
    by decide +kernel⟩,
   ⟨ready, _, 0, 1, now rfl, by decide +kernel, by decide +kernel, by decide +kernel⟩,
   ⟨ready, _, 0, 2, now rfl, by decide +kernel, by decide +kernel, by decide +kernel, by decide +kernel⟩,
   ⟨ready, _, 0, now rfl, by decide +kernel⟩,
   ⟨{ ready with time := { locked := true } }, _, 0, now rfl, by decide +kernel⟩,
   ⟨{ ready with time := { holdover := true } }, _, 0, 0, now rfl, by decide +kernel, by decide +kernel⟩,
   ⟨{ ready with time := { holding := true } }, 1, by decide +kernel, by decide +kernel, by decide +kernel⟩,
   ⟨ready, _, 0, 0, now rfl, by decide +kernel⟩,
   ⟨claimed { ready with time := { gcnt := 12 } } 1 15 5 4, _, 0, 15, ⟨5, 4, 0⟩, now rfl, by decide +kernel,
    by decide +kernel, by decide +kernel, by decide +kernel⟩⟩

theorem test_witness_SupplyCommands :
    (∃ (s u : State) (t : Nat) (r : BitVec 2), s.actsAt t u ∧ u.pwr.warnRail.toNat / 2 ^ r.toNat % 2 = 0) ∧
    (∃ (s u : State) (t : Nat) (r : BitVec 2), s.actsAt t u ∧ u.pwr.inhibitRail.toNat / 2 ^ r.toNat % 2 = 0) ∧
    (∃ (s u : State) (t : Nat) (r : BitVec 2), s.actsAt t u) ∧
    (∃ (s u : State) (t : Nat) (m : BitVec 4), s.actsAt t u) ∧
    (∃ (s u : State) (t : Nat), s.actsAt t u) ∧
    (∃ (s : State) (t : Nat), s.pwr.inReset = true) ∧
    (∃ (s u : State) (t : Nat), s.actsAt t u) ∧
    (∃ (s : State) (t : Nat), s.pwr.inReset = true) :=
  ⟨⟨ready, _, 0, 3, now rfl, by decide +kernel⟩,
   ⟨ready, _, 0, 3, now rfl, by decide +kernel⟩,
   ⟨ready, _, 0, 3, now rfl⟩,
   ⟨ready, _, 0, 15, now rfl⟩,
   ⟨ready, _, 0, now rfl⟩,
   ⟨{ ready with pwr := { inReset := true } }, 0, by decide +kernel⟩,
   ⟨ready, _, 0, now rfl⟩,
   ⟨{ ready with pwr := { inReset := true } }, 0, by decide +kernel⟩⟩

theorem test_witness_ResetCommands :
    ∃ (s : State) (t : Nat), s.pwr.inReset = true :=
  ⟨{ ready with pwr := { inReset := true } }, 0, by decide +kernel⟩

theorem test_witness_StartCommands :
    (∃ (s u : State) (t : Nat) (facts : StartFacts), s.actsAt t u ∧ u.pwr.phase = .moult) ∧
    (∃ (s u : State) (t : Nat) (e : Bytes), s.actsAt t u ∧ u.pwr.phase = .rom ∧ u.emc.ctlKeyOk = false) ∧
    (∃ (s u : State) (t : Nat), s.actsAt t u ∧ u.pwr.phase = .rom ∧ u.time.locked = false ∧
      u.pwr.lockWaitDone = false ∧ u.pwr.romStart + 10 ^ 8 ≤ u.now) ∧
    (∃ (s u : State) (t : Nat) (r : BitVec 3) (x : TestResult), s.actsAt t u ∧
      (u.region r.toNat).test = .testing ∧ u.pwr.enclaveTested = true ∧ u.stw.restarting = false ∧ r ≠ 7#3) ∧
    (∃ (u : State), u.qg.run = none ∧ (3 < u.outCount ∨ u.sil.active = none)) ∧
    (∃ (s u : State) (t : Nat) (x : TestResult), s.actsAt t u ∧ (u.region 7).test = .testing ∧
      u.pwr.enclaveTested = true ∧ u.stw.restarting = false) ∧
    (∃ (s u : State) (t : Nat) (v : BitVec 32), s.actsAt t u ∧ v.toNat % 2 = 0) ∧
    (∃ (s u : State) (t : Nat) (v : BitVec 32), s.actsAt t u ∧ v.toNat % 2 = 1 ∧ u.time.optimeValid = true) ∧
    (∃ (s u : State) (t : Nat) (v : BitVec 32), s.actsAt t u ∧ v.toNat % 2 = 1 ∧ u.time.optimeValid = false) :=
  ⟨⟨State.reset, _, 0, ⟨⟨true, 9, 0x42, 0, 0⟩, [], [], []⟩, now rfl, by decide +kernel⟩,
   ⟨{ State.reset with pwr := { phase := .rom } }, _, 0, [], now rfl, by decide +kernel, by decide +kernel⟩,
   ⟨{ State.reset with pwr := { phase := .rom }, time := { gcnt := 10 ^ 8 } }, _, 0, now rfl, by decide +kernel,
    by decide +kernel, by decide +kernel, by decide +kernel⟩,
   ⟨{ State.reset with pwr := { phase := .selftest, enclaveTested := true }, regions := [(6, { test := .testing })] },
    _, 0, 6, ⟨0, 0, 0, true, true, true⟩, now rfl, by decide +kernel, by decide +kernel, by decide +kernel,
    by decide +kernel⟩,
   ⟨ready, by decide +kernel, by decide +kernel⟩,
   ⟨{ State.reset with pwr := { phase := .selftest, enclaveTested := true }, regions := [(7, { test := .testing })] },
    _, 0, ⟨0, 0, 0, true, true, true⟩, now rfl, by decide +kernel, by decide +kernel, by decide +kernel⟩,
   ⟨ready, _, 0, 0, now rfl, by decide +kernel⟩,
   ⟨{ ready with time := { optimeValid := true } }, _, 0, 1, now rfl, by decide +kernel, by decide +kernel⟩,
   ⟨ready, _, 0, 1, now rfl, by decide +kernel, by decide +kernel⟩⟩

theorem test_witness_MailboxQueries :
    (∃ (s u : State) (t : Nat) (v : BitVec 32), s.actsAt t u ∧ v.toNat / 2 ^ 8 % 2 = 1 ∧ u.stw.busy = false ∧
      u.stw.running = true ∧ u.stw.restarting = false ∧ v.toNat % 256 = 1) ∧
    (∃ (s u : State) (t : Nat) (v : BitVec 32), s.actsAt t u ∧ v.toNat / 2 ^ 8 % 2 = 1 ∧ u.stw.busy = false ∧
      u.stw.running = true ∧ u.stw.restarting = false ∧
      (let region := ((Tab.getD u.stw.args 0 0).toNat)
       v.toNat % 256 = 2 ∧ region < 8)) ∧
    (∃ (s u : State) (t : Nat) (v : BitVec 32), s.actsAt t u ∧ v.toNat / 2 ^ 8 % 2 = 1 ∧ u.stw.busy = false ∧
      u.stw.running = true ∧ u.stw.restarting = false ∧
      (let region := ((Tab.getD u.stw.args 0 0).toNat)
       v.toNat % 256 = 2 ∧ 8 ≤ region)) ∧
    (∃ (s u : State) (t : Nat) (v : BitVec 32), s.actsAt t u ∧ v.toNat / 2 ^ 8 % 2 = 1 ∧ u.stw.busy = false ∧
      u.stw.running = true ∧ u.stw.restarting = false ∧ v.toNat % 256 = 3) ∧
    (∃ (s u : State) (t : Nat) (v : BitVec 32), s.actsAt t u ∧ v.toNat / 2 ^ 8 % 2 = 1 ∧
      (u.stw.busy = true ∨ u.stw.running = false ∨ u.stw.restarting = true) ∧ v.toNat % 256 = 1) ∧
    (∃ (s u : State) (t : Nat) (v : BitVec 32), s.actsAt t u ∧ v.toNat / 2 ^ 8 % 2 = 1 ∧
      (u.stw.busy = true ∨ u.stw.running = false ∨ u.stw.restarting = true) ∧ v.toNat % 256 = 2) ∧
    (∃ (s u : State) (t : Nat) (v : BitVec 32), s.actsAt t u ∧ v.toNat / 2 ^ 8 % 2 = 1 ∧
      (u.stw.busy = true ∨ u.stw.running = false ∨ u.stw.restarting = true) ∧ v.toNat % 256 = 3) :=
  ⟨⟨region7, _, 0, 0x101, now rfl, by decide +kernel, by decide +kernel, by decide +kernel, by decide +kernel,
    by decide +kernel⟩,
   ⟨region7, _, 0, 0x102, now rfl, by decide +kernel, by decide +kernel, by decide +kernel, by decide +kernel,
    by decide +kernel, by decide +kernel⟩,
   ⟨{ region7 with stw := { region7.stw with args := [(0, 8)] } }, _, 0, 0x102, now rfl, by decide +kernel,
    by decide +kernel, by decide +kernel, by decide +kernel, by decide +kernel, by decide +kernel⟩,
   ⟨region7, _, 0, 0x103, now rfl, by decide +kernel, by decide +kernel, by decide +kernel, by decide +kernel,
    by decide +kernel⟩,
   ⟨{ ready with stw := { busy := true } }, _, 0, 0x101, now rfl, by decide +kernel, by decide +kernel,
    by decide +kernel⟩,
   ⟨{ ready with stw := {} }, _, 0, 0x102, now rfl, by decide +kernel, by decide +kernel, by decide +kernel⟩,
   ⟨{ ready with stw := { running := true, restarting := true } }, _, 0, 0x103, now rfl, by decide +kernel,
    by decide +kernel, by decide +kernel⟩⟩

theorem test_witness_StewardCommands :
    (∃ (s u : State) (t : Nat) (rom : Bool), s.actsAt t u ∧ u.stw.running = true ∧ u.stw.restarting = false ∧
      (∀ a x rest, u.stw.starts = a :: x :: rest → x + 60 * 10 ^ 9 ≤ u.now)) ∧
    (∃ (s u : State) (t a x : Nat) (rest : List Nat) (rom : Bool), s.actsAt t u ∧ u.stw.running = true ∧
      u.stw.restarting = false ∧ u.stw.starts = a :: x :: rest ∧ u.now < x + 60 * 10 ^ 9 ∧ u.faults.halt = false ∧
      (∃ c, c ∈ [Instr.stewardWatchdogExpiry t, .stewardMemoryError t rom])) ∧
    (∃ (s u : State) (t : Nat), s.actsAt t u ∧ u.stw.restarting = true ∧ u.stw.busy = false ∧ u.stw.above < 10 ∧
      u.stw.below < 10 ∧ (∀ r < 8, (u.region r).foldWait = none ∧ (u.region r).leapWait = none)) ∧
    (∃ (s u : State) (t busy : Nat), s.actsAt t u ∧ u.now % 10 ^ 6 = 0) ∧
    (∃ (s u : State) (t : Nat), s.actsAt t u) :=
  ⟨⟨ready, _, 0, true, now rfl, by decide +kernel, by decide +kernel, fun _ _ _ h => by cases h⟩,
   ⟨{ ready with stw := { running := true, starts := [0, 0] } }, _, 0, 0, 0, [], true, now rfl, by decide +kernel,
    by decide +kernel, by decide +kernel, by decide +kernel, by decide +kernel, .stewardWatchdogExpiry 0,
    by decide +kernel⟩,
   ⟨{ ready with stw := { running := true, restarting := true } }, _, 0, now rfl, by decide +kernel,
    by decide +kernel, by decide +kernel, by decide +kernel, by decide +kernel⟩,
   ⟨ready, _, 0, 1001, now rfl, by decide +kernel⟩,
   ⟨ready, _, 0, now rfl⟩⟩

theorem test_witness_PoolRequests :
    (∃ (s u : State) (t : Nat) (v : BitVec 32), s.actsAt t u ∧ u.now < u.pool.busyTil ∧ (∃ c, c ∈ [(1,
      Instr.alloc t v), (2, .share t v), (3, .release t v), (4, .free t v)] ∧ v.toNat % 8 = c.1)) ∧
    (∃ (s u : State) (t : Nat) (v : BitVec 32), s.actsAt t u ∧ u.pool.busyTil ≤ u.now ∧ u.reqStatus v.toNat ≠ 0 ∧
      (∃ c, c ∈ [(1, Instr.alloc t v), (2, .share t v), (3, .release t v), (4, .free t v)] ∧ v.toNat % 8 = c.1)) ∧
    (∃ (s u : State) (t : Nat) (v : BitVec 32), s.actsAt t u ∧ u.pool.busyTil ≤ u.now ∧ u.reqStatus v.toNat = 0 ∧
      v.toNat % 8 = 1) ∧
    (∃ (s u : State) (t : Nat) (v : BitVec 32) (b : Buffer), s.actsAt t u ∧ u.pool.busyTil ≤ u.now ∧
      u.reqStatus v.toNat = 0 ∧ u.buffer? u.pool.reqArg.toNat = some b ∧ v.toNat % 8 = 2) ∧
    (∃ (s u : State) (t : Nat) (v : BitVec 32) (b : Buffer), s.actsAt t u ∧ u.pool.busyTil ≤ u.now ∧
      u.reqStatus v.toNat = 0 ∧ u.buffer? u.pool.reqArg.toNat = some b ∧
      (let h := u.pool.reqArg.toNat
       let q := reqQueue v.toNat
       b.holder = q ∧ b.owners = [q] ∧ u.named h b = false ∧ b.inEnclave = true)) ∧
    (∃ (s u : State) (t : Nat) (v : BitVec 32) (b : Buffer), s.actsAt t u ∧ u.pool.busyTil ≤ u.now ∧
      u.reqStatus v.toNat = 0 ∧ u.buffer? u.pool.reqArg.toNat = some b ∧
      (let h := u.pool.reqArg.toNat
       let q := reqQueue v.toNat
       b.holder = q ∧ b.owners = [q] ∧ u.named h b = true)) ∧
    (∃ (s u : State) (t : Nat) (v : BitVec 32) (b : Buffer), s.actsAt t u ∧ u.pool.busyTil ≤ u.now ∧
      u.reqStatus v.toNat = 0 ∧ u.buffer? u.pool.reqArg.toNat = some b ∧
      (let q := reqQueue v.toNat
       b.holder = q ∧ b.owners ≠ [q])) ∧
    (∃ (s u : State) (t : Nat) (v : BitVec 32) (b : Buffer), s.actsAt t u ∧ u.pool.busyTil ≤ u.now ∧
      u.reqStatus v.toNat = 0 ∧ u.buffer? u.pool.reqArg.toNat = some b ∧
      (let q := reqQueue v.toNat
       b.holder ≠ q ∧ b.parked = false)) ∧
    (∃ (s u : State) (t : Nat) (v : BitVec 32) (b : Buffer), s.actsAt t u ∧ u.pool.busyTil ≤ u.now ∧
      u.reqStatus v.toNat = 0 ∧ u.buffer? u.pool.reqArg.toNat = some b ∧
      (let h := u.pool.reqArg.toNat
       ∃ k, k ≠ h)) ∧
    (∃ (s u : State) (t : Nat) (v : BitVec 32) (b : Buffer), s.actsAt t u ∧ u.pool.busyTil ≤ u.now ∧
      u.reqStatus v.toNat = 0 ∧ u.buffer? u.pool.reqArg.toNat = some b ∧ v.toNat % 8 = 4) ∧
    (∃ (s u : State) (t : Nat) (q : WorkRequest), s.actsAt t u ∧ q ∉ u.pool.requests ∧ q.use ≠ .other) ∧
    (∃ (s u : State) (t : Nat) (q : WorkRequest), s.actsAt t u ∧
      (let n := match q.region with | none => 16 * q.cells | some _ => q.cells
       let first := (u.pool.requests.filter fun w => w.region == q.region).head?
       (q ∈ u.pool.requests ∨ q.use = .other) ∧ (q.use = .other ∨ u.holds q.use = false) ∧ (∃ enc cs,
          (first = none ∨ first = some q) ∧ u.findCells (poolOfRequest q) none n = some (enc, cs)))) ∧
    (∃ (s u : State) (t : Nat) (q : WorkRequest), s.actsAt t u ∧
      (let n := match q.region with | none => 16 * q.cells | some _ => q.cells
       let first := (u.pool.requests.filter fun w => w.region == q.region).head?
       (q ∈ u.pool.requests ∨ q.use = .other) ∧ (q.use = .other ∨ u.holds q.use = false) ∧ ((∃ w, first = some w ∧
          w ≠ q) ∨ u.findCells (poolOfRequest q) none n = none))) :=
  ⟨⟨{ ready with pool := { busyTil := 1 } }, _, 0, 1, now rfl, by decide +kernel, (1, .alloc 0 1),
    by decide +kernel, by decide +kernel⟩,
   ⟨ready, _, 0, 4, now rfl, by decide +kernel, by decide +kernel, (4, .free 0 4), by decide +kernel,
    by decide +kernel⟩,
   ⟨buffered buffer5 1, _, 0, 0x57F81, now rfl, by decide +kernel, by decide +kernel, by decide +kernel⟩,
   ⟨buffered buffer5, _, 0, 0x57F02, buffer5, now rfl, by decide +kernel, by decide +kernel, by decide +kernel,
    by decide +kernel⟩,
   ⟨buffered buffer5, _, 0, 0x57F03, buffer5, now rfl, by decide +kernel, by decide +kernel, by decide +kernel,
    by decide +kernel, by decide +kernel, by decide +kernel, by decide +kernel⟩,
   ⟨{ buffered buffer5 with qg := { queues := [(5, { queue3 with taken := [{ taken1 with names := [9] }] })] } },
    _, 0, 0x57F03, buffer5, now rfl, by decide +kernel, by decide +kernel, by decide +kernel, by decide +kernel,
    by decide +kernel, by decide +kernel⟩,
   ⟨buffered { buffer5 with owners := [5, 6] }, _, 0, 0x57F03, { buffer5 with owners := [5, 6] }, now rfl,
    by decide +kernel, by decide +kernel, by decide +kernel, by decide +kernel, by decide +kernel⟩,
   ⟨buffered { buffer5 with owners := [5, 6], holder := 6 }, _, 0, 0x57F03,
    { buffer5 with owners := [5, 6], holder := 6 }, now rfl, by decide +kernel, by decide +kernel,
    by decide +kernel, by decide +kernel, by decide +kernel⟩,
   ⟨buffered buffer5, _, 0, 0x57F03, buffer5, now rfl, by decide +kernel, by decide +kernel, by decide +kernel, 8,
    by decide +kernel⟩,
   ⟨buffered buffer5, _, 0, 0x57F04, buffer5, now rfl, by decide +kernel, by decide +kernel, by decide +kernel,
    by decide +kernel⟩,
   ⟨serving, _, 0, ⟨none, 1, 3, 0, 1, .coefficients 4 0⟩, now rfl, by decide +kernel, by decide +kernel⟩,
   ⟨{ serving with pool := { encKnown := true } }, _, 0, ⟨none, 1, 3, 0, 1, .other⟩, now rfl, .inr rfl, .inl rfl,
    true, [encFirst], .inl rfl, by decide +kernel⟩,
   ⟨serving, _, 0, ⟨none, 1, 3, 0, 1, .other⟩, now rfl, .inr rfl, .inl rfl, .inr (by decide +kernel)⟩⟩

theorem test_witness_EnclaveMemory :
    (∃ (s u : State) (t : Nat) (v : BitVec 32), s.actsAt t u ∧ v.toNat % 2 = 1 ∧ u.emc.pcSel.toNat < 384 ∧
      (let p := u.emc.pcSel.toNat
       (u.pc p).state = 0)) ∧
    (∃ (s u : State) (t : Nat) (p : BitVec 9) (lost : List Nat), s.actsAt t u ∧ (u.pc p.toNat).state = 1) ∧
    (∃ (s u : State) (t cell : Nat) (p : BitVec 9), s.actsAt t u ∧ p.toNat < 384 ∧ (u.pc p.toNat).state ≠ 2 ∧
      (let window := u.now / (3600 * 10 ^ 9)
       let n := if (u.pc p.toNat).ceWindowNo = window then (u.pc p.toNat).ceWindow else 0
       satAdd 16 n 1 < u.emc.ceLimit.toNat)) ∧
    (∃ (s u : State) (t cell : Nat) (p : BitVec 9), s.actsAt t u ∧ p.toNat < 384 ∧ (u.pc p.toNat).state = 0 ∧
      (u.heldOf p.toNat).length ≤ (u.modPc p.toNat fun x => { x with state := 1 }).encFree) ∧
    (∃ (s u : State) (t : Nat), s.actsAt t u) ∧
    (∃ (s u : State) (t cell l : Nat), s.actsAt t u ∧ (u.pool.dirty.find? fun d => d.1 == cell) = some (cell, l) ∧
      (∀ d ∈ u.pool.dirty, cell ≤ d.1)) ∧
    (∃ (s u : State) (t cell : Nat), s.actsAt t u ∧ u.emc.rate ≠ 0 ∧ u.nextInService 384 u.emc.patrolCell = cell) ∧
    (∃ (s u : State) (t : Nat) (k : BitVec 3) (hot : Bool), s.actsAt t u ∧ k.toNat < 6) ∧
    (∃ (s u : State) (t : Nat) (failed : List Nat), s.actsAt t u ∧ u.pwr.phase = .selftest ∧
      u.pwr.enclaveTested = false) :=
  ⟨⟨{ buffered buffer5 with emc := { inService := 384, pcSel := 383 } }, _, 0, 1, now rfl, by decide +kernel,
    by decide +kernel, by decide +kernel⟩,
   ⟨{ serving with emc := { pcs := [(383, { state := 1 })] } }, _, 0, 383, [], now rfl, by decide +kernel⟩,
   ⟨serving, _, 0, 0, 383, now rfl, by decide +kernel, by decide +kernel, by decide +kernel⟩,
   ⟨buffered buffer5, _, 0, 0, 383, now rfl, by decide +kernel, by decide +kernel, by decide +kernel⟩,
   ⟨ready, _, 0, now rfl⟩,
   ⟨{ ready with pool := { dirty := [(7, 3), (9, 3)] } }, _, 0, 7, 3, now rfl, by decide +kernel, by decide +kernel⟩,
   ⟨{ ready with emc := { rate := 1000 } }, _, 0, 0, now rfl, by decide +kernel, by decide +kernel⟩,
   ⟨ready, _, 0, 5, true, now rfl, by decide +kernel⟩,
   ⟨{ State.reset with pwr := { phase := .selftest } }, _, 0, [], now rfl, by decide +kernel, by decide +kernel⟩⟩

theorem test_witness_TileFaults :
    (∃ (s u : State) (t : Nat) (id : BitVec 8) (ok : Bool), s.actsAt t u ∧ u.tileUsable id.toNat = true) ∧
    (∃ (s u : State) (t : Nat) (id : BitVec 8) (ok : Bool), s.actsAt t u ∧ u.tileUsable id.toNat = true ∧
      (let r := tileRegion id.toNat
       let spare := tileId (tileKind id.toNat) r 8
       ∃ c, c ∈ [(1, Instr.sramError t id .double ok), (3, .laneParityError t id ok), (6,
          .generatorParityError t ⟨.sTile id, ok⟩)] ∧ (c.1 = 6 → tileKind id.toNat = 1) ∧
          (u.tile id.toNat).state ≠ .bound ∧ (u.region r).state ≠ .leaping ∧ (u.region r).leapWait = none ∧
          ((u.tile spare).state = .spare ∨ id.toNat = spare))) ∧
    (∃ (s u : State) (t : Nat) (id : BitVec 8) (ok : Bool), s.actsAt t u ∧ u.tileUsable id.toNat = true ∧
      (let r := tileRegion id.toNat
       let spare := tileId (tileKind id.toNat) r 8
       ∃ c, c ∈ [(1, Instr.sramError t id .double ok), (3, .laneParityError t id ok), (6,
          .generatorParityError t ⟨.sTile id, ok⟩)] ∧ (c.1 = 6 → tileKind id.toNat = 1) ∧
          (u.tile id.toNat).state = .bound ∧ (u.region r).state ≠ .leaping ∧ (u.region r).leapWait = none ∧
          id.toNat ≠ spare ∧ (u.tile spare).state = .spare ∧ u.stw.restarting = false)) ∧
    (∃ (s u : State) (t : Nat) (id : BitVec 8) (ok : Bool), s.actsAt t u ∧ u.tileUsable id.toNat = true ∧
      (let r := tileRegion id.toNat
       let spare := tileId (tileKind id.toNat) r 8
       ∃ c, c ∈ [(1, Instr.sramError t id .double ok), (3, .laneParityError t id ok), (6,
          .generatorParityError t ⟨.sTile id, ok⟩)] ∧ (c.1 = 6 → tileKind id.toNat = 1) ∧
          ((u.tile id.toNat).state = .bound ∨ id.toNat ≠ spare) ∧ (u.region r).state ≠ .leaping ∧
          (u.region r).leapWait = none ∧ (u.tile spare).state ≠ .spare ∧ u.mayFold r)) ∧
    (∃ (s u : State) (t : Nat) (id : BitVec 8) (ok : Bool), s.actsAt t u ∧ u.tileUsable id.toNat = true ∧
      (let r := tileRegion id.toNat
       ∃ c, c ∈ [(1, Instr.sramError t id .double ok), (3, .laneParityError t id ok), (6,
          .generatorParityError t ⟨.sTile id, ok⟩)] ∧ (c.1 = 6 → tileKind id.toNat = 1) ∧
          (u.region r).state = .leaping ∧ u.mayFold r)) ∧
    (∃ (s u : State) (t : Nat) (id : BitVec 8) (ok : Bool), s.actsAt t u ∧ (u.tile id.toNat).state = .bound ∧
      (u.tile id.toNat).retried = false) ∧
    (∃ (s u : State) (t : Nat) (id : BitVec 8) (ok : Bool), s.actsAt t u ∧ (u.tile id.toNat).state = .bound ∧
      (u.tile id.toNat).retried = true ∧ (u.region (tileRegion id.toNat)).state ≠ .leaping ∧
      (u.region (tileRegion id.toNat)).leapWait = none ∧
      (u.tile (tileId (tileKind id.toNat) (tileRegion id.toNat) 8)).state ≠ .spare ∧
      u.mayFold (tileRegion id.toNat) ∧ (∃ c, c ∈ [Instr.microcodeEccError t ⟨id, ok⟩,
      .sequencerWatchdogExpiry t ⟨id, ok⟩])) ∧
    (∃ (s u : State) (t : Nat) (r : BitVec 3), s.actsAt t u ∧ (u.region r.toNat).state = .leaping ∧
      u.stw.restarting = false) :=
  ⟨⟨tiled .bound .spare, _, 0, 3, true, now rfl, by decide +kernel⟩,
   ⟨tiled .unbound .spare, _, 0, 3, true, now rfl, by decide +kernel, (1, .sramError 0 3 .double true),
    by decide +kernel, by decide +kernel, by decide +kernel, by decide +kernel, by decide +kernel, by decide +kernel⟩,
   ⟨tiled .bound .spare, _, 0, 3, true, now rfl, by decide +kernel, (3, .laneParityError 0 3 true),
    by decide +kernel, by decide +kernel, by decide +kernel, by decide +kernel, by decide +kernel,
    by decide +kernel, by decide +kernel, by decide +kernel⟩,
   ⟨tiled .bound .bound, _, 0, 3, true, now rfl, by decide +kernel, (1, .sramError 0 3 .double true),
    by decide +kernel, by decide +kernel, by decide +kernel, by decide +kernel, by decide +kernel,
    by decide +kernel, mayFold_of (by decide +kernel)⟩,
   ⟨tiled .bound .spare (r := .leaping), _, 0, 3, true, now rfl, by decide +kernel, (3,
    .laneParityError 0 3 true), by decide +kernel, by decide +kernel, by decide +kernel,
    mayFold_of (by decide +kernel)⟩,
   ⟨tiled .bound .spare, _, 0, 3, true, now rfl, by decide +kernel, by decide +kernel⟩,
   ⟨tiled .bound .bound (retried := true), _, 0, 3, true, now rfl, by decide +kernel, by decide +kernel,
    by decide +kernel, by decide +kernel, by decide +kernel, mayFold_of (by decide +kernel),
    .sequencerWatchdogExpiry 0 ⟨3, true⟩, by decide +kernel⟩,
   ⟨tiled .bound .spare (r := .leaping), _, 0, 0, now rfl, by decide +kernel, by decide +kernel⟩⟩

theorem test_witness_RegionFaults :
    (∃ (s u : State) (t : Nat) (r : BitVec 3), s.actsAt t u ∧ u.mayFold r.toNat ∧
      (∃ (ok : Bool) (link : BitVec 8) (cell : BitVec 12), ∃ c, c ∈ [Instr.generatorParityError t ⟨.mGroup r, ok⟩,
      .linkCrcFail t r ⟨link, 4⟩, .auditPass t r (.bad cell)])) ∧
    (∃ (s u : State) (t : Nat) (r : BitVec 3) (ok : Bool), s.actsAt t u ∧ u.inService r.toNat = true ∧
      u.stw.restarting = false ∧ u.faults.halt = false ∧ (2 ≤ u.foldingCount ∨ 3 ≤ u.outCount + u.foldingCount)) ∧
    (∃ (s u : State) (t : Nat) (r : BitVec 3) (ok : Bool), s.actsAt t u ∧ u.inService r.toNat = true ∧
      u.stw.restarting = true) ∧
    (∃ (s u : State) (t : Nat) (r : BitVec 3) (link : BitVec 8) (n : Nat), s.actsAt t u ∧
      u.inService r.toNat = true ∧ n < 4 ∧
      (let g := u.region r.toNat
       let window := if g.crcWindowNo = u.now / 10 ^ 9 then g.crcWindow else 0
       window + n ≤ 1024)) ∧
    (∃ (s u : State) (t : Nat) (r : BitVec 3), s.actsAt t u) ∧
    (∃ (s u : State) (t n : Nat) (r : BitVec 3), s.actsAt t u ∧ u.inService r.toNat = true ∧
      u.stw.restarting = false) ∧
    (∃ (s u : State) (t : Nat), s.actsAt t u ∧ u.faults.halt = true) ∧
    (∃ (s u : State) (t : Nat), s.actsAt t u ∧ u.faults.halt = false) ∧
    (∃ (s u : State) (t : Nat) (r : BitVec 3), s.actsAt t u ∧ (u.region r.toNat).state = .folding ∧
      u.stw.restarting = false) :=
  ⟨⟨serving, _, 0, 7, now rfl, mayFold_of (by decide +kernel), true, 0, 0, .linkCrcFail 0 7 ⟨0, 4⟩,
    by decide +kernel⟩,
   ⟨{ serving with regions := [(7, { test := .passed }), (0, { test := .passed, state := .folding }), (1, { test := .passed, state := .folding })] },
    _, 0, 7, true, now rfl, by decide +kernel, by decide +kernel, by decide +kernel, .inl (by decide +kernel)⟩,
   ⟨{ serving with stw := { running := true, restarting := true } }, _, 0, 7, true, now rfl, by decide +kernel,
    by decide +kernel⟩,
   ⟨serving, _, 0, 7, 0, 3, now rfl, by decide +kernel, by decide +kernel, by decide +kernel⟩,
   ⟨serving, _, 0, 7, now rfl⟩,
   ⟨serving, _, 0, 5, 7, now rfl, by decide +kernel, by decide +kernel⟩,
   ⟨halted, _, 0, now rfl, by decide +kernel⟩,
   ⟨ready, _, 0, now rfl, by decide +kernel⟩,
   ⟨tiled .bound .spare (r := .folding), _, 0, 0, now rfl, by decide +kernel, by decide +kernel⟩⟩

theorem test_witness_RepairCommands :
    (∃ (s u : State) (t : Nat) (b : Bytes), s.takesAdmin t 0x3A b u ∧
      (let id := entLen b % 256
       let r := tileRegion id
       let spare := tileId (tileKind id) r 8
       let status := if 8 < tileSlot id then 0x12 else if u.baskGuard r = true then 0x40 else if u.inService r =
          false ∨ u.tileUsable id = false then 0x12 else if (u.tile id).state = .bound ∧
          ((u.region r).state = .leaping ∨ (u.tile spare).state ≠ .spare) then 0x40 else 0
       status ≠ 0)) ∧
    (∃ (s u : State) (t : Nat) (b : Bytes), s.takesAdmin t 0x3A b u ∧
      (let id := entLen b % 256
       let r := tileRegion id
       let spare := tileId (tileKind id) r 8
       let status := if 8 < tileSlot id then 0x12 else if u.baskGuard r = true then 0x40 else if u.inService r =
          false ∨ u.tileUsable id = false then 0x12 else if (u.tile id).state = .bound ∧
          ((u.region r).state = .leaping ∨ (u.tile spare).state ≠ .spare) then 0x40 else 0
       status = 0)) ∧
    (∃ (s u : State) (t : Nat) (b : Bytes), s.takesAdmin t 0x38 b u ∧
      (let r := entLen b % 8
       u.offlineRefused r = true)) ∧
    (∃ (s u : State) (t : Nat) (b : Bytes), s.takesAdmin t 0x38 b u ∧
      (let r := entLen b % 8
       u.offlineRefused r = false ∧ u.mayFold r)) ∧
    (∃ (s u : State) (t : Nat) (b : Bytes) (x : TestResult), s.takesAdmin t 0x39 b u ∧
      (let r := entLen b % 8
       (u.isOut r = false ∨ (u.region r).state = .folding))) ∧
    (∃ (s u : State) (t : Nat) (b : Bytes) (x : TestResult), s.takesAdmin t 0x39 b u ∧
      (let r := entLen b % 8
       u.isOut r = true ∧ (u.region r).state ≠ .folding)) :=
  ⟨⟨withAdmin (tiled .bound .bound) (entry 0x3A (len := 3)), _, 0, entry 0x3A (len := 3),
    takesAdmin_now (by decide +kernel), by decide +kernel⟩,
   ⟨withAdmin (tiled .bound .spare) (entry 0x3A (len := 3)), _, 0, entry 0x3A (len := 3),
    takesAdmin_now (by decide +kernel), by decide +kernel⟩,
   ⟨withAdmin ready (entry 0x38 (len := 7)), _, 0, entry 0x38 (len := 7), takesAdmin_now (by decide +kernel),
    by decide +kernel⟩,
   ⟨withAdmin serving (entry 0x38 (len := 7)), _, 0, entry 0x38 (len := 7), takesAdmin_now (by decide +kernel),
    by decide +kernel, mayFold_of (by decide +kernel)⟩,
   ⟨withAdmin serving (entry 0x39 (len := 7)), _, 0, entry 0x39 (len := 7), ⟨0, 0, 0, true, true, true⟩,
    takesAdmin_now (by decide +kernel), .inl (by decide +kernel)⟩,
   ⟨withAdmin { serving with regions := [(7, { state := .out })] } (entry 0x39 (len := 7)), _, 0,
    entry 0x39 (len := 7), ⟨0, 0, 0, true, true, true⟩, takesAdmin_now (by decide +kernel), by decide +kernel,
    by decide +kernel⟩⟩

theorem test_witness_ListCommands :
    (∃ (s u : State) (t : Nat) (q : BitVec 12) (list b : Bytes) (mem : HostMem), s.takesEntry t q.toNat 0x80 b u ∧
      (let e := u.qg.nextSerial
       let r := u.newRun q.toNat b mem
       ∃ st, u.checkList e mem r (padTo (entLen b) list) = .error st)) ∧
    (∃ (s u : State) (t : Nat) (q : BitVec 12) (list b : Bytes) (mem : HostMem), s.takesEntry t q.toNat 0x80 b u ∧
      (let e := u.qg.nextSerial
       let r := u.newRun q.toNat b mem
       ∃ cs, u.checkList e mem r (padTo (entLen b) list) = .ok cs)) ∧
    (∃ (s u : State) (t e : Nat) (r : Run) (c : ListCmd), ∃ x, x ∈ [(1, Instr.desc t e), (2, .loadScb t e), (3,
      .writeReg t e)] ∧ s.takesCommand t e x.1 r c u) ∧
    (∃ (x : ListCtx) (n : Nat) (c : ListCmd), c.op = 1) ∧
    (∃ (x : ListCtx) (n : Nat) (c : ListCmd), c.op = 2 ∧ (∃ k, k ≠ c.stage)) ∧
    (∃ (x : ListCtx) (n : Nat) (c : ListCmd), c.op = 3 ∧ (∃ k, k ≠ c.stage)) ∧
    (∃ (s u : State) (t e : Nat) (r : Run) (c : ListCmd), s.takesCommand t e 4 r c u ∧
      32 ≤ (u.queuedOn c.stage).length) ∧
    (∃ (s u : State) (t e : Nat) (r : Run) (c : ListCmd), s.takesCommand t e 4 r c u ∧
      (u.queuedOn c.stage).length < 32) ∧
    (∃ (s u : State) (t e : Nat) (r : Run) (c : ListCmd), s.takesCommand t e 5 r c u ∧
      (let all := bitOf c.arg 8
       all = true ∧ r.started.all u.jobEnded = false)) ∧
    (∃ (s u : State) (t e : Nat) (r : Run) (c : ListCmd), s.takesCommand t e 5 r c u ∧
      (let all := bitOf c.arg 8
       let tag := c.arg % 256
       all = false ∧ (∃ j, Tab.find r.tags tag = some j ∧ u.jobEnded j = false))) ∧
    (∃ (s u : State) (t e : Nat) (r : Run) (c : ListCmd), s.takesCommand t e 5 r c u ∧
      (let all := bitOf c.arg 8
       let tag := c.arg % 256
       ((all = true ∧ r.started.all u.jobEnded = true) ∨ (all = false ∧ ∃ j, Tab.find r.tags tag = some j ∧
          u.jobEnded j = true)))) ∧
    (∃ (s u : State) (t e : Nat) (r : Run) (c : ListCmd), s.takesCommand t e 7 r c u ∧
      r.started.all u.jobEnded = false) ∧
    (∃ (s u : State) (t e : Nat) (r : Run) (c : ListCmd), s.takesCommand t e 7 r c u ∧
      r.started.all u.jobEnded = true ∧ (u.manifestsOpen e = true ∨ u.pointsOpen e = true)) ∧
    (∃ (s u : State) (t e : Nat) (r : Run) (c : ListCmd), s.takesCommand t e 7 r c u ∧
      r.started.all u.jobEnded = true ∧ u.manifestsOpen e = false ∧ u.pointsOpen e = false ∧ r.divs = []) :=
  ⟨⟨listed, _, 0, 5, [], entry5, [], takesEntry_now (by decide +kernel), 0x12, by decide +kernel⟩,
   ⟨listed, _, 0, 5, [7, 0, 0, 0, 0, 0, 0, 0], entry5, [], takesEntry_now (by decide +kernel), [⟨7, 0, 0, 0, []⟩],
    by decide +kernel⟩,
   ⟨listing (cmd 3), _, 0, 1, _, cmd 3, (3, .writeReg 0 1), by decide +kernel,
    takesCommand_now rfl (by decide +kernel) rfl rfl⟩,
   ⟨{}, 0, cmd 1, by decide +kernel⟩,
   ⟨{}, 0, cmd 2, by decide +kernel, 2, by decide +kernel⟩,
   ⟨{}, 0, cmd 3, by decide +kernel, 2, by decide +kernel⟩,
   ⟨listing (cmd 4) run5 ((List.range 32).map fun j => (j, { job1 1 with running := false })), _, 0, 1, _, cmd 4,
    takesCommand_now rfl (by decide +kernel) rfl rfl, by decide +kernel⟩,
   ⟨listing (cmd 4), _, 0, 1, _, cmd 4, takesCommand_now rfl (by decide +kernel) rfl rfl, by decide +kernel⟩,
   ⟨listing (cmd 5 256) { run5 with started := [4] } [(4, job1 1)], _, 0, 1, _, cmd 5 256,
    takesCommand_now rfl (by decide +kernel) rfl rfl, by decide +kernel, by decide +kernel⟩,
   ⟨listing (cmd 5 255) { run5 with tags := [(255, 4)] } [(4, job1 1)], _, 0, 1, _, cmd 5 255,
    takesCommand_now rfl (by decide +kernel) rfl rfl, by decide +kernel, ⟨4, by decide +kernel, by decide +kernel⟩⟩,
   ⟨listing (cmd 5 256), _, 0, 1, _, cmd 5 256, takesCommand_now rfl (by decide +kernel) rfl rfl,
    .inl (by decide +kernel)⟩,
   ⟨listing (cmd 7) { run5 with started := [4] } [(4, job1 1)], _, 0, 1, _, cmd 7,
    takesCommand_now rfl (by decide +kernel) rfl rfl, by decide +kernel⟩,
   ⟨{ listing (cmd 7) with pke := { held := [(0, manifest1)] } }, _, 0, 1, _, cmd 7,
    takesCommand_now rfl (by decide +kernel) rfl rfl, by decide +kernel, .inl (by decide +kernel)⟩,
   ⟨listing (cmd 7), _, 0, 1, _, cmd 7, takesCommand_now rfl (by decide +kernel) rfl rfl, by decide +kernel,
    by decide +kernel, by decide +kernel, by decide +kernel⟩⟩

theorem test_witness_StageJobs :
    (∃ (s u : State) (t j : Nat) (mem : HostMem) (x : Job) (r : Run), s.actsAt t u ∧ Tab.find u.jobs j = some x ∧
      Tab.find u.runs x.run = some r ∧ x.running = false ∧ x.ended = false ∧ u.mayWork r = true ∧
      ((u.queuedOn x.stage).find? fun y => !u.hazard y.2).map Prod.fst = some j ∧ u.stageFree j x = true) ∧
    (∃ (s u : State) (t j : Nat) (mem : HostMem) (x : Job), s.actsAt t u ∧ Tab.find u.jobs j = some x ∧
      (((u.queuedOn x.stage).find? fun y => !u.hazard y.2).map Prod.fst ≠ some j ∨ u.stageFree j x = false)) ∧
    (∃ (u : State) (j : Nat) (x : Job), x.stage = 0x11) ∧
    (∃ (u : State) (j : Nat) (x : Job), x.stage ≤ 9 ∧ (7 ≤ x.stage ∨ x.snap.streamIn = true)) ∧
    (∃ (u : State) (j : Nat) (x : Job), 1 ≤ x.stage ∧ x.stage ≤ 6 ∧ x.snap.streamIn = false ∧ x.running = false) ∧
    (∃ (u : State) (x : Job) (r : Run), Tab.find u.runs x.run = some r) ∧
    (∃ (u : State) (a b : Nat) (x y : Run), Tab.find u.runs a = some x ∧ Tab.find u.runs b = some y) ∧
    (∃ (s u : State) (t j : Nat) (x : Job) (r : Run), s.actsAt t u ∧ Tab.find u.jobs j = some x ∧
      Tab.find u.runs x.run = some r ∧
      (x.running = false ∨ x.ended = true ∨ u.mayWork r = false ∨ u.jobDone r j x = false)) ∧
    (∃ (s u : State) (t j : Nat) (x : Job) (r : Run), s.actsAt t u ∧ Tab.find u.jobs j = some x ∧
      Tab.find u.runs x.run = some r ∧ x.running = true ∧ x.ended = false ∧ u.mayWork r = true ∧
      u.jobDone r j x = true ∧ x.stage = 9 ∧ u.closable x.run j true ≠ none ∧ 256 ≤ u.pke.manifests.length ∧
      x.closed < sealManCap x.snap) ∧
    (∃ (s u : State) (t j : Nat) (x : Job) (r : Run), s.actsAt t u ∧ Tab.find u.jobs j = some x ∧
      Tab.find u.runs x.run = some r ∧ x.running = true ∧ x.ended = false ∧ u.mayWork r = true ∧
      u.jobDone r j x = true ∧ u.closable x.run j true = none) :=
  ⟨⟨working [(4, { job1 1 with running := false })], _, 0, 4, [], { job1 1 with running := false }, run5, now rfl,
    by decide +kernel, by decide +kernel, by decide +kernel, by decide +kernel, by decide +kernel,
    by decide +kernel, by decide +kernel⟩,
   ⟨working [(4, job1 1)], _, 0, 4, [], job1 1, now rfl, by decide +kernel, .inl (by decide +kernel)⟩,
   ⟨ready, 4, job1 0x11, by decide +kernel⟩,
   ⟨ready, 4, job1 9, by decide +kernel, .inl (by decide)⟩,
   ⟨ready, 4, { job1 6 with running := false }, by decide +kernel, by decide +kernel, by decide +kernel,
    by decide +kernel⟩,
   ⟨working [(4, job1 1)], job1 1, run5, by decide +kernel⟩,
   ⟨working [], 1, 1, run5, run5, by decide +kernel, by decide +kernel⟩,
   ⟨working [(4, job1 1)], _, 0, 4, job1 1, run5, now rfl, by decide +kernel, by decide +kernel,
    .inr (.inr (.inr (by decide +kernel)))⟩,
   ⟨closing, _, 0, 4, closingJob, run5, now rfl, by decide +kernel, by decide +kernel, by decide +kernel,
    by decide +kernel, by decide +kernel, by decide +kernel, by decide +kernel, by decide +kernel,
    by decide +kernel, by decide +kernel⟩,
   ⟨working [(4, { job1 1 with count := 0 })], _, 0, 4, { job1 1 with count := 0 }, run5, now rfl,
    by decide +kernel, by decide +kernel, by decide +kernel, by decide +kernel, by decide +kernel,
    by decide +kernel, by decide +kernel⟩⟩

theorem test_witness_PortErrors :
    (∃ (s u : State) (t : Nat) (q : BitVec 12), s.actsAt t u) ∧
    (∃ (s u : State) (t : Nat) (q : BitVec 12), s.actsAt t u ∧ q ≠ 0#12 ∧
      ((u.queue q.toNat).state = .enabled ∨ (u.queue q.toNat).state = .disabling) ∧
      (u.label (u.queue q.toNat).label).state = .opened ∧ (u.queue q.toNat).cache.length < 16 ∧
      (u.queue q.toNat).cache.length < (u.queue q.toNat).posted) ∧
    (∃ (s u : State) (t : Nat) (q : BitVec 12) (xs : List (Option Bytes)) (list : Bytes) (mem : HostMem),
      s.actsAt t u ∧ q ≠ 0#12 ∧ u.nextQueue = some q.toNat ∧
      (u.queue q.toNat).cache.map Cached.entry = none :: xs ∧ (∃ c, c ∈ [Instr.nop t q, .fence t q,
      .runList t q list mem])) ∧
    (∃ (s u : State) (t op : Nat) (b : Bytes), s.takesAdmin t op b u ∧ readsRecord op = true ∧ op ≠ 0x08 ∧
      op ≠ 0x0A) ∧
    (∃ (s u : State) (t op : Nat) (b : Bytes), s.takesAdmin t op b u ∧ readsRecord op = true ∧ op = 0x08) ∧
    (∃ (s u : State) (t op : Nat) (b : Bytes), s.takesAdmin t op b u ∧ readsRecord op = true ∧ op = 0x0A) ∧
    (∃ (s u : State) (t : Nat) (q : BitVec 12) (b : Bytes), s.takesEntry t q.toNat 0x80 b u) ∧
    (∃ (s u : State) (t e : Nat) (r : Run), s.actsAt t u ∧ Tab.find u.runs e = some r ∧ (∃ n m,
      Tab.find u.pke.held n = some m ∧ m.run = e)) ∧
    (∃ (s u : State) (t e : Nat) (r : Run), s.actsAt t u ∧ Tab.find u.runs e = some r ∧ (∃ j ∈ u.jobs,
      j.2.run = e ∧ (j.2.running = true ∨ j.2.ended = true))) ∧
    (∃ (s u : State) (t e : Nat) (r : Run), s.actsAt t u ∧ Tab.find u.runs e = some r ∧ (∀ j ∈ u.jobs,
      j.2.run = e → j.2.running = false ∧ j.2.ended = false)) ∧
    (∃ (u : State) (e : Nat) (r : Run), Tab.find u.runs e = some r ∧ u.faults.halt = false ∧ (∃ x,
      x ∈ (u.queue r.queue).taken ∧ x.serial = e ∧ x.compl = none)) ∧
    (∃ (s u : State) (t j k : Nat) (x : Job) (l : Lane), s.actsAt t u ∧ Tab.find u.jobs j = some x ∧
      Tab.find x.lanes k = some l) ∧
    (∃ (s u : State) (t j : Nat) (x : Job), s.actsAt t u ∧ Tab.find u.jobs j = some x ∧
      Tab.find x.lanes x.next = none ∧ x.next < x.count) ∧
    (∃ (s u : State) (t : Nat) (q : BitVec 12), s.actsAt t u ∧ u.complDue q.toNat = true) ∧
    (∃ (s u : State) (t : Nat) (f : Flush), s.actsAt t u ∧ u.erw.flush = some f ∧ u.qg.run = none ∧
      u.erw.wait = none) ∧
    (∃ (s u : State) (t : Nat) (p : PkJob) (b : Bytes), s.actsAt t u ∧ u.pke.running = some p ∧ p.client = .host ∧
      p.start + p.dur ≤ u.now ∧ u.qg.run = some ⟨b, .pkJob⟩) :=
  ⟨⟨ready, _, 0, 5, now rfl⟩,
   ⟨withQ (opened ready) 5 { queue3 with sqTail := 1 }, _, 0, 5, now rfl, by decide +kernel, by decide +kernel,
    by decide +kernel, by decide +kernel, by decide +kernel⟩,
   ⟨withQ (opened ready) 5 { queue3 with sqTail := 1, cache := [{ entry := none }] }, _, 0, 5, [], [], [],
    now rfl, by decide +kernel, by decide +kernel, by decide +kernel, .nop 0 5, by decide +kernel⟩,
   ⟨withAdmin loading (entry 0x40), _, 0, 0x40, entry 0x40, takesAdmin_now (by decide +kernel), by decide +kernel,
    by decide +kernel, by decide +kernel⟩,
   ⟨withAdmin loading (entry 0x08), _, 0, 0x08, entry 0x08, takesAdmin_now (by decide +kernel), by decide +kernel,
    by decide +kernel⟩,
   ⟨withAdmin loading (entry 0x0A), _, 0, 0x0A, entry 0x0A, takesAdmin_now (by decide +kernel), by decide +kernel,
    by decide +kernel⟩,
   ⟨listed, _, 0, 5, entry5, takesEntry_now (by decide +kernel)⟩,
   ⟨{ working [] with pke := { held := [(0, manifest1)] } }, _, 0, 1, run5, now rfl, by decide +kernel, 0,
    manifest1, by decide +kernel, by decide +kernel⟩,
   ⟨working [(4, job1 9)], _, 0, 1, run5, now rfl, by decide +kernel, ⟨_, List.mem_cons_self, rfl, .inl rfl⟩⟩,
   ⟨working [], _, 0, 1, run5, now rfl, by decide +kernel, fun _ h => by cases h⟩,
   ⟨{ working [] with qg := { queues := [(5, { queue3 with taken := [taken1] })] } }, 1, run5, by decide +kernel,
    by decide +kernel, taken1, List.mem_cons_self, by decide +kernel, by decide +kernel⟩,
   ⟨working [(4, { job1 1 with lanes := [(0, lane1)] })], _, 0, 4, 0, { job1 1 with lanes := [(0, lane1)] },
    lane1, now rfl, by decide +kernel, by decide +kernel⟩,
   ⟨working [(4, job1 1)], _, 0, 4, job1 1, now rfl, by decide +kernel, by decide +kernel, by decide +kernel⟩,
   ⟨withQ ready 5 { queue3 with taken := [{ taken1 with compl := some compl1 }] }, _, 0, 5, now rfl,
    by decide +kernel⟩,
   ⟨{ ready with erw := { flush := some flush1 } }, _, 0, flush1, now rfl, by decide +kernel, by decide +kernel,
    by decide +kernel⟩,
   ⟨withRun { ready with pke := { running := some (job .sign) } } ⟨entry 0x28, .pkJob⟩, _, 0, job .sign,
    entry 0x28, now rfl, by decide +kernel, by decide +kernel, by decide +kernel, by decide +kernel⟩⟩

theorem test_witness_SampleReading :
    (∃ (s u g : State) (t j id : Nat) (cores : List Nat) (c : Bytes) (x : Job) (r : Run), s.actsAt t u ∧
      g = u.regroup ∧ Tab.find g.jobs j = some x ∧ Tab.find g.runs x.run = some r ∧ x.running = true ∧
      readsSealed x.stage = true ∧ x.next < x.count ∧ g.mayWork r = true ∧ g.placeFor j x x.next = some (id, cores) ∧
      (let v := { g with jobs := Tab.put g.jobs j { x with next := x.next + 1 } }
       ∃ o, (v.plannedVoid r x x.next = some o ∨ (v.plannedVoid r x x.next = none ∧ x.planned r = false ∧
          v.skipped r x x.next = some o)) ∧ x.next ≠ x.outs.length ∧ Tab.find x.done x.outs.length = none ∧
          (∀ l ∈ x.lanes, l.2.out = none))) ∧
    (∃ (s u g : State) (t j id : Nat) (cores : List Nat) (c : Bytes) (x : Job) (r : Run), s.actsAt t u ∧
      g = u.regroup ∧ Tab.find g.jobs j = some x ∧ Tab.find g.runs x.run = some r ∧ x.running = true ∧
      readsSealed x.stage = true ∧ x.next < x.count ∧ g.mayWork r = true ∧ g.placeFor j x x.next = some (id, cores) ∧
      (let v := { g with jobs := Tab.put g.jobs j { x with next := x.next + 1 } }
       v.plannedVoid r x x.next = none ∧ v.skipped r x x.next = none)) ∧
    (∃ (s u g : State) (t j : Nat) (c : Bytes) (x : Job) (r : Run), s.actsAt t u ∧ g = u.regroup ∧
      Tab.find g.jobs j = some x ∧ Tab.find g.runs x.run = some r ∧
      (x.running = false ∨ x.count ≤ x.next ∨ g.mayWork r = false ∨ g.placeFor j x x.next = none)) ∧
    (∃ (u : State) (r : Run) (index no : Nat) (c : Bytes),
       let len := leAt c 20 4 % 2 ^ 31
       (leAt c 0 8 ≠ (u.label r.label).matter ∨ leAt c 8 8 ≠ index ∨ leAt c 16 4 ≠ no ∨ len = 0 ∨ 65536 < len)) ∧
    (∃ (u : State) (r : Run) (index no : Nat) (c : Bytes), ∃ p last, u.openChunk r index no c = some (p, last)) ∧
    (∃ (s u g : State) (t j k : Nat) (c : Bytes) (x : Job) (r : Run) (l : Lane), s.actsAt t u ∧ g = u.regroup ∧
      Tab.find g.jobs j = some x ∧ Tab.find g.runs x.run = some r ∧ Tab.find x.lanes k = some l) ∧
    (∃ (u : State) (j k : Nat) (c : Bytes) (x : Job) (r : Run) (l : Lane), Tab.find u.jobs j = some x ∧
      Tab.find x.lanes k = some l ∧ x.clock = none ∧
      (let d := padTo (40 + leAt (padTo 24 c) 20 4 % 2 ^ 31) c
       let room := (x.tableEntry k).2 - l.taken
       let idx := jobBase r x + k
       ∃ p last, u.openChunk r idx l.chunks d = some (p, last) ∧ d.length ≤ room)) ∧
    (∃ (u : State) (j k : Nat) (x : Job) (r : Run) (l : Lane), Tab.find u.jobs j = some x ∧
      Tab.find x.lanes k = some l ∧ l.out = none ∧ x.storeBytes l.data = 0 ∧ (x.stage ≠ 0x10 ∨ x.isPrepass = true)) ∧
    (∃ (u : State) (r : Run) (j k : Nat) (x : Job) (l : Lane) (o : SampleOut), Tab.find u.jobs j = some x ∧
      Tab.find x.lanes k = some l ∧ x.planned r = false ∧ (∀ m ∈ x.lanes, m.1 ≠ k → m.2.out = none) ∧
      ((k = x.outs.length ∧ o.reason = 0) ∨ (k ≠ x.outs.length ∧ o.reason ≠ 0 ∧
      Tab.find x.done x.outs.length = none))) ∧
    (∃ (s u : State) (t j k : Nat) (x : Job) (r : Run) (l : Lane), s.actsAt t u ∧ Tab.find u.jobs j = some x ∧
      Tab.find u.runs x.run = some r ∧ Tab.find x.lanes k = some l ∧
      (let ends := l.start + r.budget + (u.fencedSoFar r.label - l.fenced) + u.stallTicks r l
       (r.cls = 0 ∨ r.budget = 0 ∨ l.again = true ∨ u.now < ends ∨ l.out ≠ none ∨ u.faults.halt = true ∨ (u.label
          r.label).state = .fenced))) ∧
    (∃ (s u : State) (t j k : Nat) (x : Job) (r : Run) (l : Lane), s.actsAt t u ∧ Tab.find u.jobs j = some x ∧
      Tab.find u.runs x.run = some r ∧ Tab.find x.lanes k = some l ∧
      (let ends := l.start + r.budget + (u.fencedSoFar r.label - l.fenced) + u.stallTicks r l
       r.cls ≠ 0 ∧ r.budget ≠ 0 ∧ l.again = false ∧ ends ≤ u.now ∧ (∀ m ∈ x.lanes, m.2.out = none) ∧
          u.faults.halt = false ∧ (u.label r.label).state ≠ .fenced)) :=
  ⟨⟨working [(4, unread4)] { run5 with cls := 1 } 4, _, _, 0, 4, 128, [], [], unread4, { run5 with cls := 1 },
    now rfl, rfl, by decide +kernel, by decide +kernel, by decide +kernel, by decide +kernel, by decide +kernel,
    by decide +kernel, by decide +kernel, { index := 1, reason := 0x20, role := 4, words := [0x20 * 2 ^ 24] },
    .inr ⟨by decide +kernel, by decide +kernel, by decide +kernel⟩, by decide +kernel, by decide +kernel,
    by decide +kernel⟩,
   ⟨working [(4, job1 1)], _, _, 0, 4, 128, [], [], job1 1, run5, now rfl, rfl, by decide +kernel,
    by decide +kernel, by decide +kernel, by decide +kernel, by decide +kernel, by decide +kernel,
    by decide +kernel, by decide +kernel, by decide +kernel⟩,
   ⟨working [(4, { job1 1 with running := false })], _, _, 0, 4, [], { job1 1 with running := false }, run5,
    now rfl, rfl, by decide +kernel, by decide +kernel, .inl (by decide +kernel)⟩,
   ⟨working [], run5, 1, 0, [], .inr (.inl (by decide +kernel))⟩,
   ⟨working [], run5, 0, 1, chunk, [7], false, by decide +kernel⟩,
   ⟨working [(4, { job1 1 with lanes := [(0, lane1)] })], _, _, 0, 4, 0, chunk,
    { job1 1 with lanes := [(0, lane1)] }, run5, lane1, now rfl, rfl, by decide +kernel, by decide +kernel,
    by decide +kernel⟩,
   ⟨working [(4, { job1 1 with lanes := [(0, lane1)] })], 4, 0, chunk, { job1 1 with lanes := [(0, lane1)] },
    run5, lane1, by decide +kernel, by decide +kernel, by decide +kernel, [7], false, by decide +kernel,
    by decide +kernel⟩,
   ⟨working [(4, { job1 1 with lanes := [(0, lane1)] })], 4, 0, { job1 1 with lanes := [(0, lane1)] }, run5,
    lane1, by decide +kernel, by decide +kernel, by decide +kernel, by decide +kernel, .inl (by decide)⟩,
   ⟨working [(4, { job1 1 with lanes := [(0, lane1)] })], classS, 4, 0, { job1 1 with lanes := [(0, lane1)] },
    lane1, { index := 0 }, by decide +kernel, by decide +kernel, by decide +kernel,
    fun m h hk => absurd (congrArg Prod.fst (List.mem_singleton.mp h)) hk, .inl (by decide +kernel)⟩,
   ⟨working [(4, lateJob)], _, 0, 4, 0, lateJob, run5, { start := 0, fenced := 0 }, now rfl, by decide +kernel,
    by decide +kernel, by decide +kernel, .inl (by decide +kernel)⟩,
   ⟨{ working [(4, lateJob)] classS with time := { gcnt := 1 } }, _, 0, 4, 0, lateJob, classS,
    { start := 0, fenced := 0 }, now rfl, by decide +kernel, by decide +kernel, by decide +kernel,
    by decide +kernel, by decide +kernel, by decide +kernel, by decide +kernel, by decide +kernel,
    by decide +kernel, by decide +kernel⟩⟩

theorem test_witness_SampleRetirement :
    (∃ (s u : State) (t j : Nat) (x : Job) (r : Run) (o : SampleOut), s.actsAt t u ∧ Tab.find u.jobs j = some x ∧
      Tab.find u.runs x.run = some r ∧ x.running = true ∧ u.mayWork r = true ∧ x.outs.length < x.count ∧
      u.outputStalls r j x x.outs.length = false ∧
      (x.snap.streamOut = false ∨ o.reason ≠ 0 ∨ u.holds (.record j x.outs.length) = true) ∧ (∀ l ∈ x.lanes,
      l.2.out = none) ∧ Tab.find x.done (x.outs.length + 1) = none ∧ ((readsSealed x.stage = true ∧
      Tab.find x.done x.outs.length = some o) ∨ (x.stage = 5 ∧ u.worksOnSample j x x.outs.length = true ∧
      u.pyrWork r j x x.outs.length = some o) ∨ (x.stage = 0x11 ∧ x.core ≠ none ∧
      u.vencWork j x x.outs.length = some o))) ∧
    (∃ (s u : State) (t j : Nat) (x : Job) (r : Run), s.actsAt t u ∧ Tab.find u.jobs j = some x ∧
      Tab.find u.runs x.run = some r ∧ (x.stage ≠ 0x11 ∨ x.core ≠ none) ∧
      (x.running = false ∨ u.mayWork r = false ∨ (x.stage ≠ 6 ∧
      (u.outputStalls r j x x.outs.length = true ∨ x.count ≤ x.outs.length)) ∨ (readsSealed x.stage = true ∧
      Tab.find x.done x.outs.length = none))) ∧
    (∃ (s u : State) (t j : Nat) (x : Job) (r : Run) (a : Arrival), s.actsAt t u ∧ Tab.find u.jobs j = some x ∧
      Tab.find u.runs x.run = some r ∧ x.running = true ∧ u.mayWork r = true ∧ x.outs.length < x.count ∧
      x.stage = 6 ∧ (packCfg x.snap).mode = 0 ∧ r.cls ≠ 0 ∧ x.pack.due (packCfg x.snap) = false ∧
      u.worksOnSample j x x.outs.length = true ∧ u.arrivalOf r j x x.outs.length = some a ∧
      (a.item.reason ≠ 0 ∨ u.holds (.waiting j x.outs.length) = true)) ∧
    (∃ (s u : State) (t j : Nat) (x : Job) (r : Run), s.actsAt t u ∧ Tab.find u.jobs j = some x ∧
      Tab.find u.runs x.run = some r ∧ x.stage = 6 ∧ x.running = true ∧ u.mayWork r = true ∧
      x.pack.ready (packCfg x.snap) = false ∧ (∃ e, x.pack.windowEnd (packCfg x.snap) = some e ∧ u.now < e)) ∧
    (∃ (s u : State) (t j : Nat) (x : Job) (r : Run), s.actsAt t u ∧ Tab.find u.jobs j = some x ∧
      Tab.find u.runs x.run = some r ∧ x.stage = 6 ∧ x.running = true ∧ u.mayWork r = true ∧
      x.pack.ready (packCfg x.snap) = false ∧ x.pack.windowEnd (packCfg x.snap) = none) ∧
    (∃ (s u : State) (t j : Nat) (x : Job) (r : Run), s.actsAt t u ∧ Tab.find u.jobs j = some x ∧
      Tab.find u.runs x.run = some r ∧ x.stage = 6 ∧ x.running = true ∧ u.mayWork r = true ∧
      x.pack.ready (packCfg x.snap) = false ∧ (∃ e, x.pack.windowEnd (packCfg x.snap) = some e ∧ e ≤ u.now)) ∧
    (∃ (s u : State) (t j n : Nat) (x p : Job) (r : Run) (f : Profile) (sp : Spawn), s.actsAt t u ∧
      Tab.find u.jobs j = some x ∧ Tab.find u.runs x.run = some r ∧ x.stage = 8 ∧ x.running = true ∧
      u.mayWork r = true ∧ u.chorusStalled r = false ∧ u.profileOf r = some f ∧ u.nextSpawn r j x = some (n, p,
      sp) ∧ Tab.find u.jobs n = some p ∧ n ≠ j ∧ u.sealPlace r.planned (u.placeOf x.run j) = none) ∧
    (∃ (s u : State) (t j n : Nat) (x p : Job) (r : Run) (f : Profile) (sp : Spawn), s.actsAt t u ∧
      Tab.find u.jobs j = some x ∧ Tab.find u.runs x.run = some r ∧ x.stage = 8 ∧ x.running = true ∧
      u.mayWork r = true ∧ u.chorusStalled r = false ∧ u.profileOf r = some f ∧ u.nextSpawn r j x = some (n, p,
      sp) ∧ Tab.find u.jobs n = some p ∧ n ≠ j ∧ (∃ i m y d, u.sealPlace r.planned (u.placeOf x.run j) = some i ∧
      u.jobAt x.run i = some (m, y) ∧ u.dealRegion = some d ∧
      (y.running = false ∨ u.stallsAt (backKey 0x0B d) 0x0B (u.sealBacklog d) = true))) ∧
    (∃ (s u : State) (t j n : Nat) (x p : Job) (r : Run) (f : Profile) (sp : Spawn), s.actsAt t u ∧
      Tab.find u.jobs j = some x ∧ Tab.find u.runs x.run = some r ∧ x.stage = 8 ∧ x.running = true ∧
      u.mayWork r = true ∧ u.chorusStalled r = false ∧ u.profileOf r = some f ∧ u.nextSpawn r j x = some (n, p,
      sp) ∧ Tab.find u.jobs n = some p ∧ n ≠ j ∧
      (let seed := if encRound x.snap then some (Tab.getD r.seeds (encSeed x.snap) [], encStream x.snap) else none
       let c := encodeRecord f seed n sp
       ∃ i m y d, u.sealPlace r.planned (u.placeOf x.run j) = some i ∧ u.jobAt x.run i = some (m, y) ∧
          u.dealRegion = some d ∧ y.running = true ∧ u.stallsAt (backKey 0x0B d) 0x0B (u.sealBacklog d) = false ∧
          ((∀ w ∈ c.rows, w.rows = []) ∨ u.holds (.encoded u.nextSeal) = true))) ∧
    (∃ (s u : State) (t e i : Nat) (r : Run) (p : Tadpole), s.actsAt t u ∧ Tab.find u.runs e = some r ∧
      Tab.find r.tadpoles i = some p ∧ u.now < p.start + u.cus.tadpoleLimit.toNat * 10 ^ 6) ∧
    (∃ (s u : State) (t e i : Nat) (r : Run) (p : Tadpole), s.actsAt t u ∧ Tab.find u.runs e = some r ∧
      Tab.find r.tadpoles i = some p ∧ p.start + u.cus.tadpoleLimit.toNat * 10 ^ 6 ≤ u.now) ∧
    (∃ (s u : State) (t key : Nat), s.actsAt t u) :=
  ⟨⟨working [(4, { job1 1 with done := [(0, { index := 0 })] })], _, 0, 4,
    { job1 1 with done := [(0, { index := 0 })] }, run5, { index := 0 }, now rfl, by decide +kernel,
    by decide +kernel, by decide +kernel, by decide +kernel, by decide +kernel, by decide +kernel,
    .inl (by decide +kernel), by decide +kernel, by decide +kernel, .inl (by decide +kernel)⟩,
   ⟨working [(4, { job1 1 with running := false })], _, 0, 4, { job1 1 with running := false }, run5, now rfl,
    by decide +kernel, by decide +kernel, .inl (by decide +kernel), .inl (by decide +kernel)⟩,
   ⟨arriving, _, 0, 4, packer, { run5 with cls := 1 }, arrival1, now rfl, by decide +kernel, by decide +kernel,
    by decide +kernel, by decide +kernel, by decide +kernel, by decide +kernel, by decide +kernel,
    by decide +kernel, by decide +kernel, by decide +kernel, arrives, .inr (by decide +kernel)⟩,
   ⟨working [(4, packing)], _, 0, 4, packing, run5, now rfl, by decide +kernel, by decide +kernel,
    by decide +kernel, by decide +kernel, by decide +kernel, by decide +kernel, 8, by decide +kernel,
    by decide +kernel⟩,
   ⟨working [(4, job1 6)], _, 0, 4, job1 6, run5, now rfl, by decide +kernel, by decide +kernel,
    by decide +kernel, by decide +kernel, by decide +kernel, by decide +kernel, by decide +kernel⟩,
   ⟨{ working [(4, packing)] with time := { gcnt := 8 } }, _, 0, 4, packing, run5, now rfl, by decide +kernel,
    by decide +kernel, by decide +kernel, by decide +kernel, by decide +kernel, by decide +kernel, 8,
    by decide +kernel, by decide +kernel⟩,
   ⟨packed false [6, 8], _, 0, 4, 2, job1 8, { job1 6 with spawns := [spawn1] }, _, profile1, spawn1, now rfl,
    by decide +kernel, rfl, by decide +kernel, by decide +kernel, by decide +kernel, by decide +kernel,
    by decide +kernel, by decide +kernel, by decide +kernel, by decide +kernel, by decide +kernel⟩,
   ⟨packed false, _, 0, 4, 2, job1 8, { job1 6 with spawns := [spawn1] }, _, profile1, spawn1, now rfl,
    by decide +kernel, rfl, by decide +kernel, by decide +kernel, by decide +kernel, by decide +kernel,
    by decide +kernel, by decide +kernel, by decide +kernel, by decide +kernel, 2, 7,
    { job1 9 with running := false }, 0, by decide +kernel, by decide +kernel, by decide +kernel,
    .inl (by decide +kernel)⟩,
   ⟨packed true, _, 0, 4, 2, job1 8, { job1 6 with spawns := [spawn1] }, _, profile1, spawn1, now rfl,
    by decide +kernel, rfl, by decide +kernel, by decide +kernel, by decide +kernel, by decide +kernel,
    by decide +kernel, by decide +kernel, by decide +kernel, by decide +kernel, 2, 7, job1 9, 0,
    by decide +kernel, by decide +kernel, by decide +kernel, by decide +kernel, by decide +kernel,
    .inl (by decide +kernel)⟩,
   ⟨working [] { run5 with tadpoles := [(3, { start := 1 })] }, _, 0, 1, 3, _, { start := 1 }, now rfl, rfl,
    by decide +kernel, by decide +kernel⟩,
   ⟨{ working [] { run5 with tadpoles := [(3, { start := 0 })] } with time := { gcnt := 10 ^ 9 } }, _, 0, 1, 3, _,
    { start := 0 }, now rfl, rfl, by decide +kernel, by decide +kernel⟩,
   ⟨ready, _, 0, 0x5001, now rfl⟩⟩

theorem test_witness_SealCommands :
    (∃ (s u : State) (t n id : Nat) (r : BitVec 3) (x : SealSpawn) (run : Run) (job : Job) (f : Profile) (pk :
      PubKey) (rs : List ResidueFault) (ok : Bool), s.actsAt t u ∧ u.frontSpawn r.toNat = some (n, x) ∧
      Tab.find u.seals n = some x ∧ Tab.find u.runs x.run = some run ∧ Tab.find u.jobs x.job = some job ∧
      u.profileOf run = some f ∧ Tab.find u.keyCache run.label = some pk ∧ u.mayWork run = true ∧
      u.inService r.toNat = true ∧ (x.rows.map SealRow.g).Nodup ∧
      (let batch := x.batchRows (sealK job.snap)
       let i := x.pass
       batch ≠ [] ∧ u.passTile r.toNat (x.batch * f.limbs + i) = some id ∧ (u.tile id).state = .bound ∧ (∀ a ∈ rs,
          a.again = false))) ∧
    (∃ (s u : State) (t n id : Nat) (r : BitVec 3) (x : SealSpawn) (run : Run) (job : Job) (f : Profile) (pk :
      PubKey) (rs : List ResidueFault) (ok : Bool), s.actsAt t u ∧ u.frontSpawn r.toNat = some (n, x) ∧
      Tab.find u.seals n = some x ∧ Tab.find u.runs x.run = some run ∧ Tab.find u.jobs x.job = some job ∧
      u.profileOf run = some f ∧ Tab.find u.keyCache run.label = some pk ∧ u.mayWork run = true ∧
      u.inService r.toNat = true ∧ (x.rows.map SealRow.g).Nodup ∧
      (let batch := x.batchRows (sealK job.snap)
       let i := x.pass
       batch ≠ [] ∧ u.passTile r.toNat (x.batch * f.limbs + i) = some id ∧ (u.tile id).state = .bound ∧ (∃ a ∈ rs,
          a.again = true ∧ ∃ v ∈ batch, v.g = a.row) ∧ u.pwr.phase ≠ .basking)) ∧
    (∃ (s u : State) (t : Nat) (r : BitVec 3) (rs : List ResidueFault) (ok : Bool), s.actsAt t u ∧
      (u.frontSpawn r.toNat = none ∨ u.inService r.toNat = false ∨ (∃ n x run, u.frontSpawn r.toNat = some (n,
      x) ∧ Tab.find u.runs x.run = some run ∧ u.mayWork run = false))) ∧
    (∃ (f : Profile) (x : Label) (step kind g : Nat), 8 ≤ f.digest.length ∧ 8 ≤ x.fingerprint.length) ∧
    (∃ (s u : State) (t n : Nat) (r : BitVec 3) (x : SealSpawn) (run : Run) (f : Profile) (v : SealRow),
      s.actsAt t u ∧ u.frontSpawn r.toNat = some (n, x) ∧ Tab.find u.runs x.run = some run ∧
      u.profileOf run = some f ∧ x.rows.find? (fun w => w.limbs.length == f.limbs) = some v ∧
      u.mayWork run = true ∧ u.inService r.toNat = true ∧ u.chorusStalled run = false ∧
      (u.sealRow n x run f v).manifestStalls x.run x.job false = true) ∧
    (∃ (s u : State) (t n : Nat) (r : BitVec 3) (x : SealSpawn) (run : Run) (f : Profile) (v : SealRow),
      s.actsAt t u ∧ u.frontSpawn r.toNat = some (n, x) ∧ Tab.find u.runs x.run = some run ∧
      u.profileOf run = some f ∧ x.rows.find? (fun w => w.limbs.length == f.limbs) = some v ∧
      u.mayWork run = true ∧ u.inService r.toNat = true ∧ u.chorusStalled run = false ∧
      (u.sealRow n x run f v).manifestStalls x.run x.job false = false) ∧
    (∃ (s u : State) (t n : Nat) (r : BitVec 3) (x : SealSpawn) (run : Run) (f : Profile), s.actsAt t u ∧
      u.frontSpawn r.toNat = some (n, x) ∧ Tab.find u.runs x.run = some run ∧ u.profileOf run = some f ∧
      (x.rows.find? (fun w => w.limbs.length == f.limbs) = none ∨ u.mayWork run = false ∨ u.inService r.toNat =
      false ∨ u.chorusStalled run = true)) :=
  ⟨⟨sealing row1, _, 0, 0, 128, 0, spawn0 row1, run5, job1 9, profile1, ⟨0, [[1]], [[2]], []⟩, [], true, now rfl,
    by decide +kernel, by decide +kernel, by decide +kernel, by decide +kernel, by decide +kernel,
    by decide +kernel, by decide +kernel, by decide +kernel, by decide +kernel, by decide +kernel,
    by decide +kernel, by decide +kernel, by decide +kernel⟩,
   ⟨sealing row1, _, 0, 0, 128, 0, spawn0 row1, run5, job1 9, profile1, ⟨0, [[1]], [[2]], []⟩, [⟨0, true⟩], true,
    now rfl, by decide +kernel, by decide +kernel, by decide +kernel, by decide +kernel, by decide +kernel,
    by decide +kernel, by decide +kernel, by decide +kernel, by decide +kernel, by decide +kernel,
    by decide +kernel, by decide +kernel, by decide +kernel, by decide +kernel⟩,
   ⟨ready, _, 0, 0, [], true, now rfl, .inl (by decide +kernel)⟩,
   ⟨profile1, { fingerprint := zeroBytes 48 }, 0, 0, 0, by decide +kernel, by decide +kernel⟩,
   ⟨{ sealing (row1 [([], [])]) with jobs := [(4, closingJob)], pke := { manifests := List.range 256 } }, _, 0, 0,
    0, spawn0 (row1 [([], [])]), run5, profile1, row1 [([], [])], now rfl, by decide +kernel, by decide +kernel,
    by decide +kernel, by decide +kernel, by decide +kernel, by decide +kernel, by decide +kernel, by decide +kernel⟩,
   ⟨sealing (row1 [([], [])]), _, 0, 0, 0, spawn0 (row1 [([], [])]), run5, profile1, row1 [([], [])], now rfl,
    by decide +kernel, by decide +kernel, by decide +kernel, by decide +kernel, by decide +kernel,
    by decide +kernel, by decide +kernel, by decide +kernel⟩,
   ⟨sealing row1, _, 0, 0, 0, spawn0 row1, run5, profile1, now rfl, by decide +kernel, by decide +kernel,
    by decide +kernel, .inl (by decide +kernel)⟩⟩

theorem test_witness_LiveCommands :
    (∃ (s u : State) (t p : Nat) (c : BitVec 3) (mem : HostMem), s.actsAt t u ∧ u.clockPeriod c.toNat = some p ∧
      (p = 0 ∨ u.now % p ≠ 0)) ∧
    (∃ (s u : State) (t p : Nat) (c : BitVec 3) (mem : HostMem), s.actsAt t u ∧ u.clockPeriod c.toNat = some p ∧
      p ≠ 0 ∧ u.now % p = 0 ∧ Tab.sorted u.jobs = true) ∧
    (∃ (s u : State) (t : Nat) (c : BitVec 3) (mem : HostMem), s.actsAt t u ∧ u.clockPeriod c.toNat = none) ∧
    (∃ (s u : State) (t j k : Nat) (mem : HostMem) (x : Job), s.actsAt t u ∧ Tab.find u.jobs j = some x) ∧
    (∃ (s u : State) (t j k c p : Nat) (x : Job) (r : Run) (l : Lane) (v : Live), s.actsAt t u ∧
      Tab.find u.jobs j = some x ∧ u.liveRun x = some r ∧ Tab.find x.lanes k = some l ∧ x.live = some v ∧
      x.clock = some c ∧ u.clockPeriod c = some p ∧
      (let ends := v.window0 + (v.next + 1) * p
       u.now < ends)) ∧
    (∃ (s u : State) (t j k c p : Nat) (x : Job) (r : Run) (l : Lane) (v : Live), s.actsAt t u ∧
      Tab.find u.jobs j = some x ∧ u.liveRun x = some r ∧ Tab.find x.lanes k = some l ∧ x.live = some v ∧
      x.clock = some c ∧ u.clockPeriod c = some p ∧
      (let ends := v.window0 + (v.next + 1) * p
       ends ≤ u.now)) ∧
    (∃ (c : VdecCfg) (v : Live) (data : Bytes) (t : Nat), ∃ q, q ∈ v.reads ∧ q.1 < t) ∧
    (∃ (c : VdecCfg) (v : Live) (data : Bytes) (t : Nat),
       let a := vidArgs c 0 v.late
       let got := v.readBy t
       let irap := isIrap a v.next (data.take got)
       v.resync = true ∧ irap = false) ∧
    (∃ (c : VdecCfg) (v : Live) (data : Bytes) (t : Nat),
       let a := vidArgs c 0 v.late
       let got := v.readBy t
       let irap := isIrap a v.next (data.take got)
       (v.resync = false ∨ irap = true)) ∧
    (∃ (s u : State) (t j : Nat) (x : Job), s.actsAt t u ∧ Tab.find u.jobs j = some x ∧
      (u.liveRun x = none ∨ x.wantsCore = false)) ∧
    (∃ (s u : State) (t j : Nat) (x : Job), s.actsAt t u ∧ Tab.find u.jobs j = some x ∧ u.liveRun x ≠ none ∧
      x.wantsCore = true ∧ (∃ c, u.freeCore = some c)) ∧
    (∃ (s u : State) (t j : Nat) (x : Job), s.actsAt t u ∧ Tab.find u.jobs j = some x ∧ u.liveRun x ≠ none ∧
      x.wantsCore = true ∧ u.freeCore = none ∧ u.yielding = []) ∧
    (∃ (s u : State) (t j : Nat) (x : Job), s.actsAt t u ∧ Tab.find u.jobs j = some x ∧ u.liveRun x ≠ none ∧
      x.wantsCore = true ∧ (∃ p ps z m c, u.freeCore = none ∧ u.yielding = p :: ps ∧ p.1 ≠ j ∧
      Tab.find u.jobs p.1 = some z ∧ Tab.find z.lanes p.2 = some m ∧
      (let v := { u with jobs := Tab.put u.jobs p.1 { z with lanes := Tab.put z.lanes p.2 { m with cores := [] } } }
       v.freeCore = some c))) ∧
    (∃ (u : State) (p : Nat × Nat), p ∈ u.yielding) ∧
    (∃ (s u : State) (t j k : Nat) (x : Job) (r : Run) (l : Lane) (v : Live), s.actsAt t u ∧
      Tab.find u.jobs j = some x ∧ u.liveRun x = some r ∧ Tab.find x.lanes k = some l ∧ x.live = some v) :=
  ⟨⟨onAir 5, _, 0, 4, 2, [], now rfl, by decide +kernel, .inr (by decide +kernel)⟩,
   ⟨onAir 8, _, 0, 4, 2, [], now rfl, by decide +kernel, by decide +kernel, by decide +kernel, by decide +kernel⟩,
   ⟨onAir 8, _, 0, 3, [], now rfl, by decide +kernel⟩,
   ⟨onAir 8, _, 0, 4, 0, [], liveJob, now rfl, by decide +kernel⟩,
   ⟨onAir 3, _, 0, 4, 0, 2, 4, liveJob, run5, lane1, { window0 := 0 }, now rfl, by decide +kernel,
    by decide +kernel, by decide +kernel, by decide +kernel, by decide +kernel, by decide +kernel, by decide +kernel⟩,
   ⟨onAir 4, _, 0, 4, 0, 2, 4, liveJob, run5, lane1, { window0 := 0 }, now rfl, by decide +kernel,
    by decide +kernel, by decide +kernel, by decide +kernel, by decide +kernel, by decide +kernel, by decide +kernel⟩,
   ⟨vdecCfg (snap1 0x10), { window0 := 0, reads := [(1, 5)] }, [], 2, (1, 5), by decide +kernel, by decide +kernel⟩,
   ⟨vdecCfg (snap1 0x10), { window0 := 0, resync := true }, [], 2, by decide +kernel, by decide +kernel⟩,
   ⟨vdecCfg (snap1 0x10), { window0 := 0 }, [], 2, .inl rfl⟩,
   ⟨onAir 8, _, 0, 4, liveJob, now rfl, by decide +kernel, .inr (by decide +kernel)⟩,
   ⟨waitingLive [] 1, _, 0, 4, waiter, now rfl, by decide +kernel, by decide +kernel, by decide +kernel, 0,
    by decide +kernel⟩,
   ⟨waitingLive [] 0, _, 0, 4, waiter, now rfl, by decide +kernel, by decide +kernel, by decide +kernel,
    by decide +kernel, by decide +kernel⟩,
   ⟨waitingLive [(5, recorded)] 1, _, 0, 4, waiter, now rfl, by decide +kernel, by decide +kernel,
    by decide +kernel, (5, 0), [], recorded, { lane1 with cores := [0] }, 0, by decide +kernel, by decide +kernel,
    by decide +kernel, by decide +kernel, by decide +kernel, by decide +kernel⟩,
   ⟨waitingLive [(5, recorded)] 1, (5, 0), by decide +kernel⟩,
   ⟨onAir 8, _, 0, 4, 0, liveJob, run5, lane1, { window0 := 0 }, now rfl, by decide +kernel, by decide +kernel,
    by decide +kernel, by decide +kernel⟩⟩

theorem test_witness_StepRunsFrontCommand_idle : ∃ s : State, s.pending = [] := ⟨ready, rfl⟩

/-- An armed vector whose one enabled source is down. -/
def quiet : State := { ready with intb := { msgAddr := 4, enable := 64 } }

theorem test_witness_StepKeepsInterruptQuiet : ∃ s t : State, s.interruptQuiet ∧ step s = .next t ∧
    s.intb.armed = true ∧ s.intb.msgAddr &&& ~~~3#48 ≠ 0 ∧ s.intb.enable ≠ 0 :=
  ⟨quiet, quiet, fun _ _ => by decide +kernel, rfl, by decide +kernel, by decide +kernel, by decide +kernel⟩

theorem test_witness_RegisterRead_cleared : ∃ (r : Rc) (w n now t : Nat), t ≠ now ∧ (r.add w n now).tick = now :=
  ⟨{ val := 3 }, 16, 1, 5, 6, by decide, by decide⟩

theorem test_witness_RecorderCommands_waits : ∃ (v : State) (tr : Nat), v.erw.wait = some tr ∧ v.pwr.inhibitRail = 0 :=
  ⟨{ ready with erw := { wait := some 4 } }, 4, rfl, rfl⟩

theorem test_witness_MicrocodeReload_none : ∃ u : State, ∀ b d, u.qg.run ≠ some ⟨b, .reload d⟩ :=
  ⟨ready, fun _ _ h => by cases h⟩

theorem test_witness_StageJobs_video : ∃ (u : State) (j : Nat) (x : Job), x.stage = 0x10 ∧ u.stageFree j x = true :=
  ⟨ready, 4, job1 0x10, rfl, by decide +kernel⟩

theorem test_witness_SampleReading_grouped : ∃ u : State, (∀ y ∈ u.jobs, y.2.wantsCore = false) ∧
    ∀ y ∈ u.jobs, y.2.stage = 0x10 → y.2.clock = none → ∀ l ∈ y.2.lanes, l.2.cores ≠ [] :=
  ⟨working [(4, recorded)], by decide +kernel, by decide +kernel⟩

theorem test_witness_AdminFrames : ∃ (s s' : State) (t : Nat), exec (.createQueue t) s = .next s' :=
  ⟨_, _, 0, (rfl : exec (.createQueue 0) ready = .next _)⟩

theorem test_witness_DataPathFrames : ∃ (s s' : State) (t : Nat) (n : Nat), exec (.desc t n) s = .next s' :=
  ⟨_, _, 0, 1, (rfl : exec (.desc 0 1) ready = .next _)⟩

theorem test_witness_HostFrames : ∃ (s s' : State) (t : Nat) (r : BitVec 3), exec (.presencePresent t r) s = .next s' :=
  ⟨_, _, 0, 7, (rfl : exec (.presencePresent 0 7) ready = .next _)⟩

/-! ### Ill-formed commands that WellFormed refuses, and well-formed ones beside them -/

theorem test_wf_entryFetch : (Instr.entryFetch 0 5 (zeroBytes 63)).wf = false ∧
      (Instr.entryFetch 0 5 (zeroBytes 64)).wf = true := by
  decide
theorem test_wf_chorusMessage : (Instr.chorusMessage 0 true (zeroBytes 79)).wf = false := by decide
theorem test_wf_enclaveTestEnd : (Instr.enclaveTestEnd 0 [384]).wf = false ∧ (Instr.enclaveTestEnd 0 [383]).wf =
      true := by
  decide
theorem test_wf_pcRetireDone : (Instr.pcRetireDone 0 384 []).wf = false := by decide
theorem test_wf_enclaveEccError_channel : (Instr.enclaveEccError 0 384 .corrected 384).wf = false := by decide
theorem test_wf_enclaveEccError_cell : (Instr.enclaveEccError 0 1 .corrected 384).wf = false := by decide
theorem test_wf_enclaveEccError_range : (Instr.enclaveEccError 0 0 .corrected 7324032).wf = false := by decide
theorem test_wf_loadWindowEnd : (Instr.loadWindowEnd 0 1001).wf = false ∧ (Instr.loadWindowEnd 0 1000).wf = true :=
      by decide
theorem test_wf_kCtlDerived : (Instr.kCtlDerived 0 (zeroBytes 47)).wf = false := by decide
theorem test_wf_pkJobEnd : (Instr.pkJobEnd 0 ⟨3, 0⟩).wf = false ∧ (Instr.pkJobEnd 0 ⟨2, 0⟩).wf = true := by decide
theorem test_wf_startMoultDone_grade : (Instr.startMoultDone 0 ⟨⟨true, 8, 0x41, 0, 0⟩, [], [], []⟩).wf = false :=
      by decide
theorem test_wf_startMoultDone_letter : (Instr.startMoultDone 0 ⟨⟨true, 7, 0x40, 0, 0⟩, [], [], []⟩).wf = false ∧
    (Instr.startMoultDone 0 ⟨⟨true, 7, 0x5B, 0, 0⟩, [], [], []⟩).wf = false := by decide
theorem test_wf_startMoultDone_digit : (Instr.startMoultDone 0 ⟨⟨true, 7, 0x41, 10, 0⟩, [], [], []⟩).wf = false :=
      by decide
theorem test_wf_startMoultDone_keys :
    (Instr.startMoultDone 0 ⟨⟨true, 7, 0x41, 0, 0⟩, [(1, zeroBytes 96)], [], []⟩).wf = false ∧
    (Instr.startMoultDone 0 ⟨⟨true, 7, 0x41, 0, 0⟩, [], [(1, zeroBytes 96)], []⟩).wf = false ∧
    (Instr.startMoultDone 0 ⟨⟨true, 7, 0x41, 0, 0⟩, [], [], [(1, zeroBytes 96)]⟩).wf = false := by decide
theorem test_wf_stackTemperatureReport : (Instr.stackTemperatureReport 0 6 true).wf = false := by decide
theorem test_wf_scrubOverwrite : (Instr.scrubOverwrite 0 7324032).wf = false := by decide
theorem test_wf_patrolScrubRead : (Instr.patrolScrubRead 0 7324032 false).wf = false := by decide
theorem test_wf_lowHalfRead : (Instr.lowHalfRead 0 0x02004).wf = false ∧ (Instr.lowHalfRead 0 0x02000).wf = true :=
      by decide
theorem test_wf_linkCrcFail : (Instr.linkCrcFail 0 0 ⟨0, 0⟩).wf = false ∧ (Instr.linkCrcFail 0 0 ⟨0, 5⟩).wf =
      false := by decide
theorem test_wf_custody_frames : ∀ c ∈ [Instr.hello, .offer, .probeAck, .counterAck, .windowRead, .ack, .nak],
    (c 0 1 (zeroBytes 1025)).wf = false ∧ (c 0 1 (zeroBytes 1024)).wf = true := by decide +kernel

/-! ### The standards: answers that they publish -/

/-- FIPS 180-4, "abc". -/
theorem test_sha256_abc : beNat (sha256 (asciiBytes "abc")) =
    0xba7816bf8f01cfea414140de5dae2223b00361a396177a9cb410ff61f20015ad := by decide +kernel
theorem test_sha384_abc : beNat (sha384 (asciiBytes "abc")) =
    0xcb00753f45a35e8bb5a03d699ac65007272c32ab0eded1631a8b605a43ff5bed8086072ba1e7cc2358baeca134c825a7 :=
        by decide +kernel
/-- FIPS 197, C.3. -/
theorem test_aes256 : beNat (aesEnc ((List.range 32).map (BitVec.ofNat 8)) (beBytes 16
      0x00112233445566778899aabbccddeeff)) =
    0x8ea2b7ca516745bfeafc49904b496089 := by decide +kernel
/-- RFC 8439, 2.3.2: the first words of the block. -/
theorem test_chacha20 : beNat ((chachaBlock ((List.range 32).map (BitVec.ofNat 8)) 1 (beBytes 12
      0x000000090000004a00000000)).take 8) =
    0x10f1e7e4d13b5915 := by decide +kernel
/-- The check value of CRC-32. -/
theorem test_crc32 : crc32With 0xedb88320 (asciiBytes "123456789") = 0xcbf43926 := by decide +kernel
/-- R275: 2 is a primitive eighth root of unity modulo 17; the fast transform gives the evaluation form. -/
theorem test_ntt : ntt 17 2 2 [1, 2, 3, 4] = evalForm 17 2 2 [1, 2, 3, 4] := by decide +kernel
/-- RFC 1950: the zlib stream of "abcabcabcabc", with a match of the fixed code. -/
theorem test_inflate :
    (match (inflate nextByte { total := 12, isFilter := fun _ => false }).run
        { data := (beBytes 13 0x789c4b4c4a4e8421001de00499).toArray, seg := 13 } with
     | .ok x => x.1.toList
     | .error _ => []) = asciiBytes "abcabcabcabc" := by decide +kernel
/-- Twice the generator of P-256. -/
theorem test_p256_double : (pointMul curveP256 2 curveP256.gen).map Prod.fst =
    some 0x7cf27b188d034f7e8a52380304b51ac3c08969e277f21b35a60b48fc47669978 := by decide +kernel

/-! ### Single commands on small states -/

/-- The state after a command. -/
def after (c : Instr) (s : State) : State :=
  match exec c s with
  | .next t => t
  | _ => s

theorem test_read_id : (after (.rcRead 0 0 4) graded).outputs.head? = some (.readData 0 4 0x41074859) :=
      by decide +kernel
theorem test_scratch_write : (after (.registerWrite 0 0x4C 4 0xABCD) ready).wordAt 0x4C = 0xABCD := by decide +kernel
theorem test_write_id_ignored : (after (.registerWrite 0 0 4 0xABCD) ready).wordAt 0 = ready.wordAt 0 :=
      by decide +kernel
theorem test_rearm_sends : (after (.rearm 0 1)
      { halted with intb := { msgAddr := 8, msgData := 9, enable := 64, armed := false } }).outputs =
    [.message 8 9] := by decide +kernel
theorem test_sqTailDoorbell_moves : ((after (.sqTailDoorbell 0 5 3) (withQ ready 5 queue3)).queue 5).sqTail = 3 :=
      by decide +kernel
theorem test_sqTailDoorbell_ignored : (after (.sqTailDoorbell 0 5 16) (withQ ready 5 queue3)).qg.badDb.val = 1 :=
      by decide +kernel
theorem test_adminEn_set : (after (.adminEnWrite 0 1) { ready with qg := {} }).qg.adminEn = true := by decide +kernel
theorem test_createQueue_result :
    (after (.createQueue 0) (withAdmin (opened ready)
      (entry 0x01 (matter := 3) (addr := 4096) (len := 0x41000) (step := 4096)))).qg.due.map (fun c => (c.status,
          c.result)) =
    [(0, 1)] := by decide +kernel
theorem test_createQueue_no_base :
    (after (.createQueue 0) (withAdmin (opened ready)
      (entry 0x01 (matter := 3) (len := 0x41000) (step := 4096)))).qg.due.map Compl.status = [0x12] := by decide +kernel
theorem test_disableQueue : ((after (.disableQueue 0) (withAdmin (withQ ready 5 { queue3 with taken := [taken1] })
    (entry 0x03 (len := 5)))).queue 5).state = .disabling := by decide +kernel
theorem test_claim_lowest : (after (.claim 0) (withAdmin (claimed (withQ ready 5 queue3) 1 0 5) (entry 0x2C (len :=
      0x5FF01)))).claimOf 1 1 =
    some ⟨5, 0, 0⟩ := by decide +kernel
theorem test_launch_held_until : (after (.launch 0 3) (withRun
      { ready with time := { cmp := [(3, { armed := true, t := 5 })] } }
    ⟨entry 0x23, .launch 3 false⟩)).qg.due = [] := by decide +kernel
theorem test_nop_completes : ((after (.nop 0 5) (cached (entry 0x83 (matter :=
      3)))).queue 5).taken.map (fun t => t.compl.isSome) = [true] := by
  decide +kernel
theorem test_fence_waits : ((after (.fence 0 5) (cached (entry 0x82 (matter :=
      3)))).queue 5).taken.map Taken.isFence = [true] := by
  decide +kernel
theorem test_wait_passes : ((Tab.find (after (.wait 0 1) (listing (cmd 5 256))).runs 1).map Run.cmds) = some [] :=
      by decide +kernel
theorem test_start_queues : (after (.start 0 1) (listing (cmd 4))).jobs.map (fun j => (j.2.stage, j.2.running)) =
      [(1, false)] := by
  decide +kernel
theorem test_skipped_sample : ((Tab.find (after (.sampleStart 0 4 []) (working [(4,
      job1 4)] run5 4)).jobs 4).map fun x => x.outs.map Prod.fst) =
    some [0] := by decide +kernel
theorem test_alloc_handle : (after (.alloc 0 0x57F81) (buffered buffer5 1)).pool.rspHandle / 2 ^ 28 = 8 :=
      by decide +kernel
theorem test_share_owners : ((after (.share 0 0x57F02) (buffered buffer5)).buffer? 9).map Buffer.owners = some [5,
      6] := by decide +kernel
theorem test_release_last_scrubs : (after (.release 0 0x57F03) (buffered buffer5)).pool.dirty = [(encFirst, 3)] :=
      by decide +kernel
theorem test_keySlotClear : (after (.keySlotClear 0 17)
      { ready with pke := { keys := [(1, ⟨5, 1, []⟩)] } }).pke.keys = [] := by decide +kernel
theorem test_keypair_runs : (after (.keypair 0 6) { ready with pke := { startup := [.keypair] } }).pke.running.map
      PkJob.op = some .keypair := by
  decide +kernel
theorem test_presenceAbsent_fences : ((after (.presenceAbsent 0 0) { opened ready with
    cus := { (opened ready).cus with present := 1 } }).label 3).state = .fenced := by decide +kernel
theorem test_offer_kept : (after (.offer 0 1 offer)
      { offered with cus := { offered.cus with offers := [] } }).cus.offers = [⟨offer⟩] := by
  decide +kernel
theorem test_offer_absent_nak : (after (.offer 0 1 offer)
      { offered with cus := { offered.cus with present := 0, offers := [] } }).cus.lastNak = 5 := by
  decide +kernel
theorem test_erasureEnd_frees : ((after (.erasureEnd 0 ⟨1023,
      []⟩) { ready with cus := { labels := [(1023, { state := .erasing })] } }).label 1023).state =
    .free := by decide +kernel
theorem test_openMatter_waits : (after (.openMatter 0 manifest) (withAdmin offered (entry 0x10 (len :=
      256)))).qg.run.isSome = true := by
  decide +kernel
theorem test_loadImage_verifies : (after (.loadImage 0 image) (load 1728)).pke.admin.map PkJob.op = some .verify :=
      by decide +kernel
theorem test_vInhibitEntry : (after (.vInhibitEntry 0 3) ready).pwr.inhibitRail = 8 := by decide +kernel
theorem test_reset_release : (after (.resetRelease 0) { ready with pwr := { inReset := true } }).pwr.phase =
      .moult := by decide +kernel
theorem test_countWord_locks : (after (.countWord 4 5)
      { ready with time := { gcnt := 4, matches_ := 1 } }).time.locked = true := by decide +kernel
theorem test_countWord_loses : (after (.countWord 4 7)
      { ready with time := { gcnt := 4, locked := true } }).time.holdover = true := by decide +kernel
theorem test_dieNumber_once : (after (.dieNumberWord 0 9)
      { ready with gctl := { die := 7, dieValid := true } }).gctl.die = 7 := by decide +kernel
theorem test_restart_thrice_halts : (after (.stewardWatchdogExpiry 0)
      { ready with stw := { running := true, starts := [0, 0] } }).faults.halt = true := by
  decide +kernel
theorem test_shedding_after_ten : (after (.loadWindowEnd 10000000 901)
      { ready with stw := { running := true, above := 9 } }).stw.shedding = true := by
  decide +kernel
theorem test_sramError_leaps : ((after (.sramError 0 3 .double true) (tiled .bound .spare)).region 0).state =
      .leaping := by decide +kernel
theorem test_sramError_folds : ((after (.sramError 0 3 .double true) (tiled .bound .bound)).region 0).state =
      .folding := by decide +kernel
theorem test_watchdog_retries : ((after (.sequencerWatchdogExpiry 0 ⟨3,
      true⟩) (tiled .bound .spare)).tile 3).retry.val = 1 := by decide +kernel
theorem test_linkCrcFail_counts : ((after (.linkCrcFail 0 7 ⟨0, 3⟩) serving).region 7).crc.val = 3 := by decide +kernel
theorem test_foldDone_out : ((after (.foldDone 0 0) (tiled .bound .spare (r := .folding))).region 0).state = .out :=
      by decide +kernel
theorem test_spineUnitFault_halts : (after (.spineUnitFault 0) ready).faults.halt = true := by decide +kernel
theorem test_scrub_lowest : (after (.scrubOverwrite 0 7)
      { ready with pool := { dirty := [(7, 3), (9, 3)] } }).pool.dirty = [(9, 3)] := by decide +kernel
theorem test_corrected_counts : (after (.enclaveEccError 0 383 .corrected 383) serving).emc.ce.val = 1 :=
      by decide +kernel
theorem test_budgetWindow_late : ((Tab.find (after (.budgetWindowEnd 1 4 0)
      { working [(4, lateJob)] classS with time := { gcnt := 1 } }).jobs 4).map fun x => x.outs.map Prod.fst) =
      some [0] := by decide +kernel
theorem test_backlog_resumes : (after (.backlogResume 0 0x5001)
      { ready with pool := { backlogs := [(0x5001, ⟨true, true⟩)] } }).pool.backlogs =
    [(0x5001, ⟨false, false⟩)] := by decide +kernel
theorem test_liveWindow_open : (after (.liveWindowEnd 3 4 0) (onAir 3)).jobs = (onAir 3).jobs := by decide +kernel
theorem test_custodyCrc_counts : (after (.custodyFrameCrcError 0 3 1) ready).cus.crcErr.val = 1 := by decide +kernel
theorem test_hold_in_reset : after (.spineUnitFault 0) { ready with pwr := { inReset := true } } =
      { ready with pwr := { inReset := true } } := by
  decide +kernel

end Sys2Proof.Tests
end

/-! ## The RWL fields, INT_MSG_ADDR and INT_MSG_DATA (R14, R507) -/

namespace Sys2Proof.Machine

/-! ### Writes of the Control port -/

theorem exec_registerWrite_of_acts {s u : State} {t : Nat} (h : s.actsAt t u) (off : BitVec 19) (w : Nat)
    (v : BitVec 64) : exec (.registerWrite t off w v) s = .next (u.busWrite off.toNat w v.toNat).intPoll :=
  act_of_acts h fun s => s.busWrite off.toNat w v.toNat

theorem State.busWrite_word {off : Nat} (s : State) (h : off % 4 = 0) (v : Nat) :
    s.busWrite off 4 v = s.writeWord off (v % 2 ^ 32) := by
  simp [State.busWrite, h]

/-- R507: of an 8-byte write the lower word arrives first. -/
theorem State.busWrite_pair {s : State} {off : Nat} (h : off % 8 = 0) (hl : s.lockedWhole off = false) (v : Nat) :
    s.busWrite off 8 v = (s.writeWord off (v % 2 ^ 32)).writeWord (off + 4) (v / 2 ^ 32 % 2 ^ 32) := by
  simp [State.busWrite, h, hl]

theorem State.writeWord_int {s : State} {off : Nat} (h : (s.readInt (off - 0x1000)).isNone = false)
    (lo : 0x1000 ≤ off) (hi : off < 0x2000) (v : Nat) : s.writeWord off v = s.writeInt off v := by
  have hw : s.word off = s.readInt (off - 0x1000) := by
    unfold State.word
    rw [if_neg (by omega), if_pos hi]
  unfold State.writeWord
  rw [hw, h, if_neg Bool.false_ne_true, if_pos hi]

/-! ### The words of the RWL fields -/

theorem State.writeWord_msgAddrLow (s : State) (v : Nat) :
    s.writeWord 0x01010 v = s.lockable 0x01010 v fun s =>
      s.modInt fun i => { i with msgAddr := BitVec.ofNat 48 (setLow i.msgAddr.toNat v) } := by
  rw [State.writeWord_int (by simp [State.readInt]) (by decide) (by decide), State.writeInt]

theorem State.writeWord_msgAddrHigh (s : State) (v : Nat) :
    s.writeWord 0x01014 v = s.lockable 0x01014 v fun s =>
      s.modInt fun i => { i with msgAddr := BitVec.ofNat 48 (setHigh i.msgAddr.toNat v) } := by
  rw [State.writeWord_int (by simp [State.readInt]) (by decide) (by decide), State.writeInt]

theorem State.writeWord_msgData (s : State) (v : Nat) :
    s.writeWord 0x01018 v = s.lockable 0x01018 v fun s =>
      s.modInt fun i => { i with msgData := BitVec.ofNat 32 v } := by
  rw [State.writeWord_int (by simp [State.readInt]) (by decide) (by decide), State.writeInt]

theorem State.lockable_locked {s : State} (h : s.sil.locked = true) (off v : Nat) (f : State → State) :
    s.lockable off v f = s.opsWrite off v := if_pos h

theorem State.lockable_unlocked {s : State} (h : s.sil.locked = false) (off v : Nat) (f : State → State) :
    s.lockable off v f = f s := if_neg (by simp [h])

/-- R14: once the fields are locked, a word written to any of them adds one record and does nothing else. -/
theorem State.busWrite_locked {s : State} (hl : s.sil.locked = true) {off : Nat}
    (ho : off ∈ [0x01010, 0x01014, 0x01018]) (v : Nat) : s.busWrite off 4 v = s.opsWrite off (v % 2 ^ 32) := by
  simp only [List.mem_cons, List.not_mem_nil, or_false] at ho
  rw [State.busWrite_word s (by omega)]
  obtain rfl | rfl | rfl := ho
  · rw [State.writeWord_msgAddrLow, State.lockable_locked hl]
  · rw [State.writeWord_msgAddrHigh, State.lockable_locked hl]
  · rw [State.writeWord_msgData, State.lockable_locked hl]

theorem State.busWrite_msgData_unlocked {s : State} (hl : s.sil.locked = false) (v : Nat) :
    s.busWrite 0x01018 4 v = s.modInt fun i => { i with msgData := BitVec.ofNat 32 (v % 2 ^ 32) } := by
  rw [State.busWrite_word s (by decide), State.writeWord_msgData, State.lockable_unlocked hl]

/-! ### INT_MSG_ADDR in one write of 8 bytes -/

/-- The halves of a value, written lower first into a 48-bit register, leave nothing of what it held. -/
theorem setHigh_setLow_48 (old v : Nat) :
    BitVec.ofNat 48 (setHigh (BitVec.ofNat 48 (setLow old (v % 2 ^ 32))).toNat (v / 2 ^ 32 % 2 ^ 32)) =
      BitVec.ofNat 48 v := by
  apply BitVec.eq_of_toNat_eq
  simp only [setHigh, setLow, BitVec.toNat_ofNat]
  omega

/-- Two changes of INT_MSG_ADDR are one. -/
theorem State.modInt_msgAddr_comp (s : State) (f g : BitVec 48 → BitVec 48) :
    ((s.modInt fun i => { i with msgAddr := f i.msgAddr }).modInt fun i => { i with msgAddr := g i.msgAddr }) =
      s.modInt fun i => { i with msgAddr := g (f i.msgAddr) } := rfl

theorem State.busWrite_msgAddr_locked {s : State} (hl : s.sil.locked = true) (v : Nat) :
    s.busWrite 0x01010 8 v = s.opsWrite 0x01010 (v % 2 ^ 32) := by
  simp [State.busWrite, State.lockedWhole, hl]

theorem State.busWrite_msgAddr_unlocked {s : State} (hl : s.sil.locked = false) (v : Nat) :
    s.busWrite 0x01010 8 v = s.modInt fun i => { i with msgAddr := BitVec.ofNat 48 v } := by
  rw [State.busWrite_pair (by decide) (by simp [State.lockedWhole, hl]), State.writeWord_msgAddrLow,
    State.lockable_unlocked hl, State.writeWord_msgAddrHigh, State.lockable_unlocked (by rw [State.modInt_sil, hl]),
    State.modInt_msgAddr_comp s (fun a => BitVec.ofNat 48 (setLow a.toNat (v % 2 ^ 32)))
      fun a => BitVec.ofNat 48 (setHigh a.toNat (v / 2 ^ 32 % 2 ^ 32))]
  simp only [setHigh_setLow_48]

/-! ### The lock -/

/-- R430: a reset from either source leaves the loader at its reset value, whatever it held. -/
theorem exec_reset_sil {s w : State} {t : Nat} {x : ResetSource} (h : exec (.reset t x) s = .next w) :
    w.sil = State.reset.sil := by
  cases x with
  | die => cases h; exact State.intPoll_sil _
  | rails mask => cases h; exact State.intPoll_sil _

/-- Settles O11, by the write's width and the lock: each case is what `busWrite` does there, and a reset leaves the
loader, which holds the lock, at its reset value. -/
theorem lockedFields : Obligations.LockedFields := by
  refine ⟨fun s u t off v hu ho hl => ?_, fun s u t v hu hl => ?_, fun s u t v hu => ?_, fun s w t x hr => ?_⟩
  · rw [exec_registerWrite_of_acts hu, State.busWrite_locked hl ho, State.opsWrite]
  · have offset : (0x01018#19).toNat = 0x01018 := rfl
    rw [exec_registerWrite_of_acts hu, offset, State.busWrite_msgData_unlocked hl, State.modInt]
  · have offset : (0x01010#19).toNat = 0x01010 := rfl
    rw [exec_registerWrite_of_acts hu, offset]
    split
    next hl => rw [State.busWrite_msgAddr_locked hl, State.opsWrite]
    next hl => rw [State.busWrite_msgAddr_unlocked (Bool.eq_false_iff.mpr hl), State.modInt]
  · rw [exec_reset_sil hr]
    rfl

end Sys2Proof.Machine

/-! ## Claims of shared resources, CLAIM and RELEASE_CLAIM (R63 to R65, R526) -/

namespace Sys2Proof.Machine

/-! ### The operand fields -/

theorem clKind_eq (b : Bytes) : clKind b = entLen b % 16 := by simp [clKind, fieldOf_eq]

theorem clIndex_eq (b : Bytes) : clIndex b = entLen b / 2 ^ 8 % 2 ^ 8 := fieldOf_eq ..

theorem clHolder_eq (b : Bytes) : clHolder b = entLen b / 2 ^ 16 % 2 ^ 12 := fieldOf_eq ..

/-! ### The checks -/

theorem argless_iff (k : Nat) : argless k = true ↔ k = 2 ∨ k = 3 ∨ k = 4 := by
  simp [argless, or_assoc]

theorem State.claimForm_claim_eq_false (s : State) (b : Bytes) : s.claimForm b true = false ↔
    ¬ (1 ≤ clKind b ∧ clKind b ≤ 6 ∧ clHolder b ≠ 0 ∧ (s.queue (clHolder b)).state ≠ .absent ∧
      (clIndex b < kindIndices (clKind b) ∨ clIndex b = 0xFF)) := by
  rw [← Bool.not_eq_true]
  simp only [State.claimForm, State.queueExists, Bool.and_eq_true, Bool.or_eq_true, decide_eq_true_eq, bne_iff_ne,
    beq_iff_eq, Bool.true_and, and_assoc]

theorem State.claimForm_release_eq_false (s : State) (b : Bytes) : s.claimForm b false = false ↔
    ¬ (1 ≤ clKind b ∧ clKind b ≤ 6 ∧ clHolder b ≠ 0 ∧ (s.queue (clHolder b)).state ≠ .absent ∧
      clIndex b < kindIndices (clKind b)) := by
  rw [← Bool.not_eq_true]
  simp only [State.claimForm, State.queueExists, Bool.and_eq_true, Bool.or_false, decide_eq_true_eq, bne_iff_ne,
    Bool.false_and, and_assoc]

/-- R526, rows 1 to 5: the status with which CLAIM completes. -/
def State.claimStatus (s : State) (b : Bytes) : Nat :=
  if !s.claimForm b true then 0x12
  else if argless (clKind b) && clArg b != 0 then 0x12
  else if clKind b == 4 && !s.dbgAllowed then 0x32
  else match s.claimIndex? b with
    | none => 0x42
    | some i => if clKind b == 6 && !s.reserveFits (i / 8) (clArg b) then 0x41 else 0

/-- R526, rows 1 and 6 to 8: the status with which RELEASE_CLAIM completes. -/
def State.releaseStatus (s : State) (b : Bytes) : Nat :=
  if !s.claimForm b false then 0x12
  else match s.claimOf (clKind b) (clIndex b) with
    | none => 0x40
    | some c => if c.holder != clHolder b || s.resourceUsed (clKind b) (clIndex b) then 0x42 else 0

/-! ### What a grant and a release do to the claims -/

theorem State.claimOf_grantClaim (s : State) (k i k' i' : Nat) (c : Claim) :
    (s.grantClaim k i c).claimOf k' i' = Tab.find (Tab.put s.sil.claims (claimKey k i) c) (claimKey k' i') := by
  unfold State.grantClaim
  split
  · rfl
  · split <;> rfl

theorem State.claimOf_releaseClaim (s : State) (k i k' i' : Nat) :
    (s.releaseClaim k i).claimOf k' i' = Tab.find (Tab.del s.sil.claims (claimKey k i)) (claimKey k' i') := by
  unfold State.releaseClaim
  split
  · rfl
  · split <;> rfl

@[simp] theorem State.claimOf_grantClaim_same (s : State) (k i : Nat) (c : Claim) :
    (s.grantClaim k i c).claimOf k i = some c := by
  rw [State.claimOf_grantClaim, Tab.find_put_same]

theorem State.claimOf_grantClaim_other (s : State) {k i k' i' : Nat} (c : Claim) (h : claimKey k' i' ≠ claimKey k i) :
    (s.grantClaim k i c).claimOf k' i' = s.claimOf k' i' := by
  rw [State.claimOf_grantClaim, Tab.find_put_other _ _ _ _ h, State.claimOf]

@[simp] theorem State.claimOf_releaseClaim_same (s : State) (k i : Nat) : (s.releaseClaim k i).claimOf k i = none := by
  rw [State.claimOf_releaseClaim, Tab.find_del_same]

theorem State.claimOf_releaseClaim_other (s : State) {k i k' i' : Nat} (h : claimKey k' i' ≠ claimKey k i) :
    (s.releaseClaim k i).claimOf k' i' = s.claimOf k' i' := by
  rw [State.claimOf_releaseClaim, Tab.find_del_other _ _ _ h, State.claimOf]

/-! ### The two ways each command can go -/

/-- CLAIM fails a check, and completes with its status and does nothing else; or it passes them all, and grants the free
resource to the holder it names. -/
theorem exec_claim_cases {s u : State} {t : Nat} {b : Bytes} (h : s.takesAdmin t 0x2C b u) :
    (u.claimStatus b ≠ 0 ∧ exec (.claim t) s = .next (u.adminDone b (u.claimStatus b) 0).intPoll) ∨
    ∃ i, u.claimStatus b = 0 ∧ u.claimIndex? b = some i ∧ exec (.claim t) s =
      .next ((u.grantClaim (clKind b) i { holder := clHolder b, arg := clArg b, tick := u.now }).adminDone b 0
        i).intPoll := by
  have run : exec (.claim t) s = _ := adminRow_of_takes h _
  rw [run]
  unfold State.claimStatus
  split
  next => exact .inl ⟨Nat.succ_ne_zero _, rfl⟩
  split
  next => exact .inl ⟨Nat.succ_ne_zero _, rfl⟩
  split
  next => exact .inl ⟨Nat.succ_ne_zero _, rfl⟩
  cases u.claimIndex? b with
  | none => exact .inl ⟨Nat.succ_ne_zero _, rfl⟩
  | some i =>
    dsimp only
    split
    next => exact .inl ⟨Nat.succ_ne_zero _, rfl⟩
    next => exact .inr ⟨i, rfl, rfl, rfl⟩

/-- RELEASE_CLAIM fails a check, and completes with its status and does nothing else; or it passes them all, and
releases the resource it names. -/
theorem exec_releaseClaim_cases {s u : State} {t : Nat} {b : Bytes} (h : s.takesAdmin t 0x2D b u) :
    (u.releaseStatus b ≠ 0 ∧ exec (.releaseClaim t) s = .next (u.adminDone b (u.releaseStatus b) 0).intPoll) ∨
    (u.releaseStatus b = 0 ∧
      exec (.releaseClaim t) s = .next ((u.releaseClaim (clKind b) (clIndex b)).adminDone b 0 0).intPoll) := by
  have run : exec (.releaseClaim t) s = _ := adminRow_of_takes h _
  rw [run]
  unfold State.releaseStatus
  split
  next => exact .inl ⟨Nat.succ_ne_zero _, rfl⟩
  cases u.claimOf (clKind b) (clIndex b) with
  | none => exact .inl ⟨Nat.succ_ne_zero _, rfl⟩
  | some c =>
    dsimp only
    split
    next => exact .inl ⟨Nat.succ_ne_zero _, rfl⟩
    next => exact .inr ⟨rfl, rfl⟩

/-- Settles O26, by the two ways each command can go: the statement's status and index are those of the model, read from
the operand fields. -/
theorem claimCommands : Obligations.ClaimCommands := by
  refine ⟨fun s u t b h => ?_, fun s u t b h => ?_⟩
  · intro k i q free status
    have kind : k = clKind b := (clKind_eq b).symm
    have index : i = clIndex b := (clIndex_eq b).symm
    have holder : q = clHolder b := (clHolder_eq b).symm
    have hfree : free = u.claimIndex? b := by
      simp only [free, kind, index, State.claimIndex?, Option.isNone_iff_eq_none]
    have hstatus : status = u.claimStatus b := by
      cases found : u.claimIndex? b <;>
        simp only [status, kind, index, holder, hfree, found, State.claimStatus, Bool.not_eq_true', Bool.and_eq_true,
          beq_iff_eq, bne_iff_ne, State.claimForm_claim_eq_false, argless_iff, clArg]
    rw [hstatus, hfree, kind, holder]
    obtain ⟨failed, run⟩ | ⟨j, passed, lowest, run⟩ := exec_claim_cases h
    · exact ⟨fun _ => run, fun _ passed => absurd passed failed⟩
    · refine ⟨fun failed => absurd passed failed, fun j' _ named => ?_⟩
      obtain rfl : j = j' := Option.some.inj (lowest.symm.trans named)
      exact ⟨_, run, State.claimOf_grantClaim_same .., fun _ _ other => State.claimOf_grantClaim_other _ _ other⟩
  · intro k i q status
    have kind : k = clKind b := (clKind_eq b).symm
    have index : i = clIndex b := (clIndex_eq b).symm
    have holder : q = clHolder b := (clHolder_eq b).symm
    have hstatus : status = u.releaseStatus b := by
      cases found : u.claimOf (clKind b) (clIndex b) <;>
        simp only [status, kind, index, holder, found, State.releaseStatus, Bool.not_eq_true', Bool.or_eq_true,
          bne_iff_ne, State.claimForm_release_eq_false, ite_or]
    rw [hstatus, kind, index]
    obtain ⟨failed, run⟩ | ⟨passed, run⟩ := exec_releaseClaim_cases h
    · exact ⟨fun _ => run, fun passed => absurd passed failed⟩
    · exact ⟨fun failed => absurd passed failed, fun _ =>
        ⟨_, run, State.claimOf_releaseClaim_same .., fun _ _ other => State.claimOf_releaseClaim_other _ other⟩⟩

end Sys2Proof.Machine

/-! ## The doorbell writes that the engine ignores (R109) -/

namespace Sys2Proof.Machine

/-! ### The conditions -/

/-- R109 condition 1: what it is for the ring of a queue not to exist. -/
theorem State.ringExists_eq_false (s : State) (q : Nat) : s.ringExists q = false ↔
    if q = 0 then s.qg.adminEn = false else (s.queue q).state = .absent := by
  unfold State.ringExists
  split <;> simp

/-- Of a work queue that exists, the states that take no TAIL write are the two of condition 4. -/
theorem State.state_ne_enabled_iff {s : State} {q : Nat} (h : s.ringExists q = true) (work : q ≠ 0) :
    (s.queue q).state ≠ .enabled ↔ (s.queue q).state = .disabling ∨ (s.queue q).state = .disabled := by
  have present : (s.queue q).state ≠ .absent := by simpa [State.ringExists, work] using h
  cases state : (s.queue q).state <;> simp [state] at present ⊢

/-- R109: the number of the first condition that a TAIL write meets, 0 where it meets none. -/
def State.tailReason (s : State) (q w : Nat) : Nat :=
  let x := s.queue q
  if s.ringExists q = false then 1
  else if x.size ≤ fieldOf w 0 16 then 2
  else if fieldOf w 16 14 ≠ 0 ∨ bitOf w 31 = true then 3
  else if q ≠ 0 ∧ (x.state = .disabling ∨ x.state = .disabled) then 4
  else 0

/-- R109: the number of the first condition that a CQ_HEAD write meets, 0 where it meets none. -/
def State.headReason (s : State) (q w : Nat) : Nat :=
  let x := s.queue q
  if s.ringExists q = false then 1
  else if x.size ≤ fieldOf w 0 16 then 2
  else if fieldOf w 16 16 ≠ 0 then 3
  else if q ≠ 0 ∧ x.state = .disabled then 4
  else if (x.cqTail + x.size - x.cqHead) % x.size < (fieldOf w 0 16 + x.size - x.cqHead) % x.size then 5
  else 0

/-! ### What the engine does with such a write -/

theorem State.sqDoorbell_ignored {s : State} {q : Nat} {v : BitVec 32} (h : s.tailReason q v.toNat ≠ 0) :
    s.sqDoorbell q v = s.badDoorbell q (s.tailReason q v.toNat) v.toNat := by
  unfold State.tailReason at h ⊢
  unfold State.sqDoorbell
  cases ring : s.ringExists q with
  | false => rfl
  | true =>
    have state : (q ≠ 0 ∧ (s.queue q).state ≠ .enabled) ↔
        (q ≠ 0 ∧ ((s.queue q).state = .disabling ∨ (s.queue q).state = .disabled)) :=
      and_congr_right (State.state_ne_enabled_iff ring)
    simp only [ring, state, Bool.not_true, Bool.true_eq_false, Bool.false_eq_true, if_false] at h ⊢
    split
    next => rfl
    split
    next => rfl
    split
    next => rfl
    next size reserved accepted => simp [size, reserved, accepted] at h

theorem State.cqDoorbell_ignored {s : State} {q : Nat} {v : BitVec 32} (h : s.headReason q v.toNat ≠ 0) :
    s.cqDoorbell q v = s.badDoorbell q (s.headReason q v.toNat) v.toNat := by
  unfold State.headReason at h ⊢
  unfold State.cqDoorbell
  cases ring : s.ringExists q with
  | false => rfl
  | true =>
    simp only [ring, Bool.not_true, Bool.true_eq_false, Bool.false_eq_true, if_false] at h ⊢
    split
    next => rfl
    split
    next => rfl
    split
    next => rfl
    split
    next => rfl
    next size reserved disabled past => simp [size, reserved, disabled, past] at h

theorem exec_tailDoorbell_of_acts {s u : State} {t : Nat} (h : s.actsAt t u) (q : BitVec 12) (v : BitVec 32) :
    exec (if v.toNat / 2 ^ 30 % 2 = 1 then .refetch t q v else .sqTailDoorbell t q v) s =
      .next (u.sqDoorbell q.toNat v).intPoll := by
  simp only [← bitOf_iff]
  split
  next refetch =>
    exact (act_of_acts h fun s => if bitOf v.toNat 30 then s.sqDoorbell q.toNat v else s).trans (by rw [if_pos refetch])
  next plain =>
    exact (act_of_acts h fun s => if bitOf v.toNat 30 then s else s.sqDoorbell q.toNat v).trans (by rw [if_neg plain])

theorem exec_headDoorbell_of_acts {s u : State} {t : Nat} (h : s.actsAt t u) (q : BitVec 12) (v : BitVec 32) :
    exec (.cqHeadDoorbell t q v) s = .next (u.cqDoorbell q.toNat v).intPoll :=
  act_of_acts h fun s => s.cqDoorbell q.toNat v

/-! ### The doorbell blocks as registers -/

theorem State.word_doorbell (s : State) {q o : Nat} (hq : q < 4096) (ho : o < 16) :
    s.word (0x10000 + 16 * q + o) = s.readDoorbell (16 * q + o) := by
  have offset : 0x10000 + 16 * q + o - 0x10000 = 16 * q + o := by omega
  unfold State.word
  iterate 7 rw [if_neg (by omega)]
  rw [if_pos (by omega), offset]

theorem State.readDoorbell_of_no_ring {s : State} {q o : Nat} (ho : o < 16) (h : s.ringExists q = false) :
    s.readDoorbell (16 * q + o) = some 0 := by
  have queue : (16 * q + o) / 16 = q := by omega
  unfold State.readDoorbell
  simp [queue, h]

theorem State.word_of_no_ring {s : State} {q o : Nat} (hq : q < 4096) (ho : o < 16) (h : s.ringExists q = false) :
    s.word (0x10000 + 16 * q + o) = some 0 := by
  rw [State.word_doorbell s hq ho, State.readDoorbell_of_no_ring ho h]

/-- The two read-only words of a block are no doorbells, but of a queue that does not exist a write to them meets
condition 1. -/
theorem State.writeWord_of_no_ring {s : State} {q o : Nat} (hq : q < 4096) (ho : o = 8 ∨ o = 12)
    (h : s.ringExists q = false) (v : Nat) : s.writeWord (0x10000 + 16 * q + o) v = s.badDoorbell q 1 v := by
  have queue : (0x10000 + 16 * q + o - 0x10000) / 16 = q := by omega
  have place : (0x10000 + 16 * q + o) % 16 = o := by omega
  unfold State.writeWord
  rw [State.word_of_no_ring hq (by omega) h, if_neg (by simp)]
  iterate 2 rw [if_neg (by omega)]
  rw [if_pos (by omega)]
  unfold State.writeQg
  rw [if_pos (by omega), queue, place]
  obtain rfl | rfl := ho <;> simp [h]

/-- Settles O13, by the conditions in the order in which the model asks them, which is R109's: a write whose reason is
not 0 is `badDoorbell` with that reason, and the block of a queue that does not exist holds zeros. -/
theorem ignoredDoorbells : Obligations.IgnoredDoorbells := by
  have zero (q : BitVec 12) : q = 0#12 ↔ q.toNat = 0 := BitVec.toNat_eq
  refine ⟨fun s u t q v hu => ?_, fun s u t q v hu => ?_, fun s u t q off v hu ho hq => ?_,
    fun u q k hq hk h => ?_⟩
  · intro x reason
    have hreason : reason = u.tailReason q.toNat v.toNat := by
      simp only [reason, x, State.tailReason, State.ringExists_eq_false, ite_prop_iff_or, zero, Queue.size, fieldOf_eq,
        bitOf_iff, pow_zero, Nat.div_one, ne_eq]
    rw [hreason, exec_tailDoorbell_of_acts hu]
    intro met
    rw [State.sqDoorbell_ignored met, State.badDoorbell, State.modQg]
  · intro x reason
    have hreason : reason = u.headReason q.toNat v.toNat := by
      have high : v.toNat / 2 ^ 16 % 2 ^ 16 = v.toNat / 2 ^ 16 := by omega
      simp only [reason, x, State.headReason, State.ringExists_eq_false, ite_prop_iff_or, zero, Queue.size, fieldOf_eq,
        pow_zero, Nat.div_one, ne_eq, high]
    rw [hreason, exec_headDoorbell_of_acts hu]
    intro met
    rw [State.cqDoorbell_ignored met, State.badDoorbell, State.modQg]
  · simp only [zero] at hq
    have bound : q.toNat < 4096 := q.isLt
    obtain ⟨o, place, offset⟩ : ∃ o, (o = 8 ∨ o = 12) ∧ off.toNat = 0x10000 + 16 * q.toNat + o := by
      obtain low | high := ho
      · exact ⟨8, .inl rfl, by omega⟩
      · exact ⟨12, .inr rfl, by omega⟩
    rw [exec_registerWrite_of_acts hu, State.busWrite_word u (by omega), offset,
      State.writeWord_of_no_ring bound place ((u.ringExists_eq_false _).mpr hq), State.badDoorbell, State.modQg]
  · rw [State.wordAt, State.word_of_no_ring hq (by omega) ((u.ringExists_eq_false q).mpr h), Option.getD_some]

end Sys2Proof.Machine

/-! ## RESUME of a paused queue (R341) -/

namespace Sys2Proof.Machine

/-! ### When a queue takes entries (R32, R96, R340) -/

theorem State.mayTake_iff (s : State) (x : Queue) : s.mayTake x = true ↔
    x.state = .enabled ∧ x.posted ≠ 0 ∧ x.paused = false ∧ x.launchHeld = false ∧ s.queueFenced x = false ∧
      x.cqFull = false ∧ x.stuck = false ∧ ∀ e ∈ x.taken, e.isFence = false := by
  simp [State.mayTake, and_assoc]

/-! ### Writes of DET_Q_CTL -/

theorem exec_resume_of_acts {s u : State} {t : Nat} (h : s.actsAt t u) (v : BitVec 32) :
    exec (.resume t v) s = .next (u.writeQCtl v.toNat).intPoll :=
  act_of_acts h fun s => s.writeQCtl v.toNat

theorem State.writeQCtl_of_paused {s : State} {v : Nat} (resume : bitOf v 0 = true) (work : s.det.qSel ≠ 0#12)
    (paused : (s.queue s.det.qSel.toNat).paused = true) :
    s.writeQCtl v = s.modQueue s.det.qSel.toNat fun x => { x with paused := false } := by
  have number : s.det.qSel.toNat ≠ 0 := fun zero => work (BitVec.eq_of_toNat_eq zero)
  simp [State.writeQCtl, resume, paused, number]

/-- The admin queue counts as one that is not paused: DET_Q_SEL of 0 names no work queue. -/
theorem State.writeQCtl_of_not_paused {s : State} {v : Nat} (resume : bitOf v 0 = true)
    (h : s.det.qSel = 0#12 ∨ (s.queue s.det.qSel.toNat).paused = false) :
    s.writeQCtl v = s.opsWrite 0x2400C v := by
  obtain admin | running := h
  · simp [State.writeQCtl, resume, admin]
  · simp [State.writeQCtl, resume, running]

/-- Settles O21, by the two cases of a write with bit 0 set: the queue that DET_Q_SEL names is a paused work queue, or it
is not. With PAUSED clear the conditions left of `mayTake` are the premises. -/
theorem resumeCommand : Obligations.ResumeCommand := by
  have bit {v : Nat} (odd : v % 2 = 1) : bitOf v 0 = true := (bitOf_iff v 0).mpr (by simpa using odd)
  refine ⟨fun s u t v hu odd work paused => ⟨?_, ?_⟩, fun s u t v hu odd idle => ?_⟩
  · rw [exec_resume_of_acts hu, State.writeQCtl_of_paused (bit odd) work paused]
  · intro y enabled posted unheld unfenced room alive fenceless
    exact (u.mayTake_iff y).mpr ⟨enabled, posted, rfl, unheld, unfenced, room, alive, fenceless⟩
  · rw [exec_resume_of_acts hu, State.writeQCtl_of_not_paused (bit odd) idle, State.opsWrite]

end Sys2Proof.Machine

/-! ## Offsets that hold no register (R5, R506) -/

namespace Sys2Proof.Machine

/-! ### Reads of the Control port (R507, R508) -/

theorem exec_rcRead_of_acts {s u : State} {t : Nat} (h : s.actsAt t u) (off : BitVec 19) (w : Nat) :
    exec (.rcRead t off w) s = .next (u.busRead off.toNat w).intPoll :=
  act_of_acts h fun s => s.busRead off.toNat w

theorem State.busRead_word_outputs {off : Nat} (s : State) (h : off % 4 = 0) :
    (s.busRead off 4).outputs = .readData off 4 (s.readFour off) :: s.outputs := by
  simp [State.busRead, h]

/-- R508: a read that is not that of the latched high half answers the current bits. -/
theorem State.readFour_of_not_latched {s : State} {off : Nat}
    (h : ∀ low high, s.gctl.latch = some (low, high) → off ≠ low + 4) : s.readFour off = s.wordAt off := by
  unfold State.readFour
  split
  next low high latched => rw [if_neg (h low high latched)]
  next => rfl

theorem State.wordAt_of_no_word {s : State} {off : Nat} (h : s.word off = none) : s.wordAt off = 0 := by
  rw [State.wordAt, h, Option.getD_none]

/-! ### Writes -/

theorem State.writeWord_of_no_word {s : State} {off : Nat} (h : s.word off = none) (v : Nat) :
    s.writeWord off v = s.opsWrite off v := by
  rw [State.writeWord, h, Option.isNone_none, if_pos rfl]

/-! ### The doorbell block of a queue that does not exist (R109 condition 1) -/

theorem State.sqDoorbell_of_no_ring {s : State} {q : Nat} (h : s.ringExists q = false) (v : BitVec 32) :
    s.sqDoorbell q v = s.badDoorbell q 1 v.toNat := by
  have reason : s.tailReason q v.toNat = 1 := if_pos h
  rw [State.sqDoorbell_ignored (by rw [reason]; exact Nat.one_ne_zero), reason]

theorem State.cqDoorbell_of_no_ring {s : State} {q : Nat} (h : s.ringExists q = false) (v : BitVec 32) :
    s.cqDoorbell q v = s.badDoorbell q 1 v.toNat := by
  have reason : s.headReason q v.toNat = 1 := if_pos h
  rw [State.cqDoorbell_ignored (by rw [reason]; exact Nat.one_ne_zero), reason]

/-- The two doorbells of the block. -/
theorem State.writeWord_doorbell_of_no_ring {s : State} {q o : Nat} (hq : q < 4096) (ho : o = 0 ∨ o = 4)
    (h : s.ringExists q = false) {v : Nat} (hv : v < 2 ^ 32) :
    s.writeWord (0x10000 + 16 * q + o) v = s.badDoorbell q 1 v := by
  have queue : (0x10000 + 16 * q + o - 0x10000) / 16 = q := by omega
  have place : (0x10000 + 16 * q + o) % 16 = o := by omega
  have value : (BitVec.ofNat 32 v).toNat = v :=
    (BitVec.toNat_ofNat v 32).trans (Nat.mod_eq_of_lt hv)
  unfold State.writeWord
  rw [State.word_of_no_ring hq (by omega) h, if_neg (by simp)]
  iterate 2 rw [if_neg (by omega)]
  rw [if_pos (by omega)]
  unfold State.writeQg
  rw [if_pos (by omega), queue, place]
  obtain rfl | rfl := ho
  · exact (State.sqDoorbell_of_no_ring h _).trans (by rw [value])
  · exact (State.cqDoorbell_of_no_ring h _).trans (by rw [value])

/-- A write to any word of the block meets condition 1: the doorbells and the read-only words alike. -/
theorem State.writeWord_block_of_no_ring {s : State} {q k : Nat} (hq : q < 4096) (hk : k < 4)
    (h : s.ringExists q = false) {v : Nat} (hv : v < 2 ^ 32) :
    s.writeWord (0x10000 + 16 * q + 4 * k) v = s.badDoorbell q 1 v := by
  by_cases doorbell : k < 2
  · exact State.writeWord_doorbell_of_no_ring hq (by omega) h hv
  · exact State.writeWord_of_no_ring hq (by omega) h v

/-! ### The status blocks of tile numbers that name no tile (R5) -/

theorem State.readTile_of_no_tile (s : State) {i : Nat} (h : 9 ≤ i % 16) (o : Nat) : s.readTile i o = none := by
  unfold State.readTile
  exact if_pos h

/-- Settles O9, by what stands at the offset: no register, so that a read finds no word and a write is `opsWrite`; the
block of a queue that does not exist, where every write is `badDoorbell` with reason 1; or the status block of a number
that names no tile, which holds no word. -/
theorem emptyOffsets : Obligations.EmptyOffsets := by
  refine ⟨fun s u t off hu aligned empty unlatched => ?_, fun s u t off v hu aligned empty => ?_,
    fun s u t q off k v hu hk place absent => ?_, fun u i k hi slot hk => ?_⟩
  · refine ⟨_, exec_rcRead_of_acts hu off 4, ?_⟩
    rw [State.busRead_word_outputs u aligned, State.readFour_of_not_latched unlatched, State.wordAt_of_no_word empty]
  · rw [exec_registerWrite_of_acts hu, State.busWrite_word u aligned, State.writeWord_of_no_word empty, State.opsWrite]
  · have value : v.toNat % 2 ^ 32 < 2 ^ 32 := Nat.mod_lt _ (Nat.two_pow_pos 32)
    rw [exec_registerWrite_of_acts hu, State.busWrite_word u (by omega), place,
      State.writeWord_block_of_no_ring q.isLt hk absent value, State.badDoorbell, State.modQg]
  · rw [State.word_tile u i (4 * k) hi (by omega), State.readTile_of_no_tile u slot]

end Sys2Proof.Machine

/-! ## Steps and the engine interrupt (R517, logs 1 and 5) -/

namespace Sys2Proof.Machine

/-! ### What the poll of the interrupt leaves -/

/-- The levels of the sources are no part of the vector's own block. -/
theorem State.sources_intPoll (s : State) : s.intPoll.sources = s.sources := by
  obtain ⟨i, os, h⟩ := s.intPoll_eq
  rw [h]
  rfl

/-- A poll that sends nothing finds the vector disarmed, or without an address, or with no enabled source up. -/
theorem State.intPoll_of_quiet {s : State}
    (h : s.intb.armed = true → s.intb.msgAddr &&& ~~~3#48 ≠ 0 → s.sources &&& s.intb.enable = 0) : s.intPoll = s := by
  unfold State.intPoll
  rw [if_neg]
  simp only [Bool.and_eq_true, bne_iff_ne, not_and, ne_eq, not_not]
  exact fun up => h up.1 up.2

/-- A poll that sends disarms the vector and counts the message. -/
theorem State.intPoll_of_up {s : State} (armed : s.intb.armed = true) (addr : s.intb.msgAddr &&& ~~~3#48 ≠ 0)
    (up : s.sources &&& s.intb.enable ≠ 0) :
    s.intPoll = (s.emit (.message (s.intb.msgAddr &&& ~~~3#48).toNat s.intb.msgData.toNat)).modInt fun i =>
      { i with armed := false, sent := i.sent.add 32 1 s.now } := by
  unfold State.intPoll
  rw [if_pos]
  simp only [Bool.and_eq_true, bne_iff_ne]
  exact ⟨⟨armed, addr⟩, up⟩

theorem State.interruptQuiet_intPoll (s : State) : s.intPoll.interruptQuiet := by
  by_cases quiet : s.intb.armed = true → s.intb.msgAddr &&& ~~~3#48 ≠ 0 → s.sources &&& s.intb.enable = 0
  · rw [State.intPoll_of_quiet quiet]
    exact quiet
  · simp only [Classical.not_imp] at quiet
    obtain ⟨armed, addr, up⟩ := quiet
    rw [State.intPoll_of_up armed addr up]
    exact fun disarmed => absurd disarmed Bool.false_ne_true

/-! ### Steps -/

/-- Every command ends in a poll, or is one that reset holds off. -/
theorem exec_ends_quiet (c : Instr) (s : State) :
    exec c s = .next s ∨ ∃ v : State, exec c s = .next v.intPoll := by
  obtain ⟨_, t, f, run⟩ | ⟨_, t, f, run⟩ := exec_frame c s
  · rw [run]
    unfold act
    split
    next => exact .inl rfl
    next => exact .inr ⟨_, rfl⟩
  · exact .inr ⟨_, run⟩

theorem step_of_pending {s : State} {c : Instr} {cs : List Instr} (h : s.pending = c :: cs) :
    step s = exec c (s.withPending cs) := by
  rw [step, h]

theorem step_of_idle {s : State} (h : s.pending = []) : step s = .next s := by
  rw [step, h]

/-- Settles O1, by the two forms of the queue. -/
theorem stepRunsFrontCommand : Obligations.StepRunsFrontCommand :=
  ⟨fun _ _ _ waiting => step_of_pending waiting, fun _ idle => step_of_idle idle⟩

/-- Settles O2: every command runs in a frame that answers a next state. -/
theorem everyStepAnswers : Obligations.EveryStepAnswers := by
  intro s
  cases queue : s.pending with
  | nil => exact ⟨s, step_of_idle queue⟩
  | cons c cs =>
    rw [step_of_pending queue]
    obtain held | ⟨v, run⟩ := exec_ends_quiet c (s.withPending cs)
    · exact ⟨_, held⟩
    · exact ⟨_, run⟩

/-- Settles O3: a step idles, is held off by reset, or ends in a poll, and after a poll the vector is quiet. -/
theorem stepKeepsInterruptQuiet : Obligations.StepKeepsInterruptQuiet := by
  intro s t quiet run
  cases queue : s.pending with
  | nil =>
    rw [step_of_idle queue] at run
    cases run
    exact quiet
  | cons c cs =>
    rw [step_of_pending queue] at run
    obtain held | ⟨v, polled⟩ := exec_ends_quiet c (s.withPending cs)
    · rw [held] at run
      cases run
      exact quiet
    · rw [polled] at run
      cases run
      exact v.interruptQuiet_intPoll

/-- Settles O4: at reset the vector has no address. -/
theorem resetIsInterruptQuiet : Obligations.ResetIsInterruptQuiet :=
  fun _ addr => absurd (BitVec.zero_and : 0#48 &&& ~~~3#48 = 0#48) addr

/-! ### REARM (R517) -/

/-- The levels of the sources do not depend on what the vector's own block holds. -/
theorem State.sources_modInt (s : State) (f : IntBlock → IntBlock) : (s.modInt f).sources = s.sources := rfl

theorem exec_rearm_of_acts {s u : State} {t : Nat} {v : BitVec 32} (h : s.actsAt t u) (rearm : bitOf v.toNat 0 = true) :
    exec (.rearm t v) s = .next (u.modInt fun i => { i with armed := true }).intPoll := by
  refine (act_of_acts h fun s => s.rearm v.toNat).trans ?_
  rw [State.rearm, if_pos rearm]

/-- Settles O12, by the poll that ends the command: with the vector armed it sends, or it finds nothing to send. -/
theorem rearm : Obligations.Rearm := by
  refine ⟨fun s u t v hu rearm addr up => ?_, fun s u t v hu rearm silent => ?_⟩
  · rw [exec_rearm_of_acts hu rearm,
      State.intPoll_of_up (s := u.modInt fun i => { i with armed := true }) rfl addr up]
    rfl
  · rw [exec_rearm_of_acts hu rearm, State.intPoll_of_quiet]
    · rfl
    · intro _ addr
      obtain none | down := silent
      · exact absurd none addr
      · exact down

/-! ### Reset (R430, R513, R529) -/

/-- Settles O5: such a command runs in the frame of `act`, which does nothing in reset. -/
theorem resetHoldsTheEngine : Obligations.ResetHoldsTheEngine := by
  intro s c held waits
  obtain ⟨_, t, f, run⟩ | ⟨acts, _⟩ := exec_frame c s
  · rw [run, act_in_reset held]
  · rw [waits] at acts
    cases acts

/-- No message leaves while the vector is at its reset value. -/
theorem State.intPoll_of_reset_vector {s : State} (h : s.intb = State.reset.intb) : s.intPoll = s := by
  refine State.intPoll_of_quiet fun _ addr => absurd ?_ addr
  rw [h]
  exact BitVec.zero_and

theorem exec_reset_die (s : State) (t : Nat) : exec (.reset t .die) s = .next ((s.tickTo t).doReset 1 0) :=
  congrArg Host.Outcome.next (State.intPoll_of_reset_vector (s := (s.tickTo t).doReset 1 0) rfl)

theorem exec_reset_rails (s : State) (t : Nat) (mask : BitVec 4) :
    exec (.reset t (.rails mask)) s = .next ((s.tickTo t).doReset 2 mask) :=
  congrArg Host.Outcome.next (State.intPoll_of_reset_vector (s := (s.tickTo t).doReset 2 mask) rfl)

/-- A reset keeps none of the clock: the command's tick does not show. -/
theorem State.doReset_tickTo (s : State) (t cause : Nat) (rails : BitVec 4) :
    (s.tickTo t).doReset cause rails = s.doReset cause rails := by
  obtain ⟨m, h⟩ := s.tickTo_eq t
  rw [h]
  rfl

/-- Settles O6: the reset values are those of the state's own fields, and a reset from either source is the reset state
but for its cause and what no reset reaches. -/
theorem resetValues : Obligations.ResetValues := by
  refine ⟨rfl, rfl, rfl, rfl, rfl, rfl, rfl, rfl, rfl, rfl, rfl, rfl, rfl, rfl, rfl, rfl, rfl, rfl, rfl, rfl,
    fun q => ?_, fun l => rfl, rfl, rfl, rfl, rfl, rfl, rfl, rfl, fun s t x => ?_⟩
  · unfold State.queue
    split <;> rfl
  · cases x with
    | die =>
      refine ⟨_, exec_reset_die s t, ?_⟩
      rw [State.doReset_tickTo]
      exact ⟨rfl, rfl, rfl, rfl, rfl, rfl, rfl, rfl, rfl, rfl, rfl, rfl, rfl, rfl, rfl, rfl, rfl, rfl,
        rfl, rfl, rfl, rfl, rfl, rfl, rfl⟩
    | rails mask =>
      refine ⟨_, exec_reset_rails s t mask, ?_⟩
      rw [State.doReset_tickTo]
      exact ⟨rfl, rfl, rfl, rfl, rfl, rfl, rfl, rfl, rfl, rfl, rfl, rfl, rfl, rfl, rfl, rfl, rfl, rfl,
        rfl, rfl, rfl, rfl, rfl, rfl, rfl⟩

theorem exec_resetRelease (s : State) (t : Nat) (held : s.pwr.inReset = true) :
    exec (.resetRelease t) s = .next
      (if s.pwr.pf then s else { s with pwr := { s.pwr with inReset := false } }).intPoll := by
  refine (actInReset_eq s t _).trans ?_
  rw [show s.tickTo t = s by simp [State.tickTo, held]]
  cases fails : s.pwr.pf <;> simp [held, State.modPwr]

/-- Settles O42, by the two sources and the release. -/
theorem resetCommands : Obligations.ResetCommands := by
  refine ⟨fun s t rails => ⟨?_, ?_⟩, fun s t held => exec_resetRelease s t held⟩
  · rw [exec_reset_die, State.doReset_tickTo]
    rfl
  · rw [exec_reset_rails, State.doReset_tickTo]
    rfl

end Sys2Proof.Machine

/-! ## Reads of registers (R12, R16, R507, R508) -/

namespace Sys2Proof.Machine

/-! ### Answers of a 4-byte read -/

/-- The read after that of a low half, when it is that of the high half. -/
theorem State.readFour_of_latched {s : State} {low high off : Nat} (latched : s.gctl.latch = some (low, high))
    (h : off = low + 4) : s.readFour off = high := by
  unfold State.readFour
  rw [latched]
  exact if_pos h

theorem State.busRead_word {off : Nat} (s : State) (aligned : off % 4 = 0) :
    s.busRead off 4 = ((s.clearOnRead off).modGctl fun g => { g with latch := s.latchFor off }).emit
      (.readData off 4 (s.readFour off)) :=
  if_pos ⟨rfl, aligned⟩

theorem exec_lowHalfRead_of_acts {s u : State} {t : Nat} {off : BitVec 19} (h : s.actsAt t u)
    (pair : is64 off.toNat = true) : exec (.lowHalfRead t off) s = .next (u.busRead off.toNat 4).intPoll :=
  (act_of_acts h fun s => if is64 off.toNat then s.busRead off.toNat 4 else s).trans (by rw [if_pos pair])

/-- Settles O8: the answer and the latch of a 4-byte read, at the low half, after it, and anywhere else. -/
theorem lowHalfLatches : Obligations.LowHalfLatches := by
  refine ⟨fun s u t off hu pair aligned => ?_, fun s u t low high off hu latched follows aligned => ?_,
    fun s u t off hu aligned unlatched => ?_⟩
  · refine ⟨_, exec_lowHalfRead_of_acts hu pair, State.busRead_word_outputs u aligned, ?_⟩
    rw [State.busRead_word u aligned]
    exact if_pos pair
  · refine ⟨_, exec_rcRead_of_acts hu off 4, ?_⟩
    rw [State.busRead_word_outputs u aligned, State.readFour_of_latched latched follows]
  · refine ⟨_, exec_rcRead_of_acts hu off 4, ?_⟩
    rw [State.busRead_word_outputs u aligned, State.readFour_of_not_latched unlatched]

/-! ### RC fields (R16) -/

/-- The words of the global blocks that are RC fields throughout. -/
def rcWords : List Nat := [0x0101C, 0x0200C, 0x04044, 0x08008, 0x21018, 0x28020, 0x29020]

/-- The words of a region's page that are RC fields throughout. -/
def regionRcWords : List Nat := [0x00C, 0x810, 0x814]

theorem State.rcFields_global (u : State) {off : Nat} (h : off ∈ rcWords) :
    u.rcFields off ≠ [] ∧ (u.clearOnRead off).rcFields off = (u.rcFields off).map fun r => r.clear u.now := by
  simp only [rcWords, List.mem_cons, List.not_mem_nil, or_false] at h
  obtain rfl | rfl | rfl | rfl | rfl | rfl | rfl := h <;> simp [State.rcFields, State.clearOnRead]

theorem State.wordAt_global (u : State) {off : Nat} (h : off ∈ rcWords) (zero : ∀ r ∈ u.rcFields off, r.read u.now = 0) :
    u.wordAt off = 0 := by
  simp only [rcWords, List.mem_cons, List.not_mem_nil, or_false] at h
  obtain rfl | rfl | rfl | rfl | rfl | rfl | rfl := h <;>
    simp [State.rcFields] at zero <;>
    simp [State.wordAt, State.word, State.readInt, State.readTime, State.readCus, State.readQg, State.readPke,
      State.readPool, State.readEmc, fields, zero]

/-- The RC fields of a word of a region's page. -/
def Region.rcFields (g : Region) : Nat → List Rc
  | 0x00C => [g.crc, g.resends]
  | 0x810 => [g.sealMismatch, g.sealMarked, g.sealDropped]
  | 0x814 => [g.sealKeyload]
  | _ => []

theorem State.rcFields_region (u : State) {r o : Nat} (hr : r < 8) (ho : o < 0x1000) :
    u.rcFields (0x30000 + 0x1000 * r + o) = (u.region r).rcFields o := by
  have page : (0x30000 + 0x1000 * r + o - 0x30000) / 0x1000 = r := by omega
  have place : (0x30000 + 0x1000 * r + o) % 0x1000 = o := by omega
  unfold State.rcFields
  rw [if_pos (by omega), page, place]
  rfl

theorem State.rcFields_tile (u : State) {i : Nat} (hi : i < 256) :
    u.rcFields (0x40000 + 0x100 * i + 4) =
      [(u.tile i).ce, (u.tile i).mismatch, (u.tile i).wd, (u.tile i).retry] := by
  have block : (0x40000 + 0x100 * i + 4 - 0x40000) / 0x100 = i := by omega
  have place : (0x40000 + 0x100 * i + 4) % 0x100 = 4 := by omega
  unfold State.rcFields
  rw [if_neg (by omega), if_pos (by omega), block, if_pos place]

theorem State.rcFields_clearOnRead_region (u : State) {r o : Nat} (hr : r < 8) (ho : o ∈ regionRcWords) :
    u.rcFields (0x30000 + 0x1000 * r + o) ≠ [] ∧
    (u.clearOnRead (0x30000 + 0x1000 * r + o)).rcFields (0x30000 + 0x1000 * r + o) =
      (u.rcFields (0x30000 + 0x1000 * r + o)).map fun x => x.clear u.now := by
  simp only [regionRcWords, List.mem_cons, List.not_mem_nil, or_false] at ho
  have bound : o < 0x1000 := by omega
  rw [State.rcFields_region u hr bound, State.rcFields_region _ hr bound, State.clearOnRead_region u r o hr bound,
    State.region_modRegion]
  obtain rfl | rfl | rfl := ho <;> simp [Region.rcFields]

theorem State.rcFields_clearOnRead_tile (u : State) {i : Nat} (hi : i < 256) :
    u.rcFields (0x40000 + 0x100 * i + 4) ≠ [] ∧
    (u.clearOnRead (0x40000 + 0x100 * i + 4)).rcFields (0x40000 + 0x100 * i + 4) =
      (u.rcFields (0x40000 + 0x100 * i + 4)).map fun x => x.clear u.now := by
  rw [State.rcFields_tile u hi, State.rcFields_tile _ hi, State.clearOnRead_tile u i hi, State.tile_modTile]
  exact ⟨List.cons_ne_nil _ _, rfl⟩

theorem State.wordAt_region (u : State) {r o : Nat} (hr : r < 8) (ho : o ∈ regionRcWords)
    (zero : ∀ x ∈ u.rcFields (0x30000 + 0x1000 * r + o), x.read u.now = 0) :
    u.wordAt (0x30000 + 0x1000 * r + o) = 0 := by
  simp only [regionRcWords, List.mem_cons, List.not_mem_nil, or_false] at ho
  have bound : o < 0x1000 := by omega
  rw [State.rcFields_region u hr bound] at zero
  rw [State.wordAt, State.word_region u r o hr bound]
  obtain rfl | rfl | rfl := ho <;>
    simp [Region.rcFields] at zero <;>
    simp [State.readRegion, fields, zero]

theorem State.wordAt_tile (u : State) {i : Nat} (hi : i < 256) (slot : i % 16 < 9)
    (zero : ∀ x ∈ u.rcFields (0x40000 + 0x100 * i + 4), x.read u.now = 0) :
    u.wordAt (0x40000 + 0x100 * i + 4) = 0 := by
  rw [State.rcFields_tile u hi] at zero
  rw [State.wordAt, State.word_tile u i 4 hi (by omega)]
  simp at zero
  simp [State.readTile, fields, zero, Nat.not_le.mpr slot]

/-- The offsets of the words that are RC fields throughout. -/
def isRcWord (off : Nat) : Prop :=
  off ∈ rcWords ∨ (∃ r o, r < 8 ∧ o ∈ regionRcWords ∧ off = 0x30000 + 0x1000 * r + o) ∨
    ∃ i, i < 256 ∧ i % 16 < 9 ∧ off = 0x40000 + 0x100 * i + 4

theorem State.rcFields_clearOnRead (u : State) {off : Nat} (h : isRcWord off) :
    u.rcFields off ≠ [] ∧ (u.clearOnRead off).rcFields off = (u.rcFields off).map fun r => r.clear u.now := by
  obtain global | ⟨r, o, hr, ho, rfl⟩ | ⟨i, hi, _, rfl⟩ := h
  · exact u.rcFields_global global
  · exact u.rcFields_clearOnRead_region hr ho
  · exact u.rcFields_clearOnRead_tile hi

/-- Such a word reads as 0 while each of its fields does. -/
theorem State.wordAt_eq_zero (u : State) {off : Nat} (h : isRcWord off) (zero : ∀ r ∈ u.rcFields off, r.read u.now = 0) :
    u.wordAt off = 0 := by
  obtain global | ⟨r, o, hr, ho, rfl⟩ | ⟨i, hi, slot, rfl⟩ := h
  · exact u.wordAt_global global zero
  · exact u.wordAt_region hr ho zero
  · exact u.wordAt_tile hi slot zero

/-- Settles O7: the two forms of a read's answer; each RC word by its fields, which a read clears one by one; and the
count of the read's own tick, which the read neither sees nor clears. -/
theorem registerRead : Obligations.RegisterRead := by
  refine ⟨fun s u t off hu aligned => ?_, fun u off word => ?_, fun r w n now =>
    ⟨r.read_add_same w n now, r.clear_add_same w n now, fun t later => r.read_add_later w n (Ne.symm later)⟩⟩
  · rw [exec_rcRead_of_acts hu, State.busRead_word u aligned]
    rfl
  · have rc : isRcWord off := word
    obtain ⟨some, cleared⟩ := u.rcFields_clearOnRead rc
    refine ⟨some, cleared, fun old => State.wordAt_eq_zero _ rc fun r hr => ?_⟩
    rw [cleared] at hr
    obtain ⟨x, hx, rfl⟩ := List.mem_map.mp hr
    rw [Rc.clear_of_ne (old x hx), Rc.read_empty]

/-! ## Writes of registers by access code (R12, R14, R15) -/

theorem State.wordAt_scratch (s : State) {i : Nat} (hi : i < 4) :
    s.wordAt (0x40 + 4 * i) = (Tab.getD s.gctl.scratch i 0#32).toNat := by
  obtain rfl | rfl | rfl | rfl : i = 0 ∨ i = 1 ∨ i = 2 ∨ i = 3 := by omega
  all_goals simp [State.wordAt, State.word, State.readGctl]

theorem State.writeWord_scratch (s : State) {i : Nat} (hi : i < 4) (v : Nat) :
    s.writeWord (0x40 + 4 * i) v = s.modGctl fun g => { g with scratch := Tab.put g.scratch i (BitVec.ofNat 32 v) } := by
  obtain rfl | rfl | rfl | rfl : i = 0 ∨ i = 1 ∨ i = 2 ∨ i = 3 := by omega
  all_goals simp [State.writeWord, State.word, State.readGctl, State.writeInt]

/-- GCTL_ID is read-only. -/
theorem State.writeWord_id (s : State) (v : Nat) : s.writeWord 0x00000 v = s := by
  simp [State.writeWord, State.word, State.readGctl, State.writeInt]

theorem State.writeWord_cusEvt (s : State) (v : Nat) :
    s.writeWord 0x04010 v = s.modCus fun c => { c with evt := c.evt.write v s.now } := by
  simp [State.writeWord, State.word, State.readCus, State.writeCus]

theorem State.writeWord_debounce (s : State) (v : Nat) :
    s.writeWord 0x04008 v =
      s.ranged 0x04008 v (v % 2 ^ 13) 500 8000 fun s => s.modCus fun c => { c with debounce := BitVec.ofNat 13 v } := by
  simp [State.writeWord, State.word, State.readCus, State.writeCus]

/-- R15: a 1 clears its bit, but one that the engine set in the same tick. -/
theorem W1c.getLsbD_write {w : Nat} (e : W1c w) (v now i : Nat) :
    (e.write v now).bits.getLsbD i =
      (e.bits.getLsbD i && (!v.testBit i || (decide (e.tick = now) && e.now.getLsbD i))) := by
  by_cases inside : i < w
  · have bit : (BitVec.ofNat w v)[i] = v.testBit i := by
      rw [← BitVec.getLsbD_eq_getElem, BitVec.getLsbD_ofNat]
      simp [inside]
    by_cases same : e.tick = now <;>
      simp [W1c.write, inside, same, bit]
  · simp [W1c.write, BitVec.getLsbD_of_ge _ i (Nat.not_lt.mp inside)]

/-- A word of a register's bytes has the bits that it holds. -/
theorem testBit_low_word (v : BitVec 64) {i : Nat} (hi : i < 32) : (v.toNat % 2 ^ 32).testBit i = v.getLsbD i := by
  rw [Nat.testBit_mod_two_pow, BitVec.testBit_toNat]
  simp [hi]

/-- Settles O10, by the access code of the register: each case is what `writeWord` does there. -/
theorem registerWrite : Obligations.RegisterWrite := by
  refine ⟨fun s u t i off v hu hi place => ?_, fun s u t v hu => ?_, fun s u t v hu => ?_, fun s u t v hu => ?_⟩
  · refine ⟨_, exec_registerWrite_of_acts hu off 4 v, ?_⟩
    rw [State.busWrite_word u (by omega), place, State.writeWord_scratch u hi, State.wordAt_scratch _ hi]
    refine ⟨rfl, ?_⟩
    rw [State.modGctl_gctl, Tab.getD_put_same, BitVec.toNat_ofNat, Nat.mod_mod]
  · refine ⟨u.cus.evt.write (v.toNat % 2 ^ 32) u.now, ?_, fun i => ?_⟩
    · rw [exec_registerWrite_of_acts hu]
      exact congrArg (fun w : State => Host.Outcome.next w.intPoll)
        ((State.busWrite_word u (by decide) _).trans (u.writeWord_cusEvt _))
    · rw [W1c.getLsbD_write]
      by_cases inside : i < 8
      · rw [testBit_low_word v (by omega)]
      · rw [BitVec.getLsbD_of_ge u.cus.evt.bits i (Nat.not_lt.mp inside), Bool.false_and, Bool.false_and]
  · rw [exec_registerWrite_of_acts hu]
    exact congrArg (fun w : State => Host.Outcome.next w.intPoll)
      ((State.busWrite_word u (by decide) _).trans (u.writeWord_id _))
  · have field : v.toNat % 2 ^ 32 % 2 ^ 13 = v.toNat % 2 ^ 13 := by omega
    have value : BitVec.ofNat 13 (v.toNat % 2 ^ 32) = BitVec.ofNat 13 v.toNat :=
      BitVec.eq_of_toNat_eq (by simp only [BitVec.toNat_ofNat, field])
    rw [exec_registerWrite_of_acts hu]
    refine congrArg (fun w : State => Host.Outcome.next w.intPoll)
      ((State.busWrite_word u (by decide) _).trans ((u.writeWord_debounce _).trans ?_))
    rw [State.ranged, field, value]
    rfl

end Sys2Proof.Machine

/-! ## Doorbells that the engine accepts (R108, R112, R132) -/

namespace Sys2Proof.Machine

/-! ### Queues and what leaves them -/

theorem State.queue_record (s : State) (c code sev : Nat) (p : Bytes) (q : Nat) :
    (s.record c code sev p).queue q = s.queue q := State.queue_congr (State.record_qg ..) q

theorem State.queue_badDoorbell (s : State) (q reason v p : Nat) : (s.badDoorbell q reason v).queue p = s.queue p :=
  (State.queue_record ..).trans rfl

/-- Taking admin entries leaves the work queues. -/
theorem State.queue_takeAdmin (s : State) {p : Nat} (h : p ≠ 0) : s.takeAdmin.queue p = s.queue p := by
  unfold State.takeAdmin State.queue
  simp only [h, if_false, State.modQg_qg]
  split <;> rfl

/-! ### TAIL writes (R108, R112) -/

/-- R108, R131, R94: what an accepted TAIL write makes of its queue, with the entries that stay in its cache. -/
def Queue.tailed (x : Queue) (now tail w : Nat) (cache : List Cached) : Queue :=
  { x with
    sqTail := tail, cache := cache, tailTick := now,
    tailWas := if x.tailTick = now ∧ x.tailWords ≠ [] then x.tailWas else x.sqTail,
    tailWords := if x.tailTick = now then x.tailWords ++ [w] else [w],
    eraseTail := if x.eraseTick = some now ∧ tail ≠ x.sqHead then some tail else x.eraseTail }

theorem State.sqDoorbell_accepted {s : State} {q : Nat} {v : BitVec 32} (ring : s.ringExists q = true)
    (enabled : q ≠ 0 → (s.queue q).state = .enabled) (room : fieldOf v.toNat 0 16 < (s.queue q).size)
    (reserved : fieldOf v.toNat 16 14 = 0) (top : bitOf v.toNat 31 = false) :
    s.sqDoorbell q v = s.modQueue q fun x =>
      x.tailed s.now (fieldOf v.toNat 0 16) v.toNat (if bitOf v.toNat 30 then [] else x.cache) := by
  have accepted : ¬ (q ≠ 0 ∧ (s.queue q).state ≠ .enabled) := fun h => h.2 (enabled h.1)
  have fits : ¬ (s.queue q).size ≤ fieldOf v.toNat 0 16 := Nat.not_le.mpr room
  unfold State.sqDoorbell Queue.tailed
  simp only [ring, reserved, top, accepted, fits, Bool.not_true, Bool.false_eq_true, ne_eq, not_true, or_self, if_false]

theorem exec_sqTailDoorbell_of_acts {s u : State} {t : Nat} (h : s.actsAt t u) (q : BitVec 12) {v : BitVec 32}
    (plain : bitOf v.toNat 30 = false) : exec (.sqTailDoorbell t q v) s = .next (u.sqDoorbell q.toNat v).intPoll :=
  (act_of_acts h fun s => if bitOf v.toNat 30 then s else s.sqDoorbell q.toNat v).trans
    (by rw [plain, if_neg Bool.false_ne_true])

theorem exec_refetch_of_acts {s u : State} {t : Nat} (h : s.actsAt t u) (q : BitVec 12) {v : BitVec 32}
    (refetch : bitOf v.toNat 30 = true) : exec (.refetch t q v) s = .next (u.sqDoorbell q.toNat v).intPoll :=
  (act_of_acts h fun s => if bitOf v.toNat 30 then s.sqDoorbell q.toNat v else s).trans (by rw [if_pos refetch])

/-- A value that is a TAIL and no more. -/
theorem plain_doorbell {v : BitVec 32} (h : v.toNat < 2 ^ 16) : fieldOf v.toNat 0 16 = v.toNat ∧
    fieldOf v.toNat 16 14 = 0 ∧ fieldOf v.toNat 16 16 = 0 ∧ bitOf v.toNat 30 = false ∧ bitOf v.toNat 31 = false := by
  simp only [fieldOf_eq, bitOf_false]
  omega

/-- A value that is a TAIL with REFETCH. -/
theorem refetch_doorbell {v : BitVec 32} (refetch : 2 ^ 30 ≤ v.toNat) (h : v.toNat - 2 ^ 30 < 2 ^ 16) :
    fieldOf v.toNat 0 16 = v.toNat - 2 ^ 30 ∧ fieldOf v.toNat 16 14 = 0 ∧ bitOf v.toNat 30 = true ∧
      bitOf v.toNat 31 = false := by
  simp only [fieldOf_eq, bitOf_iff, bitOf_false]
  omega

/-- A plain TAIL write to a ring that takes it, of a work queue or of the admin queue. -/
theorem exec_sqTailDoorbell_accepted {s u : State} {t : Nat} {q : BitVec 12} {v : BitVec 32} (h : s.actsAt t u)
    (ring : u.ringExists q.toNat = true) (enabled : q.toNat ≠ 0 → (u.queue q.toNat).state = .enabled)
    (room : v.toNat < 2 ^ (u.queue q.toNat).logSize) (short : v.toNat < 2 ^ 16) :
    exec (.sqTailDoorbell t q v) s =
      .next (u.modQueue q.toNat fun x => x.tailed u.now v.toNat v.toNat x.cache).intPoll := by
  obtain ⟨tail, reserved, _, plain, top⟩ := plain_doorbell short
  rw [exec_sqTailDoorbell_of_acts h q plain,
    State.sqDoorbell_accepted ring enabled (by rw [tail]; exact room) reserved top, tail, plain]
  rfl

/-! ### CQ_HEAD writes (R132) -/

/-- R132: the ring after an accepted CQ_HEAD write, before its vector acts. -/
def Queue.headed (x : Queue) (head moved : Nat) : Queue :=
  { x with cqHead := head, unread := x.unread.drop moved, armed := true, stuck := false,
           writeFails := if x.stuck then 3 else x.writeFails }

/-- R132: a message leaves at once where a completion behind the new head lacks NO_IRQ. -/
def State.headMoved (s : State) (q head moved : Nat) : State :=
  let s := s.modQueue q fun x => x.headed head moved
  if (s.queue q).unread.any fun n => !n then s.queueMessage q else s

/-- The entries that a CQ_HEAD write consumes. -/
def Queue.moved (x : Queue) (head : Nat) : Nat := (head + x.size - x.cqHead) % x.size

theorem State.cqDoorbell_eq (s : State) (q : Nat) (v : BitVec 32) :
    s.cqDoorbell q v =
      (let head := fieldOf v.toNat 0 16
       let w := s.headMoved q head ((s.queue q).moved head)
       if !s.ringExists q then s.badDoorbell q 1 v.toNat
       else if (s.queue q).size ≤ head then s.badDoorbell q 2 v.toNat
       else if fieldOf v.toNat 16 16 ≠ 0 then s.badDoorbell q 3 v.toNat
       else if q ≠ 0 ∧ (s.queue q).state = .disabled then s.badDoorbell q 4 v.toNat
       else if ((s.queue q).cqTail + (s.queue q).size - (s.queue q).cqHead) % (s.queue q).size <
         (s.queue q).moved head then s.badDoorbell q 5 v.toNat
       else if q = 0 then w.takeAdmin else w) := rfl

/-- A CQ_HEAD write is ignored, or moves the head; that of the admin queue then takes entries. -/
theorem State.cqDoorbell_cases (s : State) (q : Nat) (v : BitVec 32) :
    (∃ reason, s.cqDoorbell q v = s.badDoorbell q reason v.toNat) ∨
    s.cqDoorbell q v =
      (let w := s.headMoved q (fieldOf v.toNat 0 16) ((s.queue q).moved (fieldOf v.toNat 0 16))
       if q = 0 then w.takeAdmin else w) := by
  rw [State.cqDoorbell_eq]
  dsimp only
  split
  next => exact .inl ⟨_, rfl⟩
  split
  next => exact .inl ⟨_, rfl⟩
  split
  next => exact .inl ⟨_, rfl⟩
  split
  next => exact .inl ⟨_, rfl⟩
  split
  next => exact .inl ⟨_, rfl⟩
  next => exact .inr rfl

theorem State.cqDoorbell_accepted {s : State} {q : Nat} {v : BitVec 32} (work : q ≠ 0)
    (state : (s.queue q).state = .enabled ∨ (s.queue q).state = .disabling)
    (room : fieldOf v.toNat 0 16 < (s.queue q).size) (reserved : fieldOf v.toNat 16 16 = 0)
    (written : (s.queue q).moved (fieldOf v.toNat 0 16) ≤
      ((s.queue q).cqTail + (s.queue q).size - (s.queue q).cqHead) % (s.queue q).size) :
    s.cqDoorbell q v = s.headMoved q (fieldOf v.toNat 0 16) ((s.queue q).moved (fieldOf v.toNat 0 16)) := by
  have ring : s.ringExists q = true := by
    unfold State.ringExists
    rw [if_neg work]
    obtain h | h := state <;> rw [h] <;> rfl
  have alive : ¬ (s.queue q).state = .disabled := by
    obtain h | h := state <;> rw [h] <;> decide
  have fits : ¬ (s.queue q).size ≤ fieldOf v.toNat 0 16 := Nat.not_le.mpr room
  rw [State.cqDoorbell_eq]
  dsimp only
  rw [if_neg (by simp [ring]), if_neg fits, if_neg (by simp [reserved]), if_neg (by simp [alive]),
    if_neg (Nat.not_lt.mpr written), if_neg work]

/-- The queue that a CQ_HEAD write moves: its vector is silent, or disarmed by the message that left. -/
theorem State.queue_headMoved (s : State) (q head moved : Nat) :
    (s.headMoved q head moved).queue q = { (s.queue q).headed head moved with
      armed := !((s.queue q).unread.drop moved).any fun n => !n } := by
  unfold State.headMoved
  simp only [State.queue_modQueue_same]
  split
  next up =>
    have loud : (((s.queue q).unread.drop moved).any fun n => !n) = true := up
    rw [State.queue_queueMessage_same, State.queue_modQueue_same, loud]
    rfl
  next quiet =>
    have silent : (((s.queue q).unread.drop moved).any fun n => !n) = false := Bool.eq_false_iff.mpr quiet
    rw [State.queue_modQueue_same, silent]
    rfl

theorem State.queue_headMoved_other (s : State) {q p : Nat} (head moved : Nat) (h : p ≠ q) :
    (s.headMoved q head moved).queue p = s.queue p := by
  unfold State.headMoved
  simp only
  split
  · rw [State.queue_queueMessage_other _ _ _ h, State.queue_modQueue_other _ _ _ _ h]
  · rw [State.queue_modQueue_other _ _ _ _ h]

theorem State.queueMessage_outputs_armed {s : State} {q : Nat} (armed : (s.queue q).armed = true) :
    (s.queueMessage q).outputs = .message (s.vector q).1 (s.vector q).2 :: s.outputs := by
  unfold State.queueMessage
  rw [if_pos armed]
  rfl

theorem State.headMoved_outputs (s : State) {q : Nat} (head moved : Nat) (work : q ≠ 0) :
    (s.headMoved q head moved).outputs =
      if false ∈ (s.queue q).unread.drop moved then .message (s.queue q).msiAddr (s.queue q).msiData :: s.outputs
      else s.outputs := by
  have any : (((s.queue q).headed head moved).unread.any fun n => !n) = true ↔
      false ∈ (s.queue q).unread.drop moved := by
    simp [Queue.headed]
  unfold State.headMoved
  simp only [State.queue_modQueue_same]
  by_cases loud : false ∈ (s.queue q).unread.drop moved
  · rw [if_pos loud, if_pos (any.mpr loud), State.queueMessage_outputs_armed (by rw [State.queue_modQueue_same]; rfl)]
    unfold State.vector
    rw [if_neg work, State.queue_modQueue_same]
    rfl
  · rw [if_neg loud, if_neg fun h => loud (any.mp h)]
    rfl

/-- Settles O14, by the doorbell's value: a TAIL, a TAIL with REFETCH, or a CQ_HEAD, each one that meets no condition of
R109. -/
theorem acceptedDoorbells : Obligations.AcceptedDoorbells := by
  have number {q : BitVec 12} (work : q ≠ 0#12) : q.toNat ≠ 0 := fun h => work (BitVec.eq_of_toNat_eq h)
  have ring {u : State} {q : BitVec 12} (work : q ≠ 0#12) (enabled : (u.queue q.toNat).state = .enabled) :
      u.ringExists q.toNat = true := by
    unfold State.ringExists
    rw [if_neg (number work), enabled]
    rfl
  refine ⟨fun s u t q v hu work enabled room short => ?_, fun s u t q v hu work enabled refetch room short => ?_,
    fun s u t v hu open_ room short => ?_, fun s u t q v hu work state room short written => ?_⟩
  · exact exec_sqTailDoorbell_accepted hu (ring work enabled) (fun _ => enabled) room short
  · obtain ⟨tail, reserved, again, top⟩ := refetch_doorbell refetch short
    rw [exec_refetch_of_acts hu q again,
      State.sqDoorbell_accepted (ring work enabled) (fun _ => enabled) (by rw [tail]; exact room) reserved top, tail,
      again]
    rfl
  · exact exec_sqTailDoorbell_accepted (q := 0#12) hu open_ (fun work => absurd rfl work) room short
  · intro x moved
    obtain ⟨head, _, reserved, _, _⟩ := plain_doorbell short
    refine ⟨_, exec_headDoorbell_of_acts hu q v, ?_⟩
    rw [State.cqDoorbell_accepted (number work) state (by rw [head]; exact room) reserved (by rw [head]; exact written),
      head, State.queue_headMoved, State.headMoved_outputs u _ _ (number work)]
    refine ⟨rfl, rfl, ?_⟩
    have here : (u.queue q.toNat).moved v.toNat = moved := rfl
    rw [here]
    by_cases loud : false ∈ x.unread.drop moved
    · rw [if_pos loud, if_pos loud]
      exact ⟨by simpa using loud, rfl⟩
    · rw [if_neg loud, if_neg loud]
      exact ⟨by simpa using loud, rfl⟩

/-! ## No unread completion stands silent behind an armed vector (R132) -/

/-- R132: an unread completion without NO_IRQ stands in the ring while its vector is armed and silent. -/
def Queue.silent (x : Queue) : Prop := x.armed = true ∧ false ∈ x.unread

theorem State.not_silent_of_disarmed {s : State} {q : Nat} (h : (s.queue q).armed = false) : ¬ (s.queue q).silent :=
  fun silent => absurd (h.symm.trans silent.1) Bool.false_ne_true

/-- R119: the ring after the write of a completion, before its vector acts. -/
def Queue.written (x : Queue) (noIrq : Bool) : Queue :=
  { x with cqTail := (x.cqTail + 1) % x.size, unread := x.unread ++ [noIrq], writeFails := 0 }

theorem State.writeCompl_eq (s : State) (q : Nat) (c : Compl) :
    s.writeCompl q c =
      (let w := (s.emit (.interior (s.slotAddr q) (c.bytes q (s.queue q).sqHead))).modQueue q (·.written c.noIrq)
       if c.noIrq then w else w.queueMessage q) := rfl

theorem State.queue_writeCompl (s : State) (q : Nat) (c : Compl) :
    (s.writeCompl q c).queue q =
      { (s.queue q).written c.noIrq with armed := c.noIrq && (s.queue q).armed } := by
  rw [State.writeCompl_eq]
  cases quiet : c.noIrq <;> simp [Queue.written]

theorem State.queue_writeCompl_other (s : State) {q p : Nat} (c : Compl) (h : p ≠ q) :
    (s.writeCompl q c).queue p = s.queue p := by
  rw [State.writeCompl_eq]
  cases c.noIrq <;>
    simp [State.queue_queueMessage_other _ _ _ h, State.queue_modQueue_other _ _ _ _ h]

theorem State.silent_writeCompl {s : State} {p : Nat} (h : ¬ (s.queue p).silent) (q : Nat) (c : Compl) :
    ¬ ((s.writeCompl q c).queue p).silent := by
  by_cases same : p = q
  · subst same
    rw [State.queue_writeCompl]
    cases quiet : c.noIrq with
    | false => exact fun silent => absurd silent.1 Bool.false_ne_true
    | true => exact fun silent => h ⟨silent.1, by simpa [Queue.written] using silent.2⟩
  · rwa [State.queue_writeCompl_other s c same]

theorem State.silent_headMoved {s : State} {p : Nat} (h : ¬ (s.queue p).silent) (q head moved : Nat) :
    ¬ ((s.headMoved q head moved).queue p).silent := by
  by_cases same : p = q
  · subst same
    rw [State.queue_headMoved]
    rintro ⟨quiet, loud⟩
    have unread : false ∈ (s.queue p).unread.drop moved := loud
    simp [unread] at quiet
  · rwa [State.queue_headMoved_other s head moved same]

theorem State.silent_cqDoorbell {s : State} {p : Nat} (work : p ≠ 0) (h : ¬ (s.queue p).silent) (q : Nat) (v : BitVec 32) :
    ¬ ((s.cqDoorbell q v).queue p).silent := by
  obtain ⟨reason, ignored⟩ | moved := s.cqDoorbell_cases q v
  · rwa [ignored, State.queue_badDoorbell]
  · rw [moved]
    dsimp only
    split
    · rw [State.queue_takeAdmin _ work]
      exact State.silent_headMoved h _ _ _
    · exact State.silent_headMoved h _ _ _

/-- Settles O15, by the three rows: a new queue has no completions; after the write of one its vector has acted unless it
asks for NO_IRQ; and a CQ_HEAD write has the vector act where such a completion stands behind the head. -/
theorem unreadNeverSilent : Obligations.UnreadNeverSilent := by
  refine ⟨fun b ref silent => absurd silent.2 List.not_mem_nil, fun u q p c _ _ quiet => State.silent_writeCompl quiet q c,
    fun s w t p q v work quiet run => ?_⟩
  by_cases held : s.pwr.inReset = true
  · have stays : exec (.cqHeadDoorbell t q v) s = .next s := act_in_reset held t fun s => s.cqDoorbell q.toNat v
    rw [stays] at run
    cases run
    exact quiet
  · rw [exec_headDoorbell_of_acts ⟨Bool.eq_false_iff.mpr held, rfl⟩] at run
    cases run
    rw [State.queue_congr (State.intPoll_qg _)]
    refine State.silent_cqDoorbell work ?_ _ _
    rwa [State.queue_congr (State.tickTo_qg s t)]

end Sys2Proof.Machine

/-! ## Entries fetched and taken (R111, R118, R125, R129) -/

namespace Sys2Proof.Machine

/-- The number of a work queue is not 0. -/
theorem queueNumber_ne_zero {q : BitVec 12} (work : q ≠ 0#12) : q.toNat ≠ 0 :=
  fun zero => work (BitVec.eq_of_toNat_eq zero)

/-! ### ENTRY_FETCH (R111) -/

theorem exec_entryFetch_of_acts {s u : State} {t : Nat} (h : s.actsAt t u) (q : BitVec 12) (d : Bytes) :
    exec (.entryFetch t q d) s = .next (u.fetchEntry q.toNat (some d)).intPoll :=
  act_of_acts h fun s => s.fetchEntry q.toNat (some d)

/-- A queue of an OPEN matter is neither fenced nor closing. -/
theorem State.not_fenced_of_opened {s : State} {x : Queue} (h : (s.label x.label).state = .opened) :
    s.queueFenced x = false ∧ s.queueClosing x = false := by
  simp [State.queueFenced, State.queueClosing, h]

theorem State.fetchEntry_work {s : State} {q : Nat} {e : Option Bytes} (work : q ≠ 0)
    (state : (s.queue q).state = .enabled ∨ (s.queue q).state = .disabling)
    (opened : (s.label (s.queue q).label).state = .opened) (room : (s.queue q).cache.length < 16)
    (posted : (s.queue q).cache.length < (s.queue q).posted) :
    s.fetchEntry q e = s.modQueue q fun x => { x with cache := x.cache ++ [{ entry := e, stamp := s.sil.nextGen }] } := by
  obtain ⟨unfenced, open_⟩ := State.not_fenced_of_opened opened
  have live : (s.queue q).state ≠ .absent ∧ (s.queue q).state ≠ .disabled := by
    obtain h | h := state <;> rw [h] <;> decide
  unfold State.fetchEntry State.ringExists
  dsimp only
  rw [if_neg, if_neg work]
  simp [work, unfenced, open_, live, room, posted]

theorem State.takeAdmin_of_room {s : State} (room : s.qg.admin.cqFull = false) (alive : s.qg.admin.stuck = false) :
    s.takeAdmin = s.modQg fun g => { g with
      todo := g.todo ++ g.admin.cache.map Cached.entry,
      admin := { g.admin with sqHead := (g.admin.sqHead + g.admin.cache.length) % 256, cache := [] } } := by
  unfold State.takeAdmin State.modQg
  simp [room, alive]

/-- R125: an admin entry is taken as it is fetched. -/
theorem State.fetchEntry_admin {s : State} {d : Bytes} (enabled : s.qg.adminEn = true)
    (state : s.qg.admin.state = .enabled) (empty : s.qg.admin.cache = []) (posted : 0 < s.qg.admin.posted)
    (room : s.qg.admin.cqFull = false) (alive : s.qg.admin.stuck = false) :
    s.fetchEntry 0 (some d) = { s with qg := { s.qg with
      todo := s.qg.todo ++ [some d], admin := { s.qg.admin with sqHead := (s.qg.admin.sqHead + 1) % 256 } } } := by
  have admin : s.queue 0 = s.qg.admin := rfl
  unfold State.fetchEntry State.ringExists
  dsimp only
  rw [admin, if_neg (by simp [enabled, state, empty, Nat.pos_iff_ne_zero.mp posted]), if_pos rfl]
  have room' : (s.modQueue 0 fun x => { x with
      cache := x.cache ++ [{ entry := some d, stamp := s.sil.nextGen }] }).qg.admin.cqFull = false := room
  rw [State.takeAdmin_of_room room' alive]
  simp [State.modQg, State.modQueue, empty]

/-! ### Entries taken (R116 to R119) -/

/-- R32: the round in which an entry is taken changes how many entries each queue has taken, and nothing else of it. -/
theorem State.queue_serveRound (s : State) {q : Nat} (work : q ≠ 0) :
    ∃ n, (s.serveRound q).queue q = { s.queue q with served := n } := by
  unfold State.serveRound
  dsimp only
  split
  · exact ⟨_, State.queue_modQueue_same ..⟩
  · refine ⟨1, ?_⟩
    rw [State.queue_modQueue_same]
    unfold State.queue
    simp only [work, if_false, State.modQg_qg, Tab.getD, Tab.find_mapVals]
    cases Tab.find s.qg.queues q <;> rfl

/-- R117, R119: what is taken of a queue's front entry. -/
theorem State.queue_takeFront (s : State) {q : Nat} (work : q ≠ 0) (b : Bytes) (f : Bool) (c : Option Compl) :
    ∃ n e, e.isFence = f ∧ (s.takeFront q b f c).queue q =
      { s.queue q with
        served := n, cache := (s.queue q).cache.drop 1, sqHead := ((s.queue q).sqHead + 1) % (s.queue q).size,
        lastTaken := some (entStep b),
        eraseTail := if (s.queue q).eraseTail = some (((s.queue q).sqHead + 1) % (s.queue q).size) then none
          else (s.queue q).eraseTail,
        taken := (s.queue q).taken ++ [e] } := by
  obtain ⟨n, served⟩ :=
    State.queue_serveRound (s.modQg fun g => { g with nextSerial := s.qg.nextSerial + 1 }) work
  have here : (s.modQg fun g => { g with nextSerial := s.qg.nextSerial + 1 }).queue q = s.queue q := by
    unfold State.queue
    simp only [work, if_false, State.modQg_qg]
  unfold State.takeFront
  dsimp only
  rw [State.queue_modQueue_same, served, here]
  exact ⟨n, _, rfl, rfl⟩

/-- R118: a taken FENCE holds its queue. -/
theorem State.mayTake_eq_false_of_fence (s : State) {x : Queue} {e : Taken} (taken : e ∈ x.taken)
    (fence : e.isFence = true) : s.mayTake x = false := by
  refine Bool.eq_false_iff.mpr fun takes => ?_
  obtain ⟨_, _, _, _, _, _, _, fenceless⟩ := (s.mayTake_iff x).mp takes
  rw [fenceless e taken] at fence
  cases fence

theorem exec_fence_of_takes {s u : State} {t : Nat} {q : BitVec 12} {b : Bytes} (h : s.takesEntry t q.toNat 0x82 b u) :
    exec (.fence t q) s = .next (u.takeFront q.toNat b true (some (complOf b 0 0))).intPoll :=
  workRow_of_takes h fun b s => s.takeFront q.toNat b true (some (complOf b 0 0))

theorem exec_nop_of_takes {s u : State} {t : Nat} {q : BitVec 12} {b : Bytes} (h : s.takesEntry t q.toNat 0x83 b u) :
    exec (.nop t q) s = .next (u.takeFront q.toNat b false (some (complOf b 0 0))).intPoll :=
  workRow_of_takes h fun b s => s.takeFront q.toNat b false (some (complOf b 0 0))

/-- Settles O16: what ENTRY_FETCH caches, and what taking the front entry does to its queue. -/
theorem entriesFetchedAndTaken : Obligations.EntriesFetchedAndTaken := by
  refine ⟨fun s u t q d hu work state opened room posted => ?_, fun s u t d hu enabled state empty posted room alive => ?_,
    fun s u t q b takes => exec_fence_of_takes takes, fun s u t q b takes => exec_nop_of_takes takes,
    fun u q b f c work => ?_⟩
  · rw [exec_entryFetch_of_acts hu, State.fetchEntry_work (queueNumber_ne_zero work) state opened room posted]
  · rw [exec_entryFetch_of_acts hu]
    exact congrArg (fun w : State => Host.Outcome.next w.intPoll)
      (State.fetchEntry_admin enabled state empty posted room alive)
  · intro x y
    obtain ⟨n, e, fence, taken⟩ := u.queue_takeFront work b f c
    have hy : y = _ := taken
    refine ⟨by rw [hy]; rfl, by rw [hy], by rw [hy, List.length_append]; rfl, fun isFence v => ?_,
      takeFront_only u q b f c .outputs (by simp), takeFront_only u q b f c .runs (by simp)⟩
    refine v.mayTake_eq_false_of_fence (e := e) ?_ (fence.trans isFence)
    rw [hy]
    exact List.mem_append_right _ (List.mem_singleton_self e)

end Sys2Proof.Machine

/-! ## COMPLETION_WRITE (R119, R120, R123) -/

namespace Sys2Proof.Machine

/-! ### A reload that ends first (R59) leaves the ring -/

theorem State.finishAdmin_admin (s : State) (st r : Nat) : (s.finishAdmin st r).qg.admin = s.qg.admin := by
  unfold State.finishAdmin
  split
  · rfl
  · split <;> rfl

theorem State.reload_qg (s : State) (d : Bytes) : (s.reload d).qg = s.qg := reload_only s d .qg (by simp)

theorem State.reloadEnd_admin (s : State) : s.reloadEnd.qg.admin = s.qg.admin := by
  unfold State.reloadEnd
  split
  · split
    · rfl
    · rw [State.finishAdmin_admin, State.reload_qg]
  · rfl

/-! ### The completion of a work queue -/

theorem exec_completionWrite_of_acts {s u : State} {t : Nat} (h : s.actsAt t u) (q : BitVec 12) :
    exec (.completionWrite t q) s = .next (u.complWrite q.toNat).intPoll :=
  act_of_acts h fun s => s.complWrite q.toNat

theorem State.complWrite_work (s : State) {q : Nat} (work : q ≠ 0) :
    s.complWrite q = if (s.queue q).cqFull || (s.queue q).stuck || (s.queue q).mute then s
      else if (s.queue q).state = .absent then s else s.writeWork q := by
  unfold State.complWrite
  simp only [work, if_false]

theorem haltStatus_eq (halt ran : Bool) (c : Compl) :
    haltStatus halt ran c = if halt = true ∧ ran = true then { c with status := 0x73 } else c := by
  simp only [haltStatus, Bool.and_eq_true]

theorem haltStatus_noIrq (halt ran : Bool) (c : Compl) : (haltStatus halt ran c).noIrq = c.noIrq := by
  unfold haltStatus
  split <;> rfl

theorem State.writeWork_of_taken {s : State} {q : Nat} {e : Taken} {es : List Taken} {c : Compl}
    (taken : (s.queue q).taken = e :: es) (formed : e.compl = some c) :
    s.writeWork q =
      ((((s.modQueue q fun x => { x with taken := es }).writeCompl q
        (haltStatus s.faults.halt e.ran c)).countEntry q e).afterCompl q) := by
  unfold State.writeWork
  simp only [taken, formed]

theorem State.writeWork_of_open {s : State} {q : Nat} {e : Taken} {es : List Taken}
    (taken : (s.queue q).taken = e :: es) (open_ : e.compl = none) : s.writeWork q = s := by
  unfold State.writeWork
  dsimp only
  rw [taken]
  dsimp only
  rw [open_]

/-- The completion leaves for the slot at CQ tail. -/
theorem State.mem_writeCompl_outputs (s : State) (q : Nat) (c : Compl) :
    .interior (s.slotAddr q) (c.bytes q (s.queue q).sqHead) ∈ (s.writeCompl q c).outputs := by
  rw [State.writeCompl_eq]
  dsimp only
  split
  · exact List.mem_cons_self ..
  · exact State.queueMessage_outputs _ _ _ (List.mem_cons_self ..)

/-- R125: of the admin queue's commands nothing changes as a completion is written. -/
theorem State.writeCompl_due (s : State) (q : Nat) (c : Compl) : (s.writeCompl q c).qg.due = s.qg.due := by
  have modQueue (s : State) (f : Queue → Queue) : (s.modQueue q f).qg.due = s.qg.due := by
    unfold State.modQueue
    rw [State.modQg_qg]
    split <;> rfl
  have message (s : State) : (s.queueMessage q).qg.due = s.qg.due := by
    unfold State.queueMessage
    split
    · exact modQueue _ _
    · rfl
  rw [State.writeCompl_eq]
  dsimp only
  split
  · exact modQueue _ _
  · exact (message _).trans (modQueue _ _)

theorem State.complWrite_full {s : State} {q : Nat} (full : (s.queue q).cqFull = true) :
    s.complWrite q = if q = 0 then s.reloadEnd else s := by
  by_cases admin : q = 0
  · subst admin
    have full' : (s.reloadEnd.queue 0).cqFull = true := by
      have : s.reloadEnd.queue 0 = s.queue 0 := s.reloadEnd_admin
      rw [this, full]
    unfold State.complWrite
    simp only [if_true, full', Bool.true_or]
  · rw [State.complWrite_work s admin, if_pos (by simp [full]), if_neg admin]

theorem State.complWrite_admin {s : State} {c : Compl} {cs : List Compl} (enabled : s.reloadEnd.qg.adminEn = true)
    (room : s.reloadEnd.qg.admin.cqFull = false) (alive : s.reloadEnd.qg.admin.stuck = false)
    (speaks : s.reloadEnd.qg.admin.mute = false) (due : s.reloadEnd.qg.due = c :: cs) :
    s.complWrite 0 = ((s.reloadEnd.modQg fun g => { g with due := cs }).writeCompl 0 c).takeAdmin := by
  have admin : s.reloadEnd.queue 0 = s.reloadEnd.qg.admin := rfl
  unfold State.complWrite
  simp only [if_true, admin, room, alive, speaks, enabled, due, Bool.or_self, Bool.false_eq_true, if_false]

/-- Settles O17, by the queue and what stands at the front of what it has taken, or of what is due. -/
theorem completionWritten : Obligations.CompletionWritten := by
  refine ⟨fun s u t q e es c hu work present room alive speaks taken formed => ?_, fun s u t q hu full => ?_,
    fun s u t q e es hu work taken open_ => ?_, fun s v t c cs hv => ?_⟩
  · intro x c'
    have number := queueNumber_ne_zero work
    have halted : c' = haltStatus u.faults.halt e.ran c := (haltStatus_eq ..).symm
    have queue := State.queue_writeCompl (u.modQueue q.toNat fun x => { x with taken := es }) q.toNat c'
    rw [State.queue_modQueue_same] at queue
    refine ⟨(u.modQueue q.toNat fun x => { x with taken := es }).writeCompl q.toNat c', ?_, ?_, ?_, ?_, ?_⟩
    · rw [exec_completionWrite_of_acts hu, State.complWrite_work u number,
        if_neg (by simp [room, alive, speaks]), if_neg present, State.writeWork_of_taken taken formed, halted]
    · have slot := State.mem_writeCompl_outputs (u.modQueue q.toNat fun x => { x with taken := es }) q.toNat c'
      rw [State.slotAddr, if_neg number, State.queue_modQueue_same] at slot
      exact slot
    · rw [queue]
      rfl
    · rw [queue]
      rfl
    · rw [queue, halted, haltStatus_noIrq]
      rfl
  · rw [exec_completionWrite_of_acts hu, State.complWrite_full full]
    exact congrArg (fun w : State => Host.Outcome.next w.intPoll)
      (if_congr (BitVec.toNat_eq (y := 0#12)).symm rfl rfl)
  · rw [exec_completionWrite_of_acts hu, State.complWrite_work u (queueNumber_ne_zero work),
      State.writeWork_of_open taken open_]
    simp
  · intro u enabled room alive speaks due
    refine ⟨(u.modQg fun g => { g with due := cs }).writeCompl 0 c, ?_, ?_, ?_⟩
    · rw [exec_completionWrite_of_acts hv]
      exact congrArg (fun w : State => Host.Outcome.next w.intPoll)
        (State.complWrite_admin enabled room alive speaks due)
    · exact State.writeCompl_due _ _ _
    · exact State.mem_writeCompl_outputs (u.modQg fun g => { g with due := cs }) 0 c

end Sys2Proof.Machine

/-! ## ADMIN_EN (R124) -/

namespace Sys2Proof.Machine

theorem exec_adminEnWrite_of_acts {s u : State} {t : Nat} (h : s.actsAt t u) (v : BitVec 32) :
    exec (.adminEnWrite t v) s = .next (u.writeAdminEn v).intPoll :=
  act_of_acts h fun s => s.writeAdminEn v

theorem bitOf_zero_of_odd {v : Nat} (odd : v % 2 = 1) : bitOf v 0 = true := (bitOf_iff v 0).mpr (by simpa using odd)

theorem bitOf_zero_of_even {v : Nat} (even : v % 2 = 0) : bitOf v 0 = false := (bitOf_false v 0).mpr (by simpa using even)

theorem State.adminIdle_iff (s : State) : s.adminIdle = true ↔
    s.qg.todo = [] ∧ s.qg.run = none ∧ s.qg.revokes = [] ∧ s.qg.due = [] := by
  simp [State.adminIdle, and_assoc]

/-- R124: the admin queue while ADMIN_EN is 0. -/
def Qg.adminOff (g : Qg) : Qg :=
  { g with
    adminEn := false,
    admin := { g.admin with state := .absent, armed := false, sqHead := 0, sqTail := 0, cqHead := 0, cqTail := 0,
                            cache := [], unread := [], stuck := false, writeFails := 0 } }

theorem State.writeAdminEn_set {s : State} {v : BitVec 32} (set : v.toNat % 2 = 1) (off : s.qg.adminEn = false) :
    s.writeAdminEn v = s.modQg fun g =>
      { g with adminEn := true, admin := { g.admin with state := .enabled, armed := true } } := by
  unfold State.writeAdminEn
  simp [bitOf_zero_of_odd set, off]

theorem State.writeAdminEn_clear {s : State} {v : BitVec 32} (clear : v.toNat % 2 = 0) (on : s.qg.adminEn = true) :
    s.writeAdminEn v = if s.adminIdle then s.modQg Qg.adminOff else s.opsWrite 0x8000 v.toNat := by
  unfold State.writeAdminEn
  simp only [bitOf_zero_of_even clear, on, Bool.false_eq_true, if_false, Bool.not_true]
  rfl

/-- Settles O18, by the bit written and whether the queue is idle. -/
theorem adminEnable : Obligations.AdminEnable := by
  refine ⟨fun s u t v hu set off => ?_, fun s u t v hu clear on todo run revokes due => ?_,
    fun s u t v hu clear on busy => ?_⟩
  · rw [exec_adminEnWrite_of_acts hu, State.writeAdminEn_set set off, State.modQg]
  · have idle : u.adminIdle = true := u.adminIdle_iff.mpr ⟨todo, run, revokes, due⟩
    refine ⟨u.modQg Qg.adminOff, ?_, rfl, rfl, rfl, rfl, rfl, rfl, modQg_only u _⟩
    rw [exec_adminEnWrite_of_acts hu, State.writeAdminEn_clear clear on, if_pos idle]
  · have running : ¬ u.adminIdle = true := by
      rw [u.adminIdle_iff]
      rintro ⟨todo, run, revokes, due⟩
      obtain h | h | h | h := busy
      exacts [h todo, h run, h revokes, h due]
    rw [exec_adminEnWrite_of_acts hu, State.writeAdminEn_clear clear on, if_neg running, State.opsWrite]

end Sys2Proof.Machine

/-! ## The commands of a queue's life (R113, R128 to R131, R490) -/

namespace Sys2Proof.Machine

/-- The entry of an admin command that runs has passed the checks of R117. -/
theorem State.takesAdmin_check {s u : State} {t op : Nat} {b : Bytes} (h : s.takesAdmin t op b u) :
    ∃ v : State, v.adminCheck b = none ∧ entOp b = op ∧ u = v.popAdmin := by
  obtain ⟨v, _, _, _, _, _, _, check, opcode, popped⟩ := h
  exact ⟨v, check, opcode, popped⟩

/-- R126: a command that names a queue finds it, and it is no admin queue. -/
theorem State.adminCheck_queueExists {v : State} {b : Bytes} (check : v.adminCheck b = none)
    (names : namesQueue (entOp b) = true) : v.queueExists (entQueue b) = true := by
  unfold State.adminCheck at check
  split at check
  · cases check
  · by_contra missing
    simp only [names, Bool.eq_false_iff.mpr missing, Bool.not_false, Bool.and_self, if_true] at check
    split at check <;> cases check

theorem State.takesAdmin_queue_ne_zero {s u : State} {t op : Nat} {b : Bytes} (h : s.takesAdmin t op b u)
    (names : namesQueue op = true) : entQueue b ≠ 0 := by
  obtain ⟨v, check, rfl, _⟩ := State.takesAdmin_check h
  have found := State.adminCheck_queueExists check names
  simp only [State.queueExists, Bool.and_eq_true, bne_iff_ne] at found
  exact found.1

/-! ### CREATE_QUEUE (R128) -/

theorem State.createStatus_eq_zero {s : State} {b : Bytes} {q : Nat} (small : 4 ≤ crLogSize b) (large : crLogSize b ≤ 16)
    (weight : crWeight b ≠ 0) (sq : entAddr b ≠ 0) (sqPage : entAddr b % 4096 = 0) (cq : entStep b ≠ 0)
    (cqPage : entStep b % 4096 = 0) (cmp : crHeld b = false → crCmp b = 0) (number : s.createNumber b = some q)
    (bask : s.basking = true → entClass b = 0) (opened : (s.label (entMatter b)).state = .opened)
    (gen : (s.label (entMatter b)).gen = entGen b)
    (claim : crHeld b = true → ∃ c, s.claimOf 2 (crCmp b) = some c ∧ (c.holder = 0 ∨ c.holder = q)) :
    s.createStatus b = 0 := by
  unfold State.createStatus
  dsimp only
  rw [if_neg, if_neg, if_neg, if_neg, if_neg]
  · rintro ⟨held, refused⟩
    obtain ⟨c, found, holder⟩ := claim held
    rw [found, number] at refused
    obtain holder | holder := holder <;> simp [holder] at refused
  · simp [opened, gen]
  · simp [opened]
  · simpa [number] using bask
  · simp only [not_or, not_lt, not_and, ne_eq, not_not]
    exact ⟨small, large, weight, sq, sqPage, cq, cqPage, cmp⟩

theorem exec_createQueue_passed {s u : State} {t q : Nat} {b : Bytes} (h : s.takesAdmin t 0x01 b u)
    (status : u.createStatus b = 0) (number : u.createNumber b = some q) :
    exec (.createQueue t) s = .next
      ((u.modQueue q fun _ => newQueue b u.tileCounts).adminDone b 0 q).intPoll := by
  have run := adminRow_of_takes h fun b s =>
    match s.createNumber b with
    | some q =>
      if s.createStatus b = 0 then (s.modQueue q fun _ => newQueue b s.tileCounts).adminDone b 0 q
      else s.adminDone b (s.createStatus b) 0
    | none => s.adminDone b (s.createStatus b) 0
  simp only [number, status, if_true] at run
  exact run

/-! ### DISABLE_QUEUE (R129, R131, R490) -/

/-- R131: the tail to which the TAIL writes of tick `now` go back. -/
def Queue.tailBefore (x : Queue) (now : Nat) : Nat :=
  if x.tailTick = now ∧ x.tailWords ≠ [] then x.tailWas else x.sqTail

theorem State.queue_undoTail (s : State) (q : Nat) :
    ∃ words, (s.undoTail q).queue q = { s.queue q with sqTail := (s.queue q).tailBefore s.now, tailWords := words } := by
  have folded (l : List Nat) (w : State) : (l.foldl (fun s w => s.badDoorbell q 4 w) w).queue q = w.queue q := by
    induction l generalizing w with
    | nil => rfl
    | cons a l ih => rw [List.foldl_cons, ih, State.queue_badDoorbell]
  unfold State.undoTail Queue.tailBefore
  dsimp only
  split
  · rw [folded, State.queue_modQueue_same]
    exact ⟨_, rfl⟩
  · exact ⟨_, rfl⟩

/-- R129: the queue once it is DISABLING. -/
def Queue.disabling (x : Queue) : Queue :=
  { x with state := .disabling, paused := false, pausePending := false, launchHeld := false }

/-- R490: a queue whose completion write has failed for good discards its completions. -/
def Queue.discards (x : Queue) : Queue :=
  { x with mute := true, taken := x.taken.filter fun e => e.compl.isNone }

/-- R129: the queue once nothing of it is outstanding. -/
def Queue.settled (x : Queue) : Queue :=
  if x.state = .disabling ∧ x.taken = [] ∧ (x.posted = 0 ∨ x.mute = true) then { x with state := .disabled, cache := [] }
  else x

theorem Queue.settled_eq (x : Queue) : ∃ cache, x.settled =
    { x with
      cache := cache,
      state := if x.state = .disabling ∧ x.taken = [] ∧ (x.posted = 0 ∨ x.mute = true) then .disabled else x.state } := by
  unfold Queue.settled
  split
  · exact ⟨_, rfl⟩
  · exact ⟨_, rfl⟩

/-- R129, R490: an ENABLED queue as DISABLE_QUEUE leaves it. -/
def Queue.disabled (x : Queue) : Queue := (if x.stuck then x.disabling.discards else x.disabling).settled

theorem Queue.disabled_sqTail (x : Queue) : x.disabled.sqTail = x.sqTail := by
  unfold Queue.disabled
  obtain ⟨cache, h⟩ := (if x.stuck then x.disabling.discards else x.disabling).settled_eq
  rw [h]
  split <;> rfl

theorem Queue.disabled_mute (x : Queue) : x.disabled.mute = (x.mute || x.stuck) := by
  unfold Queue.disabled
  obtain ⟨cache, h⟩ := (if x.stuck then x.disabling.discards else x.disabling).settled_eq
  rw [h]
  cases stuck : x.stuck <;> simp [Queue.discards, Queue.disabling]

theorem Queue.disabled_taken (x : Queue) :
    x.disabled.taken = if x.stuck = true then x.taken.filter fun e => e.compl.isNone else x.taken := by
  unfold Queue.disabled
  obtain ⟨cache, h⟩ := (if x.stuck then x.disabling.discards else x.disabling).settled_eq
  rw [h]
  split <;> rfl

theorem Queue.disabled_state (x : Queue) : x.disabled.state =
    if x.disabled.taken = [] ∧ (x.posted = 0 ∨ (x.mute || x.stuck) = true) then .disabled else .disabling := by
  rw [x.disabled_taken]
  unfold Queue.disabled
  obtain ⟨cache, h⟩ := (if x.stuck then x.disabling.discards else x.disabling).settled_eq
  rw [h]
  cases stuck : x.stuck <;> simp [Queue.discards, Queue.disabling, Queue.posted, Queue.size]

theorem State.queue_idleCheck (s : State) (q : Nat) : (s.idleCheck q).queue q = (s.queue q).settled := by
  unfold State.idleCheck Queue.settled
  dsimp only
  split
  · exact State.queue_modQueue_same ..
  · rfl

theorem State.disable_eq (s : State) (q : Nat) :
    s.disable q =
      (let x := (s.undoTail q).queue q
       let w := (s.undoTail q).modQueue q Queue.disabling
       (if x.stuck then
          (w.modQueue q Queue.discards).opsRule 490
            (Config.discardArg q ((x.taken.filter fun t => t.compl.isSome).length + x.posted))
        else w).idleCheck q) := rfl

/-- What DISABLE_QUEUE makes of its queue. -/
theorem State.queue_disable (s : State) (q : Nat) :
    ∃ words, (s.disable q).queue q =
      Queue.disabled { s.queue q with sqTail := (s.queue q).tailBefore s.now, tailWords := words } := by
  obtain ⟨words, undone⟩ := s.queue_undoTail q
  refine ⟨words, ?_⟩
  rw [State.disable_eq]
  dsimp only
  rw [State.queue_idleCheck, undone]
  unfold Queue.disabled
  split
  · rw [State.opsRule, State.queue_record, State.queue_modQueue_same, State.queue_modQueue_same, undone]
  · rw [State.queue_modQueue_same, undone]

theorem exec_disableQueue_of_takes {s u : State} {t : Nat} {b : Bytes} (h : s.takesAdmin t 0x03 b u) :
    exec (.disableQueue t) s = .next
      ((if (u.queue (entQueue b)).state = .enabled then u.disable (entQueue b) else u).adminDone b 0
        (u.queue (entQueue b)).sqHead).intPoll :=
  adminRow_of_takes h fun b s =>
    (if (s.queue (entQueue b)).state = .enabled then s.disable (entQueue b) else s).adminDone b 0
      (s.queue (entQueue b)).sqHead

/-! ### DESTROY_QUEUE and QUEUE_INVALIDATE (R113, R130) -/

theorem exec_destroyQueue_of_takes {s u : State} {t : Nat} {b : Bytes} (h : s.takesAdmin t 0x02 b u) :
    exec (.destroyQueue t) s = .next
      (if (u.queue (entQueue b)).state = .disabled then (u.destroy (entQueue b)).adminDone b 0 0
       else u.adminDone b 0x40 0).intPoll :=
  adminRow_of_takes h fun b s =>
    if (s.queue (entQueue b)).state = .disabled then (s.destroy (entQueue b)).adminDone b 0 0 else s.adminDone b 0x40 0

theorem State.queue_destroy (s : State) {q : Nat} (work : q ≠ 0) : ((s.destroy q).queue q).state = .absent := by
  unfold State.queue
  rw [if_neg work]
  have gone (x : Tab Queue) : Tab.getD (Tab.del x q) q {} = {} := by
    rw [Tab.getD, Tab.find_del_same]
    rfl
  exact congrArg Queue.state (gone _)

theorem State.claims_destroy (s : State) (q : Nat) : ∀ c ∈ (s.destroy q).sil.claims, c.2.holder ≠ q := by
  intro c hc
  have left : c ∈ (s.leaveBuffers q).sil.claims.filter fun c => c.2.holder != q := hc
  simpa using (List.mem_filter.mp left).2

/-- Settles O19, by the command and the state of the queue that it names. -/
theorem queueLifeCycle : Obligations.QueueLifeCycle := by
  refine ⟨?_, fun s u t b takes enabled => ?_, fun s u t b takes ended => ?_, fun s u t b takes disabled => ?_,
    fun s u t b takes running => ?_, fun s u t b takes => ?_⟩
  · intro s u t q b takes small large weight sq sqPage cq cqPage cmp number bask opened gen claim
    exact exec_createQueue_passed takes (State.createStatus_eq_zero small large weight sq sqPage cq cqPage cmp number
      bask opened gen claim) number
  · intro y tail posted
    refine ⟨u.disable (entQueue b), ?_, ?_⟩
    · rw [exec_disableQueue_of_takes takes, if_pos enabled]
    · obtain ⟨words, queue⟩ := u.queue_disable (entQueue b)
      rw [queue]
      exact ⟨Queue.disabled_sqTail _, Queue.disabled_mute _, Queue.disabled_taken _, Queue.disabled_state _⟩
  · rw [exec_disableQueue_of_takes takes, if_neg]
    obtain h | h := ended <;> rw [h] <;> decide
  · refine ⟨u.destroy (entQueue b), ?_, u.queue_destroy (State.takesAdmin_queue_ne_zero takes rfl),
      u.claims_destroy _⟩
    rw [exec_destroyQueue_of_takes takes, if_pos disabled]
  · rw [exec_destroyQueue_of_takes takes, if_neg running]
  · exact adminRow_of_takes takes fun b s =>
      (s.modQueue (entQueue b) fun x => { x with cache := [] }).adminDone b 0 (s.queue (entQueue b)).sqHead

end Sys2Proof.Machine

/-! ## Seeds and launches (R333, R337, R338) -/

namespace Sys2Proof.Machine

/-! ### SEED_COMMIT and SEED_CLEAR (R333) -/

theorem exec_seedCommit_of_acts {s u : State} {t : Nat} (h : s.actsAt t u) (v : BitVec 32) :
    exec (.seedCommit t v) s = .next (u.seedCommit v.toNat).intPoll :=
  act_of_acts h fun s => s.seedCommit v.toNat

theorem exec_seedClear_of_acts {s u : State} {t : Nat} (h : s.actsAt t u) (v : BitVec 32) :
    exec (.seedClear t v) s = .next (u.seedClear v.toNat).intPoll :=
  act_of_acts h fun s => s.seedClear v.toNat

theorem State.seedQueueOk_iff (s : State) : s.seedQueueOk = true ↔ s.det.seedQueue ≠ 0#12 ∧
    (s.queue s.det.seedQueue.toNat).state ≠ .absent ∧ (s.queue s.det.seedQueue.toNat).state ≠ .disabled := by
  simp [State.seedQueueOk, ← BitVec.toNat_inj, and_assoc]

theorem State.seedQueueOk_eq_false (s : State) : s.seedQueueOk = false ↔ s.det.seedQueue = 0#12 ∨
    (s.queue s.det.seedQueue.toNat).state = .absent ∨ (s.queue s.det.seedQueue.toNat).state = .disabled := by
  rw [Bool.eq_false_iff, ne_eq, s.seedQueueOk_iff]
  tauto

/-- The two bits of DET_SEED_CTL: COMMIT is bit 0, CLEAR bit 1. -/
theorem commitClear_bits (v : Nat) :
    (bitOf v 0 = decide (v % 4 = 1 ∨ v % 4 = 3)) ∧ (bitOf v 1 = decide (v % 4 = 2 ∨ v % 4 = 3)) := by
  constructor <;> rw [Bool.eq_iff_iff, bitOf_iff, decide_eq_true_eq] <;> omega

theorem State.seedWrite_of_one {s : State} {v : Nat} (one : v % 4 ≠ 3) (ok : s.seedQueueOk = true)
    (f : Tab Bytes → Tab Bytes) (g : Det → Det) :
    s.seedWrite v f g = (s.modQueue s.det.seedQueue.toNat fun x => { x with seeds := f x.seeds }).modDet g := by
  obtain ⟨commit, clear⟩ := commitClear_bits v
  have both : (bitOf v 0 && bitOf v 1) = false := by
    simp only [commit, clear, Bool.and_eq_false_iff, decide_eq_false_iff_not]
    omega
  simp [State.seedWrite, both, ok]

theorem State.seedWrite_refused {s : State} {v : Nat} (h : v % 4 = 3 ∨ s.seedQueueOk = false)
    (f : Tab Bytes → Tab Bytes) (g : Det → Det) :
    s.seedWrite v f g = s.record 0 0x0201 1 (leBytes 4 0x25004 ++ leBytes 4 v) := by
  obtain ⟨commit, clear⟩ := commitClear_bits v
  obtain both | bad := h
  · simp [State.seedWrite, commit, clear, both, State.opsWrite]
  · simp [State.seedWrite, bad, State.opsWrite]

theorem State.seedCommit_of_bit {s : State} {v : Nat} (h : v % 4 = 1 ∨ v % 4 = 3) :
    s.seedCommit v = s.seedWrite v (fun x => Tab.put x s.det.seedSlot.toNat s.stagedSeed)
      fun d => { d with staging := [] } :=
  if_pos (by rw [(commitClear_bits v).1]; exact decide_eq_true h)

theorem State.seedClear_of_bit {s : State} {v : Nat} (h : v % 4 = 2) :
    s.seedClear v = s.seedWrite v (fun x => Tab.del x s.det.seedSlot.toNat) id := by
  obtain ⟨commit, clear⟩ := commitClear_bits v
  simp [State.seedClear, commit, clear, h]

/-- Settles O22, by the bits of the write and by whether the queue takes seeds. -/
theorem seedSlots : Obligations.SeedSlots := by
  refine ⟨fun s u t v hu bits work present enabled => ?_, fun s u t v hu bits work present enabled => ?_,
    fun s u t v hu refused => ?_, fun s u t v hu bits bad => ?_⟩
  · have ok := u.seedQueueOk_iff.mpr ⟨work, present, enabled⟩
    refine ⟨_, ?_, rfl, ?_⟩
    · rw [exec_seedCommit_of_acts hu, State.seedCommit_of_bit (.inl bits), State.seedWrite_of_one (by omega) ok]
    · simp
  · have ok := u.seedQueueOk_iff.mpr ⟨work, present, enabled⟩
    refine ⟨_, ?_, rfl, ?_⟩
    · rw [exec_seedClear_of_acts hu, State.seedClear_of_bit bits, State.seedWrite_of_one (by omega) ok]
      rfl
    · simp
  · rw [exec_seedCommit_of_acts hu, State.seedCommit_of_bit (by omega), State.seedWrite_refused]
    exact refused.imp_right fun ⟨_, bad⟩ => u.seedQueueOk_eq_false.mpr bad
  · rw [exec_seedClear_of_acts hu, State.seedClear_of_bit bits, State.seedWrite_refused]
    exact .inr (u.seedQueueOk_eq_false.mpr bad)

/-! ### ARM_LAUNCH and LAUNCH (R337, R338) -/

@[simp] theorem State.comparator_setComparator (s : State) (n : Nat) (c : Comparator) :
    (s.setComparator n c).comparator n = c := by
  simp [State.comparator, State.setComparator]

theorem exec_armLaunch_of_takes {s u : State} {t : Nat} {b : Bytes} (h : s.takesAdmin t 0x23 b u) :
    exec (.armLaunch t) s = .next
      (if u.now + 10 ^ 10 < entStep b then u.adminDone b 0x12 0
       else if (u.claimOf 2 (entLen b % 4)).isNone || (u.comparator (entLen b % 4)).armed then u.adminDone b 0x40 0
       else if entStep b ≤ u.now then
        ((u.setComparator (entLen b % 4) { t := entStep b, armed := false, late := true }).releaseHeld
          (entLen b % 4)).adminDone b 0x50 u.now
       else (u.setComparator (entLen b % 4) { t := entStep b, armed := true, late := false }).adminWaits b
        (.launch (entLen b % 4) false)).intPoll := by
  have number : fieldOf (entLen b) 0 2 = entLen b % 4 := by simp [fieldOf_eq]
  rw [← number]
  exact adminRow_of_takes h fun b s =>
    let n := fieldOf (entLen b) 0 2
    let T := entStep b
    if s.now + 10 ^ 10 < T then s.adminDone b 0x12 0
    else if (s.claimOf 2 n).isNone || (s.comparator n).armed then s.adminDone b 0x40 0
    else if T ≤ s.now then
      ((s.setComparator n { t := T, armed := false, late := true }).releaseHeld n).adminDone b 0x50 s.now
    else (s.setComparator n { t := T, armed := true, late := false }).adminWaits b (.launch n false)

/-- R338: the comparator has fired, and its queues are released. -/
def State.fired (s : State) (n : Nat) : State :=
  (s.setComparator n { s.comparator n with armed := false }).releaseHeld n

theorem State.fire_of_due {s : State} {n : Nat} {b : Bytes} {l : Bool} (armed : (s.comparator n).armed = true)
    (due : (s.comparator n).t ≤ s.now) (run : s.qg.run = some ⟨b, .launch n l⟩) :
    s.fire n = (s.fired n).finishAdmin 0 s.now := by
  have waiting : (s.fired n).waiting = some (.launch n l) := by
    show s.qg.run.map AdminRun.wait = _
    rw [run]
    rfl
  unfold State.fire
  simp only [armed, due, decide_true, Bool.and_self, if_true]
  change (match (s.fired n).waiting with
    | some (.launch k _) => if k = n then (s.fired n).finishAdmin 0 (s.fired n).now else s.fired n
    | _ => s.fired n) = _
  rw [waiting]
  exact if_pos rfl

theorem State.queues_fired (s : State) (n : Nat) : ∀ q x, Tab.find (s.fired n).qg.queues q = some x → x.cmp = n →
    x.launchHeld = false := by
  intro q x found cmp
  have mapped : Tab.find (Tab.mapVals (fun _ q => if q.cmp = n then { q with launchHeld := false } else q) s.qg.queues) q
      = some x := found
  rw [Tab.find_mapVals, Option.map_eq_some_iff] at mapped
  obtain ⟨y, _, rfl⟩ := mapped
  by_cases held : y.cmp = n
  · rw [if_pos held]
  · rw [if_neg held] at cmp
    exact absurd cmp held

/-- Settles O23: the branches of ARM_LAUNCH, and the firing of the comparator that it armed. -/
theorem launchCommands : Obligations.LaunchCommands := by
  refine ⟨?_, ?_, ?_⟩
  · intro s u t b h n late horizon claimed free
    rw [exec_armLaunch_of_takes h, if_neg (by omega), if_neg (by simp_all [n, Option.isNone_iff_eq_none, Option.ne_none_iff_isSome])]
    simp only [late, decide_eq_true_eq, n]
  · intro s u t b h n refused
    rw [exec_armLaunch_of_takes h]
    by_cases far : u.now + 10 ^ 10 < entStep b
    · rw [if_pos far, if_pos far]
    · have busy : u.claimOf 2 n = none ∨ (u.comparator n).armed = true := refused.resolve_left far
      rw [if_neg far, if_neg far, if_pos]
      simpa [n] using busy
  · intro s u t n b l h armed due run awake
    have finished := State.finishAdmin_run (s := u.fired n.toNat) run awake 0 u.now
    refine ⟨(u.fired n.toNat).finishAdmin 0 u.now, ?_, ?_, ?_, ?_, ?_⟩
    · rw [← State.fire_of_due armed due run]
      exact act_of_acts h fun s => s.fire n.toNat
    · rw [finished]
      simp [State.fired, State.comparator, State.setComparator, State.releaseHeld]
    · rw [finished]
      exact u.queues_fired n.toNat
    · rw [finished]
    · rw [finished]
      rfl

end Sys2Proof.Machine

/-! ## Chorus lanes (R350 to R352) -/

namespace Sys2Proof.Machine

@[simp] theorem State.lane_modLane_same (s : State) (l : Nat) (f : Chorus → Chorus) :
    (s.modLane l f).lane l = f (s.lane l) := by
  simp [State.lane, State.modLane]

@[simp] theorem State.lane_modQueue (s : State) (q l : Nat) (f : Queue → Queue) :
    (s.modQueue q f).lane l = s.lane l := by
  unfold State.modQueue
  split <;> rfl

@[simp] theorem State.lane_adminDone (s : State) (b : Bytes) (st r l : Nat) : (s.adminDone b st r).lane l = s.lane l := rfl

/-! ### CHORUS_CONFIG (R350) -/

/-- R350: the claim of a lane lets queue `q` use it: the queue's own, or one that no queue holds. -/
def laneClaimOk (c : Option Claim) (q : Nat) : Bool :=
  match c with
  | none => false
  | some c => c.holder == 0 || c.holder == q

theorem exec_chorusConfig_of_takes {s u : State} {t : Nat} {b : Bytes} (h : s.takesAdmin t 0x24 b u) :
    exec (.chorusConfig t) s = .next
      (if !laneClaimOk (u.claimOf 3 (entLen b / 2 ^ 16 % 2)) (entQueue b) ||
          ((u.lane (entLen b / 2 ^ 16 % 2)).queue != 0 && (u.lane (entLen b / 2 ^ 16 % 2)).queue != entQueue b) then
        u.adminDone b 0x40 0
       else if bitOf (entLen b) 17 then
        (if entBase b = u.gctl.die.toNat then u.adminDone b 0x12 0
         else (u.attachLane (entQueue b) (entLen b / 2 ^ 16 % 2) (entBase b)).adminDone b 0 0)
       else if (u.lane (entLen b / 2 ^ 16 % 2)).queue = 0 then u.adminDone b 0 0
       else if (u.queue (entQueue b)).taken.isEmpty then
        ((u.detachLane (entLen b / 2 ^ 16 % 2)).modQueue (entQueue b) fun x => { x with chorus := none }).adminDone b 0 0
       else u.adminWaits b (.detach (entQueue b) (entLen b / 2 ^ 16 % 2))).intPoll := by
  have lane : fieldOf (entLen b) 16 1 = entLen b / 2 ^ 16 % 2 := by simp [fieldOf_eq]
  rw [← lane]
  exact adminRow_of_takes h fun b s =>
    let q := entQueue b
    let l := fieldOf (entLen b) 16 1
    if !laneClaimOk (s.claimOf 3 l) q || ((s.lane l).queue != 0 && (s.lane l).queue != q) then s.adminDone b 0x40 0
    else if bitOf (entLen b) 17 then
      (if entBase b = s.gctl.die.toNat then s.adminDone b 0x12 0 else (s.attachLane q l (entBase b)).adminDone b 0 0)
    else if (s.lane l).queue = 0 then s.adminDone b 0 0
    else if (s.queue q).taken.isEmpty then
      ((s.detachLane l).modQueue q fun x => { x with chorus := none }).adminDone b 0 0
    else s.adminWaits b (.detach q l)

theorem State.detachLane_lane (s : State) (l : Nat) :
    ((s.detachLane l).lane l).queue = 0 ∧ ((s.detachLane l).lane l).here = [] := by
  simp [State.detachLane]

theorem State.attachLane_serves (s : State) (q l p : Nat) :
    ((s.attachLane q l p).lane l).queue = q ∧ ((s.attachLane q l p).lane l).partner = p ∧
      ((s.attachLane q l p).queue q).chorus = some l := by
  simp [State.attachLane]

theorem State.detachCheck_of_idle {s : State} {b : Bytes} {q l : Nat} (run : s.qg.run = some ⟨b, .detach q l⟩)
    (idle : (s.queue q).taken = []) :
    s.detachCheck = ((s.detachLane l).modQueue q fun x => { x with chorus := none }).finishAdmin 0 0 := by
  have waiting : s.waiting = some (.detach q l) := by simp [State.waiting, run]
  unfold State.detachCheck
  rw [waiting]
  exact if_pos idle

theorem State.run_modQueue (s : State) (q : Nat) (f : Queue → Queue) : (s.modQueue q f).qg.run = s.qg.run := by
  unfold State.modQueue
  split <;> rfl

theorem State.due_modQueue (s : State) (q : Nat) (f : Queue → Queue) : (s.modQueue q f).qg.due = s.qg.due := by
  unfold State.modQueue
  split <;> rfl

theorem State.stw_modQueue (s : State) (q : Nat) (f : Queue → Queue) : (s.modQueue q f).stw = s.stw := by
  unfold State.modQueue
  split <;> rfl

/-- The end of an admin command leaves the lanes and the queues as they are. -/
theorem State.lane_finishAdmin (s : State) (st r l : Nat) : (s.finishAdmin st r).lane l = s.lane l := by
  obtain ⟨g, h⟩ := s.finishAdmin_eq st r
  rw [h]
  rfl

theorem State.queue_finishAdmin (s : State) (st r q : Nat) : (s.finishAdmin st r).queue q = s.queue q := by
  unfold State.finishAdmin
  split
  · rfl
  · split <;> rfl

theorem State.detachCheck_detaches {s : State} {b : Bytes} {q l : Nat} (run : s.qg.run = some ⟨b, .detach q l⟩)
    (awake : s.stw.restarting = false) (idle : (s.queue q).taken = []) :
    (s.detachCheck.lane l).queue = 0 ∧ (s.detachCheck.queue q).chorus = none ∧ s.detachCheck.qg.run = none ∧
      s.detachCheck.qg.due = s.qg.due ++ [complOf b 0 0] := by
  rw [State.detachCheck_of_idle run idle]
  have running : ((s.detachLane l).modQueue q fun x => { x with chorus := none }).qg.run = some ⟨b, .detach q l⟩ := by
    rw [State.run_modQueue]
    exact run
  refine ⟨?_, ?_, ?_, ?_⟩
  · rw [State.lane_finishAdmin, State.lane_modQueue, (s.detachLane_lane l).1]
  · rw [State.queue_finishAdmin, State.queue_modQueue_same]
  · rw [State.finishAdmin_run running (by rw [State.stw_modQueue]; exact awake)]
  · rw [State.finishAdmin_run running (by rw [State.stw_modQueue]; exact awake), State.due_modQueue]
    rfl

/-! ### Messages and points without a partner (R351, R352, R492) -/

theorem laneNumber_eq (lane : Bool) : ofBool lane = if lane = true then 1 else 0 := ofBool_if lane

theorem padTo_of_length {n : Nat} {bs : Bytes} (h : bs.length = n) : padTo n bs = bs := by
  simp [padTo, zeroBytes, ← h]

theorem State.comparePoints_same {s : State} {h p : ChorusPoint} (same : h.digest = p.digest) : s.comparePoints h p = s :=
  if_pos same

theorem State.comparePoints_differ {s : State} {h p : ChorusPoint} (differ : h.digest ≠ p.digest) :
    s.comparePoints h p = s.modRun h.serial fun r =>
      { r with divs := r.divs ++ [⟨h.step, h.stage, h.index, h.tile, false⟩] } :=
  if_neg differ

theorem eraseDups_of_all_eq {e : Nat} {es : List Nat} (some_ : es ≠ []) (all : ∀ x ∈ es, x = e) : es.eraseDups = [e] := by
  cases es with
  | nil => exact absurd rfl some_
  | cons x xs =>
    have others : xs.filter (fun b => !b == x) = [] :=
      List.filter_eq_nil_iff.mpr fun y hy => by
        simp [all x (List.mem_cons_self ..), all y (List.mem_cons_of_mem _ hy)]
    rw [List.eraseDups_cons, others, all x (List.mem_cons_self ..)]
    rfl

/-- R352: the points of entry `e` that wait on lane `l`, as missing ones of its run. -/
def State.missed (s : State) (l e : Nat) : State :=
  (s.modRun e fun r => { r with divs := r.divs ++ ((s.lane l).here.filter fun p => p.serial == e).map fun p =>
    ⟨p.step, p.stage, p.index, p.tile, true⟩ }).modLane l fun c =>
      ({ c with here := c.here.filter fun p => p.serial != e }).withStall

theorem State.missingOf_of_due {s : State} {l e : Nat} {r : Run} (run : Tab.find s.runs e = some r)
    (ended : r.ended = true) (due : r.lastPoint + 10 ^ 8 ≤ s.now) : s.missingOf l e = (s.missed l e).settleRun e := by
  unfold State.missingOf
  simp only [run, ended, due, decide_true, Bool.and_self, if_true]
  rfl

theorem State.missingOn_of_one {s : State} {l e : Nat} (some_ : (s.lane l).here ≠ [])
    (mine : ∀ p ∈ (s.lane l).here, p.serial = e) : s.missingOn l = s.missingOf l e := by
  have one : ((s.lane l).here.map ChorusPoint.serial).eraseDups = [e] :=
    eraseDups_of_all_eq (by simpa using some_) (by simpa using mine)
  simp [State.missingOn, one]

theorem State.lane_modRun (s : State) (e l : Nat) (f : Run → Run) : (s.modRun e f).lane l = s.lane l := by
  unfold State.modRun
  split <;> rfl

theorem State.missed_lane {s : State} {l e : Nat} (mine : ∀ p ∈ (s.lane l).here, p.serial = e) :
    ((s.missed l e).lane l).here = [] := by
  rw [State.missed, State.lane_modLane_same, State.lane_modRun]
  exact List.filter_eq_nil_iff.mpr fun p hp => by simp [mine p hp]

theorem State.missed_run {s : State} {l e : Nat} {r : Run} (run : Tab.find s.runs e = some r)
    (mine : ∀ p ∈ (s.lane l).here, p.serial = e) : ∃ r', Tab.find (s.missed l e).runs e = some r' ∧
      r'.divs = r.divs ++ (s.lane l).here.map fun p => ⟨p.step, p.stage, p.index, p.tile, true⟩ := by
  have all : ((s.lane l).here.filter fun p => p.serial == e) = (s.lane l).here :=
    List.filter_eq_self.mpr fun p hp => by simp [mine p hp]
  refine ⟨{ r with divs := r.divs ++ (s.lane l).here.map fun p => ⟨p.step, p.stage, p.index, p.tile, true⟩ }, ?_, rfl⟩
  rw [State.missed, modRun_of_find run, all]
  exact Tab.find_put_same ..

theorem exec_chorusMessage_of_acts {s u : State} {t : Nat} (h : s.actsAt t u) (f : Bytes) (lane : Bool) : exec (.chorusMessage t lane f) s =
      .next (((u.missingOn (if lane then 1 else 0)).chorusFrame (if lane then 1 else 0) f).resumeAll.stallClock).intPoll := by
  rw [← laneNumber_eq]
  exact act_of_acts h fun s => (((s.missingOn (ofBool lane)).chorusFrame (ofBool lane) f).resumeAll).stallClock

theorem State.takePoint_eq (v : State) (l : Nat) (m : Bytes) :
    v.takePoint l m = (let c := v.lane l
      let k := (pointOf m).key
      if c.partner ≠ leAt m 0 4 ∨ (v.label (v.queue c.queue).label).matter ≠ leAt m 4 8 ∨ k ∈ c.compared ∨
          (∃ x ∈ c.remote, x.key = k) then
        v.record 0 0x0206 1 (leBytes 1 l ++ leBytes 4 (leAt m 0 4))
      else match c.here.find? fun x => x.key == k with
        | some h =>
          ((v.modLane l fun c => Chorus.withStall
            { c with here := c.here.filter fun x => x.key != k, compared := k :: c.compared }).comparePoints h
              (pointOf m)).settleRun h.serial
        | none => v.modLane l fun c => { c with remote := c.remote ++ [pointOf m] }) := by
  unfold State.takePoint State.discardPoint
  dsimp only
  have seen : ((v.lane l).compared.contains (pointOf m).key = true ∨
      ((v.lane l).remote.any fun x => x.key == (pointOf m).key) = true) ↔
      ((pointOf m).key ∈ (v.lane l).compared ∨ ∃ x ∈ (v.lane l).remote, x.key = (pointOf m).key) := by
    simp
  by_cases foreign : (v.lane l).partner ≠ leAt m 0 4 ∨ (v.label (v.queue (v.lane l).queue).label).matter ≠ leAt m 4 8
  · rw [if_pos foreign, if_pos (or_assoc.mp (.inl foreign))]
  · rw [if_neg foreign]
    by_cases before : (pointOf m).key ∈ (v.lane l).compared ∨ ∃ x ∈ (v.lane l).remote, x.key = (pointOf m).key
    · rw [if_pos (seen.mpr before), if_pos (or_assoc.mp (.inr before))]
    · rw [if_neg (fun h => before (seen.mp h)), if_neg (fun h => (or_assoc.mpr h).elim foreign before)]
        <;> rfl

/-- Settles O24: the branches of CHORUS_CONFIG, the steps that attach and detach, and the arrival of a frame. -/
theorem chorusLanes : Obligations.ChorusLanes := by
  refine ⟨?_, ?_, ?_, ?_, ?_, ?_, ?_⟩
  · intro s u t b c h q l claim holder lane
    have mine : (!laneClaimOk (u.claimOf 3 l) q ||
        ((u.lane l).queue != 0 && (u.lane l).queue != q)) = false := by
      rw [claim]
      obtain holder | holder := holder <;> obtain lane | lane := lane <;> simp [laneClaimOk, holder, lane]
    rw [exec_chorusConfig_of_takes h, if_neg (ne_true_of_eq_false mine)]
    simp only [List.isEmpty_iff, bitOf_iff]
    rfl
  · intro u q l p
    obtain ⟨queue, partner, chorus⟩ := u.attachLane_serves q l p
    obtain ⟨free, empty⟩ := u.detachLane_lane l
    exact ⟨queue, partner, chorus, free, empty⟩
  · intro s u t b h l refused
    have bad : (!laneClaimOk (u.claimOf 3 l) (entQueue b) ||
        ((u.lane l).queue != 0 && (u.lane l).queue != entQueue b)) = true := by
      obtain unclaimed | ⟨c, claim, other⟩ | other := refused
      · simp [laneClaimOk, unclaimed]
      · simp [laneClaimOk, claim, other]
      · simp [other]
    rw [exec_chorusConfig_of_takes h, if_pos bad]
  · exact fun u b q l run awake idle => State.detachCheck_detaches run awake idle
  · rintro s u v t lane f h frame l m c k rfl
    rw [exec_chorusMessage_of_acts h f]
    unfold State.chorusFrame
    simp only [padTo_of_length frame, State.takePoint_eq]
    rfl
  · intro u h p r run
    by_cases same : h.digest = p.digest
    · exact ⟨r, by rw [State.comparePoints_same same, run], by rw [if_pos same]⟩
    · refine ⟨_, ?_, by rw [if_neg same]⟩
      rw [State.comparePoints_differ same, modRun_of_find run]
      exact Tab.find_put_same ..
  · intro s u t lane e r h l some_ mine run ended due
    refine ⟨u.missed l e, ?_, State.missed_lane mine, State.missed_run run mine⟩
    rw [← State.missingOf_of_due run ended due, ← State.missingOn_of_one some_ mine]
    have run := act_of_acts h fun s => ((s.missingOn (ofBool lane)).resumeAll).stallClock
    rwa [laneNumber_eq] at run

end Sys2Proof.Machine

/-! ## Saved contexts and replay (R342, R343, R349) -/

namespace Sys2Proof.Machine

theorem State.pkAsk_eq (s : State) (b : Bytes) (op : PkOp) (client : PkClient) (data : Bytes) (step : PkStep) :
    s.pkAsk b op client data step = { s with
      pke := { s.pke with admin := some { op := op, client := client, slot := 1, hash := 2, data := data } },
      qg := { s.qg with run := some ⟨b, .pk step⟩ } } := rfl

/-! ### SAVE_CONTEXT (R342) -/

/-- R126: a SAVE_CONTEXT whose buffer is too short does not run. -/
theorem State.takesAdmin_save_room {s u : State} {t : Nat} {b : Bytes} (h : s.takesAdmin t 0x21 b u) :
    ¬ entCount b < 16384 := by
  obtain ⟨v, check, opcode, _⟩ := State.takesAdmin_check h
  intro short
  unfold State.adminCheck at check
  split at check
  · cases check
  · simp only [opcode, short, beq_self_eq_true, decide_true, Bool.and_self, if_true] at check
    split at check
    · cases check
    · split at check <;> cases check

theorem exec_saveContext_of_takes {s u : State} {t : Nat} {b : Bytes} (h : s.takesAdmin t 0x21 b u) :
    exec (.saveContext t) s = .next
      (if u.queueFenced (u.queue (entQueue b)) then u.adminDone b 0x30 0
       else if !(u.queue (entQueue b)).paused then u.adminDone b 0x40 0
       else u.pkAsk b .sign .context (sha384 (u.contextBody (u.queue (entQueue b))))
        (.sign (u.contextBody (u.queue (entQueue b))))).intPoll := by
  have run := adminRow_of_takes h fun b s =>
    let x := s.queue (entQueue b)
    if s.queueFenced x then s.adminDone b 0x30 0
    else if !x.paused then s.adminDone b 0x40 0
    else if entCount b < 16384 then s.adminDone b 0x12 0
    else
      let body := s.contextBody x
      s.pkAsk b .sign .context (sha384 body) (.sign body)
  simp only [if_neg (State.takesAdmin_save_room h)] at run
  exact run

theorem take_padTo_of_prefix {n k : Nat} {a bs : Bytes} (front : a <+: bs) (len : a.length = k) (room : k ≤ n) :
    (padTo n bs).take k = a := by
  obtain ⟨rest, rfl⟩ := front
  subst len
  have cut : (a ++ rest).take n = a ++ rest.take (n - a.length) := by
    rw [List.take_append, List.take_of_length_le room]
  rw [padTo, cut, List.append_assoc]
  exact List.take_left' rfl

theorem le_up64 (n : Nat) : n ≤ up64 n := by
  unfold up64
  omega

theorem State.contextBody_head (s : State) (x : Queue) :
    (s.contextBody x).take 11 = asciiBytes "HYNUSCTS" ++ leBytes 2 1 ++ leBytes 1 x.cls := by
  refine take_padTo_of_prefix ?_ ?_ (le_trans (by omega) (le_up64 _))
  · simp only [List.append_assoc, List.prefix_append_right_inj]
    exact List.prefix_append ..
  · simp [leBytes_length, asciiBytes]

theorem State.contextSigned_of_run {s : State} {b body : Bytes} (run : s.qg.run = some ⟨b, .pk (.sign body)⟩)
    (awake : s.stw.restarting = false) :
    let bytes := body ++ sign384 s.cus.sessionD body ++ zeroBytes 32
    s.contextSigned b body false = { s with
      outputs := .interior (entAddr b) bytes :: s.outputs,
      qg := { s.qg with run := none, due := s.qg.due ++ [complOf b 0 bytes.length] } } := by
  intro bytes
  exact State.finishAdmin_run (s := s.emit (.interior (entAddr b) bytes)) run awake 0 bytes.length

/-! ### RESTORE_CONTEXT (R343) -/

theorem exec_restoreContext_of_takes {s u : State} {t : Nat} {b : Bytes} (h : s.takesAdmin t 0x22 b u) (data : Bytes) :
    exec (.restoreContext t data) s = .next
      (if u.queueFenced (u.queue (entQueue b)) then u.adminDone b 0x30 0
       else if ctxForm b (padTo (min (entCount b) 16384) data) ≠ 0 then
        u.adminDone b (ctxForm b (padTo (min (entCount b) 16384) data)) 0
       else u.pkAsk b .verify .context [] (.certificate (padTo (min (entCount b) 16384) data))).intPoll :=
  adminRow_of_takes h fun b s =>
    let d := padTo (min (entCount b) 16384) data
    let x := s.queue (entQueue b)
    if s.queueFenced x then s.adminDone b 0x30 0
    else if ctxForm b d ≠ 0 then s.adminDone b (ctxForm b d) 0
    else s.pkAsk b .verify .context [] (.certificate d)

theorem State.certificateVerified_of_run {s : State} {b d : Bytes} (run : s.qg.run = some ⟨b, .pk (.certificate d)⟩)
    (awake : s.stw.restarting = false) :
    s.certificateVerified b d false =
      if ctxCertOk d = true then s.pkAsk b .verify .context [] (.verify d)
      else { s with qg := { s.qg with run := none, due := s.qg.due ++ [complOf b 0x83 0] } } := by
  unfold State.certificateVerified
  by_cases ok : ctxCertOk d = true
  · simp [ok]
  · rw [if_pos (by simp [ok]), if_neg ok, State.finishAdmin_run run awake]

/-- R343: the status of the checks from the signature on. -/
def State.contextStatus (s : State) (b d : Bytes) : Nat :=
  if ctxSigned d = false then 0x83
  else if s.queueFenced (s.queue (entQueue b)) = true then 0x30
  else s.ctxFits b d

theorem State.contextVerified_eq (s : State) (b d : Bytes) :
    s.contextVerified b d false =
      if s.contextStatus b d ≠ 0 then s.finishAdmin (s.contextStatus b d) 0
      else (s.endAdmin.applyContext (entQueue b) d).adminDoneFlags b 0 0
        (if (s.queue (entQueue b)).cls = 2 ∧ s.tileCounts ≠ ctxCounts d then 1 else 0) := by
  unfold State.contextVerified State.contextStatus
  by_cases signed : ctxSigned d = true
  · by_cases fenced : s.queueFenced (s.queue (entQueue b)) = true
    · simp [signed, fenced]
    · simp [signed, fenced, ofBool_if]
  · simp [signed]

/-! ### REPLAY_DIGEST (R349) -/

theorem exec_replayDigest_of_takes {s u : State} {t : Nat} {b : Bytes} {l : Ledger} {cs : List ListCmd}
    (h : s.takesAdmin t 0x25 b u) (mem : HostMem) (fenced : u.queueFenced (u.queue (entQueue b)) = false)
    (stage : replayStage (fieldOf (entLen b) 16 8) = true)
    (ledger : latestLedger (entStep b) (entBase b) (u.queue (entQueue b)).ledger = some l)
    (list : parseList (hostRead mem (entAddr l.entry) (entLen l.entry)) = some cs)
    (started : ∃ y ∈ (walkList cs).starts, y.snap.stage = fieldOf (entLen b) 16 8)
    (current : u.ledgerCurrent (u.queue (entQueue b)) l = true)
    (untimed : (u.queue (entQueue b)).cls = 0 ∨ l.ndc = 0 ∨ fieldOf (entLen b) 16 8 ∉ [6, 8, 9]) :
    exec (.replayDigest t mem) s = .next (u.replay b mem l cs).intPoll := by
  have starts : ((walkList cs).starts.any fun y => y.snap.stage == fieldOf (entLen b) 16 8) = true := by
    simpa using started
  have choice : ((u.queue (entQueue b)).cls != 0 && (fieldOf (entLen b) 16 8 == 6 || fieldOf (entLen b) 16 8 == 8 ||
      fieldOf (entLen b) 16 8 == 9) && l.ndc != 0) = false := by
    obtain cls | ndc | other := untimed
    · simp [cls]
    · simp [ndc]
    · simp_all
  have run : exec (.replayDigest t mem) s = _ := adminRow_of_takes h fun b s =>
    let x := s.queue (entQueue b)
    let stage := fieldOf (entLen b) 16 8
    if s.queueFenced x then s.adminDone b 0x30 0
    else if !replayStage stage then s.adminDone b 0x12 0
    else match latestLedger (entStep b) (entBase b) x.ledger with
      | none => s.adminDone b 0x40 0
      | some l =>
        match parseList (hostRead mem (entAddr l.entry) (entLen l.entry)) with
        | none => s.adminDone b 0x12 0
        | some cs =>
          if !((walkList cs).starts.any fun y => y.snap.stage == stage) then s.adminDone b 0x12 0
          else if !s.ledgerCurrent x l || (x.cls != 0 && (stage == 6 || stage == 8 || stage == 9) && l.ndc != 0) then
            s.adminDone b 0x40 0
          else s.replay b mem l cs
  simp only [fenced, stage, ledger, list, starts, current, choice, Bool.false_eq_true, if_false, Bool.not_true,
    Bool.or_self] at run
  exact run

/-- R349: how the command of a replay `p` that ran ends. -/
theorem State.replay_eq (s : State) (b : Bytes) (mem : HostMem) (l : Ledger) (cs : List ListCmd) (p : Replay)
    (ran : p = Replay.run mem s.qg.nextSerial replayFuel
      { s := s.replayStart (entQueue b) s.qg.nextSerial l.entry mem cs }) :
    let stage := fieldOf (entLen b) 16 8
    s.replay b mem l cs =
      if ∃ n ∈ p.needed s.qg.nextSerial stage (entBase b), n ∈ p.failed then s.adminDone b 0x21 0
      else match p.digest s.qg.nextSerial stage (entBase b) ((walkList cs).starts.map Started.snap) with
        | none => s.adminDone b 0x40 0
        | some d => (s.emit (.interior (entAddr b) d)).adminDoneFlags b 0 (leNat (d.take 8))
            (if (s.queue (entQueue b)).cls = 2 ∧ l.tiles ≠ s.tileCounts then 1 else 0) := by
  intro stage
  unfold State.replay
  simp only [← ran, List.any_eq_true, List.contains_iff_mem, ofBool_if, Bool.and_eq_true, beq_iff_eq, bne_iff_ne, stage]
    <;> rfl

/-- Settles O25, command by command: the checks, the job that is asked for, and what its end does. -/
theorem contextsAndReplay : Obligations.ContextsAndReplay := by
  refine ⟨?_, ?_, ?_, ?_, ?_, ?_⟩
  · intro s u t b h x body
    refine ⟨?_, u.contextBody_head x⟩
    rw [exec_saveContext_of_takes h, State.pkAsk_eq]
    simp only [Bool.not_eq_true', x, body]
  · exact fun u b body run awake => State.contextSigned_of_run run awake
  · intro s u t b data h d
    rw [exec_restoreContext_of_takes h, State.pkAsk_eq]
  · intro u b d run awake
    rw [State.certificateVerified_of_run run awake, State.pkAsk_eq]
  · intro u b d run awake x st
    rw [State.contextVerified_eq, State.finishAdmin_run run awake] <;> rfl
  · intro s u t b mem l cs h x stage fenced replayed ledger list started current untimed p
    have code : fieldOf (entLen b) 16 8 = stage := fieldOf_eq ..
    rw [exec_replayDigest_of_takes h mem fenced (code ▸ replayed) ledger list (code ▸ started) current
      (code ▸ untimed), State.replay_eq u b mem l cs p rfl, code]
      <;> rfl

end Sys2Proof.Machine

/-! ## The pool record (R382) -/

namespace Sys2Proof.Machine

theorem actStalls_of_acts {s u : State} {t : Nat} (h : s.actsAt t u) (f : State → State) :
    actStalls t s f = .next (f u).stallClock.intPoll :=
  act_of_acts h fun s => (f s).stallClock

/-- The row of an admin command that runs is its own state function, on the state with its entry off the list. -/
theorem State.takesAdmin_row {s u : State} {t op : Nat} {b : Bytes} (h : s.takesAdmin t op b u)
    (f : Bytes → State → State) : ∃ v, s.actsAt t v ∧ v.adminRow op f = f b u := by
  obtain ⟨v, acts, idle, awake, mayRun, halted, front, check, opcode, rfl⟩ := h
  refine ⟨v, acts, ?_⟩
  obtain ⟨rest, list⟩ : ∃ rest, v.qg.todo = some b :: rest := by
    cases list : v.qg.todo with
    | nil => simp [list] at front
    | cons x xs => exact ⟨xs, by simpa [list] using front⟩
  unfold State.adminRow
  rw [reloadEnd_idle idle]
  obtain running | inHalt := halted
  · simp [list, idle, awake, mayRun, running, check, opcode]
  · simp [list, idle, awake, mayRun, inHalt, check, opcode]

theorem adminRow_stalls_of_takes {s u : State} {t op : Nat} {b : Bytes} (h : s.takesAdmin t op b u)
    (f : Bytes → State → State) :
    actStalls t s (fun s => s.adminRow op f) = .next (f b u).stallClock.intPoll := by
  obtain ⟨v, acts, row⟩ := State.takesAdmin_row h f
  rw [actStalls_of_acts acts, row]

theorem exec_poolConfig_of_takes {s u : State} {t : Nat} {b : Bytes} (h : s.takesAdmin t 0x40 b u) (d : Bytes) :
    exec (.poolConfig t d) s = .next
      (if u.poolRecordStatus b d = 0 then
        ((regionNumbers.foldl State.spillUpdate (u.applyPoolRecord d)).noteAll.resumeAll).adminDone b 0 0
       else u.adminDone b (u.poolRecordStatus b d) 0).stallClock.intPoll :=
  adminRow_stalls_of_takes h fun b s =>
    let st := s.poolRecordStatus b d
    if st = 0 then
      ((regionNumbers.foldl State.spillUpdate (s.applyPoolRecord d)).noteAll.resumeAll).adminDone b 0 0
    else s.adminDone b st 0

theorem State.poolRecordStatus_format {s : State} {b d : Bytes}
    (bad : entLen b ≠ 256 ∨ slice d 0 8 ≠ asciiBytes "HYNUSPCF" ∨ leAt d 8 2 ≠ 1) : s.poolRecordStatus b d = 0x12 :=
  if_pos bad

theorem State.poolRecordStatus_passed {s : State} {b d : Bytes} (passed : s.poolRecordStatus b d = 0) :
    leAt d 10 2 ≠ 0 ∧ leAt d 10 2 < 8 ∧
      (bitOf (leAt d 10 2) 1 = true → leAt d 28 2 < leAt d 30 2 ∧ leAt d 30 2 ≤ 4096) := by
  unfold State.poolRecordStatus at passed
  dsimp only at passed
  split at passed
  · cases passed
  · split at passed
    · cases passed
    next reserved =>
      split at passed
      · cases passed
      next ranges =>
        split at passed
        · cases passed
        · split at passed
          · cases passed
          next some_ =>
            simp only [not_or] at reserved ranges
            obtain ⟨_, _, small, _⟩ := reserved
            obtain ⟨_, region, _⟩ := ranges
            exact ⟨some_, not_le.mp small, fun set => not_not.mp fun bad => region ⟨set, bad⟩⟩

theorem State.applyPoolRecord_eq (s : State) (d : Bytes) :
    let flags := leAt d 10 2
    s.applyPoolRecord d = { s with pool := { s.pool with
      split := if flags % 2 = 1 then (List.range 6).map fun k => leAt d (16 + 2 * k) 2 else s.pool.split,
      green := if flags / 2 % 2 = 1 then leAt d 28 2 else s.pool.green,
      amber := if flags / 2 % 2 = 1 then leAt d 30 2 else s.pool.amber,
      water := if flags / 4 % 2 = 1 then (List.range 12).map fun i =>
          (i, (leAt d (64 + 12 * i) 4, leAt d (68 + 12 * i) 4, leAt d (72 + 12 * i) 4))
        else s.pool.water } } := by
  have second (i : Nat) : 64 + 12 * i + 4 = 68 + 12 * i := by omega
  have third (i : Nat) : 64 + 12 * i + 8 = 72 + 12 * i := by omega
  simp only [State.applyPoolRecord, State.modPool, bitOf_iff, pow_zero, Nat.div_one, pow_one, water, Nat.mul_zero,
    Nat.mul_one, Nat.add_zero, second, third, show 4 * 2 = 8 from rfl, show 2 ^ 2 = 4 from rfl]

/-- Settles O27, by the status of the record. -/
theorem poolRecord : Obligations.PoolRecord := by
  refine ⟨fun s u t b d h passed => ?_, fun s u t b d h failed => ?_, fun u b d bad => ?_, fun u b d passed => ?_⟩
  · exact ⟨_, by rw [exec_poolConfig_of_takes h, if_pos passed], u.applyPoolRecord_eq d⟩
  · rw [exec_poolConfig_of_takes h, if_neg failed]
  · exact State.poolRecordStatus_format bad
  · obtain ⟨some_, small, region⟩ := State.poolRecordStatus_passed passed
    exact ⟨Nat.pos_of_ne_zero some_, small, fun set => region ((bitOf_iff _ 1).mpr set)⟩

end Sys2Proof.Machine

/-! ## Structure images (R51, R53, R54, R56) -/

namespace Sys2Proof.Machine

/-- While an admin command is taken the Steward runs, and no other command does. -/
theorem State.takesAdmin_idle {s u : State} {t op : Nat} {b : Bytes} (h : s.takesAdmin t op b u) :
    u.stw.restarting = false ∧ u.qg.run = none := by
  obtain ⟨v, _, idle, awake, _, _, _, _, _, rfl⟩ := h
  exact ⟨awake, idle⟩

/-- R51, R58: the refusal, if it comes from a check before the signature's. -/
def earlyRefusal (r : Option Refused) : Option Refused := r.filter fun r => !verified (some r)

theorem earlyRefusal_some (r : Refused) : earlyRefusal (some r) = if r.reason < 4 then some r else none := by
  simp [earlyRefusal, verified, Option.filter]

/-- What follows a refusal, or its absence. -/
def refusedOr (r : Option Refused) (refused : Refused → State) (passed : State) : State :=
  match r with
  | some r => refused r
  | none => passed

theorem exec_loadImage_of_takes {s u : State} {t : Nat} {b : Bytes} (h : s.takesAdmin t 0x08 b u) (data : Bytes) :
    exec (.loadImage t data) s = .next
      (refusedOr (earlyRefusal (u.loadRefusal (portRead (entLen b) data))) (u.refuseImage b)
        (u.pkAsk b .verify .sil [] (.verify (portRead (entLen b) data)))).intPoll :=
  adminRow_of_takes h fun b s =>
    let d := portRead (entLen b) data
    refusedOr (earlyRefusal (s.loadRefusal d)) (s.refuseImage b) (s.pkAsk b .verify .sil [] (.verify d))

/-! ### ACTIVATE_IMAGE (R53) -/

/-- R53: the state while an ACTIVATE_IMAGE waits for self-test. -/
def State.activating (s : State) (b : Bytes) : State :=
  (s.modSil fun x => { x with activating := true }).adminWaits b .selftest

theorem exec_activateImage_of_takes {s u : State} {t : Nat} {b : Bytes} (h : s.takesAdmin t 0x09 b u) :
    exec (.activateImage t) s = .next
      (if u.sil.staged.isNone || u.allTested then (u.activating b).activateCheck b else u.activating b).intPoll :=
  adminRow_of_takes h fun b s =>
    if s.sil.staged.isNone || s.allTested then (s.activating b).activateCheck b else s.activating b

/-- R52: a binding depends on the tiles alone. -/
theorem State.bindRegions_activating (s : State) (b : Bytes) (im : Image) (rs : List Nat) :
    (s.activating b).bindRegions im rs = s.bindRegions im rs := by
  induction rs with
  | nil => rfl
  | cons r rs ih =>
    simp only [State.bindRegions, ih]
    rfl

theorem State.activateRefusal_activating (s : State) (b : Bytes) (im : Image) :
    (s.activating b).activateRefusal im ((s.activating b).profileTooBig im) =
      s.activateRefusal im (s.profileTooBig im) := by
  have binds : (s.activating b).imgBinds im = s.imgBinds im := by
    unfold State.imgBinds State.bindAll
    rw [State.bindRegions_activating]
    rfl
  unfold State.activateRefusal
  rw [binds]
  rfl

theorem State.activateCheck_passed {s : State} {b : Bytes} {im : Image} (staged : s.sil.staged = some im)
    (passed : s.activateRefusal im (s.profileTooBig im) = none) :
    (s.activating b).activateCheck b =
      ((s.activating b).modSil fun x => { x with activating := true, actFailed := false }).adminWaits b .switch := by
  have staged' : (s.activating b).sil.staged = some im := staged
  unfold State.activateCheck
  rw [staged']
  dsimp only
  rw [State.activateRefusal_activating, passed]

theorem State.activateCheck_unstaged {s : State} {b : Bytes} (staged : s.sil.staged = none)
    (awake : s.stw.restarting = false) :
    let r : Refused := { reason := 0xF }
    (s.activating b).activateCheck b = { s with
      sil := { s.sil with reason := 0xF, section_ := r.section_, entry := r.entry % 65536, activating := false },
      qg := { s.qg with run := none, due := s.qg.due ++ [complOf b 0x40 r.result] } } := by
  intro r
  have staged' : (s.activating b).sil.staged = none := staged
  have refused : (s.activating b).activateCheck b = (s.activating b).refuseRun r := by
    unfold State.activateCheck
    rw [staged']
  rw [refused]
  exact State.finishAdmin_run (s := (s.activating b).modSil fun x =>
    { x with reason := r.reason, section_ := r.section_, entry := r.entry % 65536, activating := false }) rfl awake _ _

/-! ### IMAGE_SWITCH (R54) -/

/-- R54: the banks of role `c` after the switch to bank `v`. -/
def switchBank (im : Image) (v c : Nat) (b : RoleBanks) : RoleBanks :=
  let b := match im.micro.find? fun m => m.1 == c with
    | some m => b.write v (some m.2)
    | none => b
  { b with active := v, activeGen := 0, gen := 0, unswapped := if b.unswapped = some v then none else b.unswapped }

theorem switchBanks_eq (im : Image) (v : Nat) (banks : Tab RoleBanks) :
    switchBanks im v banks = (List.range 16).foldl (fun t c => Tab.put t c (switchBank im v c (Tab.getD t c {}))) banks :=
  rfl

theorem active_foldl_switchBank (im : Image) (v : Nat) {c : Nat} (cs : List Nat) (banks : Tab RoleBanks)
    (h : c ∈ cs ∨ (Tab.getD banks c {}).active = v) :
    (Tab.getD (cs.foldl (fun t c => Tab.put t c (switchBank im v c (Tab.getD t c {}))) banks) c {}).active = v := by
  induction cs generalizing banks with
  | nil => exact h.resolve_left (by simp)
  | cons d cs ih =>
    refine ih _ ?_
    by_cases same : c = d
    · subst same
      exact .inr (by rw [Tab.getD_put_same]; rfl)
    · rw [Tab.getD_put_other _ _ _ _ _ same]
      exact h.imp_left fun mem => (List.mem_cons.mp mem).resolve_left same

theorem active_switchBanks (im : Image) (v : Nat) (banks : Tab RoleBanks) {c : Nat} (role : c < 16) :
    (Tab.getD (switchBanks im v banks) c {}).active = v := by
  rw [switchBanks_eq]
  exact active_foldl_switchBank im v _ banks (.inl (List.mem_range.mpr role))

/-- R54: the image, its banks and its claims are in force; tiles and regions follow. -/
def State.switchedSil (s : State) (im : Image) (host : Bool) (bind gs : List (Nat × Nat)) : State :=
  (s.switchClaims gs).modSil fun x =>
    { x with active := some im, actHost := host, staged := if host then none else x.staged, bind := tabOf bind,
             bankV := 1 - s.sil.bankV, banks := switchBanks im (1 - s.sil.bankV) x.banks,
             locked := x.locked || host, activating := false, actFailed := false, progDigest := im.digest }

theorem switchedSil_only (s : State) (im : Image) (host : Bool) (bind gs : List (Nat × Nat)) :
    s.changesOnly [.time, .sil] (s.switchedSil im host bind gs) :=
  only_after (modSil_only _ _) (by simp) (only_after (modTime_only _ _) (by simp) (only_mono (modSil_only s _) (by simp)))

theorem State.switchedSil_sil (s : State) (im : Image) (bind gs : List (Nat × Nat)) :
    let x := (s.switchedSil im true bind gs).sil
    x.active = some im ∧ x.staged = none ∧ x.locked = true ∧ x.bankV = 1 - s.sil.bankV ∧ x.progDigest = im.digest ∧
      ∀ c < 16, (Tab.getD x.banks c {}).active = 1 - s.sil.bankV := by
  unfold State.switchedSil
  rw [State.modSil_sil]
  dsimp only
  exact ⟨rfl, rfl, Bool.or_true _, rfl, rfl, fun c role => active_switchBanks im _ _ role⟩

theorem tileBindings_only (s : State) (im : Image) (bind : List (Nat × Nat)) :
    s.changesOnly [.tiles] (s.tileBindings im bind) := by
  refine only_foldl (fun s n => ?_) _ s
  dsimp only
  split
  · exact only_refl _ _
  · split <;> exact modTile_only s _ _

theorem shiftUpdate_only (s : State) : s.changesOnly [.runs] s.shiftUpdate := by
  intro p hp
  cases p <;> first | rfl | simp at hp

theorem switchTo_follows (s : State) (im : Image) (host : Bool) (bind gs : List (Nat × Nat)) :
    (s.switchedSil im host bind gs).changesOnly [.regions, .tiles, .pool, .runs] (s.switchTo im host bind gs) := by
  refine only_after (only_foldl (fun s r => spillUpdate_only s r) _ _) (by simp) ?_
  refine only_after (shiftUpdate_only _) (by simp) ?_
  refine only_after (modPool_only _ _) (by simp) ?_
  refine only_after (only_foldl (fun s r => modRegion_only s r _) _ _) (by simp) ?_
  exact only_mono (tileBindings_only _ im bind) (by simp)

/-- R54: the new image is in force, and its AUDIT record is made. -/
def State.switchedOver (s : State) (im : Image) (bind gs : List (Nat × Nat)) : State :=
  let w := (s.switchTo im true bind gs).record 4 0x0502 0 (im.digest.take 8)
  if w.pwr.phase = .ready then w.setPhase .full else w

theorem switchedOver_follows (s : State) (im : Image) (bind gs : List (Nat × Nat)) :
    (s.switchedSil im true bind gs).changesOnly [.pwr, .regions, .tiles, .erw, .pool, .runs]
      (s.switchedOver im bind gs) := by
  have recorded : (s.switchedSil im true bind gs).changesOnly [.pwr, .regions, .tiles, .erw, .pool, .runs]
      ((s.switchTo im true bind gs).record 4 0x0502 0 (im.digest.take 8)) :=
    only_after (record_only _ _ _ _ _) (by simp) (only_mono (switchTo_follows s im true bind gs) (by simp))
  unfold State.switchedOver
  dsimp only
  split
  · exact only_after (modPwr_only _ _) (by simp) recorded
  · exact recorded

theorem State.waiting_of_run {s : State} {b : Bytes} {w : AdminWait} (run : s.qg.run = some ⟨b, w⟩) :
    s.waiting = some w := by
  simp [State.waiting, run]

theorem State.imageSwitch_done {s : State} {b : Bytes} {im : Image} {bind gs : List (Nat × Nat)}
    (run : s.qg.run = some ⟨b, .switch⟩) (staged : s.sil.staged = some im) (awake : s.stw.restarting = false)
    (fits : s.sil.actFailed = false) (bound : s.bindAll im = .ok bind)
    (granted : grantClaims s.heldByQueue im.claims 0 [] = .ok gs) :
    s.imageSwitch = (s.switchedOver im bind gs).finishAdmin 0 0 := by
  unfold State.imageSwitch
  simp only [State.waiting_of_run run, staged, awake, fits, bound, granted, Bool.false_eq_true, if_false]
  rfl

theorem State.imageSwitch_fails {s : State} {b : Bytes} {im : Image} (run : s.qg.run = some ⟨b, .switch⟩)
    (staged : s.sil.staged = some im) (awake : s.stw.restarting = false)
    (unfit : s.sil.actFailed = true ∨ ∃ r, s.bindAll im = .error r ∨ grantClaims s.heldByQueue im.claims 0 [] = .error r) :
    s.imageSwitch = s.activateFails := by
  unfold State.imageSwitch
  simp only [State.waiting_of_run run, staged, awake, Bool.false_eq_true, if_false]
  split
  · rfl
  next fits =>
    obtain ⟨r, unbound | refused⟩ := unfit.resolve_left fits
    · rw [unbound]
    · rw [refused]
      cases s.bindAll im <;> rfl

theorem State.activateFails_of_run {s : State} {b : Bytes} (run : s.qg.run = some ⟨b, .switch⟩)
    (awake : s.stw.restarting = false) :
    s.activateFails = { s with
      sil := { s.sil with activating := false, actFailed := false },
      qg := { s.qg with run := none, due := s.qg.due ++ [complOf b 0x70 0] } } :=
  State.finishAdmin_run (s := s.modSil fun x => { x with activating := false, actFailed := false }) run awake 0x70 0

theorem exec_imageSwitch_of_acts {s u : State} {t : Nat} (h : s.actsAt t u) :
    exec (.imageSwitch t) s = .next u.imageSwitch.intPoll :=
  act_of_acts h fun s => s.imageSwitch

theorem exec_imageSwitch_fails {s u : State} {t : Nat} {b : Bytes} {im : Image} (h : s.actsAt t u)
    (run : u.qg.run = some ⟨b, .switch⟩) (staged : u.sil.staged = some im) (awake : u.stw.restarting = false)
    (unfit : u.sil.actFailed = true ∨ ∃ r, u.bindAll im = .error r ∨ grantClaims u.heldByQueue im.claims 0 [] = .error r) :
    ∃ w : State, exec (.imageSwitch t) s = .next w.intPoll ∧ w.sil.active = u.sil.active ∧ w.sil.staged = some im ∧
      w.qg.run = none ∧ w.qg.due = u.qg.due ++ [complOf b 0x70 0] := by
  refine ⟨u.activateFails, ?_, ?_⟩
  · rw [exec_imageSwitch_of_acts h, State.imageSwitch_fails run staged awake unfit]
  · rw [State.activateFails_of_run run awake]
    exact ⟨rfl, staged, rfl, rfl⟩

/-- Settles O28: the checks of each command, and what the switch puts in force. -/
theorem imageCommands : Obligations.ImageCommands := by
  refine ⟨?_, ?_, ?_, ?_, fun u b r => rfl, ?_, ?_, ?_, ?_, ?_⟩
  · intro s u t b data h d
    rw [exec_loadImage_of_takes h]
    change Host.Outcome.next (refusedOr (earlyRefusal (u.loadRefusal d)) _ _).intPoll = _
    cases u.loadRefusal d with
    | none => rfl
    | some r =>
      rw [earlyRefusal_some]
      dsimp only
      by_cases early : r.reason < 4
      · rw [if_pos early, if_pos early]
        rfl
      · rw [if_neg early, if_neg early]
        rfl
  · intro u b d passed im
    unfold State.imageVerified
    simp only [passed, Bool.false_eq_true, if_false]
    rfl
  · intro u b d r refused
    unfold State.imageVerified
    simp only [refused, Bool.false_eq_true, if_false]
    rfl
  · exact fun u b d => rfl
  · intro s u t b im h staged tested passed
    refine ⟨(u.activating b).activateCheck b, ?_, ?_⟩
    · rw [exec_activateImage_of_takes h, if_pos (by simp [tested])]
    · rw [State.activateCheck_passed staged passed]
      refine ⟨rfl, rfl, ?_⟩
      exact fun p hp => by cases p <;> first | rfl | simp at hp
  · intro s u t b h staged
    refine ⟨(u.activating b).activateCheck b, ?_, ?_⟩
    · rw [exec_activateImage_of_takes h, if_pos (by simp [staged])]
    · rw [State.activateCheck_unstaged staged (State.takesAdmin_idle h).1]
      exact ⟨rfl, rfl, rfl, by simp [complOf]⟩
  · intro s u t b im bind gs h run staged awake fits bound granted
    have after := switchedOver_follows u im bind gs
    have before := switchedSil_only u im true bind gs
    have sil : (u.switchedOver im bind gs).sil = (u.switchedSil im true bind gs).sil := after .sil (by simp)
    have runs : (u.switchedOver im bind gs).qg.run = some ⟨b, .switch⟩ := by
      rw [show (u.switchedOver im bind gs).qg = u.qg from (after .qg (by simp)).trans (before .qg (by simp)), run]
    have runs' : (u.switchedOver im bind gs).stw.restarting = false := by
      rw [show (u.switchedOver im bind gs).stw = u.stw from (after .stw (by simp)).trans (before .stw (by simp)), awake]
    refine ⟨(u.switchedOver im bind gs).finishAdmin 0 0, ?_, ?_⟩
    · rw [exec_imageSwitch_of_acts h, State.imageSwitch_done run staged awake fits bound granted]
    · rw [State.finishAdmin_run runs runs']
      obtain ⟨active, staged, locked, bankV, progDigest, banks⟩ := u.switchedSil_sil im bind gs
      rw [← sil] at active staged locked bankV progDigest banks
      generalize u.switchedOver im bind gs = w at *
      exact ⟨active, staged, locked, bankV, progDigest, banks, rfl, List.mem_append_right _ (List.mem_singleton_self _)⟩
  · intro s u t b im h run staged awake failed
    exact exec_imageSwitch_fails h run staged awake (.inl failed)
  · intro s u t b im r h run staged awake _ unfit
    exact exec_imageSwitch_fails h run staged awake (.inr ⟨r, unfit⟩)

end Sys2Proof.Machine

/-! ## Microcode reloads (R58, R59, R61, R64) -/

namespace Sys2Proof.Machine

theorem exec_reloadMicrocode_of_takes {s u : State} {t : Nat} {b : Bytes} (h : s.takesAdmin t 0x0A b u) (data : Bytes) :
    exec (.reloadMicrocode t data) s = .next
      (refusedOr (earlyRefusal (u.reloadRefusal (entLen b) (portRead (min (entLen b) 67108864) data))) (u.refuse b)
        (u.pkAsk b .verify .sil [] (.verify (portRead (min (entLen b) 67108864) data)))).intPoll :=
  adminRow_of_takes h fun b s =>
    let d := portRead (min (entLen b) 67108864) data
    refusedOr (earlyRefusal (s.reloadRefusal (entLen b) d)) (s.refuse b) (s.pkAsk b .verify .sil [] (.verify d))

/-- R58: of a record whose other checks pass only the encoding of its code is left to refuse. -/
theorem State.reloadRefusal_of_form {s : State} {len : Nat} {d : Bytes} (length : len = mcEnd d + 128)
    (magic : slice d 0 8 = asciiBytes "HYNUSMCR") (bank : mcBank d ≤ 1) (zero10 : allZero (slice d 10 2) = true)
    (zero20 : allZero (slice d 20 12) = true) (zero80 : allZero (slice d 80 48) = true)
    (zeroEnd : allZero (slice d (mcEnd d + 96) 32) = true)
    (signed : imgSigned s.sil.imageKeys (leAt d 16 4) (d.take (mcEnd d)) (slice d (mcEnd d) 128) = none)
    (role : bears (mcRole d) = true) (size : mcLen d ≤ 32768)
    (image : s.sil.active.map Image.digest = some (slice d 32 48)) (tiles : s.tileCount (mcRole d) ≠ 0) :
    s.reloadRefusal len d = if microcodeOk (slice d 128 (mcLen d)) = true then none else some { reason := 0xC } := by
  unfold State.reloadRefusal
  simp only [length, magic, bank, zero10, zero20, zero80, zeroEnd, signed, role, size, image, tiles, and_self, if_true,
    if_false, Option.map_none, decide_true, Bool.and_true, Bool.true_and, firstSome]
  split <;> rfl

theorem State.recordVerified_refused {s : State} {b d : Bytes} {r : Refused}
    (refused : s.reloadRefusal (entLen b) d = some r) : s.recordVerified b d false = s.endAdmin.refuse b r := by
  unfold State.recordVerified
  simp only [refused, Bool.false_eq_true, if_false]

theorem State.recordVerified_passed {s : State} {b d : Bytes} (passed : s.reloadRefusal (entLen b) d = none) :
    s.recordVerified b d false =
      if s.bankUsed (mcRole d) (mcBank d) then s.endAdmin.adminDone b 0x45 0
      else (s.clearBank d).adminWaits b (.reload d) := by
  unfold State.recordVerified
  simp only [passed, Bool.false_eq_true, if_false]

/-! ### The banks of a role -/

theorem RoleBanks.write_eq (x : RoleBanks) (k : Nat) (code : Option Bytes) :
    (if k = 0 then (x.write k code).bank0 = code ∧ (x.write k code).bank1 = x.bank1
     else (x.write k code).bank1 = code ∧ (x.write k code).bank0 = x.bank0) ∧ (x.write k code).active = x.active := by
  unfold RoleBanks.write
  split <;> exact ⟨⟨rfl, rfl⟩, rfl⟩

theorem State.banks_of_put {s w : State} {c : Nat} {x : RoleBanks} (h : w.sil.banks = Tab.put s.sil.banks c x) :
    w.banks c = x ∧ ∀ k, k ≠ c → w.banks k = s.banks k := by
  unfold State.banks
  rw [h]
  exact ⟨Tab.getD_put_same .., fun k other => Tab.getD_put_other _ _ _ _ _ other⟩

theorem State.clearBank_banks (s : State) (d : Bytes) :
    let c := mcRole d
    let x : RoleBanks := { (s.banks c).write (mcBank d) none with gen := (s.banks c).activeGen, unswapped := none }
    (s.clearBank d).sil.banks = Tab.put s.sil.banks c x := rfl

/-- R58, R61: what the end of a reload makes of the image's state. -/
theorem State.reload_sil (s : State) (d : Bytes) :
    let c := mcRole d
    let x : RoleBanks := { (s.banks c).write (mcBank d) (some (slice d 128 (mcLen d))) with
      gen := s.sil.nextGen, unswapped := some (mcBank d) }
    (s.reload d).sil = { s.sil with
      banks := Tab.put s.sil.banks c x, nextGen := s.sil.nextGen + 1,
      progDigest := sha384 (s.sil.progDigest ++ sha384 d) } :=
  record_only _ _ _ _ _ .sil (by simp)

theorem State.reloadEnd_of_reload {s : State} {b d : Bytes} (run : s.qg.run = some ⟨b, .reload d⟩)
    (awake : s.stw.restarting = false) (running : s.faults.halt = false) :
    s.reloadEnd = { s.reload d with qg := { s.qg with run := none, due := s.qg.due ++ [complOf b 0 0] } } := by
  have only := reload_only s d
  have qg : (s.reload d).qg = s.qg := s.reload_qg d
  have stw : (s.reload d).stw.restarting = false := by rw [show (s.reload d).stw = s.stw from only .stw (by simp), awake]
  unfold State.reloadEnd
  rw [State.waiting_of_run run]
  dsimp only
  rw [awake, running, if_neg (by simp), State.finishAdmin_run (qg ▸ run) stw, qg]

theorem State.reloadEnd_of_none {s : State} (none_ : ∀ b d, s.qg.run ≠ some ⟨b, .reload d⟩) : s.reloadEnd = s := by
  unfold State.reloadEnd
  split
  next d waiting =>
    simp only [State.waiting, Option.map_eq_some_iff] at waiting
    obtain ⟨⟨b, _⟩, run, rfl⟩ := waiting
    exact absurd run (none_ b d)
  · rfl

/-- Settles O29: the checks of the record, the bank that clears, and the end of the write. -/
theorem microcodeReload : Obligations.MicrocodeReload := by
  refine ⟨?_, ?_, ?_, fun u none_ => State.reloadEnd_of_none none_⟩
  · intro s u t b data h d
    rw [exec_reloadMicrocode_of_takes h]
    change Host.Outcome.next (refusedOr (earlyRefusal (u.reloadRefusal (entLen b) d)) _ _).intPoll = _
    cases u.reloadRefusal (entLen b) d with
    | none => rfl
    | some r =>
      rw [earlyRefusal_some]
      dsimp only
      by_cases early : r.reason < 4
      · rw [if_pos early, if_pos early]
        rfl
      · rw [if_neg early, if_neg early]
        rfl
  · intro u b d c n length magic bank zero10 zero20 zero80 zeroEnd signed role size image tiles w
    have refusal := State.reloadRefusal_of_form length magic bank zero10 zero20 zero80 zeroEnd signed role size image tiles
    by_cases ok : microcodeOk (slice d 128 (mcLen d)) = true
    · rw [if_pos ok] at refusal
      have passed : w = _ := State.recordVerified_passed refusal
      rw [if_neg (by simp [ok])]
      by_cases used : u.bankUsed c (mcBank d) = true
      · rw [if_pos used, passed, if_pos used]
        rfl
      · rw [if_neg used, passed, if_neg used]
        obtain ⟨same, other⟩ := State.banks_of_put (w := (u.clearBank d).adminWaits b (.reload d)) (u.clearBank_banks d)
        obtain ⟨written, active⟩ := (u.banks c).write_eq (mcBank d) none
        exact ⟨rfl, rfl, by rw [same]; exact written, by rw [same]; exact active, other⟩
    · rw [if_neg ok] at refusal
      have refused : w = _ := State.recordVerified_refused refusal
      rw [if_pos (by simpa using ok), refused]
      exact ⟨rfl, rfl, rfl, rfl⟩
  · intro u b d run awake running bank w c
    have ended : w = _ := State.reloadEnd_of_reload run awake running
    have sil : w.sil = _ := (congrArg State.sil ended).trans (u.reload_sil d)
    obtain ⟨same, other⟩ := State.banks_of_put (congrArg Sil.banks sil)
    obtain ⟨written, active⟩ := (u.banks c).write_eq (mcBank d) (some (slice d 128 (mcLen d)))
    refine ⟨congrArg Sil.progDigest sil, by rw [same]; exact written, by rw [same]; exact active, other, ?_, ?_⟩
    · rw [ended]
    · rw [ended]

end Sys2Proof.Machine

/-! ## Presence: fence, lift and debounce (R88 to R93, R96) -/

namespace Sys2Proof.Machine

/-! ### Steps over the labels of a slot -/

/-- A run of steps, each on its own label, leaves a label that is not among theirs. -/
theorem State.label_foldl_other {f : State → Nat → State}
    (own : ∀ (s : State) l k, k ≠ l → (f s l).label k = s.label k) {k : Nat} {ls : List Nat} (out : k ∉ ls) (s : State) :
    (ls.foldl f s).label k = s.label k := by
  induction ls generalizing s with
  | nil => rfl
  | cons l ls ih =>
    rw [List.foldl_cons, ih (fun h => out (List.mem_cons_of_mem _ h)), own _ _ _ (List.ne_of_not_mem_cons out)]

/-- What a step makes of its label stands after a run of such steps, if a second step on that label keeps it. -/
theorem State.label_foldl_mem {f : State → Nat → State}
    (own : ∀ (s : State) l k, k ≠ l → (f s l).label k = s.label k) {k : Nat} {x : Label} {Q : Label → Prop}
    (makes : ∀ s : State, s.label k = x → Q ((f s k).label k)) (keeps : ∀ s : State, Q (s.label k) → Q ((f s k).label k))
    {ls : List Nat} (mem : k ∈ ls) {s : State} (start : s.label k = x) : Q ((ls.foldl f s).label k) := by
  have kept : ∀ (ls : List Nat) (s : State), Q (s.label k) → Q ((ls.foldl f s).label k) := by
    intro ls
    induction ls with
    | nil => exact fun _ h => h
    | cons l ls ih =>
      intro s h
      refine ih _ ?_
      by_cases same : k = l
      · exact same ▸ keeps s h
      · rw [own _ _ _ same]
        exact h
  induction ls generalizing s with
  | nil => cases mem
  | cons l ls ih =>
    by_cases same : k = l
    · exact kept ls _ (same ▸ makes s start)
    · exact ih ((List.mem_cons.mp mem).resolve_left same) (by rw [own _ _ _ same, start])

/-! ### Presence turns absent (R88, R91) -/

/-- Of the custody block a fence changes the labels and the events alone. -/
theorem State.fenceOne_cus (s : State) (src slot l : Nat) :
    ∃ ls e, (s.fenceOne src slot l).cus = { s.cus with labels := ls, evt := e } := by
  unfold State.fenceOne
  split
  · split
    · exact ⟨_, _, rfl⟩
    · unfold State.openFails
      rw [State.finishAdmin_cus, State.custodyRecord_cus]
      exact ⟨_, _, rfl⟩
  · rw [State.fenceAdmin_cus, State.custodyRecord_cus]
    exact ⟨_, _, rfl⟩
  · rw [State.fenceAdmin_cus, State.custodyRecord_cus]
    exact ⟨_, _, rfl⟩
  · exact ⟨_, _, rfl⟩

theorem State.foldl_fenceOne_cus (src slot : Nat) (ls : List Nat) (s : State) :
    ∃ xs e, (ls.foldl (fun s l => s.fenceOne src slot l) s).cus = { s.cus with labels := xs, evt := e } := by
  induction ls generalizing s with
  | nil => exact ⟨_, _, rfl⟩
  | cons l ls ih =>
    obtain ⟨xs, e, fenced⟩ := s.fenceOne_cus src slot l
    obtain ⟨ys, d, rest⟩ := ih (s.fenceOne src slot l)
    exact ⟨ys, d, by rw [List.foldl_cons, rest, fenced]⟩

theorem bitOf_toNat {w : Nat} (v : BitVec w) (i : Nat) : bitOf v.toNat i = v.getLsbD i := by
  simp [bitOf, BitVec.getLsbD, Nat.testBit_eq_decide_div_mod_eq, Nat.shiftRight_eq_div_pow, beq_eq_decide]

theorem bitOf_clearBit (v : BitVec 8) {i : Nat} (slot : i < 8) : bitOf (clearBit v i).toNat i = false := by
  rw [bitOf_toNat, clearBit, BitVec.getLsbD_and, BitVec.getLsbD_not, BitVec.getLsbD_ofNat, Nat.testBit_two_pow_self]
  simp [slot]

theorem bitOf_setBit (v : BitVec 8) {i : Nat} (slot : i < 8) : bitOf (setBit v i).toNat i = true := by
  rw [bitOf_toNat, setBit, BitVec.getLsbD_or, BitVec.getLsbD_ofNat, Nat.testBit_two_pow_self]
  simp [slot]

/-- R88: the slot reads absent, and its pending offers are gone. -/
def State.absent (s : State) (slot : Nat) : State :=
  s.modCus fun c =>
    { c with present := clearBit c.present slot, offers := c.offers.filter fun o => offSlot o.payload != slot }

/-- R88: the matters of an absent slot are fenced. -/
def State.slotFenced (s : State) (slot : Nat) : State :=
  ((s.absent slot).slotLabels slot fun x => x.state.live).foldl (fun s l => s.fenceOne 0 slot l) (s.absent slot)

theorem State.presenceAbsent_eq {s : State} {slot : Nat} (present : s.isPresent slot = true) :
    let v := s.slotFenced slot
    s.presenceAbsent slot =
      if (v.slotLabels slot fun x => x.state == .fenced) = [] ∨ (Tab.find v.cus.windows slot).isSome = true then v
      else v.modCus fun c => { c with windows := Tab.put c.windows slot (v.now, c.debounce.toNat * 1000) } := by
  unfold State.presenceAbsent
  rw [if_neg (by simp [present])]
  rfl

theorem State.slotFenced_other {s : State} {slot l : Nat} (other : (s.label l).slot ≠ slot) :
    (s.slotFenced slot).label l = s.label l := by
  have out : l ∉ (s.absent slot).slotLabels slot fun x => x.state.live := fun mem =>
    other (((s.absent slot).mem_slotLabels slot l _ rfl).mp mem).1
  exact State.label_foldl_other (fun s l k h => State.label_fenceOne_other s 0 slot l k h) out _

theorem State.slotFenced_live {s : State} {slot l : Nat} (mine : (s.label l).slot = slot)
    (live : (s.label l).state.live = true) {Q : Label → Prop}
    (makes : ∀ v : State, v.label l = s.label l → Q ((v.fenceOne 0 slot l).label l))
    (keeps : ∀ v : State, Q (v.label l) → Q ((v.fenceOne 0 slot l).label l)) : Q ((s.slotFenced slot).label l) :=
  State.label_foldl_mem (fun s l k h => State.label_fenceOne_other s 0 slot l k h) makes keeps
    (((s.absent slot).mem_slotLabels slot l _ rfl).mpr ⟨mine, live⟩) rfl

theorem State.slotFenced_open {s : State} {slot l : Nat} (mine : (s.label l).slot = slot)
    (open_ : (s.label l).state = .opened ∨ (s.label l).state = .closing) :
    ((s.slotFenced slot).label l).slot = slot ∧ ((s.slotFenced slot).label l).state = .fenced := by
  refine State.slotFenced_live (Q := fun y => y.slot = slot ∧ y.state = .fenced) mine ?_ (fun v at_ => ?_) fun v fenced => ?_
  · obtain h | h := open_ <;> rw [h] <;> rfl
  · rw [v.label_fenceOne_same, at_]
    obtain h | h := open_ <;> rw [h] <;> exact ⟨mine, rfl⟩
  · rw [v.label_fenceOne_same, fenced.2]
    exact fenced

theorem State.slotFenced_opening {s : State} {slot l : Nat} (mine : (s.label l).slot = slot)
    (opening : (s.label l).state = .opening) : (s.slotFenced slot).label l = { s.label l with edge := true } := by
  refine State.slotFenced_live (Q := fun y => y = { s.label l with edge := true }) mine (by rw [opening]; rfl)
    (fun v at_ => ?_) fun v at_ => ?_
  · rw [v.label_fenceOne_same, at_, opening]
    rfl
  · rw [v.label_fenceOne_same, at_]
    dsimp only
    rw [opening]
    rfl

/-! ### A lift (R92, R96) -/

theorem writeManifest_only (s : State) (n : Nat) (m : Manifest) :
    s.changesOnly [.pwr, .regions, .erw, .pke, .qg, .det, .pool, .runs, .jobs, .outputs] (s.writeManifest n m) := by
  unfold State.writeManifest
  exact only_after (settleRun_only _ _) (by simp) (only_after (emit_only _ _) (by simp) (only_mono (modPke_only s _) (by simp)))

theorem heldManifests_only (s : State) (l : Nat) :
    s.changesOnly [.pwr, .regions, .erw, .pke, .qg, .det, .pool, .runs, .jobs, .outputs] (s.heldManifests l) := by
  unfold State.heldManifests
  exact only_foldl (fun s (m : Nat × Manifest) => writeManifest_only s m.1 m.2) _ s

theorem State.label_heldManifests (s : State) (l k : Nat) : (s.heldManifests l).label k = s.label k :=
  State.label_of_cus (heldManifests_only s l .cus (by simp)) k

theorem State.label_closeCheck_other (s : State) (l k : Nat) (h : k ≠ l) : (s.closeCheck l).label k = s.label k := by
  unfold State.closeCheck
  split
  · exact s.label_eraseOne_other 4 l k h
  · rfl

/-- R96: a label is as it was after the check, or was CLOSING and is ERASING. -/
theorem State.label_closeCheck_same (s : State) (l : Nat) : (s.closeCheck l).label l = s.label l ∨
    ((s.label l).state = .closing ∧ ((s.closeCheck l).label l).state = .erasing) := by
  unfold State.closeCheck
  split
  next closing =>
    refine .inr ⟨closing.1, ?_⟩
    rw [s.label_eraseOne_same, if_pos (.inr (.inr closing.1))]
  · exact .inl rfl

/-- R92, R96: what a lift does to one label. -/
def State.liftLabel (s : State) (slot l : Nat) : State := ((s.liftOne slot l).heldManifests l).closeCheck l

theorem State.label_liftLabel_other (s : State) (slot l k : Nat) (h : k ≠ l) : (s.liftLabel slot l).label k = s.label k := by
  unfold State.liftLabel
  rw [State.label_closeCheck_other _ _ _ h, State.label_heldManifests, State.label_liftOne_other _ _ _ _ h]

/-- R92: the state of a label once its fence has lifted, by whether it was CLOSING. -/
def lifted (wasClosing : Bool) (st : LabelState) : Prop :=
  if wasClosing = true then st = .closing ∨ st = .erasing else st = .opened

theorem State.closeCheck_lifted {s : State} {l : Nat} {c : Bool} (h : lifted c (s.label l).state) :
    lifted c ((s.closeCheck l).label l).state := by
  obtain same | ⟨closing, erasing⟩ := s.label_closeCheck_same l
  · rwa [same]
  · rw [closing] at h
    cases c
    · cases h
    · exact .inr erasing

theorem State.liftLabel_fenced {s : State} {slot l : Nat} (fenced : (s.label l).state = .fenced) :
    lifted (s.label l).wasClosing ((s.liftLabel slot l).label l).state := by
  refine State.closeCheck_lifted ?_
  rw [State.label_heldManifests, State.label_liftOne_same, if_pos fenced]
  cases (s.label l).wasClosing
  · rfl
  · exact .inl rfl

theorem State.liftLabel_lifted {s : State} {slot l : Nat} {c : Bool} (h : lifted c (s.label l).state) :
    lifted c ((s.liftLabel slot l).label l).state := by
  have open_ : (s.label l).state ≠ .fenced := by
    intro fenced
    rw [fenced] at h
    cases c
    · cases h
    · obtain h | h := h <;> cases h
  refine State.closeCheck_lifted ?_
  rw [State.label_heldManifests, State.label_liftOne_same, if_neg open_]
  exact h

/-! ### PROBE_ACK and the end of the window (R91 to R93) -/

theorem State.label_answered (s : State) (type seq : Nat) (p : Bytes) (r l : Nat) :
    (s.answered type seq p r).label l = s.label l := rfl

theorem exec_probeAck_of_hears {s u : State} {t : Nat} {seq : Byte} {p : Bytes} (h : s.actsAt t u)
    (new : u.hears 0x06 seq.toNat p) (length : p.length = 10) (slot : leAt p 0 1 ≤ 7) :
    exec (.probeAck t seq p) s = .next ((u.answered 0x06 seq.toNat p 0).probeAck p).intPoll := by
  have run := act_of_acts h fun s => s.receive 0x06 seq.toNat p
    (fun _ => if p.length = 10 ∧ leAt p 0 1 ≤ 7 then 0 else 2) (fun s => s.probeAck p) id
  rw [State.receive_new new, if_pos (if_pos ⟨length, slot⟩)] at run
  exact run

theorem State.probeAck_stranger {s : State} {p : Bytes} (stranger : ∀ l, (s.label l).slot = leAt p 0 1 →
    (s.label l).state.live = true → (s.label l).token ≠ leAt p 1 8) :
    s.probeAck p = s.record 3 0x0406 2 (leBytes 1 (leAt p 0 1) ++ leBytes 1 0 ++ leBytes 8 (leAt p 1 8)) := by
  refine if_pos (List.eq_nil_iff_forall_not_mem.mpr fun l mem => ?_)
  obtain ⟨slot, mine⟩ := (s.mem_slotLabels _ l _ rfl).mp mem
  rw [Bool.and_eq_true, beq_iff_eq] at mine
  exact stranger l slot mine.1 mine.2

/-- R92: the fences of a slot's matters with token `token` have lifted. -/
def State.lift (s : State) (slot token : Nat) : State :=
  (s.slotLabels slot fun x => x.state == .fenced && x.token == token).foldl (fun s l => s.liftLabel slot l) s

theorem State.probeAck_cases {s : State} {p : Bytes} (seated : leAt p 9 1 = 1) (inside : s.inWindow (leAt p 0 1) = true) :
    (∀ l, (s.probeAck p).label l = (s.lift (leAt p 0 1) (leAt p 1 8)).label l) ∨
      ((∀ l, (s.probeAck p).label l = s.label l) ∧ ∀ l, (s.label l).slot = leAt p 0 1 →
        (s.label l).state.live = true → (s.label l).token ≠ leAt p 1 8) := by
  unfold State.probeAck
  dsimp only
  split
  next none_ =>
    refine .inr ⟨State.label_of_cus (State.custodyRecord_cus ..), fun l slot live token => ?_⟩
    exact List.eq_nil_iff_forall_not_mem.mp none_ l ((s.mem_slotLabels _ l _ rfl).mpr ⟨slot, by simp [live, token]⟩)
  · rw [if_neg (by simp [seated, inside])]
    left
    intro l
    split <;> rfl

theorem State.lift_mine {s : State} {slot token l : Nat} (mine : (s.label l).slot = slot)
    (fenced : (s.label l).state = .fenced) (opener : (s.label l).token = token) :
    lifted (s.label l).wasClosing ((s.lift slot token).label l).state :=
  State.label_foldl_mem (Q := fun y => lifted (s.label l).wasClosing y.state)
    (fun s l k h => s.label_liftLabel_other slot l k h)
    (fun v at_ => at_ ▸ State.liftLabel_fenced (by rw [at_]; exact fenced)) (fun v h => State.liftLabel_lifted h)
    ((s.mem_slotLabels slot l _ rfl).mpr ⟨mine, by simp [fenced, opener]⟩) rfl

theorem State.lift_other {s : State} {slot token l : Nat} (other : (s.label l).token ≠ token) :
    (s.lift slot token).label l = s.label l := by
  refine State.label_foldl_other (fun s l k h => s.label_liftLabel_other slot l k h) (fun mem => ?_) s
  obtain ⟨_, mine⟩ := (s.mem_slotLabels slot l _ rfl).mp mem
  rw [Bool.and_eq_true, beq_iff_eq, beq_iff_eq] at mine
  exact other mine.2

/-- R93: the labels of a slot that are still fenced are erased. -/
def State.eraseSlot (s : State) (slot : Nat) : State :=
  (s.slotLabels slot fun x => x.state == .fenced).foldl (fun s l => s.eraseOne 0 l) s

theorem State.windowEnd_over {s : State} {slot : Nat} {w : Nat × Nat} (window : Tab.find s.cus.windows slot = some w)
    (past : w.1 + w.2 ≤ s.now) :
    s.windowEnd slot = (s.modCus fun c => { c with windows := Tab.del c.windows slot }).eraseSlot slot := by
  unfold State.windowEnd
  rw [window]
  exact if_neg (not_lt.mpr past)

theorem State.eraseSlot_mine {s : State} {slot l : Nat} (mine : (s.label l).slot = slot)
    (fenced : (s.label l).state = .fenced) :
    let x := (s.eraseSlot slot).label l
    x.state = .erasing ∧ x.kData = [] ∧ x.kMem = [] ∧ x.kNoise = [] := by
  refine State.label_foldl_mem (Q := fun x => x.state = .erasing ∧ x.kData = [] ∧ x.kMem = [] ∧ x.kNoise = [])
    (fun s l k h => s.label_eraseOne_other 0 l k h) (fun v at_ => ?_) (fun v gone => ?_)
    ((s.mem_slotLabels slot l _ rfl).mpr ⟨mine, by simp [fenced]⟩) rfl
  · rw [v.label_eraseOne_same, if_pos (.inr (.inl (by rw [at_, fenced])))]
    exact ⟨rfl, rfl, rfl, rfl⟩
  · rw [v.label_eraseOne_same, if_neg (by simp [gone.1])]
    exact gone

theorem State.eraseSlot_other {s : State} {slot l : Nat} (other : (s.label l).slot ≠ slot) :
    (s.eraseSlot slot).label l = s.label l :=
  State.label_foldl_other (fun s l k h => s.label_eraseOne_other 0 l k h)
    (fun mem => other ((s.mem_slotLabels slot l _ rfl).mp mem).1) s

/-- Settles O32, label by label: the steps over a slot's labels act on each of them alone. -/
theorem presenceRules : Obligations.PresenceRules := by
  refine ⟨?_, ?_, ?_, ?_, ?_⟩
  · intro s u t slot h present
    obtain ⟨ls, e, cus⟩ := (u.absent slot.toNat).foldl_fenceOne_cus 0 slot.toNat
      ((u.absent slot.toNat).slotLabels slot.toNat fun x => x.state.live)
    change (u.slotFenced slot.toNat).cus = _ at cus
    have same : ∀ l, (u.presenceAbsent slot.toNat).label l = (u.slotFenced slot.toNat).label l := by
      intro l
      rw [State.presenceAbsent_eq present]
      split <;> rfl
    have seen : (u.presenceAbsent slot.toNat).cus.present = clearBit u.cus.present slot.toNat ∧
        (u.presenceAbsent slot.toNat).cus.offers = u.cus.offers.filter fun o => offSlot o.payload != slot.toNat := by
      rw [State.presenceAbsent_eq present]
      split
      · rw [cus]
        exact ⟨rfl, rfl⟩
      · rw [State.modCus_cus, cus]
        exact ⟨rfl, rfl⟩
    refine ⟨u.presenceAbsent slot.toNat, act_of_acts h fun s => s.presenceAbsent slot.toNat, ?_, fun l mine open_ => ?_,
      fun l mine opening => ?_, fun l other => ?_, fun o mem => ?_⟩
    · unfold State.isPresent
      rw [seen.1]
      exact bitOf_clearBit _ slot.isLt
    · obtain ⟨at_, fenced⟩ := State.slotFenced_open mine open_
      refine ⟨by rw [same, fenced], ?_⟩
      have some_ : ((u.slotFenced slot.toNat).slotLabels slot.toNat fun x => x.state == .fenced) ≠ [] := by
        intro none_
        exact List.eq_nil_iff_forall_not_mem.mp none_ l
          ((State.mem_slotLabels _ _ l _ rfl).mpr ⟨at_, by simp [fenced]⟩)
      rw [State.presenceAbsent_eq present]
      split
      next window => exact Option.ne_none_iff_isSome.mpr (window.resolve_left some_)
      · rw [State.modCus_cus, Tab.find_put_same]
        simp
    · rw [same, State.slotFenced_opening mine opening]
    · rw [same, State.slotFenced_other other]
    · rw [seen.2, List.mem_filter, bne_iff_ne] at mem
      exact mem.2
  · intro s u t slot h absent
    have run := act_of_acts h fun s =>
      if s.isPresent slot.toNat then s
      else
        let s := s.modCus fun c => { c with present := setBit c.present slot.toNat }
        if s.inWindow slot.toNat then s.sendFrame 0x05 (leBytes 1 slot.toNat) else s
    rw [if_neg (by simp [absent])] at run
    refine ⟨_, run, ?_⟩
    have now : (u.modCus fun c => { c with present := setBit c.present slot.toNat }).inWindow slot.toNat =
      u.inWindow slot.toNat := rfl
    dsimp only
    rw [now]
    cases u.inWindow slot.toNat
    · exact ⟨bitOf_setBit _ slot.isLt, rfl, fun h => absurd h (by simp), fun _ => rfl⟩
    · exact ⟨bitOf_setBit _ slot.isLt, rfl, fun _ => rfl, fun h => absurd h (by simp)⟩
  · intro s u t seq p h new length slot seated inside
    refine ⟨_, exec_probeAck_of_hears h new length slot, ?_⟩
    obtain lifts | ⟨same, stranger⟩ := State.probeAck_cases (s := u.answered 0x06 seq.toNat p 0) seated inside
    · refine ⟨fun l mine fenced opener => ?_, fun l other => ?_⟩
      · rw [lifts]
        exact State.lift_mine (s := u.answered 0x06 seq.toNat p 0) mine fenced opener
      · rw [lifts]
        exact State.lift_other (s := u.answered 0x06 seq.toNat p 0) other
    · refine ⟨fun l mine fenced opener => ?_, fun l _ => same l⟩
      exact absurd opener (stranger l mine (by rw [State.label_answered, fenced]; rfl))
  · intro s u t seq p h new length slot stranger
    rw [exec_probeAck_of_hears h new length slot, State.probeAck_stranger (s := u.answered 0x06 seq.toNat p 0) stranger]
  · intro s u t slot w h window past
    refine ⟨u.windowEnd slot.toNat, act_of_acts h fun s => s.windowEnd slot.toNat, fun l mine fenced => ?_, fun l other => ?_⟩
    · rw [State.windowEnd_over window past]
      exact State.eraseSlot_mine (s := u.modCus fun c => { c with windows := Tab.del c.windows slot.toNat }) mine fenced
    · rw [State.windowEnd_over window past]
      exact State.eraseSlot_other (s := u.modCus fun c => { c with windows := Tab.del c.windows slot.toNat }) other

end Sys2Proof.Machine

/-! ## Frames of the custody link (R74 to R76, R479, R528) -/

namespace Sys2Proof.Machine

theorem leAt_one (bs : Bytes) (off : Nat) (b : Byte) (rest : Bytes) (h : bs.drop off = b :: rest) :
    leAt bs off 1 = b.toNat := by
  simp [leAt, slice, h, leNat]

/-- R76: a repeat of the frame last received is answered as that was, and does nothing else. -/
theorem State.receive_repeat {s : State} {type seq : Nat} {p : Bytes} {x : Received} (runs : s.pwr.phase ≠ .moult)
    (last : s.cus.rxLast = some x) (same : x.seq = seq) (crc : x.crc = frameCrc type seq p) (judge : State → Nat)
    (effect refused : State → State) :
    s.receive type seq p judge effect refused = { s with
      outputs := .custody x.ansType s.cus.txSeq x.answer :: s.outputs,
      cus := { s.cus with
        txSeq := (s.cus.txSeq + 1) % 256,
        lastNak := if x.ansType = 0x0F then leAt x.answer 1 1 else s.cus.lastNak } } := by
  have answered : s.receive type seq p judge effect refused = (s.rawFrame x.ansType x.answer).modCus fun c =>
      { c with lastNak := if x.ansType = 0x0F then leAt x.answer 1 1 else c.lastNak } := by
    unfold State.receive
    simp only [if_neg runs, last, same, crc, and_self, if_true]
  rw [answered]
  rfl

/-- The commands of the panel's frames, each with the type of its frame. -/
def panelFrames (t : Nat) (seq : Byte) (p : Bytes) : List (Nat × Instr) :=
  [(0x01, .hello t seq p), (0x03, .offer t seq p), (0x06, .probeAck t seq p), (0x09, .counterAck t seq p),
    (0x0A, .windowRead t seq p)]

theorem exec_panelFrame {t k : Nat} {seq : Byte} {p : Bytes} {i : Instr} (h : (k, i) ∈ panelFrames t seq p) :
    ∃ judge effect refused, ∀ s, exec i s = act t s fun s => s.receive k seq.toNat p judge effect refused := by
  simp only [panelFrames, List.mem_cons, Prod.mk.injEq, List.not_mem_nil, or_false] at h
  obtain ⟨rfl, rfl⟩ | ⟨rfl, rfl⟩ | ⟨rfl, rfl⟩ | ⟨rfl, rfl⟩ | ⟨rfl, rfl⟩ := h <;> exact ⟨_, _, _, fun s => rfl⟩

/-! ### HELLO and OFFER (R76, R79, R528) -/

theorem exec_hello_of_hears {s u : State} {t : Nat} {seq : Byte} {p : Bytes} (h : s.actsAt t u)
    (new : u.hears 0x01 seq.toNat p) (length : p.length = 10) (version : leAt p 8 2 = 1) :
    exec (.hello t seq p) s = .next (u.answered 0x01 seq.toNat p 0).sendSession.intPoll := by
  have run := act_of_acts h fun s => s.receive 0x01 seq.toNat p
    (fun _ => if p.length = 10 ∧ leAt p 8 2 = 1 then 0 else 2) State.sendSession id
  rw [State.receive_new new, if_pos (if_pos ⟨length, version⟩)] at run
  exact run

theorem exec_offer_of_hears {s u : State} {t : Nat} {seq : Byte} {p : Bytes} (h : s.actsAt t u)
    (new : u.hears 0x03 seq.toNat p) :
    let reason := u.judgeOffer p
    exec (.offer t seq p) s = .next
      (if reason = 0 then
        (u.answered 0x03 seq.toNat p 0).modCus fun c =>
          { c with offers := c.offers ++ [⟨p⟩], evt := c.evt.set 3 u.now }
       else (u.answered 0x03 seq.toNat p reason).record 3 0x0406 2
        (leBytes 1 (leAt p 0 1) ++ leBytes 1 reason ++ leBytes 8 (leAt p 1 8))).intPoll := by
  intro reason
  have run := act_of_acts h fun s => s.receive 0x03 seq.toNat p (fun s => s.judgeOffer p)
    (fun s => s.modCus fun c => { c with offers := c.offers ++ [{ payload := p }], evt := c.evt.set 3 s.now })
    (fun s => s.custodyRecord 0x0406 2 (leBytes 1 (offSlot p) ++ leBytes 1 s.cus.lastNak ++ leBytes 8 (offToken p)))
  rw [State.receive_new new] at run
  by_cases taken : reason = 0
  · rw [if_pos taken] at run ⊢
    exact run
  · have nak : (u.answered 0x03 seq.toNat p reason).cus.lastNak = reason := if_neg taken
    rw [if_neg taken] at run ⊢
    rw [nak] at run
    exact run

theorem State.judgeOffer_taken {s : State} {p : Bytes} (taken : s.judgeOffer p = 0) :
    p.length = 202 ∧ leAt p 0 1 ≤ 7 ∧ s.isPresent (leAt p 0 1) = true ∧ s.matterHeld (leAt p 9 8) = false ∧
      s.cus.offers.length < 256 := by
  unfold State.judgeOffer at taken
  split at taken
  · cases taken
  next form =>
    split at taken
    · cases taken
    next present =>
      split at taken
      · cases taken
      next free =>
        split at taken
        · cases taken
        next room =>
          rw [not_or, ne_eq, not_not, not_lt] at form
          rw [not_or, not_le] at room
          exact ⟨form.1, form.2, Bool.not_eq_false _ ▸ present, eq_false_of_ne_true free, room.1⟩

/-! ### WINDOW_READ (R479) -/

theorem exec_windowRead_of_hears {s u : State} {t : Nat} {seq : Byte} {p : Bytes} (h : s.actsAt t u)
    (new : u.hears 0x0A seq.toNat p) (length : p.length = 11) (channel : leAt p 0 1 ≤ 4) (room : 288 ≤ leAt p 9 2) :
    let v := (u.answered 0x0A seq.toNat p 0).panelFree (leAt p 0 1) (leAt p 1 8)
    exec (.windowRead t seq p) s = .next
      ((v.sendFrame 0x0B (v.windowData (leAt p 0 1) (leAt p 1 8) (leAt p 9 2))).panelMark (leAt p 0 1) (leAt p 1 8)
        (leAt p 9 2)).intPoll := by
  have run := act_of_acts h fun s => s.receive 0x0A seq.toNat p
    (fun _ => if p.length = 11 ∧ leAt p 0 1 ≤ 4 ∧ 288 ≤ leAt p 9 2 then 0 else 2)
    (fun s =>
      let s := s.panelFree (leAt p 0 1) (leAt p 1 8)
      (s.sendFrame 0x0B (s.windowData (leAt p 0 1) (leAt p 1 8) (leAt p 9 2))).panelMark (leAt p 0 1) (leAt p 1 8)
        (leAt p 9 2)) id
  rw [State.receive_new new, if_pos (if_pos ⟨length, channel, room⟩)] at run
  exact run

/-! ### Answers (R75, R76) -/

theorem State.seq_of_awaits {s : State} {n : Nat} {f : Frame} (waits : s.awaits n = some f) : f.seq = n := by
  simpa using List.find?_some waits

theorem exec_ack_of_awaits {s u : State} {t : Nat} {seq n : Byte} {f : Frame} (h : s.actsAt t u)
    (runs : u.pwr.phase ≠ .moult) (waits : u.awaits n.toNat = some f) :
    exec (.ack t seq [n]) s = .next
      (if f.type = 2 then
        (List.range 8).foldl State.sendStatus ((u.stopWaiting n.toNat).modCus fun c => { c with linkUp := true })
       else u.stopWaiting n.toNat).intPoll := by
  have number : leAt [n] 0 1 = n.toNat := leAt_one [n] 0 n [] rfl
  have run : exec (.ack t seq [n]) s = _ := act_of_acts h fun s =>
    if [n].length ≠ 1 ∨ s.pwr.phase = .moult then s
    else match s.awaits (leAt [n] 0 1) with
      | none => s
      | some f =>
        let s := s.stopWaiting f.seq
        if f.type = 2 then (List.range 8).foldl State.sendStatus (s.modCus fun c => { c with linkUp := true }) else s
  rw [if_neg (by simp [runs]), number, waits] at run
  dsimp only at run
  rwa [State.seq_of_awaits waits] at run

theorem exec_nak_of_awaits {s u : State} {t : Nat} {seq n r : Byte} {f : Frame} (h : s.actsAt t u)
    (runs : u.pwr.phase ≠ .moult) (waits : u.awaits n.toNat = some f) :
    exec (.nak t seq [n, r]) s = .next
      (if r.toNat = 1 then (u.modCus fun c => { c with lastNak := r.toNat }).resendFrame n.toNat
       else (u.modCus fun c => { c with lastNak := r.toNat }).stopWaiting n.toNat).intPoll := by
  have number : leAt [n, r] 0 1 = n.toNat := leAt_one [n, r] 0 n [r] rfl
  have reason : leAt [n, r] 1 1 = r.toNat := leAt_one [n, r] 1 r [] rfl
  have run : exec (.nak t seq [n, r]) s = _ := act_of_acts h fun s =>
    let reason := leAt [n, r] 1 1
    if [n, r].length ≠ 2 ∨ s.pwr.phase = .moult then s
    else match s.awaits (leAt [n, r] 0 1) with
      | none => if reason = 1 then s else s.modCus fun c => { c with lastNak := reason }
      | some f =>
        let s := s.modCus fun c => { c with lastNak := reason }
        if reason = 1 then s.resendFrame f.seq else s.stopWaiting f.seq
  dsimp only at run
  rw [if_neg (by simp [runs]), number, waits, reason] at run
  dsimp only at run
  rwa [State.seq_of_awaits waits] at run

theorem exec_custodyFrameCrcError_of_acts {s u : State} {t : Nat} (h : s.actsAt t u) (runs : u.pwr.phase ≠ .moult)
    (type seq : Byte) :
    let v := u.modCus fun c => { c with crcErr := c.crcErr.add 16 1 u.now }
    exec (.custodyFrameCrcError t type seq) s = .next
      (if type.toNat = 0x0E ∨ type.toNat = 0x0F then v else v.answerFrame seq.toNat 1).intPoll := by
  have run : exec (.custodyFrameCrcError t type seq) s = _ := act_of_acts h fun s =>
    if s.pwr.phase = .moult then s
    else
      let s := s.modCus fun c => { c with crcErr := c.crcErr.add 16 1 s.now }
      if type.toNat = 0x0E ∨ type.toNat = 0x0F then s else s.answerFrame seq.toNat 1
  rwa [if_neg runs] at run

/-! ### FRAME_RESEND (R76, R81) -/

theorem State.resendFrame_of_awaits {s : State} {n : Nat} {f : Frame} (waits : s.awaits n = some f) :
    s.resendFrame n =
      if 3 ≤ f.resends then
        (s.modCus fun c => { c with awaiting := c.awaiting.filter fun x => x.seq != n }).linkDown
      else if f.type = 8 ∧ s.pwr.inhibitRail ≠ 0 then s
      else
        (s.emit (.custody f.type f.seq f.payload)).modCus fun c =>
          { c with resends := c.resends.add 16 1 s.now,
                   awaiting := c.awaiting.map fun x => if x.seq = n then { x with resends := x.resends + 1 } else x } := by
  have found : s.cus.awaiting.find? (fun f => f.seq == n) = some f := waits
  unfold State.resendFrame
  rw [found]

theorem State.linkDown_facts (s : State) : s.linkDown.cus.linkUp = false ∧ s.linkDown.outputs = s.outputs ∧
    s.linkDown.cus.evt = s.cus.evt.set 4 s.now := by
  have cus : s.linkDown.cus = _ := State.custodyRecord_cus ..
  have outputs : s.linkDown.outputs = s.outputs := record_only _ _ _ _ _ .outputs (by simp)
  rw [cus]
  exact ⟨rfl, outputs, rfl⟩

theorem exec_frameResend_of_acts {s u : State} {t : Nat} (h : s.actsAt t u) (seq : Byte) :
    exec (.frameResend t seq) s = .next (u.resendFrame seq.toNat).intPoll :=
  act_of_acts h fun s => s.resendFrame seq.toNat

/-- Settles O33, frame by frame: how each is judged and what its effect is. -/
theorem custodyFrames : Obligations.CustodyFrames := by
  refine ⟨?_, ?_, ?_, fun s u t seq p h new => exec_offer_of_hears h new, fun u p => State.judgeOffer_taken,
    fun s u t seq p h new length channel room => exec_windowRead_of_hears h new length channel room, ?_, ?_, ?_, ?_, ?_, ?_,
    fun s u t h => act_of_acts h id⟩
  · intro s u t seq p h new length version ok cert
    have session : (u.answered 0x01 seq.toNat p 0).sendSession = (u.answered 0x01 seq.toNat p 0).sessionFrame := if_pos ok
    rw [exec_hello_of_hears h new length version, session]
    rfl
  · intro s u t seq p h new length version wait
    have later : (u.answered 0x01 seq.toNat p 0).sendSession = _ := if_neg (ne_true_of_eq_false wait)
    rw [exec_hello_of_hears h new length version, later]
  · intro s u t k seq p x i h runs frame last same crc
    obtain ⟨judge, effect, refused, run⟩ := exec_panelFrame frame
    rw [run, act_of_acts h, State.receive_repeat runs last same crc]
  · intro s u t seq n f h runs waits v
    rw [exec_ack_of_awaits h runs waits]
    rfl
  · intro s u t seq n r f h runs waits other
    have reason : r.toNat ≠ 1 := fun one => other (BitVec.eq_of_toNat_eq one)
    rw [exec_nak_of_awaits h runs waits, if_neg reason]
    rfl
  · intro s u t seq n f h runs waits
    rw [exec_nak_of_awaits h runs waits, if_pos (show (1#8).toNat = 1 from rfl)]
    rfl
  · intro s u t type seq h runs v
    have answer (k : Nat) (small : k < 256) : type.toNat = k ↔ type = BitVec.ofNat 8 k := by
      rw [← BitVec.toNat_inj, BitVec.toNat_ofNat, Nat.mod_eq_of_lt small]
    rw [exec_custodyFrameCrcError_of_acts h runs]
    simp only [answer 0x0E (by decide), answer 0x0F (by decide)]
    rfl
  · intro s u t seq f h waits sent
    refine ⟨_, exec_frameResend_of_acts h seq, ?_⟩
    rw [State.resendFrame_of_awaits waits]
    by_cases last : f.resends < 3
    · rw [if_pos last, if_neg (not_le.mpr last), if_neg (fun held => sent.elim (· held.1) held.2)]
      exact ⟨rfl, rfl, rfl⟩
    · rw [if_neg last, if_pos (not_lt.mp last)]
      exact State.linkDown_facts _
  · intro s u t seq f h waits counter last inhibited
    rw [exec_frameResend_of_acts h, State.resendFrame_of_awaits waits, if_neg (not_le.mpr last),
      if_pos ⟨counter, inhibited⟩]

end Sys2Proof.Machine

/-! ## Ring profiles, public keys and dictionaries (R170, R171, R271, R297) -/

namespace Sys2Proof.Machine

theorem length_padTo (n : Nat) (bs : Bytes) : (padTo n bs).length = n := by
  simp only [padTo, zeroBytes, List.length_append, List.length_take, List.length_replicate]
  omega

/-- R269, R272, R273: the load of record `d` into a profile slot. -/
def State.loadProfile (s : State) (b d : Bytes) (slot : Nat) : State :=
  let st := s.profileStatus (entLen b) slot d
  if st ≠ 0 then s.adminDone b st 0
  else
    let f := Sys2Proof.Machine.profileOf d
    { s with profiles := Tab.put s.profiles slot f }.adminDone b 0 (leAt f.digest 0 8)

theorem exec_loadRingProfile_of_takes {s u : State} {t : Nat} {b : Bytes} (h : s.takesAdmin t 0x18 b u) (data : Bytes) :
    exec (.loadRingProfile t data) s = .next (u.loadProfile b (padTo (entLen b) data) (entStep b % 16)).intPoll := by
  have number : fieldOf (entStep b) 0 4 = entStep b % 16 := by simp [fieldOf_eq]
  rw [← number]
  exact adminRow_of_takes h fun b s => s.loadProfile b (padTo (entLen b) data) (fieldOf (entStep b) 0 4)

/-! ### LOAD_PUBLIC_KEY (R297) -/

/-- R297: the public key of record `d` in its cells. -/
def pubKeyOf (gen : Nat) (cells : List Nat) (d : Bytes) : PubKey :=
  { gen := gen, cells := cells,
    pk0 := (List.range (leAt d 11 1)).map (pubLimb d (2 ^ leAt d 10 1) (leAt d 11 1) 0),
    pk1 := (List.range (leAt d 11 1)).map (pubLimb d (2 ^ leAt d 10 1) (leAt d 11 1) 1) }

/-- R297: a public key takes cells, and its label's slot. -/
def State.keepKey (s : State) (l : Nat) (cells : List Nat) (d : Bytes) : State :=
  { s.holdCells 0 true cells with keyCache := Tab.put s.keyCache l (pubKeyOf (s.label l).gen cells d) }

/-- R297: a load of record `d` once its status is 0. -/
def State.loadKey (s : State) (b d : Bytes) : State :=
  let l := entMatter b
  if (Tab.find s.keyCache l).isSome then s.adminDone b 0 (leAt (s.label l).fingerprint 0 8)
  else match s.takeEnc ((d.length + 65535) / 65536) with
    | none => s.adminDone b 0x41 0
    | some cs => (s.keepKey l cs d).adminDone b 0 (leAt (s.label l).fingerprint 0 8)

theorem exec_loadPublicKey_of_takes {s u : State} {t : Nat} {b : Bytes} (h : s.takesAdmin t 0x19 b u) (data : Bytes) :
    let d := padTo (entLen b) data
    exec (.loadPublicKey t data) s = .next
      (if u.publicKeyStatus b d ≠ 0 then u.adminDone b (u.publicKeyStatus b d) 0 else u.loadKey b d).intPoll :=
  adminRow_of_takes h fun b s =>
    let d := padTo (entLen b) data
    if s.publicKeyStatus b d ≠ 0 then s.adminDone b (s.publicKeyStatus b d) 0 else s.loadKey b d

theorem State.loadKey_again {s : State} {b : Bytes} (held : Tab.find s.keyCache (entMatter b) ≠ none) (d : Bytes) :
    s.loadKey b d = s.adminDone b 0 (leAt (s.label (entMatter b)).fingerprint 0 8) :=
  if_pos (Option.ne_none_iff_isSome.mp held)

theorem State.loadKey_new {s : State} {b d : Bytes} (new : Tab.find s.keyCache (entMatter b) = none)
    (length : d.length = entLen b) :
    s.loadKey b d = match s.takeEnc ((entLen b + 65535) / 65536) with
      | none => s.adminDone b 0x41 0
      | some cs => (s.keepKey (entMatter b) cs d).adminDone b 0 (leAt (s.label (entMatter b)).fingerprint 0 8) := by
  unfold State.loadKey
  simp only [new, length, Option.isSome_none, Bool.false_eq_true, if_false]

/-! ### LOAD_DICTIONARY (R170, R171) -/

/-- R171: the version that a record makes takes cells, and its slot. -/
def State.keepDictionary (s : State) (slot : Nat) (x : Dict) : State :=
  { s.holdCells 0 true x.cells with
    dicts := Tab.put s.dicts s.nextDict x, nextDict := s.nextDict + 1, dictSlots := Tab.put s.dictSlots slot s.nextDict }

/-- R170, R171: the load of record `d` once its status is 0. -/
def State.loadDict (s : State) (b d : Bytes) : State :=
  match s.takeEnc (dctCells d) with
  | none => s.adminDone b 0x41 0
  | some cs =>
    let x := dctBuild d (entMatter b) (entGen b) (fieldOf (entStep b) 8 4) cs
    (s.keepDictionary (fieldOf (entStep b) 0 8) x).dropUnboundDicts.adminDone b 0 x.highest

theorem exec_loadDictionary_of_takes {s u : State} {t : Nat} {b : Bytes} (h : s.takesAdmin t 0x1A b u) (data : Bytes) :
    let d := padTo (entLen b) data
    exec (.loadDictionary t data) s = .next
      (if u.dictionaryStatus b d ≠ 0 then u.adminDone b (u.dictionaryStatus b d) 0 else u.loadDict b d).intPoll :=
  adminRow_of_takes h fun b s =>
    let d := padTo (entLen b) data
    if s.dictionaryStatus b d ≠ 0 then s.adminDone b (s.dictionaryStatus b d) 0 else s.loadDict b d

theorem dropUnboundDicts_only (s : State) : s.changesOnly [.pool, .dicts] s.dropUnboundDicts := by
  refine only_foldl (fun s d => ?_) _ s
  exact fun p hp => by cases p <;> first | rfl | simp at hp

/-- R171: the version that a slot holds stays. -/
theorem State.find_dropUnboundDicts {s : State} {slot v : Nat} (bound : Tab.find s.dictSlots slot = some v) :
    Tab.find s.dropUnboundDicts.dicts v = Tab.find s.dicts v := by
  have others : ∀ (ds : List (Nat × Dict)), (∀ d ∈ ds, d.1 ≠ v) → ∀ s : State,
      Tab.find (ds.foldl (fun s d => { s.giveCells 0 true d.2.cells d.2.label with dicts := Tab.del s.dicts d.1 }) s).dicts v =
        Tab.find s.dicts v := by
    intro ds
    induction ds with
    | nil => exact fun _ _ => rfl
    | cons d ds ih =>
      intro other s
      rw [List.foldl_cons, ih fun x hx => other x (List.mem_cons_of_mem _ hx)]
      exact Tab.find_del_other _ _ _ (other d (List.mem_cons_self ..)).symm
  refine others _ (fun d mem same => ?_) s
  obtain ⟨_, free⟩ := List.mem_filter.mp mem
  have held : (s.dictSlots.any fun b => b.2 == d.1) = true :=
    List.any_eq_true.mpr ⟨(slot, v), Tab.mem_of_find _ _ _ bound, by simp [same]⟩
  simp [held] at free

theorem exec_loadDictionary_done {s u : State} {t : Nat} {b data : Bytes} {cs : List Nat} (h : s.takesAdmin t 0x1A b u)
    (passed : u.dictionaryStatus b (padTo (entLen b) data) = 0)
    (cells : u.takeEnc (dctCells (padTo (entLen b) data)) = some cs) :
    let d := padTo (entLen b) data
    let x := dctBuild d (entMatter b) (entGen b) (fieldOf (entStep b) 8 4) cs
    ∃ v : State, exec (.loadDictionary t data) s = .next (v.adminDone b 0 x.highest).intPoll ∧
      Tab.find v.dictSlots (fieldOf (entStep b) 0 8) = some u.nextDict ∧ Tab.find v.dicts u.nextDict = some x ∧
      v.qg = u.qg := by
  intro d x
  have kept := dropUnboundDicts_only (u.keepDictionary (fieldOf (entStep b) 0 8) x)
  have slots : Tab.find (u.keepDictionary (fieldOf (entStep b) 0 8) x).dictSlots (fieldOf (entStep b) 0 8) =
    some u.nextDict := Tab.find_put_same ..
  refine ⟨(u.keepDictionary (fieldOf (entStep b) 0 8) x).dropUnboundDicts, ?_, ?_, ?_, ?_⟩
  · rw [exec_loadDictionary_of_takes h, if_neg (not_not.mpr passed), State.loadDict, cells]
  · rw [show (u.keepDictionary _ x).dropUnboundDicts.dictSlots = _ from kept .dictSlots (by simp), slots]
  · rw [State.find_dropUnboundDicts slots]
    exact Tab.find_put_same ..
  · exact kept .qg (by simp)

/-- Settles O35, record by record: its status, its cells, and what is loaded. -/
theorem tableLoads : Obligations.TableLoads := by
  refine ⟨?_, ?_, ?_, ?_, ?_, ?_, ?_⟩
  · intro s u t b data h d slot st
    rw [exec_loadRingProfile_of_takes h]
    rfl
  · intro s u t b data cs h d l passed new cells
    refine ⟨(u.keepKey l cs d).adminDone b 0 (leAt (u.label l).fingerprint 0 8), ?_, ?_, ?_, rfl, rfl⟩
    · rw [exec_loadPublicKey_of_takes h, if_neg (not_not.mpr passed), State.loadKey_new new (length_padTo ..), cells]
    · exact ⟨pubKeyOf (u.label l).gen cs d, Tab.find_put_same .., rfl, rfl⟩
    · exact fun k other => Tab.find_put_other _ _ _ _ other
  · intro s u t b data h failed
    rw [exec_loadPublicKey_of_takes h, if_pos failed]
  · intro s u t b data h d passed short
    rw [exec_loadPublicKey_of_takes h, if_neg (not_not.mpr passed)]
    by_cases new : Tab.find u.keyCache (entMatter b) = none
    · rw [if_pos new, State.loadKey_new new (length_padTo ..), short.resolve_left (not_not.mpr new)]
    · rw [if_neg new, State.loadKey_again new]
  · intro s u t b data h d passed short
    rw [exec_loadDictionary_of_takes h, if_neg (not_not.mpr passed), State.loadDict, short]
  · intro s u t b data cs h d passed cells
    obtain ⟨v, run, slots, kept, qg⟩ := exec_loadDictionary_done h passed cells
    have number : fieldOf (entStep b) 0 8 = entStep b % 256 := by simp [fieldOf_eq]
    refine ⟨_, run, number ▸ slots, ⟨_, kept, rfl, rfl, rfl, rfl, rfl⟩, ?_⟩
    rw [← qg]
    rfl
  · intro s u t b data h failed
    rw [exec_loadDictionary_of_takes h, if_pos failed]

end Sys2Proof.Machine

/-! ## Records of the event recorder (R473 to R475) -/

namespace Sys2Proof.Machine

/-- R474: a record that coalesces fires no trigger. -/
theorem State.record_of_coalesces {s : State} {c code sev : Nat} {p : Bytes}
    (h : coalesces s.erw.window.toNat s.now code (padPayload p) (s.chan c).records.getLast? = true) :
    s.record c code sev p = s.putRecord c code sev p :=
  if_pos (putRecord_old s c code sev p h).1

theorem makeRoom_of_room {now cap need f : Nat} {ch : Channel} (room : bytesOf ch.records + need ≤ cap) :
    makeRoom now cap need (f + 1) ch false = (ch, false) := by
  unfold makeRoom
  exact if_pos room

theorem coalesces_of_last {window now code : Nat} {payload : Bytes} {r : Record} (same : r.code = code)
    (text : r.payload = payload) (open_ : r.closed = false) (held : r.free = false) (after : r.first ≤ now)
    (before : now < r.first + window * 10 ^ 6) : coalesces window now code payload (some r) = true := by
  simp only [coalesces, same, text, open_, held, after, before, beq_self_eq_true, Bool.not_false, decide_true, Bool.and_self]

theorem bytesOf_append (rs : List Record) (r : Record) : bytesOf (rs ++ [r]) = bytesOf rs + r.size := by
  simp [bytesOf]

/-- Settles O36, by whether the record coalesces: what a record makes of its channel, and of the others. -/
theorem eventRecords : Obligations.EventRecords := by
  refine ⟨?_, ?_, ?_, ?_⟩
  · intro s c code sev p new room w
    have written := putRecord_new s c code sev p new
    rw [makeRoom_of_room room] at written
    have agree := record_chan s c code sev p c
    rw [written] at agree
    have len := chanAgree_len agree
    obtain ⟨next, gap, lost, _, _, last⟩ := agree
    have newest : (w.chan c).records.getLast? = _ := last fun r hr => by
      rw [List.getLast?_append, List.getLast?_singleton, Option.some_or, Option.some.injEq] at hr
      exact hr ▸ le_refl s.now
    refine ⟨next, gap, lost, len.trans (by simp), newest.trans (by simp)⟩
  · intro s c code sev p r last same text open_ held after before w
    have fits : coalesces s.erw.window.toNat s.now code (padPayload p) (s.chan c).records.getLast? = true := by
      rw [last]
      exact coalesces_of_last same text open_ held after before
    obtain ⟨next, records⟩ := putRecord_old s c code sev p fits
    rw [← State.record_of_coalesces fits] at next records
    refine ⟨next, ?_, ?_⟩
    · rw [records, onLast_length]
    · rw [records, onLast_last, last, Option.map_some]
  · intro s c code sev p within small
    cases fits : coalesces s.erw.window.toNat s.now code (padPayload p) (s.chan c).records.getLast? with
    | true =>
      rw [State.record_of_coalesces fits, (putRecord_old s c code sev p fits).2,
        onLast_bytes (fun r => { r with rep := satAdd 16 r.rep 1, last := s.optime }) fun _ => rfl]
      exact within
    | false =>
      rw [chanAgree_bytes (record_chan s c code sev p c), putRecord_new s c code sev p fits]
      dsimp only
      rw [bytesOf_append]
      exact makeRoom_fits s.now (partition c) _ small _ (s.chan c) false (Nat.lt_succ_self _)
  · intro s c k code sev p other w
    have agree := record_chan s c code sev p k
    rw [putRecord_other s c code sev p k other] at agree
    exact ⟨agree.1, chanAgree_map Record.seq (fun _ => rfl) agree⟩

end Sys2Proof.Machine

/-! ## Windows, flushes and clears of the event recorder (R476 to R483) -/

namespace Sys2Proof.Machine

/-! ### Records that fire no flush -/

/-- A record put into its channel changes the recorder's channels and events alone. -/
theorem State.putRecord_erw (s : State) (c code sev : Nat) (p : Bytes) :
    ∃ cs e, (s.putRecord c code sev p).erw = { s.erw with chans := cs, evt := e } := by
  unfold State.putRecord
  simp only [State.modChan, State.modErw]
  split
  · exact ⟨_, _, rfl⟩
  · split <;> split <;> exact ⟨_, _, rfl⟩

/-- R476: a record below ERROR on a channel that is not flushed, or that stays below 75 %, fires no flush. -/
theorem State.record_of_quiet {s : State} {c code sev : Nat} {p : Bytes} (mild : sev < 3)
    (room : c ≤ 2 → over75 c ((s.putRecord c code sev p).chan c) = false) :
    s.record c code sev p = s.putRecord c code sev p := by
  have none_ : ∀ b, (s.putRecord c code sev p).recordTriggers c sev b = s.putRecord c code sev p := by
    intro b
    unfold State.recordTriggers
    simp only [not_le.mpr mild, false_and, and_false, if_false]
    refine if_neg fun h => ?_
    rw [room h.1] at h
    exact absurd h.2.2 Bool.false_ne_true
  unfold State.record
  dsimp only
  split
  · rfl
  · exact none_ _

theorem State.custodyRecord_erw {s : State} {code sev : Nat} (p : Bytes) (mild : sev < 3) :
    ∃ cs e, (s.custodyRecord code sev p).erw = { s.erw with chans := cs, evt := e } := by
  obtain ⟨cs, e, put⟩ := s.putRecord_erw 3 code sev p
  refine ⟨cs, e, ?_⟩
  rw [State.custodyRecord, State.record_of_quiet mild fun h => absurd h (by decide), put]

/-! ### WINDOW_LOAD and FLUSH_ACK (R477, R479) -/

theorem exec_windowLoad_of_acts {s u : State} {t : Nat} {v : BitVec 32} (h : s.actsAt t u)
    (load : v.toNat / 2 ^ 8 % 2 = 1) :
    exec (.windowLoad t v) s =
      .next ((u.modErw fun e => { e with winChan := BitVec.ofNat 3 v.toNat }).windowLoad).intPoll := by
  have run : exec (.windowLoad t v) s = _ := act_of_acts h fun s => s.writeWinCtl v.toNat
  rw [State.writeWinCtl, if_pos ((bitOf_iff _ 8).mpr load)] at run
  exact run

theorem State.windowLoad_denied {s : State} (guarded : s.erw.winChan.toNat = 3 ∨ s.erw.winChan.toNat = 4)
    (locked : s.cus.dbgUnlocked = false) :
    ∃ cs e, s.windowLoad.erw = { s.erw with
      winValid := false, winGap := false, winDenied := true, winGen := 0, winSeq := 0, winNext := 0, winData := [],
      chans := cs, evt := e } := by
  unfold State.windowLoad
  rw [if_pos ⟨guarded, locked⟩]
  exact State.custodyRecord_erw _ (by decide)

theorem State.windowLoad_open {s : State}
    (open_ : ¬ ((s.erw.winChan.toNat = 3 ∨ s.erw.winChan.toNat = 4) ∧ s.cus.dbgUnlocked = false)) :
    let c := s.erw.winChan.toNat
    let cur := s.erw.cursor.toNat
    s.windowLoad = match (s.chan c).at? cur with
      | none =>
        (s.modChan c fun x => { x with hostArmed := true }).modErw fun e =>
          { e with winValid := false, winGap := (s.chan c).gapAt cur, winDenied := false, winGen := (s.chan c).hostGen,
                   winSeq := Config.emptyWinSeq cur, winNext := cur, winData := [] }
      | some r =>
        (s.modChan c fun x => { x with hostArmed := true, records := markRead false r.seq x.records }).modErw fun e =>
          { e with winValid := true, winGap := (s.chan c).gapAt cur, winDenied := false, winGen := (s.chan c).hostGen,
                   winSeq := r.seq, winNext := r.seq + 1, winData := r.bytes c } := by
  intro c cur
  unfold State.windowLoad
  rw [if_neg open_] <;> rfl

theorem State.flushAck_eq (s : State) (v : BitVec 32) :
    s.flushAck v.toNat = { s with erw := { s.erw with unacked := s.erw.unacked &&& ~~~(v.setWidth 2) } } := by
  have bits : (if bitOf v.toNat 1 then clearBit (if bitOf v.toNat 0 then clearBit s.erw.unacked 0 else s.erw.unacked) 1
      else if bitOf v.toNat 0 then clearBit s.erw.unacked 0 else s.erw.unacked) =
      s.erw.unacked &&& ~~~(v.setWidth 2) := by
    rw [bitOf_toNat, bitOf_toNat]
    generalize s.erw.unacked = x
    ext i hi
    have two : i = 0 ∨ i = 1 := by omega
    cases low : v.getLsbD 0 <;> cases high : v.getLsbD 1 <;> obtain rfl | rfl := two <;>
      simp_all [clearBit]
  exact congrArg (fun x => { s with erw := { s.erw with unacked := x } }) bits

/-! ### RECORDER_FLUSH (R477, R478) -/

theorem exec_recorderFlush_of_takes {s u : State} {t : Nat} {b : Bytes} (h : s.takesAdmin t 0x31 b u) :
    exec (.recorderFlush t) s = .next
      (if u.pwr.inhibitRail ≠ 0 then u.adminDone b 0x72 0
       else if (u.joinFlush 4).erw.flush.isSome then (u.joinFlush 4).adminWaits b .flush
       else (u.joinFlush 4).adminDone b 0 0).intPoll :=
  adminRow_of_takes h fun b s =>
    if s.pwr.inhibitRail ≠ 0 then s.adminDone b 0x72 0
    else
      let s := s.joinFlush 4
      if s.erw.flush.isSome then s.adminWaits b .flush else s.adminDone b 0 0

theorem State.joinFlush_running {s : State} (running : s.erw.flush ≠ none) : s.joinFlush 4 = s := by
  unfold State.joinFlush
  rw [if_pos (Option.ne_none_iff_isSome.mp running)]
  exact if_neg (by decide)

theorem State.joinFlush_idle {s : State} (idle : s.erw.flush = none) : s.joinFlush 4 = s.issueFlush 4 := by
  unfold State.joinFlush
  simp [idle]

theorem State.issueFlush_small {s : State} (powered : s.pwr.inhibitRail = 0) (small : s.erw.size.toNat < flushMin)
    (tr : Nat) : s.issueFlush tr = { s with erw := { s.erw with evt := s.erw.evt.set 3 s.now } } := by
  unfold State.issueFlush
  rw [if_neg (by simp [powered]), if_pos small]
  rfl

/-! ### FLUSH_END (R476, R477) -/

/-- R477: what a flush writes: the records, if there are any, and then the header. -/
def State.flushWrites (s : State) (f : Flush) (data : Bytes) : State :=
  (if data.isEmpty then s else s.emit (.interior ((f.addr + 64) % 2 ^ 64) data)).emit
    (.interior f.addr (f.header (bitOf s.erw.unacked.toNat f.buffer) data.length))

theorem State.flushWrites_eq (s : State) (f : Flush) (data : Bytes) :
    s.flushWrites f data = { s with
      outputs := .interior f.addr (f.header (bitOf s.erw.unacked.toNat f.buffer) data.length) ::
        (if data = [] then s.outputs else .interior ((f.addr + 64) % 2 ^ 64) data :: s.outputs) } := by
  cases data <;> rfl

/-- R477: the buffer stands unacknowledged, and no flush runs. -/
def Erw.ended (e : Erw) (f : Flush) (overrun : Bool) (now : Nat) : Erw :=
  { e with flush := none, flushes := satAdd 16 e.flushes 1, unacked := setBit e.unacked f.buffer,
           evt := if overrun then (e.evt.set 0 now).set 1 now else e.evt.set 0 now }

/-- R443: the end of a power flush. -/
def State.powerFlushed (s : State) : State :=
  if s.pwr.flushActive then
    s.modPwr fun p => { p with flushActive := false, flushDone := true, evt := p.evt.set 3 s.now } else s

theorem powerFlushed_only (s : State) : s.changesOnly [.pwr] s.powerFlushed :=
  only_ite (modPwr_only s _) (only_refl _ s)

/-- R477: the buffer is written, and the records it took have free space. -/
def State.flushed (s : State) (f : Flush) : State :=
  (((s.flushWrites f (f.taken.flatMap fun x => x.2.bytes x.1)).freeTaken f).modErw fun e =>
    e.ended f (bitOf s.erw.unacked.toNat f.buffer) s.now).powerFlushed

theorem State.endFlush_eq (s : State) (f : Flush) : s.endFlush f = (s.flushed f).flushWaiters.nextFlush := by
  unfold State.endFlush State.flushed State.flushWrites
  dsimp only
  generalize f.taken.flatMap (fun x => x.2.bytes x.1) = data
  cases data <;> rfl

theorem State.flushed_facts (s : State) (f : Flush) :
    let data := f.taken.flatMap fun x => x.2.bytes x.1
    let w := s.flushed f
    w.qg = s.qg ∧ w.stw = s.stw ∧ w.erw.wait = s.erw.wait ∧ w.erw.flush = none ∧
      w.erw.unacked = s.erw.unacked ||| BitVec.ofNat 2 (2 ^ f.buffer) ∧ w.erw.flushes = satAdd 16 s.erw.flushes 1 ∧
      w.outputs = .interior f.addr (f.header (bitOf s.erw.unacked.toNat f.buffer) data.length) ::
        (if data = [] then s.outputs else .interior ((f.addr + 64) % 2 ^ 64) data :: s.outputs) := by
  intro data w
  obtain ⟨cs, freed⟩ := freeTaken_eq (s.flushWrites f data) f
  have only : State.changesOnly [.pwr] _ w := powerFlushed_only (((s.flushWrites f data).freeTaken f).modErw fun e =>
    e.ended f (bitOf s.erw.unacked.toNat f.buffer) s.now)
  have qg := only .qg (by simp)
  have stw := only .stw (by simp)
  have erw_ := only .erw (by simp)
  have outputs := only .outputs (by simp)
  simp only [Part.same, State.modErw_qg, State.modErw_stw, State.modErw_erw, State.modErw_outputs, State.flushWrites_eq,
    freed] at qg stw erw_ outputs
  rw [erw_]
  exact ⟨qg, stw, rfl, rfl, rfl, rfl, outputs⟩

/-! ### Clears (R481 to R483) -/

theorem length_padPayload {p : Bytes} (h : p.length = 13) : (padPayload p).length = 16 := by
  rw [padPayload, length_padTo, h]
  decide

theorem partition_large (c : Nat) : 524288 ≤ partition c := by
  unfold partition
  split <;> decide

/-- The first record of an empty channel leaves it far below 75 %. -/
theorem over75_putRecord_of_empty {s : State} {c code sev : Nat} {p : Bytes} (empty : (s.chan c).records = [])
    (small : p.length = 13) : over75 c ((s.putRecord c code sev p).chan c) = false := by
  have size := length_padPayload small
  have large := partition_large c
  have room : bytesOf (s.chan c).records + (32 + (padPayload p).length) ≤ partition c := by
    rw [empty, size]
    simp only [bytesOf, List.map_nil, List.sum_nil]
    omega
  have new := putRecord_new s c code sev p (by rw [empty]; rfl)
  rw [makeRoom_of_room room] at new
  have held : heldBytes ((s.putRecord c code sev p).chan c) = 48 := by
    rw [new]
    simp [heldBytes, empty, bytesOf, Record.size, size]
  simp only [over75, held, decide_eq_false_iff_not, not_le]
  omega

/-- R482: a clear fires no flush, and leaves the flush that was noted. -/
theorem State.clearChannel_wait (s : State) (c a : Nat) : (s.clearChannel c a).erw.wait = s.erw.wait := by
  unfold State.clearChannel
  dsimp only
  generalize marked : (s.modChan c Channel.cleared).modErw (fun e => { e with evt := e.evt.set 5 (s.modChan c Channel.cleared).now }) = x
  have wait : x.erw.wait = s.erw.wait := by rw [← marked]; rfl
  have empty : (x.chan c).records = [] := by
    rw [← marked, chan_modErw _ _ (by rfl), chan_modChan_same]
    rfl
  rw [State.record_of_quiet (by decide) fun h => absurd h (by decide),
    State.record_of_quiet (c := c) (by decide) fun _ => over75_putRecord_of_empty empty (by simp [leBytes_length])]
  obtain ⟨_, _, second⟩ := State.putRecord_erw (x.putRecord c 0x0001 1 (leBytes 4 (s.chan c).records.length ++
    leBytes 8 ((s.chan c).highest c) ++ leBytes 1 a)) 4 0x0504 1 (leBytes 1 c ++ leBytes 4 (s.chan c).records.length ++
    leBytes 1 a)
  obtain ⟨_, _, first⟩ := x.putRecord_erw c 0x0001 1 (leBytes 4 (s.chan c).records.length ++
    leBytes 8 ((s.chan c).highest c) ++ leBytes 1 a)
  rw [second, first]
  exact wait

theorem State.clearChannel_tokens (s : State) (c a : Nat) : (s.clearChannel c a).erw.tokens = s.erw.tokens := by
  unfold State.clearChannel
  rw [record_tokens, record_tokens]
  rfl

theorem clearChannel_only (s : State) (c a : Nat) : s.changesOnly [.pwr, .erw] (s.clearChannel c a) :=
  only_after (record_only _ _ _ _ _) (by simp) (only_after (record_only _ _ _ _ _) (by simp)
    (only_after (modErw_only _ _) (by simp) (only_mono (modErw_only s _) (by simp))))

theorem State.finishAdmin_erw (s : State) (st r : Nat) : (s.finishAdmin st r).erw = s.erw :=
  finishAdmin_only s st r .erw (by simp)

theorem State.flushWaiters_wait (s : State) : s.flushWaiters.erw.wait = s.erw.wait := by
  unfold State.flushWaiters
  split
  · rw [State.finishAdmin_erw]
  · rw [State.finishAdmin_erw, State.clearChannel_wait]
  · rfl

theorem State.flushWaiters_flush {s : State} {b : Bytes} (run : s.qg.run = some ⟨b, .flush⟩)
    (awake : s.stw.restarting = false) :
    s.flushWaiters.qg = { s.qg with run := none, due := s.qg.due ++ [complOf b 0 0] } := by
  unfold State.flushWaiters
  rw [State.waiting_of_run run]
  dsimp only
  rw [State.finishAdmin_run run awake]

theorem State.flushWaiters_clear {s : State} {b : Bytes} {c a : Nat} (run : s.qg.run = some ⟨b, .clear c a⟩)
    (awake : s.stw.restarting = false) :
    s.flushWaiters.qg = { s.qg with run := none, due := s.qg.due ++ [complOf b 0 0] } := by
  have only := clearChannel_only s c a
  have qg : (s.clearChannel c a).qg = s.qg := only .qg (by simp)
  have stw : (s.clearChannel c a).stw = s.stw := only .stw (by simp)
  unfold State.flushWaiters
  rw [State.waiting_of_run run]
  dsimp only
  rw [State.finishAdmin_run (r := ⟨b, .clear c a⟩) (by rw [qg, run]) (by rw [stw, awake]), qg]

theorem State.flushWaiters_idle {s : State} (idle : s.qg.run = none) : s.flushWaiters = s := by
  unfold State.flushWaiters State.waiting
  rw [idle]
  rfl

theorem clearChan_eq (b : Bytes) : fieldOf (entLen b) 0 3 = entLen b % 8 := by simp [fieldOf_eq]

/-- R481, R482: the fields of the recorder and the custody block that taking an authority leaves. -/
theorem State.takeAuthority_facts (s : State) (b token : Bytes) :
    let w := s.takeAuthority b token
    w.qg = s.qg ∧ w.erw.chans = s.erw.chans ∧ w.erw.flush = s.erw.flush ∧
      (entCount b = 256 → w.erw.tokens = s.erw.tokens ++ [sha384 token]) ∧ (entCount b ≠ 256 → w.cus.clearGranted = false) := by
  unfold State.takeAuthority
  dsimp only
  split
  next count => exact ⟨rfl, rfl, rfl, fun _ => rfl, fun h => absurd count h⟩
  next count => exact ⟨rfl, rfl, rfl, fun h => absurd h count, fun _ => rfl⟩

theorem State.clearPassed_eq (s : State) (b token : Bytes) :
    let c := entLen b % 8
    let a := if entCount b = 256 then 1 else 0
    let v := s.takeAuthority b token
    s.clearPassed b token =
      if s.erw.flush.isSome then v.adminWaits b (.clear c a) else (v.endAdmin.clearChannel c a).adminDone b 0 0 := by
  intro c a v
  obtain ⟨_, _, flush, _, _⟩ := s.takeAuthority_facts b token
  have authority : ofBool (entCount b == 256) = a := by
    rw [ofBool_if]
    simp [a]
  unfold State.clearPassed
  dsimp only
  rw [flush, authority, clearChan_eq]

theorem exec_recorderClear_of_takes {s u : State} {t : Nat} {b : Bytes} (h : s.takesAdmin t 0x30 b u) (token : Bytes) :
    exec (.recorderClear t token) s = .next
      (if u.tokenAsks b token then u.pkAsk b .verify .recorder [] (.verify token)
       else if u.clearStatus b token ≠ 0 then u.adminDone b (u.clearStatus b token) 0
       else u.clearPassed b token).intPoll :=
  adminRow_of_takes h fun b s =>
    if s.tokenAsks b token then s.pkAsk b .verify .recorder [] (.verify token)
    else if s.clearStatus b token ≠ 0 then s.adminDone b (s.clearStatus b token) 0
    else s.clearPassed b token

/-- Settles O37, command by command: windows, acknowledgements, flushes, and clears. -/
theorem recorderCommands : Obligations.RecorderCommands := by
  refine ⟨?_, ?_, ?_, ?_, ?_, ?_, ?_, ?_, ?_, ?_⟩
  · intro s u t v h load c cur
    have chan : (u.modErw fun e => { e with winChan := BitVec.ofNat 3 v.toNat }).erw.winChan.toNat = c :=
      BitVec.toNat_ofNat ..
    refine ⟨_, exec_windowLoad_of_acts h load, ?_⟩
    by_cases denied : (c = 3 ∨ c = 4) ∧ u.cus.dbgUnlocked = false
    · obtain ⟨cs, e, erw⟩ := State.windowLoad_denied
        (s := u.modErw fun e => { e with winChan := BitVec.ofNat 3 v.toNat }) (by rw [chan]; exact denied.1) denied.2
      rw [erw]
      exact ⟨chan, fun _ => ⟨rfl, rfl, rfl⟩, fun h => absurd denied h⟩
    · rw [State.windowLoad_open (by rw [chan]; exact denied), chan]
      have same : ∀ k, (u.modErw fun e => { e with winChan := BitVec.ofNat 3 v.toNat }).chan k = u.chan k := fun _ => rfl
      rw [same, show (u.modErw fun e => { e with winChan := BitVec.ofNat 3 v.toNat }).erw.cursor.toNat = cur from rfl]
      generalize (u.chan c).at? cur = found
      cases found with
      | none =>
        dsimp only
        exact ⟨chan, fun h => absurd h denied, fun _ => ⟨rfl, rfl, fun k other =>
          (chan_modErw _ _ (by rfl) k).trans (chan_modChan_other _ _ _ _ other),
          fun r hr => absurd hr (by simp), fun _ => ⟨rfl, rfl, rfl⟩⟩⟩
      | some r =>
        dsimp only
        refine ⟨chan, fun h => absurd h denied, fun _ => ⟨rfl, rfl, fun k other =>
          (chan_modErw _ _ (by rfl) k).trans (chan_modChan_other _ _ _ _ other),
          fun x hx => ?_, fun h => absurd h (by simp)⟩⟩
        obtain rfl := Option.some.inj hx
        exact ⟨rfl, rfl, rfl, rfl⟩
  · intro s u t v h
    rw [← u.flushAck_eq v]
    exact act_of_acts h fun s => s.flushAck v.toNat
  · intro s u t b h powered idle room
    obtain ⟨f, flush, trigger, number, taken, next, _, chans⟩ := issue_fresh u 4 powered room (by decide)
    refine ⟨(u.issueFlush 4).adminWaits b .flush, f, ?_, flush, trigger, number, taken, next, rfl, chans⟩
    rw [exec_recorderFlush_of_takes h, if_neg (not_not.mpr powered), State.joinFlush_idle idle, if_pos (by simp [flush])]
  · intro s u t b h inhibited
    rw [exec_recorderFlush_of_takes h, if_pos inhibited]
  · intro s u t b h powered
    rw [exec_recorderFlush_of_takes h, if_neg (not_not.mpr powered)]
    refine ⟨fun running => ?_, fun idle small => ?_⟩
    · rw [State.joinFlush_running running, if_pos (Option.ne_none_iff_isSome.mp running)]
    · rw [State.joinFlush_idle idle, State.issueFlush_small powered small, if_neg (by simp [idle])]
  · intro s u t f h flush awake data
    have run : exec (.flushEnd t) s = .next (u.flushed f).flushWaiters.nextFlush.intPoll := by
      rw [← State.endFlush_eq]
      have run : exec (.flushEnd t) s = _ := act_of_acts h fun s => match s.erw.flush with
        | none => s
        | some f => s.endFlush f
      rwa [flush] at run
    obtain ⟨qg, stw, wait, ended, unacked, flushes, outputs⟩ := u.flushed_facts f
    have awake' : (u.flushed f).stw.restarting = false := by rw [stw, awake]
    refine ⟨(u.flushed f).flushWaiters, run, by rw [State.flushWaiters_wait, wait], fun b running => ?_,
      fun b c a running _ => ?_, fun idle => ?_⟩
    · rw [State.flushWaiters_flush (b := b) (by rw [qg, running]) awake', qg]
      exact ⟨rfl, rfl⟩
    · rw [State.flushWaiters_clear (b := b) (c := c) (a := a) (by rw [qg, running]) awake', qg]
      exact ⟨rfl, rfl⟩
    · rw [State.flushWaiters_idle (by rw [qg, idle])]
      exact ⟨qg, ended, unacked, flushes, outputs⟩
  · intro v
    refine ⟨fun none_ => ?_, fun tr noted powered => ?_⟩
    · unfold State.nextFlush
      rw [none_]
    · unfold State.nextFlush
      rw [noted]
      exact if_neg (not_not.mpr powered)
  · exact fun s u t b token h => exec_recorderClear_of_takes h token
  · intro u b token run awake
    unfold State.tokenVerified
    rw [← State.finishAdmin_run (r := ⟨b, .pk (.verify token)⟩) run awake]
    rfl
  · intro u b token passed c w
    obtain ⟨qg, chans, flush, tokens, grant⟩ := u.takeAuthority_facts b token
    have kept : (u.takeAuthority b token).qg.due = u.qg.due := congrArg Qg.due qg
    have small : c ≤ 2 := clearStatus_le u b token passed
    have after : w = _ := u.clearPassed_eq b token
    obtain ⟨gen, codes, cleared, cus⟩ := clearChannel_facts (u.takeAuthority b token).endAdmin c
      (if entCount b = 256 then 1 else 0) small
    cases idle : u.erw.flush with
    | none =>
      have spent := State.clearChannel_tokens (u.takeAuthority b token).endAdmin c (if entCount b = 256 then 1 else 0)
      have same : (u.takeAuthority b token).endAdmin.chan c = u.chan c := 
        congrArg (fun x : Tab Channel => Tab.getD x c {}) chans
      have due : (u.takeAuthority b token).endAdmin.qg.due = u.qg.due := kept
      rw [idle, if_neg (by simp)] at after
      rw [after, if_pos rfl]
      rw [same] at gen
      rw [← due, ← cleared]
      have ran : ((u.takeAuthority b token).endAdmin.clearChannel c (if entCount b = 256 then 1 else 0)).qg.run = none :=
        congrArg Qg.run cleared
      generalize (u.takeAuthority b token).endAdmin.clearChannel c (if entCount b = 256 then 1 else 0) = x at *
      exact ⟨fun count => spent.trans (tokens count), fun count => (congrArg Cus.clearGranted cus).trans (grant count), ran,
        rfl, gen, codes⟩
    | some f =>
      rw [idle, if_pos (show (some f).isSome = true from rfl)] at after
      rw [after, if_neg (Option.some_ne_none f)]
      exact ⟨tokens, grant, rfl, chans, kept⟩

end Sys2Proof.Machine

/-! ## The end of a job of the PK engine (R386, R395 to R403, R309) -/

namespace Sys2Proof.Machine

/-- R400, R403: the state once the errors and the failed runs of a job are counted. -/
def State.jobCounted (s : State) (j : PkJob) (failed corrected : Nat) : State :=
  (if corrected = 0 then s else s.modPke fun p => { p with eccCe := p.eccCe.add 16 corrected s.now }).discardRuns j failed

theorem discardRuns_only (s : State) (j : PkJob) (n : Nat) : s.changesOnly [.pwr, .erw, .pke] (s.discardRuns j n) := by
  unfold State.discardRuns
  exact only_ite (only_refl _ s) (only_after (record_only _ _ _ _ _) (by simp) (only_mono (modPke_only s _) (by simp)))

theorem jobCounted_only (s : State) (j : PkJob) (failed corrected : Nat) :
    s.changesOnly [.pwr, .erw, .pke] (s.jobCounted j failed corrected) := by
  unfold State.jobCounted
  refine only_trans ?_ (discardRuns_only _ j failed)
  exact only_ite (only_refl _ s) (only_mono (modPke_only s _) (by simp))

theorem State.pkEnd_of_running {s : State} {j : PkJob} (running : s.pke.running = some j) (failed corrected : Nat) :
    s.pkEnd failed corrected =
      if s.now < (if failed = 0 then j.start + j.dur else j.start + 2 * j.dur) then s
      else ((s.jobCounted j failed corrected).jobResult j (decide (2 ≤ failed))).modPke fun p => p.afterJob j := by
  unfold State.pkEnd
  rw [running] <;> rfl

theorem exec_pkJobEnd_of_acts {s u : State} {t : Nat} {j : PkJob} (h : s.actsAt t u) (running : u.pke.running = some j)
    (n : BitVec 2) (c : BitVec 16) :
    exec (.pkJobEnd t ⟨n, c⟩) s = .next
      (if u.now < (if n = 0 then j.start + j.dur else j.start + 2 * j.dur) then u
       else ((u.jobCounted j n.toNat c.toNat).jobResult j (decide (2 ≤ n.toNat))).modPke fun p => p.afterJob j).intPoll := by
  have none_ : n.toNat = 0 ↔ n = 0 := by rw [← BitVec.toNat_inj]; rfl
  have run : exec (.pkJobEnd t ⟨n, c⟩) s = _ := act_of_acts h fun s => s.pkEnd n.toNat c.toNat
  rw [State.pkEnd_of_running running] at run
  simpa only [none_] using run

theorem State.jobCounted_eq (s : State) (j : PkJob) (n : BitVec 2) (c : BitVec 16) :
    s.jobCounted j n.toNat c.toNat =
      let w := if c = 0 then s else { s with pke := { s.pke with eccCe := s.pke.eccCe.add 16 c.toNat s.now } }
      if n = 0 then w
      else { w with pke := { w.pke with outchk := w.pke.outchk.add 16 n.toNat w.now } }.record 1 0x0115 3
        (leBytes 1 0 ++ leBytes 1 0 ++ (leBytes 1 j.op.code ++ leBytes 1 j.slot)) := by
  have none_ : n.toNat = 0 ↔ n = 0 := by rw [← BitVec.toNat_inj]; rfl
  have clean : c.toNat = 0 ↔ c = 0 := by rw [← BitVec.toNat_inj]; rfl
  unfold State.jobCounted State.discardRuns
  simp only [none_, clean]
  rfl

theorem State.jobResult_eq {s u : State} (same : s.qg = u.qg) (j : PkJob) (aborted : Bool) :
    s.jobResult j aborted = match j.client with
      | .startup => s.endStartup j aborted
      | .manifests => s.endManifest j aborted
      | .host => s.endHostJob j aborted
      | _ => match u.qg.run with
        | some ⟨b, .pk step⟩ => if j.orphan = true then s else s.pkStep b step aborted
        | _ => s := by
  unfold State.jobResult
  rw [same]
  cases j.client <;> first | rfl | skip
  all_goals
    dsimp only
    rcases u.qg.run with _ | ⟨b, w⟩
    · rfl
    · cases w <;> rfl

/-! ### Host jobs (R396) -/

/-- While the Steward restarts, a PK_JOB alone does not wait for it (R419). -/
theorem State.finishAdmin_pkJob {s : State} {b : Bytes} (run : s.qg.run = some ⟨b, .pkJob⟩) (st x : Nat) :
    s.finishAdmin st x = { s with qg := { s.qg with run := none, due := s.qg.due ++ [complOf b st x] } } := by
  unfold State.finishAdmin
  simp only [run, bne_self_eq_false, Bool.and_false, Bool.false_eq_true, if_false]
  rfl

theorem pkStore_only (s : State) (j : PkJob) : s.changesOnly [.pke] (s.pkStore j) := by
  unfold State.pkStore
  split
  · split
    · exact only_refl _ s
    · exact modPke_only s _
  · split
    · exact only_refl _ s
    · exact only_ite (modPke_only s _) (only_refl _ s)
  · exact only_refl _ s

/-- R395, R400: the status of a job with its result. -/
def State.jobOutcome (s : State) (j : PkJob) (aborted : Bool) : Nat × Bytes :=
  if aborted = true then (0x60, []) else s.pkOutcome j

theorem State.endHostJob_failed {s : State} {j : PkJob} {aborted : Bool} (failed : (s.jobOutcome j aborted).1 ≠ 0) :
    s.endHostJob j aborted = s.finishAdmin (s.jobOutcome j aborted).1 0 := by
  cases aborted
  · exact if_pos failed
  · rfl

theorem State.endHostJob_done {s : State} {j : PkJob} {aborted : Bool} (done : (s.jobOutcome j aborted).1 = 0) :
    s.endHostJob j aborted =
      (if (s.jobOutcome j aborted).2.isEmpty then s.pkStore j
       else (s.pkStore j).emit (.interior j.outAddr (s.jobOutcome j aborted).2)).finishAdmin 0
        (s.jobOutcome j aborted).2.length := by
  cases aborted
  · exact if_neg (not_not.mpr done)
  · cases done

theorem State.emitted_facts {s v : State} (only : s.changesOnly [.pke] v) (a : Nat) (bs : Bytes) :
    (if bs.isEmpty then v else v.emit (.interior a bs)).qg = s.qg ∧
      (if bs.isEmpty then v else v.emit (.interior a bs)).outputs =
        if bs = [] then s.outputs else .interior a bs :: s.outputs := by
  have qg : v.qg = s.qg := only .qg (by simp)
  have outputs : v.outputs = s.outputs := only .outputs (by simp)
  cases bs
  · exact ⟨qg, outputs⟩
  · exact ⟨qg, congrArg _ outputs⟩

/-! ### Start-up jobs (R57, R78) -/

theorem State.sessionFrame_cus (s : State) :
    ∃ q a, s.sessionFrame.cus = { s.cus with txSeq := q, awaiting := a } := ⟨_, _, rfl⟩

theorem State.sessionsDue_cus (s : State) :
    ∃ q a, s.sessionsDue.cus = { s.cus with hellos := 0, txSeq := q, awaiting := a } := by
  have frames : ∀ (ns : List Nat) (v : State),
      ∃ q a, (ns.foldl (fun s _ => s.sessionFrame) v).cus = { v.cus with txSeq := q, awaiting := a } := by
    intro ns
    induction ns with
    | nil => exact fun v => ⟨_, _, rfl⟩
    | cons n ns ih =>
      intro v
      obtain ⟨q, a, rest⟩ := ih v.sessionFrame
      exact ⟨q, a, rest⟩
  exact frames _ _

theorem romCheck_only (s : State) : s.changesOnly [.pwr, .regions] s.romCheck := by
  unfold State.romCheck
  exact only_ite (only_after (modRegion_only _ _ _) (by simp) (only_mono (modPwr_only s _) (by simp))) (only_refl _ s)

theorem State.romCheck_certDone (s : State) : s.romCheck.pwr.certDone = s.pwr.certDone := by
  unfold State.romCheck
  split <;> rfl

theorem State.certVerdict_facts (s : State) (ok : Bool) :
    let w := s.certVerdict ok
    w.pwr.certDone = true ∧ w.cus = s.cus ∧
      (ok = true → s.sil.cert.ok = true → w.sil.certOk = true ∧ w.sil.grade = s.sil.cert.grade) ∧
      (ok = false → w.sil.certOk = s.sil.certOk) := by
  unfold State.certVerdict
  dsimp only
  split
  next good =>
    obtain ⟨done, _⟩ := Bool.and_eq_true_iff.mp good
    exact ⟨rfl, rfl, fun _ _ => ⟨rfl, rfl⟩, fun failed => absurd (done.symm.trans failed) (by simp)⟩
  next bad =>
    refine ⟨rfl, rfl, fun done cert => absurd ?_ bad, fun _ => rfl⟩
    rw [done]
    exact cert

theorem State.endStartup_keypair {s : State} {j : PkJob} (op : j.op = .keypair) :
    let w := s.endStartup j false
    w.cus.sessionOk = true ∧ w.cus.sessionD = keyOfDraw curveP384 j.draw ∧
      w.cus.sessionPub = encodePoint curveP384 (pointMul curveP384 w.cus.sessionD curveP384.gen) ∧
      w.cus.sessionFp = sha384 w.cus.sessionPub := by
  intro w
  have made : w = (s.sessionKey j.draw).sessionsDue.romCheck := by
    simp only [w, State.endStartup, op]
    rfl
  obtain ⟨q, a, due⟩ := (s.sessionKey j.draw).sessionsDue_cus
  have cus : w.cus = { (s.sessionKey j.draw).cus with hellos := 0, txSeq := q, awaiting := a } := by
    rw [made, ← due]
    exact romCheck_only _ .cus (by simp)
  rw [cus]
  exact ⟨rfl, rfl, rfl, rfl⟩

theorem State.endStartup_aborted {s : State} {j : PkJob} (op : j.op = .keypair) : s.endStartup j true = s := by
  simp [State.endStartup, op]

theorem State.endStartup_verify {s : State} {j : PkJob} (op : j.op = .verify) (aborted : Bool) :
    s.endStartup j aborted = (s.certVerdict (!aborted)).romCheck := by
  simp [State.endStartup, op]

/-! ### Manifests (R309) -/

theorem State.mem_outputs_settleRun {s : State} {o : Output} (sent : o ∈ s.outputs) (e : Nat) :
    o ∈ (s.settleRun e).outputs := by
  rw [show (s.settleRun e).outputs = s.outputs from settleRun_only s e .outputs (by simp)]
  exact sent

theorem State.mem_outputs_writeManifest (s : State) (n : Nat) (m : Manifest) :
    .interior m.addr (m.body ++ m.signature.getD [] ++ zeroBytes 32) ∈ (s.writeManifest n m).outputs :=
  mem_outputs_settleRun List.mem_cons_self m.run

theorem State.endManifest_of_held {s : State} {j : PkJob} {m : Manifest} {sig : Bytes}
    (held : Tab.find s.pke.held j.manifest = some m) (made : sign384 s.cus.sessionD m.body = sig) :
    let signed := { m with signature := some sig }
    s.endManifest j false =
      if s.runFenced m.run then s.modPke fun p => { p with held := Tab.put p.held j.manifest signed }
      else s.writeManifest j.manifest signed := by
  intro signed
  subst made
  unfold State.endManifest
  rw [held] <;> rfl

/-- R309, R89: the signed manifest is written, or held while its matter is fenced. -/
theorem State.endManifest_signed {s : State} {j : PkJob} {m : Manifest} {sig : Bytes}
    (held : Tab.find s.pke.held j.manifest = some m) (made : sign384 s.cus.sessionD m.body = sig) :
    (s.runFenced m.run = false →
      .interior m.addr (m.body ++ sig ++ zeroBytes 32) ∈ (s.endManifest j false).outputs) ∧
    (s.runFenced m.run = true → s.endManifest j false = { s with
      pke := { s.pke with held := Tab.put s.pke.held j.manifest { m with signature := some sig } } }) := by
  rw [endManifest_of_held held made]
  refine ⟨fun open_ => ?_, fun fenced => ?_⟩
  · rw [if_neg (ne_true_of_eq_false open_)]
    exact mem_outputs_writeManifest s j.manifest { m with signature := some sig }
  · rw [if_pos fenced]
    rfl

/-! ### Outcomes and curves (R390, R395, R397) -/

theorem State.curveAt_loaded (s : State) {i : Nat} (low : 3 ≤ i) (high : i < 16) :
    s.curveAt i = Tab.find s.pke.curves i := by
  obtain ⟨k, rfl⟩ := Nat.exists_eq_add_of_le' low
  exact if_pos high

/-- Settles O39: the end of the job's runs, and what each client does with the result. -/
theorem pkJobEnds : Obligations.PkJobEnds := by
  refine ⟨?_, ?_, ?_, ?_, ?_, ?_, ?_, ?_, ?_, ?_⟩
  · intro s u t n c j h running early
    rw [exec_pkJobEnd_of_acts h running, if_pos early]
  · intro s u v t n c j h running late counted aborted
    rw [← State.jobCounted_eq] at counted
    have same : v.qg = u.qg := by
      rw [counted]
      exact jobCounted_only u j n.toNat c.toNat .qg (by simp)
    rw [exec_pkJobEnd_of_acts h running, if_neg (not_lt.mpr late), ← counted, State.jobResult_eq same] <;> rfl
  · intro p j
    refine ⟨rfl, rfl, fun none_ => ?_⟩
    unfold Pke.afterJob
    rw [none_]
    rfl
  · intro u j b run aborted o w
    refine ⟨?_, fun done => ?_, fun failed => ?_⟩
    · by_cases done : (u.jobOutcome j aborted).1 = 0
      · obtain ⟨qg, _⟩ := State.emitted_facts (pkStore_only u j) j.outAddr (u.jobOutcome j aborted).2
        rw [show w = _ from State.endHostJob_done done, State.finishAdmin_pkJob (b := b) (by rw [qg, run])]
      · rw [show w = _ from State.endHostJob_failed done, State.finishAdmin_pkJob run]
    · obtain ⟨qg, outputs⟩ := State.emitted_facts (pkStore_only u j) j.outAddr (u.jobOutcome j aborted).2
      rw [show w = _ from State.endHostJob_done done, State.finishAdmin_pkJob (b := b) (by rw [qg, run])]
      exact ⟨by rw [qg]; rfl, outputs⟩
    · rw [show w = _ from State.endHostJob_failed failed, State.finishAdmin_pkJob run]
      exact ⟨rfl, rfl⟩
  · intro u j aborted w
    refine ⟨fun op ok => ?_, fun op failed => ?_, fun op => ?_⟩
    · subst ok
      exact State.endStartup_keypair op
    · subst failed
      exact State.endStartup_aborted op
    · have ended : w = (u.certVerdict (!aborted)).romCheck := State.endStartup_verify op aborted
      obtain ⟨certDone, cus, good, bad⟩ := u.certVerdict_facts (!aborted)
      have only := romCheck_only (u.certVerdict (!aborted))
      have sil : w.sil = (u.certVerdict (!aborted)).sil := by rw [ended]; exact only .sil (by simp)
      have cus' : w.cus = u.cus := by rw [ended, ← cus]; exact only .cus (by simp)
      refine ⟨by rw [ended, State.romCheck_certDone, certDone], congrArg Cus.sessionOk cus', fun ok cert => ?_, fun failed => ?_⟩
      · rw [sil]
        exact good (by simp [ok]) cert
      · rw [sil]
        exact bad (by simp [failed])
  · exact fun u j m held => State.endManifest_signed held rfl
  · exact fun u b d l a => ⟨rfl, rfl, rfl, rfl⟩
  · intro u j x curve d
    refine ⟨fun op bad => ?_, fun op bad => ?_, fun op => ?_, fun op => ?_⟩
    · simp only [State.pkOutcome, op, curve]
      exact if_pos bad
    · simp only [State.pkOutcome, op, curve]
      exact if_pos bad
    · simp only [State.pkOutcome, op, curve]
      exact ⟨trivial, trivial⟩
    · simp only [State.pkOutcome, op, curve]
  · intro u j op
    simp only [State.pkOutcome, op]
    cases curveLoad j.data <;> rfl
  · intro u j op low high
    rw [State.curveAt_loaded _ low high, State.curveAt_loaded _ low high]
    simp only [State.pkStore, op]
    cases curveLoad j.data with
    | none => rfl
    | some c => exact Tab.find_put_same ..

end Sys2Proof.Machine

/-!
## What leaves which parts unchanged

Each operation has one fact about a part that it does not touch: `π.same ρ` sees through it. The facts are `simp` rules,
so that the frame of an operation follows from those of the operations it is made of.
-/

namespace Sys2Proof.Machine

section
variable {π : Part} {ρ σ τ : State}

theorem Part.same_symm (h : π.same ρ σ) : π.same σ ρ := by cases π <;> exact Eq.symm h

theorem same_of_only {ps : List Part} (k : σ.changesOnly ps τ) (h : π ∉ ps) : π.same ρ τ ↔ π.same ρ σ :=
  ⟨fun x => Part.same_trans x (Part.same_symm (k π h)), fun x => Part.same_trans x (k π h)⟩

theorem modGctl_only (s : State) (f : Gctl → Gctl) : s.changesOnly [.gctl] (s.modGctl f) := by
  intro p hp; cases p <;> first | rfl | simp at hp
theorem modInt_only (s : State) (f : IntBlock → IntBlock) : s.changesOnly [.intb] (s.modInt f) := by
  intro p hp; cases p <;> first | rfl | simp at hp
theorem modEmc_only (s : State) (f : Emc → Emc) : s.changesOnly [.emc] (s.modEmc f) := by
  intro p hp; cases p <;> first | rfl | simp at hp

@[simp] theorem same_self : π.same ρ ρ := π.same_refl ρ

@[simp] theorem same_ite {c : Prop} [Decidable c] :
    π.same ρ (if c then σ else τ) ↔ if c then π.same ρ σ else π.same ρ τ := by
  split <;> rfl

@[simp] theorem same_foldl {α : Type} {f : State → α → State} (h : ∀ τ a, π.same ρ (f τ a) ↔ π.same ρ τ) (l : List α) :
    π.same ρ (l.foldl f σ) ↔ π.same ρ σ := by
  exact List.foldlRecOn (motive := fun τ => π.same ρ τ ↔ π.same ρ σ) l f Iff.rfl fun τ ih a _ => (h τ a).trans ih

@[simp] theorem same_setRuns (apart : π ∉ [Part.runs]) (x : Tab Run) :
    π.same ρ { σ with runs := x } ↔ π.same ρ σ := by
  cases π <;> simp_all [Part.same]

@[simp] theorem same_setJobs (apart : π ∉ [Part.jobs]) (x : Tab Job) :
    π.same ρ { σ with jobs := x } ↔ π.same ρ σ := by
  cases π <;> simp_all [Part.same]

@[simp] theorem same_setSeals (apart : π ∉ [Part.seals]) (x : Tab SealSpawn) :
    π.same ρ { σ with seals := x } ↔ π.same ρ σ := by
  cases π <;> simp_all [Part.same]

@[simp] theorem same_setTiles (apart : π ∉ [Part.tiles]) (x : Tab Tile) :
    π.same ρ { σ with tiles := x } ↔ π.same ρ σ := by
  cases π <;> simp_all [Part.same]

@[simp] theorem same_setKeys (apart : π ∉ [Part.keyCache, .dicts]) (x : Tab PubKey) (y : Tab Dict) :
    π.same ρ { σ with keyCache := x, dicts := y } ↔ π.same ρ σ := by
  cases π <;> simp_all [Part.same]

@[simp] theorem same_setKeySlots (apart : π ∉ [Part.keyCache, .dictSlots, .dicts]) (x : Tab PubKey) (y : Tab Nat)
    (z : Tab Dict) : π.same ρ { σ with keyCache := x, dictSlots := y, dicts := z } ↔ π.same ρ σ := by
  cases π <;> simp_all [Part.same]

@[simp] theorem same_setFaults (apart : π ∉ [Part.faults]) (x : Faults) :
    π.same ρ { σ with faults := x } ↔ π.same ρ σ := by
  cases π <;> simp_all [Part.same]

@[simp] theorem same_setDealt (apart : π ∉ [Part.dealt]) (x : Nat) : π.same ρ { σ with dealt := x } ↔ π.same ρ σ := by
  cases π <;> simp_all [Part.same]

@[simp] theorem same_setSealsDealt (apart : π ∉ [Part.seals, .dealt]) (x : Tab SealSpawn) (y : Nat) :
    π.same ρ { σ with seals := x, dealt := y } ↔ π.same ρ σ := by
  cases π <;> simp_all [Part.same]

@[simp] theorem same_setNewSeal (apart : π ∉ [Part.seals, .nextSeal, .dealt]) (x : Tab SealSpawn) (y z : Nat) :
    π.same ρ { σ with seals := x, nextSeal := y, dealt := z } ↔ π.same ρ σ := by
  cases π <;> simp_all [Part.same]

@[simp] theorem same_setNewJob (apart : π ∉ [Part.jobs, .nextJob]) (x : Tab Job) (y : Nat) :
    π.same ρ { σ with jobs := x, nextJob := y } ↔ π.same ρ σ := by
  cases π <;> simp_all [Part.same]

@[simp] theorem same_setRunsJobs (apart : π ∉ [Part.runs, .jobs]) (x : Tab Run) (y : Tab Job) :
    π.same ρ { σ with runs := x, jobs := y } ↔ π.same ρ σ := by
  cases π <;> simp_all [Part.same]

@[simp] theorem same_setFresh (apart : π ∉ [Part.fresh]) (x : Nat) : π.same ρ { σ with fresh := x } ↔ π.same ρ σ := by
  cases π <;> simp_all [Part.same]

@[simp] theorem same_setProfiles (apart : π ∉ [Part.profiles]) (x : Tab Profile) :
    π.same ρ { σ with profiles := x } ↔ π.same ρ σ := by
  cases π <;> simp_all [Part.same]

@[simp] theorem same_setKeyCache (apart : π ∉ [Part.keyCache]) (x : Tab PubKey) :
    π.same ρ { σ with keyCache := x } ↔ π.same ρ σ := by
  cases π <;> simp_all [Part.same]

@[simp] theorem same_setNewDict (apart : π ∉ [Part.dicts, .dictSlots, .nextDict]) (x : Tab Dict) (y : Tab Nat) (z : Nat) :
    π.same ρ { σ with dicts := x, dictSlots := y, nextDict := z } ↔ π.same ρ σ := by
  cases π <;> simp_all [Part.same]

@[simp] theorem same_bindBanks (apart : π ∉ [Part.sil]) (stamp : Nat) (roles : List Nat) :
    π.same ρ (σ.bindBanks stamp roles).1 ↔ π.same ρ σ := by
  induction roles generalizing σ with
  | nil => rfl
  | cons c cs ih => exact ih.trans (same_of_only (modSil_only σ _) apart)

/-- The frame of an operation, from what `π.same` sees through. -/
theorem only_of_same {ps : List Part} (h : ∀ π, π ∉ ps → π.same ρ σ) : ρ.changesOnly ps σ := h

end

end Sys2Proof.Machine

namespace Sys2Proof.Machine

section
variable {π : Part} {ρ σ : State}

@[simp] theorem same_modGctl (apart : π ∉ [Part.gctl]) (f : Gctl → Gctl) : π.same ρ (σ.modGctl f) ↔ π.same ρ σ :=
  same_of_only (modGctl_only σ f) apart
@[simp] theorem same_modInt (apart : π ∉ [Part.intb]) (f : IntBlock → IntBlock) : π.same ρ (σ.modInt f) ↔ π.same ρ σ :=
  same_of_only (modInt_only σ f) apart
@[simp] theorem same_modTime (apart : π ∉ [Part.time]) (f : Time → Time) : π.same ρ (σ.modTime f) ↔ π.same ρ σ :=
  same_of_only (modTime_only σ f) apart
@[simp] theorem same_modPwr (apart : π ∉ [Part.pwr]) (f : Pwr → Pwr) : π.same ρ (σ.modPwr f) ↔ π.same ρ σ :=
  same_of_only (modPwr_only σ f) apart
@[simp] theorem same_modStw (apart : π ∉ [Part.stw]) (f : Stw → Stw) : π.same ρ (σ.modStw f) ↔ π.same ρ σ :=
  same_of_only (modStw_only σ f) apart
@[simp] theorem same_modErw (apart : π ∉ [Part.erw]) (f : Erw → Erw) : π.same ρ (σ.modErw f) ↔ π.same ρ σ :=
  same_of_only (modErw_only σ f) apart
@[simp] theorem same_modPke (apart : π ∉ [Part.pke]) (f : Pke → Pke) : π.same ρ (σ.modPke f) ↔ π.same ρ σ :=
  same_of_only (modPke_only σ f) apart
@[simp] theorem same_modCus (apart : π ∉ [Part.cus]) (f : Cus → Cus) : π.same ρ (σ.modCus f) ↔ π.same ρ σ :=
  same_of_only (modCus_only σ f) apart
@[simp] theorem same_modSil (apart : π ∉ [Part.sil]) (f : Sil → Sil) : π.same ρ (σ.modSil f) ↔ π.same ρ σ :=
  same_of_only (modSil_only σ f) apart
@[simp] theorem same_modQg (apart : π ∉ [Part.qg]) (f : Qg → Qg) : π.same ρ (σ.modQg f) ↔ π.same ρ σ :=
  same_of_only (modQg_only σ f) apart
@[simp] theorem same_modDet (apart : π ∉ [Part.det]) (f : Det → Det) : π.same ρ (σ.modDet f) ↔ π.same ρ σ :=
  same_of_only (modDet_only σ f) apart
@[simp] theorem same_modPool (apart : π ∉ [Part.pool]) (f : Pool → Pool) : π.same ρ (σ.modPool f) ↔ π.same ρ σ :=
  same_of_only (modPool_only σ f) apart
@[simp] theorem same_modEmc (apart : π ∉ [Part.emc]) (f : Emc → Emc) : π.same ρ (σ.modEmc f) ↔ π.same ρ σ :=
  same_of_only (modEmc_only σ f) apart
@[simp] theorem same_modRegion (apart : π ∉ [Part.regions]) (r : Nat) (f : Region → Region) :
    π.same ρ (σ.modRegion r f) ↔ π.same ρ σ :=
  same_of_only (modRegion_only σ r f) apart
@[simp] theorem same_modTile (apart : π ∉ [Part.tiles]) (id : Nat) (f : Tile → Tile) :
    π.same ρ (σ.modTile id f) ↔ π.same ρ σ :=
  same_of_only (modTile_only σ id f) apart
@[simp] theorem same_modLabel (apart : π ∉ [Part.cus]) (l : Nat) (f : Label → Label) :
    π.same ρ (σ.modLabel l f) ↔ π.same ρ σ :=
  same_of_only (modLabel_only σ l f) apart
@[simp] theorem same_modQueue (apart : π ∉ [Part.qg]) (q : Nat) (f : Queue → Queue) :
    π.same ρ (σ.modQueue q f) ↔ π.same ρ σ :=
  same_of_only (modQueue_only σ q f) apart
@[simp] theorem same_modChan (apart : π ∉ [Part.erw]) (c : Nat) (f : Channel → Channel) :
    π.same ρ (σ.modChan c f) ↔ π.same ρ σ := by
  simp only [List.mem_cons, not_or] at apart
  unfold State.modChan
  simp [apart]

@[simp] theorem same_modRun (apart : π ∉ [Part.runs]) (e : Nat) (f : Run → Run) : π.same ρ (σ.modRun e f) ↔ π.same ρ σ :=
  same_of_only (modRun_only σ e f) apart
@[simp] theorem same_emit (apart : π ∉ [Part.outputs]) (o : Output) : π.same ρ (σ.emit o) ↔ π.same ρ σ :=
  same_of_only (emit_only σ o) apart
@[simp] theorem same_issueFlush (apart : π ∉ [Part.pwr, .erw]) (trigger : Nat) :
    π.same ρ (σ.issueFlush trigger) ↔ π.same ρ σ := by
  simp only [List.mem_cons, not_or] at apart
  unfold State.issueFlush
  simp [apart]

@[simp] theorem same_triggerFlush (apart : π ∉ [Part.pwr, .erw]) (trigger : Nat) :
    π.same ρ (σ.triggerFlush trigger) ↔ π.same ρ σ := by
  simp only [List.mem_cons, not_or] at apart
  unfold State.triggerFlush
  simp [apart]

@[simp] theorem same_joinFlush (apart : π ∉ [Part.pwr, .erw]) (trigger : Nat) : π.same ρ (σ.joinFlush trigger) ↔ π.same ρ σ := by
  simp only [List.mem_cons, not_or] at apart
  unfold State.joinFlush
  simp [apart]

@[simp] theorem same_putRecord (apart : π ∉ [Part.erw]) (c code severity : Nat) (payload : Bytes) :
    π.same ρ (σ.putRecord c code severity payload) ↔ π.same ρ σ := by
  simp only [List.mem_cons, not_or] at apart
  unfold State.putRecord
  simp [apart]

@[simp] theorem same_recordTriggers (apart : π ∉ [Part.pwr, .erw]) (c severity : Nat) (before : Bool) :
    π.same ρ (σ.recordTriggers c severity before) ↔ π.same ρ σ := by
  simp only [List.mem_cons, not_or] at apart
  unfold State.recordTriggers
  simp [apart]

@[simp] theorem same_record (apart : π ∉ [Part.pwr, .erw]) (c code severity : Nat) (payload : Bytes) :
    π.same ρ (σ.record c code severity payload) ↔ π.same ρ σ :=
  same_of_only (record_only σ c code severity payload) apart
@[simp] theorem same_opsWrite (apart : π ∉ [Part.pwr, .erw]) (off value : Nat) :
    π.same ρ (σ.opsWrite off value) ↔ π.same ρ σ := by
  simp only [List.mem_cons, not_or] at apart
  unfold State.opsWrite
  simp [apart]

@[simp] theorem same_opsRule (apart : π ∉ [Part.pwr, .erw]) (rule arg : Nat) : π.same ρ (σ.opsRule rule arg) ↔ π.same ρ σ := by
  simp only [List.mem_cons, not_or] at apart
  unfold State.opsRule
  simp [apart]

@[simp] theorem same_faultRecord (apart : π ∉ [Part.pwr, .erw]) (code severity region cause : Nat) (more : Bytes) :
    π.same ρ (σ.faultRecord code severity region cause more) ↔ π.same ρ σ := by
  simp only [List.mem_cons, not_or] at apart
  unfold State.faultRecord
  simp [apart]

@[simp] theorem same_custodyRecord (apart : π ∉ [Part.pwr, .erw]) (code severity : Nat) (payload : Bytes) :
    π.same ρ (σ.custodyRecord code severity payload) ↔ π.same ρ σ := by
  simp only [List.mem_cons, not_or] at apart
  unfold State.custodyRecord
  simp [apart]

@[simp] theorem same_setPhase (apart : π ∉ [Part.pwr]) (p : Phase) : π.same ρ (σ.setPhase p) ↔ π.same ρ σ := by
  simp only [List.mem_cons, not_or] at apart
  unfold State.setPhase
  simp [apart]

@[simp] theorem same_modPc (apart : π ∉ [Part.emc]) (p : Nat) (f : PseudoChannel → PseudoChannel) :
    π.same ρ (σ.modPc p f) ↔ π.same ρ σ := by
  simp only [List.mem_cons, not_or] at apart
  unfold State.modPc
  simp [apart]

@[simp] theorem same_spillUpdate (apart : π ∉ [Part.regions]) (r : Nat) : π.same ρ (σ.spillUpdate r) ↔ π.same ρ σ :=
  same_of_only (spillUpdate_only σ r) apart
@[simp] theorem same_holdCells (apart : π ∉ [Part.regions, .pool]) (r : Nat) (enc : Bool) (cs : List Nat) :
    π.same ρ (σ.holdCells r enc cs) ↔ π.same ρ σ := by
  simp only [List.mem_cons, not_or] at apart
  unfold State.holdCells
  simp [apart]

@[simp] theorem same_giveCells (apart : π ∉ [Part.regions, .pool]) (r : Nat) (enc : Bool) (cs : List Nat) (l : Nat) :
    π.same ρ (σ.giveCells r enc cs l) ↔ π.same ρ σ :=
  same_of_only (giveCells_only σ r enc cs l) apart
@[simp] theorem same_serveRequest (apart : π ∉ [Part.regions, .pool]) (q : WorkRequest) (enc : Bool) (cs : List Nat) :
    π.same ρ (σ.serveRequest q enc cs) ↔ π.same ρ σ := by
  simp only [List.mem_cons, not_or] at apart
  unfold State.serveRequest
  simp [apart]

@[simp] theorem same_askCells (apart : π ∉ [Part.regions, .pool]) (q : WorkRequest) :
    π.same ρ (σ.askCells q).1 ↔ π.same ρ σ := by
  simp only [List.mem_cons, not_or] at apart
  unfold State.askCells
  repeat' split
  all_goals simp [apart]

@[simp] theorem same_freeWork (apart : π ∉ [Part.regions, .pool]) (f : WorkBuffer → Bool) :
    π.same ρ (σ.freeWork f) ↔ π.same ρ σ :=
  same_of_only (freeWork_only σ f) apart
@[simp] theorem same_freeUse (apart : π ∉ [Part.regions, .pool]) (u : CellUse) : π.same ρ (σ.freeUse u) ↔ π.same ρ σ := by
  simp only [List.mem_cons, not_or] at apart
  unfold State.freeUse
  simp [apart]

@[simp] theorem same_shrinkWork (apart : π ∉ [Part.regions, .pool]) (u : CellUse) (bytes : Nat) :
    π.same ρ (σ.shrinkWork u bytes) ↔ π.same ρ σ := by
  simp only [List.mem_cons, not_or] at apart
  unfold State.shrinkWork
  split <;> simp [apart]

@[simp] theorem same_dropWork (apart : π ∉ [Part.regions, .pool]) (e : Nat) : π.same ρ (σ.dropWork e) ↔ π.same ρ σ :=
  same_of_only (dropWork_only σ e) apart
@[simp] theorem same_dropUnboundDicts (apart : π ∉ [Part.pool, .dicts]) : π.same ρ σ.dropUnboundDicts ↔ π.same ρ σ :=
  same_of_only (dropUnboundDicts_only σ) apart
@[simp] theorem same_discard (apart : π ∉ [Part.pwr, .erw]) (l h : Nat) : π.same ρ (σ.discard l h) ↔ π.same ρ σ := by
  simp only [List.mem_cons, not_or] at apart
  unfold State.discard
  simp [apart]

@[simp] theorem same_addNdc (apart : π ∉ [Part.qg, .det, .runs]) (e : Nat) : π.same ρ (σ.addNdc e) ↔ π.same ρ σ :=
  same_of_only (addNdc_only σ e) apart
@[simp] theorem same_dropPoints (apart : π ∉ [Part.det]) (e : Nat) : π.same ρ (σ.dropPoints e) ↔ π.same ρ σ :=
  same_of_only (dropPoints_only σ e) apart
@[simp] theorem same_endRun (apart : π ∉ [Part.regions, .qg, .det, .pool, .runs, .jobs]) (e : Nat) :
    π.same ρ (σ.endRun e) ↔ π.same ρ σ :=
  same_of_only (endRun_only σ e) apart
@[simp] theorem same_settleDivs (apart : π ∉ [Part.pwr, .erw, .det, .runs]) (e : Nat) :
    π.same ρ (σ.settleDivs e) ↔ π.same ρ σ :=
  same_of_only (settleDivs_only σ e) apart
@[simp] theorem same_settleRun (apart : π ∉ [Part.pwr, .regions, .erw, .qg, .det, .pool, .runs, .jobs]) (e : Nat) :
    π.same ρ (σ.settleRun e) ↔ π.same ρ σ :=
  same_of_only (settleRun_only σ e) apart
@[simp] theorem same_dropSeals (apart : π ∉ [Part.regions, .tiles, .seals, .outputs]) (e : Nat) :
    π.same ρ (σ.dropSeals e) ↔ π.same ρ σ :=
  same_of_only (dropSeals_only σ e) apart
@[simp] theorem same_dropManifests (apart : π ∉ [Part.pke]) (e : Nat) : π.same ρ (σ.dropManifests e) ↔ π.same ρ σ := by
  simp only [List.mem_cons, not_or] at apart
  unfold State.dropManifests
  simp [apart]

@[simp] theorem same_markRuns (apart : π ∉ [Part.runs]) (p : Run → Bool) (f : Run → Run) :
    π.same ρ (σ.markRuns p f) ↔ π.same ρ σ := by
  simp only [List.mem_cons, not_or] at apart
  unfold State.markRuns
  simp [apart]

@[simp] theorem same_store (apart : π ∉ [Part.pwr, .erw, .pool, .runs, .outputs]) (e stage : Nat) (d : Desc) (m : Memory) :
    π.same ρ (σ.store e stage d m) ↔ π.same ρ σ :=
  same_of_only (store_only σ e stage d m) apart
@[simp] theorem same_judgeReads (apart : π ∉ [Part.pwr, .erw]) (r : Run) (ds : List Desc) :
    π.same ρ (σ.judgeReads r ds) ↔ π.same ρ σ := by
  simp only [List.mem_cons, not_or] at apart
  unfold State.judgeReads
  refine same_foldl (fun τ d => ?_) ds
  split
  · split <;> simp [apart]
  · rfl

@[simp] theorem same_countOob (apart : π ∉ [Part.runs]) (e n : Nat) : π.same ρ (σ.countOob e n) ↔ π.same ρ σ := by
  simp only [List.mem_cons, not_or] at apart
  unfold State.countOob
  simp [apart]

@[simp] theorem same_writeElems (apart : π ∉ [Part.pwr, .erw, .pool, .runs, .outputs]) (e stage : Nat) (d : Desc) (es : List
    (List Nat × Nat)) : π.same ρ (σ.writeElems e stage d es) ↔ π.same ρ σ :=
  same_of_only (writeElems_only σ e stage d es) apart
@[simp] theorem same_dropLoops (apart : π ∉ [Part.tiles]) (id : Nat) : π.same ρ (σ.dropLoops id) ↔ π.same ρ σ :=
  same_of_only (dropLoops_only σ id) apart
@[simp] theorem same_modJob (apart : π ∉ [Part.jobs]) (j : Nat) (f : Job → Job) : π.same ρ (σ.modJob j f) ↔ π.same ρ σ :=
  same_of_only (modJob_only σ j f) apart
@[simp] theorem same_putCopy (apart : π ∉ [Part.pwr, .erw, .pool, .runs, .outputs]) (x : Job) (f : Nat → Bool) :
    π.same ρ (σ.putCopy x f) ↔ π.same ρ σ :=
  same_of_only (putCopy_only σ x f) apart
@[simp] theorem same_dropCopies (apart : π ∉ [Part.pwr, .erw, .pool, .runs, .outputs]) (e : Nat) :
    π.same ρ (σ.dropCopies e) ↔ π.same ρ σ := by
  simp only [List.mem_cons, not_or] at apart
  unfold State.dropCopies
  simp [apart]

@[simp] theorem same_dropEntryLoops (apart : π ∉ [Part.tiles]) (e : Nat) : π.same ρ (σ.dropEntryLoops e) ↔ π.same ρ σ := by
  simp only [List.mem_cons, not_or] at apart
  unfold State.dropEntryLoops
  simp [apart]


end

end Sys2Proof.Machine

namespace Sys2Proof.Machine

section
variable {π : Part} {ρ σ : State}

@[simp] theorem same_dropRun (apart : π ∉ [Part.pwr, .regions, .tiles, .erw, .pke, .qg, .det, .pool, .runs, .jobs, .seals,
    .outputs]) (e : Nat) : π.same ρ (σ.dropRun e) ↔ π.same ρ σ :=
  same_of_only (dropRun_only σ e) apart
@[simp] theorem same_dropRuns (apart : π ∉ [Part.pwr, .regions, .tiles, .erw, .pke, .qg, .det, .pool, .runs, .jobs, .seals,
    .outputs]) (p : Run → Bool) : π.same ρ (σ.dropRuns p) ↔ π.same ρ σ := by
  simp only [List.mem_cons, not_or] at apart
  unfold State.dropRuns
  simp [apart]

@[simp] theorem same_adminDone (apart : π ∉ [Part.qg]) (b : Bytes) (status result : Nat) :
    π.same ρ (σ.adminDone b status result) ↔ π.same ρ σ :=
  same_of_only (adminDone_only σ b status result) apart
@[simp] theorem same_finishAdmin (apart : π ∉ [Part.qg]) (status result : Nat) :
    π.same ρ (σ.finishAdmin status result) ↔ π.same ρ σ :=
  same_of_only (finishAdmin_only σ status result) apart
@[simp] theorem same_adminWaits (apart : π ∉ [Part.qg]) (b : Bytes) (w : AdminWait) :
    π.same ρ (σ.adminWaits b w) ↔ π.same ρ σ :=
  same_of_only (adminWaits_only σ b w) apart
@[simp] theorem same_endAdmin (apart : π ∉ [Part.qg]) : π.same ρ σ.endAdmin ↔ π.same ρ σ := by
  simp only [List.mem_cons, not_or] at apart
  unfold State.endAdmin
  simp [apart]

@[simp] theorem same_pkAsk (apart : π ∉ [Part.pke, .qg]) (b : Bytes) (op : PkOp) (client : PkClient) (data : Bytes) (step :
    PkStep) : π.same ρ (σ.pkAsk b op client data step) ↔ π.same ρ σ := by
  simp only [List.mem_cons, not_or] at apart
  unfold State.pkAsk
  simp [apart]

@[simp] theorem same_finishRevokes (apart : π ∉ [Part.qg]) (l status : Nat) :
    π.same ρ (σ.finishRevokes l status) ↔ π.same ρ σ := by
  simp only [List.mem_cons, not_or] at apart
  unfold State.finishRevokes
  simp [apart]

@[simp] theorem same_openFails (apart : π ∉ [Part.pwr, .erw, .cus, .qg]) (l order status : Nat) :
    π.same ρ (σ.openFails l order status) ↔ π.same ρ σ := by
  simp only [List.mem_cons, not_or] at apart
  unfold State.openFails
  simp [apart]

@[simp] theorem same_fenceAdmin (apart : π ∉ [Part.pke, .qg]) (source l : Nat) :
    π.same ρ (σ.fenceAdmin source l) ↔ π.same ρ σ := by
  simp only [List.mem_cons, not_or] at apart
  unfold State.fenceAdmin
  split <;> simp [apart]

@[simp] theorem same_fenceOne (apart : π ∉ [Part.pwr, .erw, .pke, .cus, .qg]) (source slot l : Nat) :
    π.same ρ (σ.fenceOne source slot l) ↔ π.same ρ σ := by
  simp only [List.mem_cons, not_or] at apart
  unfold State.fenceOne
  split <;> simp [apart]

@[simp] theorem same_liftOne (apart : π ∉ [Part.pwr, .erw, .cus]) (slot l : Nat) : π.same ρ (σ.liftOne slot l) ↔ π.same ρ σ := by
  simp only [List.mem_cons, not_or] at apart
  unfold State.liftOne
  split <;> simp [apart]

@[simp] theorem same_noteTails (apart : π ∉ [Part.qg]) (l : Nat) : π.same ρ (σ.noteTails l) ↔ π.same ρ σ := by
  simp only [List.mem_cons, not_or] at apart
  unfold State.noteTails
  simp [apart]

@[simp] theorem same_dropFences (apart : π ∉ [Part.qg]) (l : Nat) : π.same ρ (σ.dropFences l) ↔ π.same ρ σ := by
  simp only [List.mem_cons, not_or] at apart
  unfold State.dropFences
  simp [apart]

@[simp] theorem same_eraseKeys (apart : π ∉ [Part.tiles, .pool, .dicts, .dictSlots, .keyCache]) (l : Nat) :
    π.same ρ (σ.eraseKeys l) ↔ π.same ρ σ := by
  simp only [List.mem_cons, not_or] at apart
  unfold State.eraseKeys
  exact (same_setKeySlots (by simp [apart]) _ _ _).trans
    ((same_setTiles (by simp [apart]) _).trans (same_modPool (by simp [apart]) _))

@[simp] theorem same_cancelWindow (apart : π ∉ [Part.cus]) (l : Nat) : π.same ρ (σ.cancelWindow l) ↔ π.same ρ σ := by
  simp only [List.mem_cons, not_or] at apart
  unfold State.cancelWindow
  simp [apart]

@[simp] theorem same_eraseOne (apart : π ∉ [Part.pwr, .regions, .tiles, .erw, .pke, .cus, .qg, .det, .pool, .runs, .jobs,
    .dicts, .dictSlots, .keyCache, .seals, .outputs]) (source l : Nat) : π.same ρ (σ.eraseOne source l) ↔ π.same ρ σ := by
  simp only [List.mem_cons, not_or] at apart
  unfold State.eraseOne
  split <;> simp [apart]

@[simp] theorem same_eraseAll (apart : π ∉ [Part.pwr, .regions, .tiles, .erw, .pke, .cus, .qg, .det, .pool, .runs, .jobs,
    .dicts, .dictSlots, .keyCache, .seals, .outputs]) (source : Nat) : π.same ρ (σ.eraseAll source) ↔ π.same ρ σ := by
  simp only [List.mem_cons, not_or] at apart
  unfold State.eraseAll
  simp [apart]

@[simp] theorem same_closeCheck (apart : π ∉ [Part.pwr, .regions, .tiles, .erw, .pke, .cus, .qg, .det, .pool, .runs, .jobs,
    .dicts, .dictSlots, .keyCache, .seals, .outputs]) (l : Nat) : π.same ρ (σ.closeCheck l) ↔ π.same ρ σ := by
  simp only [List.mem_cons, not_or] at apart
  unfold State.closeCheck
  simp [apart]

@[simp] theorem same_eraseEnd (apart : π ∉ [Part.pwr, .erw, .cus, .qg]) (l : Nat) : π.same ρ (σ.eraseEnd l) ↔ π.same ρ σ := by
  simp only [List.mem_cons, not_or] at apart
  unfold State.eraseEnd
  dsimp only
  repeat' split
  all_goals simp [apart]

@[simp] theorem same_clearBank (apart : π ∉ [Part.sil]) (d : Bytes) : π.same ρ (σ.clearBank d) ↔ π.same ρ σ := by
  simp only [List.mem_cons, not_or] at apart
  unfold State.clearBank
  simp [apart]

@[simp] theorem same_reload (apart : π ∉ [Part.pwr, .erw, .sil]) (d : Bytes) : π.same ρ (σ.reload d) ↔ π.same ρ σ :=
  same_of_only (reload_only σ d) apart
/-- R59, R64: what a reload that waits may change at its end is what it changes at any time. -/
theorem not_mem_reloadParts (apart : π ∉ [Part.pwr, .erw, .sil]) : π ∉ σ.reloadParts := by
  unfold State.reloadParts
  split <;> simp_all

@[simp] theorem same_reloadEnd (apart : π ∉ .qg :: σ.reloadParts) : π.same ρ σ.reloadEnd ↔ π.same ρ σ :=
  same_of_only (reloadEnd_only σ) apart
@[simp] theorem same_modBuffer (apart : π ∉ [Part.pool]) (h : Nat) (f : Buffer → Buffer) :
    π.same ρ (σ.modBuffer h f) ↔ π.same ρ σ := by
  simp only [List.mem_cons, not_or] at apart
  unfold State.modBuffer
  split <;> simp [apart]

@[simp] theorem same_returnBuffer (apart : π ∉ [Part.regions, .pool]) (h : Nat) : π.same ρ (σ.returnBuffer h) ↔ π.same ρ σ := by
  simp only [List.mem_cons, not_or] at apart
  unfold State.returnBuffer
  split <;> simp [apart]

@[simp] theorem same_dueBuffer (apart : π ∉ [Part.regions, .pool]) (h : Nat) : π.same ρ (σ.dueBuffer h) ↔ π.same ρ σ := by
  simp only [List.mem_cons, not_or] at apart
  unfold State.dueBuffer
  split <;> simp [apart]

@[simp] theorem same_returnDue (apart : π ∉ [Part.regions, .pool]) : π.same ρ σ.returnDue ↔ π.same ρ σ := by
  simp only [List.mem_cons, not_or] at apart
  unfold State.returnDue
  simp [apart]

@[simp] theorem same_freeBuffer (apart : π ∉ [Part.regions, .pool]) (h : Nat) : π.same ρ (σ.freeBuffer h) ↔ π.same ρ σ := by
  simp only [List.mem_cons, not_or] at apart
  unfold State.freeBuffer
  split <;> simp [apart]

@[simp] theorem same_dropOwner (apart : π ∉ [Part.regions, .pool]) (h q : Nat) : π.same ρ (σ.dropOwner h q) ↔ π.same ρ σ := by
  simp only [List.mem_cons, not_or] at apart
  unfold State.dropOwner
  split <;> simp [apart]

@[simp] theorem same_protocolError (apart : π ∉ [Part.pwr, .erw, .pool]) (q h : Nat) :
    π.same ρ (σ.protocolError q h) ↔ π.same ρ σ := by
  simp only [List.mem_cons, not_or] at apart
  unfold State.protocolError
  simp [apart]

@[simp] theorem same_leaveBuffers (apart : π ∉ [Part.regions, .pool]) (q : Nat) : π.same ρ (σ.leaveBuffers q) ↔ π.same ρ σ := by
  simp only [List.mem_cons, not_or] at apart
  unfold State.leaveBuffers
  simp [apart]

@[simp] theorem same_doAlloc (apart : π ∉ [Part.regions, .pool]) (v : Nat) : π.same ρ (σ.doAlloc v) ↔ π.same ρ σ := by
  simp only [List.mem_cons, not_or] at apart
  unfold State.doAlloc
  dsimp only
  repeat' split
  all_goals simp [apart]

@[simp] theorem same_doShare (apart : π ∉ [Part.pool]) : π.same ρ σ.doShare ↔ π.same ρ σ := by
  simp only [List.mem_cons, not_or] at apart
  unfold State.doShare
  simp [apart]

@[simp] theorem same_doRelease (apart : π ∉ [Part.pwr, .regions, .erw, .pool]) (q : Nat) (free : Bool) :
    π.same ρ (σ.doRelease q free) ↔ π.same ρ σ := by
  simp only [List.mem_cons, not_or] at apart
  unfold State.doRelease
  dsimp only
  repeat' split
  all_goals simp [apart]

@[simp] theorem same_poolServe (apart : π ∉ [Part.pwr, .regions, .erw, .pool]) (v : Nat) :
    π.same ρ (σ.poolServe v) ↔ π.same ρ σ := by
  simp only [List.mem_cons, not_or] at apart
  unfold State.poolServe
  repeat' split
  all_goals simp [apart]

@[simp] theorem same_poolRequest (apart : π ∉ [Part.pwr, .regions, .erw, .pool]) (v : Nat) :
    π.same ρ (σ.poolRequest v) ↔ π.same ρ σ := by
  simp only [List.mem_cons, not_or] at apart
  unfold State.poolRequest
  simp [apart]

@[simp] theorem same_poolRow (apart : π ∉ [Part.pwr, .regions, .erw, .pool]) (op : Nat) (v : BitVec 32) :
    π.same ρ (σ.poolRow op v) ↔ π.same ρ σ := by
  simp only [List.mem_cons, not_or] at apart
  unfold State.poolRow
  simp [apart]

@[simp] theorem same_scrubCheck (apart : π ∉ [Part.cus]) (l : Nat) : π.same ρ (σ.scrubCheck l) ↔ π.same ρ σ := by
  simp only [List.mem_cons, not_or] at apart
  unfold State.scrubCheck
  simp [apart]

@[simp] theorem same_retirePc (apart : π ∉ [Part.pwr, .erw, .cus, .pool, .emc]) (p : Nat) :
    π.same ρ (σ.retirePc p) ↔ π.same ρ σ := by
  simp only [List.mem_cons, not_or] at apart
  unfold State.retirePc
  simp [apart]

@[simp] theorem same_writePcCtl (apart : π ∉ [Part.pwr, .erw, .cus, .pool, .emc]) (v : Nat) :
    π.same ρ (σ.writePcCtl v) ↔ π.same ρ σ := by
  simp only [List.mem_cons, not_or] at apart
  unfold State.writePcCtl
  simp [apart]

@[simp] theorem same_moveCell (apart : π ∉ [Part.pool, .dicts, .keyCache]) (c : Nat) : π.same ρ (σ.moveCell c) ↔ π.same ρ σ := by
  simp only [List.mem_cons, not_or] at apart
  unfold State.moveCell
  split
  · exact (same_setKeys (by simp [apart]) _ _).trans (same_modPool (by simp [apart]) _)
  · rfl

@[simp] theorem same_moveControl (apart : π ∉ [Part.pool, .emc]) (i : Nat) : π.same ρ (σ.moveControl i) ↔ π.same ρ σ := by
  simp only [List.mem_cons, not_or] at apart
  unfold State.moveControl
  split <;> simp [apart]

@[simp] theorem same_loseBuffer (apart : π ∉ [Part.pwr, .erw, .pool]) (h : Nat) : π.same ρ (σ.loseBuffer h) ↔ π.same ρ σ := by
  simp only [List.mem_cons, not_or] at apart
  unfold State.loseBuffer
  split <;> simp [apart]

@[simp] theorem same_dropNaming (apart : π ∉ [Part.pwr, .regions, .tiles, .erw, .pke, .qg, .det, .pool, .runs, .jobs,
    .seals, .outputs]) (h : Nat) : π.same ρ (σ.dropNaming h) ↔ π.same ρ σ := by
  simp only [List.mem_cons, not_or] at apart
  unfold State.dropNaming
  simp [apart]

@[simp] theorem same_retireDone (apart : π ∉ [Part.pwr, .regions, .tiles, .erw, .pke, .qg, .det, .pool, .emc, .runs, .jobs,
    .dicts, .keyCache, .seals, .outputs]) (p : Nat) (lost : List Nat) : π.same ρ (σ.retireDone p lost) ↔ π.same ρ σ := by
  simp only [List.mem_cons, not_or] at apart
  unfold State.retireDone
  simp [apart]

@[simp] theorem same_eccError (apart : π ∉ [Part.pwr, .erw, .cus, .pool, .emc]) (p : Nat) (e : EccError) :
    π.same ρ (σ.eccError p e) ↔ π.same ρ σ := by
  simp only [List.mem_cons, not_or] at apart
  unfold State.eccError
  repeat' split
  all_goals simp [apart]

@[simp] theorem same_enclaveTested (apart : π ∉ [Part.pwr, .erw, .pool, .emc]) (failed : List Nat) :
    π.same ρ (σ.enclaveTested failed) ↔ π.same ρ σ := by
  simp only [List.mem_cons, not_or] at apart
  unfold State.enclaveTested
  simp (maxDischargeDepth := 4) [apart]

@[simp] theorem same_takeAdmin (apart : π ∉ [Part.qg]) : π.same ρ σ.takeAdmin ↔ π.same ρ σ := by
  simp only [List.mem_cons, not_or] at apart
  unfold State.takeAdmin
  simp [apart]

@[simp] theorem same_popAdmin (apart : π ∉ [Part.qg]) : π.same ρ σ.popAdmin ↔ π.same ρ σ := by
  simp only [List.mem_cons, not_or] at apart
  unfold State.popAdmin
  simp [apart]

@[simp] theorem same_countMalformed (apart : π ∉ [Part.qg]) : π.same ρ σ.countMalformed ↔ π.same ρ σ := by
  simp only [List.mem_cons, not_or] at apart
  unfold State.countMalformed
  simp [apart]

@[simp] theorem same_adminRow (apart : π ∉ [Part.qg]) (rest : π ∉ σ.reloadParts) (op : Nat) (f : Bytes → State → State)
    (hf : ∀ a σ, π.same ρ (f a σ) ↔ π.same ρ σ) : π.same ρ (σ.adminRow op f) ↔ π.same ρ σ := by
  have ended : π.same ρ σ.reloadEnd ↔ π.same ρ σ := same_reloadEnd (by simp_all)
  simp only [List.mem_cons, not_or] at apart
  unfold State.adminRow
  dsimp only
  split
  · exact ended
  split
  · exact ended
  · exact (same_modQg (by simp [apart]) _).trans ((same_popAdmin (by simp [apart])).trans ended)
  split
  · exact (same_adminDone (by simp [apart]) ..).trans ((same_popAdmin (by simp [apart])).trans ended)
  split
  · exact (same_adminDone (by simp [apart]) ..).trans ((same_countMalformed (by simp [apart])).trans
      ((same_popAdmin (by simp [apart])).trans ended))
  split
  · exact (hf _ _).trans ((same_popAdmin (by simp [apart])).trans ended)
  · exact ended
@[simp] theorem same_queueMessage (apart : π ∉ [Part.qg, .outputs]) (q : Nat) : π.same ρ (σ.queueMessage q) ↔ π.same ρ σ := by
  simp only [List.mem_cons, not_or] at apart
  unfold State.queueMessage
  simp [apart]

@[simp] theorem same_writeCompl (apart : π ∉ [Part.qg, .outputs]) (q : Nat) (c : Compl) :
    π.same ρ (σ.writeCompl q c) ↔ π.same ρ σ := by
  simp only [List.mem_cons, not_or] at apart
  unfold State.writeCompl
  simp [apart]

@[simp] theorem same_countEntry (apart : π ∉ [Part.qg]) (q : Nat) (t : Taken) : π.same ρ (σ.countEntry q t) ↔ π.same ρ σ := by
  simp only [List.mem_cons, not_or] at apart
  unfold State.countEntry
  simp [apart]

@[simp] theorem same_idleCheck (apart : π ∉ [Part.qg]) (q : Nat) : π.same ρ (σ.idleCheck q) ↔ π.same ρ σ := by
  simp only [List.mem_cons, not_or] at apart
  unfold State.idleCheck
  simp [apart]

@[simp] theorem same_detachCheck (apart : π ∉ [Part.qg, .det]) : π.same ρ σ.detachCheck ↔ π.same ρ σ := by
  simp only [List.mem_cons, not_or] at apart
  unfold State.detachCheck
  split <;> simp [apart]

@[simp] theorem same_afterCompl (apart : π ∉ [Part.pwr, .regions, .tiles, .erw, .pke, .cus, .qg, .det, .pool, .runs, .jobs,
    .dicts, .dictSlots, .keyCache, .seals, .outputs]) (q : Nat) : π.same ρ (σ.afterCompl q) ↔ π.same ρ σ := by
  simp only [List.mem_cons, not_or] at apart
  unfold State.afterCompl
  simp [apart]

@[simp] theorem same_writeWork (apart : π ∉ [Part.pwr, .regions, .tiles, .erw, .pke, .cus, .qg, .det, .pool, .runs, .jobs,
    .dicts, .dictSlots, .keyCache, .seals, .outputs]) (q : Nat) : π.same ρ (σ.writeWork q) ↔ π.same ρ σ := by
  simp only [List.mem_cons, not_or] at apart
  unfold State.writeWork
  dsimp only
  repeat' split
  all_goals simp [apart]

@[simp] theorem same_complWrite
    (apart : π ∉ [Part.pwr, .regions, .tiles, .erw, .pke, .cus, .qg, .det, .pool, .runs, .jobs, .dicts, .dictSlots, .keyCache, .seals, .outputs])
    (rest : π ∉ σ.reloadParts) (q : Nat) : π.same ρ (σ.complWrite q) ↔ π.same ρ σ := by
  have ended : π.same ρ σ.reloadEnd ↔ π.same ρ σ := same_reloadEnd (by simp_all)
  simp only [List.mem_cons, not_or] at apart
  unfold State.complWrite
  have front : π.same ρ (if q = 0 then σ.reloadEnd else σ) ↔ π.same ρ σ := by
    split
    · exact ended
    · rfl
  dsimp only
  generalize (if q = 0 then σ.reloadEnd else σ) = τ at *
  split
  · exact front
  split
  · split
    · split
      · exact front
      · simp [apart, front]
    · exact front
  split
  · exact front
  · simp [apart, front]

@[simp] theorem same_badDoorbell (apart : π ∉ [Part.pwr, .erw, .qg]) (q reason v : Nat) :
    π.same ρ (σ.badDoorbell q reason v) ↔ π.same ρ σ := by
  simp only [List.mem_cons, not_or] at apart
  unfold State.badDoorbell
  simp [apart]

@[simp] theorem same_sqDoorbell (apart : π ∉ [Part.pwr, .erw, .qg]) (q : Nat) (v : BitVec 32) :
    π.same ρ (σ.sqDoorbell q v) ↔ π.same ρ σ := by
  simp only [List.mem_cons, not_or] at apart
  unfold State.sqDoorbell
  simp [apart]

@[simp] theorem same_cqDoorbell (apart : π ∉ [Part.pwr, .erw, .qg, .outputs]) (q : Nat) (v : BitVec 32) :
    π.same ρ (σ.cqDoorbell q v) ↔ π.same ρ σ := by
  simp only [List.mem_cons, not_or] at apart
  unfold State.cqDoorbell
  simp [apart]

@[simp] theorem same_fetchEntry (apart : π ∉ [Part.qg]) (q : Nat) (e : Option Bytes) :
    π.same ρ (σ.fetchEntry q e) ↔ π.same ρ σ := by
  simp only [List.mem_cons, not_or] at apart
  unfold State.fetchEntry
  simp [apart]

@[simp] theorem same_serveRound (apart : π ∉ [Part.qg]) (q : Nat) : π.same ρ (σ.serveRound q) ↔ π.same ρ σ := by
  simp only [List.mem_cons, not_or] at apart
  unfold State.serveRound
  simp [apart]

@[simp] theorem same_takeFront (apart : π ∉ [Part.qg]) (q : Nat) (b : Bytes) (isFence : Bool) (c : Option Compl) :
    π.same ρ (σ.takeFront q b isFence c) ↔ π.same ρ σ :=
  same_of_only (takeFront_only σ q b isFence c) apart
@[simp] theorem same_workRow (apart : π ∉ [Part.qg]) (q op : Nat) (f : Bytes → State → State) (hf : ∀ a σ, π.same ρ (f a σ)
    ↔ π.same ρ σ) : π.same ρ (σ.workRow q op f) ↔ π.same ρ σ := by
  simp only [List.mem_cons, not_or] at apart
  unfold State.workRow
  dsimp only
  repeat' split
  all_goals simp [apart, hf]
@[simp] theorem same_writeAdminEn (apart : π ∉ [Part.pwr, .erw, .qg]) (v : BitVec 32) :
    π.same ρ (σ.writeAdminEn v) ↔ π.same ρ σ := by
  simp only [List.mem_cons, not_or] at apart
  unfold State.writeAdminEn
  simp [apart]

@[simp] theorem same_releaseClaims (apart : π ∉ [Part.sil]) (q : Nat) : π.same ρ (σ.releaseClaims q) ↔ π.same ρ σ := by
  simp only [List.mem_cons, not_or] at apart
  unfold State.releaseClaims
  simp [apart]

@[simp] theorem same_destroy (apart : π ∉ [Part.time, .regions, .sil, .qg, .det, .pool]) (q : Nat) :
    π.same ρ (σ.destroy q) ↔ π.same ρ σ := by
  simp only [List.mem_cons, not_or] at apart
  unfold State.destroy
  simp [apart]

@[simp] theorem same_undoTail (apart : π ∉ [Part.pwr, .erw, .qg]) (q : Nat) : π.same ρ (σ.undoTail q) ↔ π.same ρ σ := by
  simp only [List.mem_cons, not_or] at apart
  unfold State.undoTail
  simp [apart]


end

end Sys2Proof.Machine

namespace Sys2Proof.Machine

section
variable {π : Part} {ρ σ : State}

@[simp] theorem same_disable (apart : π ∉ [Part.pwr, .erw, .qg]) (q : Nat) : π.same ρ (σ.disable q) ↔ π.same ρ σ := by
  simp only [List.mem_cons, not_or] at apart
  unfold State.disable
  simp [apart]

@[simp] theorem same_applyPoolRecord (apart : π ∉ [Part.pool]) (d : Bytes) : π.same ρ (σ.applyPoolRecord d) ↔ π.same ρ σ := by
  simp only [List.mem_cons, not_or] at apart
  unfold State.applyPoolRecord
  simp [apart]

@[simp] theorem same_tokRetire (apart : π ∉ [Part.pwr, .erw, .pool, .runs, .outputs]) (e : Nat) (p : Snap) (k : Nat) (o :
    SampleOut) : π.same ρ (σ.tokRetire e p k o) ↔ π.same ρ σ := by
  simp only [List.mem_cons, not_or] at apart
  unfold State.tokRetire
  repeat' split
  all_goals simp [apart]

@[simp] theorem same_imgRetire (apart : π ∉ [Part.pwr, .erw, .pool, .runs, .outputs]) (e : Nat) (p : Snap) (k : Nat) (o :
    SampleOut) : π.same ρ (σ.imgRetire e p k o) ↔ π.same ρ σ := by
  simp only [List.mem_cons, not_or] at apart
  unfold State.imgRetire
  repeat' split
  all_goals simp [apart]

@[simp] theorem same_vdecRetire (apart : π ∉ [Part.pwr, .erw, .pool, .runs, .outputs]) (e : Nat) (p : Snap) (k : Nat) (o :
    SampleOut) : π.same ρ (σ.vdecRetire e p k o) ↔ π.same ρ σ := by
  simp only [List.mem_cons, not_or] at apart
  unfold State.vdecRetire
  split <;> simp [apart]

@[simp] theorem same_pyrRetire (apart : π ∉ [Part.pwr, .erw, .pool, .runs, .outputs]) (e : Nat) (p : Snap) (k : Nat) (o :
    SampleOut) : π.same ρ (σ.pyrRetire e p k o) ↔ π.same ρ σ := by
  simp only [List.mem_cons, not_or] at apart
  unfold State.pyrRetire
  repeat' split
  all_goals simp [apart]

@[simp] theorem same_writeEntries (apart : π ∉ [Part.pwr, .erw, .pool, .runs, .outputs]) (e : Nat) (d : Desc) (es : List
    Bytes) : π.same ρ (σ.writeEntries e d es) ↔ π.same ρ σ := by
  simp only [List.mem_cons, not_or] at apart
  unfold State.writeEntries
  simp [apart]

@[simp] theorem same_windowLoad (apart : π ∉ [Part.pwr, .erw]) : π.same ρ σ.windowLoad ↔ π.same ρ σ := by
  simp only [List.mem_cons, not_or] at apart
  unfold State.windowLoad
  dsimp only
  repeat' split
  all_goals simp [apart]

@[simp] theorem same_writeWinCtl (apart : π ∉ [Part.pwr, .erw]) (v : Nat) : π.same ρ (σ.writeWinCtl v) ↔ π.same ρ σ := by
  simp only [List.mem_cons, not_or] at apart
  unfold State.writeWinCtl
  simp [apart]

@[simp] theorem same_panelFree (apart : π ∉ [Part.erw]) (c cursor : Nat) : π.same ρ (σ.panelFree c cursor) ↔ π.same ρ σ := by
  simp only [List.mem_cons, not_or] at apart
  unfold State.panelFree
  simp [apart]

@[simp] theorem same_panelMark (apart : π ∉ [Part.erw]) (c cursor maximum : Nat) :
    π.same ρ (σ.panelMark c cursor maximum) ↔ π.same ρ σ := by
  simp only [List.mem_cons, not_or] at apart
  unfold State.panelMark
  simp [apart]

@[simp] theorem same_clearChannel (apart : π ∉ [Part.pwr, .erw]) (c authority : Nat) :
    π.same ρ (σ.clearChannel c authority) ↔ π.same ρ σ :=
  same_of_only (clearChannel_only σ c authority) apart
@[simp] theorem same_takeAuthority (apart : π ∉ [Part.erw, .cus]) (b token : Bytes) :
    π.same ρ (σ.takeAuthority b token) ↔ π.same ρ σ := by
  simp only [List.mem_cons, not_or] at apart
  unfold State.takeAuthority
  simp [apart]

@[simp] theorem same_clearPassed (apart : π ∉ [Part.pwr, .erw, .cus, .qg]) (b token : Bytes) :
    π.same ρ (σ.clearPassed b token) ↔ π.same ρ σ := by
  simp only [List.mem_cons, not_or] at apart
  unfold State.clearPassed
  simp [apart]

@[simp] theorem same_tokenVerified (apart : π ∉ [Part.pwr, .erw, .cus, .qg]) (b token : Bytes) (aborted : Bool) :
    π.same ρ (σ.tokenVerified b token aborted) ↔ π.same ρ σ := by
  simp only [List.mem_cons, not_or] at apart
  unfold State.tokenVerified
  simp [apart]

@[simp] theorem same_freeTaken (apart : π ∉ [Part.erw]) (f : Flush) : π.same ρ (σ.freeTaken f) ↔ π.same ρ σ := by
  simp only [List.mem_cons, not_or] at apart
  unfold State.freeTaken
  simp [apart]

@[simp] theorem same_flushWaiters (apart : π ∉ [Part.pwr, .erw, .qg]) : π.same ρ σ.flushWaiters ↔ π.same ρ σ := by
  simp only [List.mem_cons, not_or] at apart
  unfold State.flushWaiters
  split <;> simp [apart]

@[simp] theorem same_nextFlush (apart : π ∉ [Part.pwr, .erw]) : π.same ρ σ.nextFlush ↔ π.same ρ σ := by
  simp only [List.mem_cons, not_or] at apart
  unfold State.nextFlush
  split <;> simp [apart]

@[simp] theorem same_endFlush (apart : π ∉ [Part.pwr, .erw, .qg, .outputs]) (f : Flush) :
    π.same ρ (σ.endFlush f) ↔ π.same ρ σ := by
  simp only [List.mem_cons, not_or] at apart
  unfold State.endFlush
  simp [apart]

@[simp] theorem same_flushAck (apart : π ∉ [Part.erw]) (v : Nat) : π.same ρ (σ.flushAck v) ↔ π.same ρ σ := by
  simp only [List.mem_cons, not_or] at apart
  unfold State.flushAck
  simp [apart]

@[simp] theorem same_abortPk (apart : π ∉ [Part.pke]) : π.same ρ σ.abortPk ↔ π.same ρ σ := by
  simp only [List.mem_cons, not_or] at apart
  unfold State.abortPk
  split <;> simp [apart]

@[simp] theorem same_haltAdmin (apart : π ∉ [Part.pke, .qg]) : π.same ρ σ.haltAdmin ↔ π.same ρ σ := by
  simp only [List.mem_cons, not_or] at apart
  unfold State.haltAdmin
  split <;> simp [apart]

@[simp] theorem same_haltEntry (apart : π ∉ [Part.pwr, .regions, .tiles, .faults, .erw, .pke, .cus, .sil, .qg, .det, .pool,
    .runs, .jobs, .dicts, .dictSlots, .keyCache, .seals, .outputs]) (cause : Nat) :
    π.same ρ (σ.haltEntry cause) ↔ π.same ρ σ := by
  simp only [List.mem_cons, not_or] at apart
  unfold State.haltEntry
  split
  · rfl
  · refine (same_faultRecord (by simp [apart]) ..).trans ((same_joinFlush (by simp [apart]) ..).trans
      ((same_modSil (by simp [apart]) _).trans ((same_haltAdmin (by simp [apart])).trans
        ((same_abortPk (by simp [apart])).trans ((same_eraseAll (by simp [apart]) _).trans (same_setFaults (by simp [apart]) _))))))

@[simp] theorem same_refuse (apart : π ∉ [Part.sil, .qg]) (b : Bytes) (r : Refused) : π.same ρ (σ.refuse b r) ↔ π.same ρ σ := by
  simp only [List.mem_cons, not_or] at apart
  unfold State.refuse
  simp [apart]

@[simp] theorem same_refuseImage (apart : π ∉ [Part.sil, .qg]) (b : Bytes) (r : Refused) :
    π.same ρ (σ.refuseImage b r) ↔ π.same ρ σ := by
  simp only [List.mem_cons, not_or] at apart
  unfold State.refuseImage
  simp [apart]

@[simp] theorem same_imageVerified (apart : π ∉ [Part.sil, .qg]) (b d : Bytes) (aborted : Bool) :
    π.same ρ (σ.imageVerified b d aborted) ↔ π.same ρ σ := by
  simp only [List.mem_cons, not_or] at apart
  unfold State.imageVerified
  split <;> simp [apart]

@[simp] theorem same_shiftUpdate (apart : π ∉ [Part.runs]) : π.same ρ σ.shiftUpdate ↔ π.same ρ σ :=
  same_of_only (shiftUpdate_only σ) apart
@[simp] theorem same_tileBindings (apart : π ∉ [Part.tiles]) (im : Image) (bind : List (Nat × Nat)) :
    π.same ρ (σ.tileBindings im bind) ↔ π.same ρ σ :=
  same_of_only (tileBindings_only σ im bind) apart
@[simp] theorem same_spareFlags (apart : π ∉ [Part.regions]) : π.same ρ σ.spareFlags ↔ π.same ρ σ := by
  simp only [List.mem_cons, not_or] at apart
  unfold State.spareFlags
  simp [apart]

@[simp] theorem same_switchClaims (apart : π ∉ [Part.time, .sil]) (gs : List (Nat × Nat)) :
    π.same ρ (σ.switchClaims gs) ↔ π.same ρ σ := by
  simp only [List.mem_cons, not_or] at apart
  unfold State.switchClaims
  simp [apart]

@[simp] theorem same_switchTo (apart : π ∉ [Part.time, .regions, .tiles, .sil, .pool, .runs]) (im : Image) (host : Bool)
    (bind gs : List (Nat × Nat)) : π.same ρ (σ.switchTo im host bind gs) ↔ π.same ρ σ := by
  simp only [List.mem_cons, not_or] at apart
  unfold State.switchTo
  simp [apart]

@[simp] theorem same_modLane (apart : π ∉ [Part.det]) (l : Nat) (f : Chorus → Chorus) :
    π.same ρ (σ.modLane l f) ↔ π.same ρ σ :=
  same_of_only (modLane_only σ l f) apart
@[simp] theorem same_comparePoints (apart : π ∉ [Part.runs]) (here remote : ChorusPoint) :
    π.same ρ (σ.comparePoints here remote) ↔ π.same ρ σ :=
  same_of_only (comparePoints_only σ here remote) apart
@[simp] theorem same_point (apart : π ∉ [Part.det, .runs, .outputs]) (e stage index : Nat) (digest : Bytes) (unit : Option
    Nat := none) : π.same ρ (σ.point e stage index digest unit) ↔ π.same ρ σ :=
  same_of_only (point_only σ e stage index digest unit) apart
@[simp] theorem same_discardPoint (apart : π ∉ [Part.pwr, .erw]) (l src : Nat) :
    π.same ρ (σ.discardPoint l src) ↔ π.same ρ σ := by
  simp only [List.mem_cons, not_or] at apart
  unfold State.discardPoint
  simp [apart]

@[simp] theorem same_takePoint (apart : π ∉ [Part.pwr, .regions, .erw, .qg, .det, .pool, .runs, .jobs]) (l : Nat) (m :
    Bytes) : π.same ρ (σ.takePoint l m) ↔ π.same ρ σ := by
  simp only [List.mem_cons, not_or] at apart
  unfold State.takePoint
  dsimp only
  repeat' split
  all_goals simp [apart]

@[simp] theorem same_chorusFrame (apart : π ∉ [Part.pwr, .regions, .erw, .qg, .det, .pool, .runs, .jobs]) (l : Nat) (f :
    Bytes) : π.same ρ (σ.chorusFrame l f) ↔ π.same ρ σ := by
  simp only [List.mem_cons, not_or] at apart
  unfold State.chorusFrame
  simp [apart]

@[simp] theorem same_missingOf (apart : π ∉ [Part.pwr, .regions, .erw, .qg, .det, .pool, .runs, .jobs]) (l e : Nat) :
    π.same ρ (σ.missingOf l e) ↔ π.same ρ σ := by
  simp only [List.mem_cons, not_or] at apart
  unfold State.missingOf
  split <;> simp [apart]

@[simp] theorem same_missingOn (apart : π ∉ [Part.pwr, .regions, .erw, .qg, .det, .pool, .runs, .jobs]) (l : Nat) :
    π.same ρ (σ.missingOn l) ↔ π.same ρ σ := by
  simp only [List.mem_cons, not_or] at apart
  unfold State.missingOn
  simp [apart]

@[simp] theorem same_affect (apart : π ∉ [Part.runs]) (e sample reason : Nat) (lost : Bool) :
    π.same ρ (σ.affect e sample reason lost) ↔ π.same ρ σ :=
  same_of_only (affect_only σ e sample reason lost) apart
@[simp] theorem same_voidSample (apart : π ∉ [Part.stw, .runs]) (e sample reason : Nat) :
    π.same ρ (σ.voidSample e sample reason) ↔ π.same ρ σ :=
  same_of_only (voidSample_only σ e sample reason) apart
@[simp] theorem same_tadpoleBegin (apart : π ∉ [Part.runs]) (e sample : Nat) :
    π.same ρ (σ.tadpoleBegin e sample) ↔ π.same ρ σ := by
  simp only [List.mem_cons, not_or] at apart
  unfold State.tadpoleBegin
  simp [apart]

@[simp] theorem same_tadpoleRelease (apart : π ∉ [Part.runs]) (e sample : Nat) :
    π.same ρ (σ.tadpoleRelease e sample) ↔ π.same ρ σ := by
  simp only [List.mem_cons, not_or] at apart
  unfold State.tadpoleRelease
  simp [apart]

@[simp] theorem same_tadpoleRows (apart : π ∉ [Part.runs]) (e sample n : Nat) :
    π.same ρ (σ.tadpoleRows e sample n) ↔ π.same ρ σ := by
  simp only [List.mem_cons, not_or] at apart
  unfold State.tadpoleRows
  simp [apart]

@[simp] theorem same_tadpoleRowDone (apart : π ∉ [Part.runs]) (e sample : Nat) :
    π.same ρ (σ.tadpoleRowDone e sample) ↔ π.same ρ σ := by
  simp only [List.mem_cons, not_or] at apart
  unfold State.tadpoleRowDone
  simp [apart]

@[simp] theorem same_unitDone (apart : π ∉ [Part.tiles]) (role : Nat) : π.same ρ (σ.unitDone role) ↔ π.same ρ σ :=
  same_of_only (unitDone_only σ role) apart
@[simp] theorem same_rehomeSeals (apart : π ∉ [Part.seals, .dealt]) (r : Nat) : π.same ρ (σ.rehomeSeals r) ↔ π.same ρ σ := by
  simp only [List.mem_cons, not_or] at apart
  unfold State.rehomeSeals
  refine same_foldl (fun τ n => ?_) _
  split <;> simp [apart]

@[simp] theorem same_writeLimbs (apart : π ∉ [Part.outputs]) (f : Profile) (column i : Nat) (c : List Nat × List Nat) :
    π.same ρ (σ.writeLimbs f column i c) ↔ π.same ρ σ := by
  simp only [List.mem_cons, not_or] at apart
  unfold State.writeLimbs
  simp [apart]

@[simp] theorem same_sealDrop (apart : π ∉ [Part.pwr, .erw, .runs]) (e number : Nat) :
    π.same ρ (σ.sealDrop e number) ↔ π.same ρ σ := by
  simp only [List.mem_cons, not_or] at apart
  unfold State.sealDrop
  simp [apart]

@[simp] theorem same_closeManifest (apart : π ∉ [Part.pwr, .erw, .pke, .runs, .jobs]) (e j : Nat) (r : Run) (p : Snap) (k :
    Nat) (es : List (Nat × Bytes)) : π.same ρ (σ.closeManifest e j r p k es) ↔ π.same ρ σ := by
  simp only [List.mem_cons, not_or] at apart
  unfold State.closeManifest
  simp [apart]

@[simp] theorem same_closeManifests (apart : π ∉ [Part.pwr, .erw, .pke, .runs, .jobs]) (e j : Nat) (final : Bool) (fuel :
    Nat) : π.same ρ (σ.closeManifests e j final fuel) ↔ π.same ρ σ := by
  simp only [List.mem_cons, not_or] at apart
  induction fuel generalizing σ with
  | zero => rfl
  | succ f ih =>
    unfold State.closeManifests
    split
    · split
      · rfl
      · exact ih.trans (same_closeManifest (by simp [apart]) ..)
    · rfl

@[simp] theorem same_rowDone (apart : π ∉ [Part.det, .runs, .outputs]) (e dataRow : Nat) (digest : Option Bytes) :
    π.same ρ (σ.rowDone e dataRow digest) ↔ π.same ρ σ := by
  simp only [List.mem_cons, not_or] at apart
  unfold State.rowDone
  repeat' split
  all_goals simp [apart]

@[simp] theorem same_enterPlanRow (apart : π ∉ [Part.stw, .det, .runs, .outputs]) (e : Nat) (x : EncRow) :
    π.same ρ (σ.enterPlanRow e x) ↔ π.same ρ σ := by
  simp only [List.mem_cons, not_or] at apart
  unfold State.enterPlanRow
  simp [apart]

@[simp] theorem same_dropColumnless (apart : π ∉ [Part.pwr, .regions, .erw, .det, .runs, .outputs]) (e r : Nat) (p : Snap)
    (x : EncRow) : π.same ρ (σ.dropColumnless e r p x) ↔ π.same ρ σ := by
  simp only [List.mem_cons, not_or] at apart
  unfold State.dropColumnless
  simp [apart]

@[simp] theorem same_lastSpawn (apart : π ∉ [Part.jobs]) (j : Nat) (last : Bool) :
    π.same ρ (σ.lastSpawn j last) ↔ π.same ρ σ := by
  simp only [List.mem_cons, not_or] at apart
  unfold State.lastSpawn
  simp [apart]

@[simp] theorem same_dealRecord (apart : π ∉ [Part.pwr, .regions, .stw, .erw, .pke, .det, .pool, .runs, .jobs, .seals,
    .nextSeal, .dealt, .outputs]) (e j r : Nat) (p : Snap) (size : Nat) (x : Encoded) :
    π.same ρ (σ.dealRecord e j r p size x) ↔ π.same ρ σ := by
  simp only [List.mem_cons, not_or] at apart
  unfold State.dealRecord
  have rows : π.same ρ (x.rows.foldl (fun s w => (s.enterPlanRow e w).dropColumnless e r p w) σ) ↔ π.same ρ σ := by
    simp [apart]
  dsimp only
  split
  · refine (same_closeManifests (by simp [apart]) ..).trans ((same_lastSpawn (by simp [apart]) ..).trans
      ((same_freeUse (by simp [apart]) ..).trans ((same_setDealt (by simp [apart]) _).trans rows)))
  · exact (same_setNewSeal (by simp [apart]) ..).trans rows

@[simp] theorem same_keyLoad (apart : π ∉ [Part.regions, .tiles]) (id : Nat) (areas : Nat) (key : Nat × Nat × Nat) :
    π.same ρ (σ.keyLoad id areas key) ↔ π.same ρ σ := by
  simp only [List.mem_cons, not_or] at apart
  unfold State.keyLoad
  simp [apart]

@[simp] theorem same_passRows (apart : π ∉ [Part.seals, .outputs]) (n : Nat) (f : Profile) (pk : PubKey) (kNoise : Bytes) (i
    : Nat) (batch : List SealRow) : π.same ρ (σ.passRows n f pk kNoise i batch) ↔ π.same ρ σ := by
  simp only [List.mem_cons, not_or] at apart
  unfold State.passRows
  refine same_foldl (fun τ w => ?_) batch
  dsimp only
  split
  · exact same_writeLimbs (by simp [apart]) ..
  · exact (same_setSeals (by simp [apart]) _).trans (same_writeLimbs (by simp [apart]) ..)

@[simp] theorem same_countMismatch (apart : π ∉ [Part.regions, .tiles]) (id n : Nat) :
    π.same ρ (σ.countMismatch id n) ↔ π.same ρ σ := by
  simp only [List.mem_cons, not_or] at apart
  unfold State.countMismatch
  simp [apart]

@[simp] theorem same_passDone (apart : π ∉ [Part.regions, .pool, .seals]) (n k : Nat) (f : Profile) :
    π.same ρ (σ.passDone n k f) ↔ π.same ρ σ := by
  simp only [List.mem_cons, not_or] at apart
  unfold State.passDone
  split <;> simp [apart]

@[simp] theorem same_loadNext (apart : π ∉ [Part.regions, .tiles]) (x : SealSpawn) (f : Profile) (k r id : Nat) (label gen :
    Nat) : π.same ρ (σ.loadNext x f k r id label gen) ↔ π.same ρ σ := by
  simp only [List.mem_cons, not_or] at apart
  unfold State.loadNext
  simp [apart]

@[simp] theorem same_sealPass (apart : π ∉ [Part.regions, .tiles, .pool, .runs, .seals, .outputs]) (r : Nat) (residues :
    List ResidueFault) (mark : Nat → State → State) (hmark : ∀ a σ, π.same ρ (mark a σ) ↔ π.same ρ σ) :
    π.same ρ (σ.sealPass r residues mark) ↔ π.same ρ σ := by
  simp only [List.mem_cons, not_or] at apart
  unfold State.sealPass
  repeat' split
  all_goals simp [apart, hmark]

@[simp] theorem same_spawnDone (apart : π ∉ [Part.regions, .pool, .jobs, .seals]) (n : Nat) :
    π.same ρ (σ.spawnDone n) ↔ π.same ρ σ := by
  simp only [List.mem_cons, not_or] at apart
  unfold State.spawnDone
  split <;> simp [apart]

@[simp] theorem same_sealRow (apart : π ∉ [Part.regions, .stw, .qg, .det, .pool, .runs, .jobs, .seals, .outputs]) (n : Nat)
    (x : SealSpawn) (run : Run) (f : Profile) (w : SealRow) : π.same ρ (σ.sealRow n x run f w) ↔ π.same ρ σ := by
  simp only [List.mem_cons, not_or] at apart
  unfold State.sealRow
  refine (same_spawnDone (by simp [apart]) ..).trans ((same_rowDone (by simp [apart]) ..).trans
    ((same_setSeals (by simp [apart]) _).trans ?_))
  simp [apart]

@[simp] theorem same_headerWrite (apart : π ∉ [Part.pwr, .regions, .stw, .erw, .pke, .qg, .det, .pool, .runs, .jobs, .seals,
    .outputs]) (r : Nat) : π.same ρ (σ.headerWrite r) ↔ π.same ρ σ := by
  simp only [List.mem_cons, not_or] at apart
  unfold State.headerWrite
  repeat' split
  all_goals simp [apart]

@[simp] theorem same_noteLevel (apart : π ∉ [Part.pool]) (key role b : Nat) :
    π.same ρ (σ.noteLevel key role b) ↔ π.same ρ σ :=
  same_of_only (noteLevel_only σ key role b) apart
@[simp] theorem same_noteTake (apart : π ∉ [Part.pool]) (key role b : Nat) : π.same ρ (σ.noteTake key role b) ↔ π.same ρ σ := by
  simp only [List.mem_cons, not_or] at apart
  unfold State.noteTake
  simp [apart]

@[simp] theorem same_noteOutput (apart : π ∉ [Part.pool]) (j : Nat) (x : Job) (k : Nat) :
    π.same ρ (σ.noteOutput j x k) ↔ π.same ρ σ :=
  same_of_only (noteOutput_only σ j x k) apart
@[simp] theorem same_noteTaken (apart : π ∉ [Part.pool]) (c : Nat) (y : Job) (k : Nat) :
    π.same ρ (σ.noteTaken c y k) ↔ π.same ρ σ := by
  simp only [List.mem_cons, not_or] at apart
  unfold State.noteTaken
  simp [apart]

@[simp] theorem same_noteAll (apart : π ∉ [Part.pool]) : π.same ρ σ.noteAll ↔ π.same ρ σ := by
  simp only [List.mem_cons, not_or] at apart
  unfold State.noteAll
  simp [apart]


end

end Sys2Proof.Machine

namespace Sys2Proof.Machine

section
variable {π : Part} {ρ σ : State}

@[simp] theorem same_stallClock (apart : π ∉ [Part.jobs]) : π.same ρ σ.stallClock ↔ π.same ρ σ := by
  simp only [List.mem_cons, not_or] at apart
  unfold State.stallClock
  simp [apart]

@[simp] theorem same_askUse (apart : π ∉ [Part.regions, .pool]) (e : Nat) (r : Run) (p bytes : Nat) (u : CellUse) :
    π.same ρ (σ.askUse e r p bytes u).1 ↔ π.same ρ σ := by
  simp only [List.mem_cons, not_or] at apart
  unfold State.askUse
  split <;> simp [apart]

@[simp] theorem same_askRecord (apart : π ∉ [Part.pwr, .regions, .erw, .pool]) (r : Run) (j : Nat) (x : Job) (k : Nat) (o :
    SampleOut) : π.same ρ (σ.askRecord r j x k o).1 ↔ π.same ρ σ := by
  simp only [List.mem_cons, not_or] at apart
  unfold State.askRecord
  simp [apart]

@[simp] theorem same_freeRecord (apart : π ∉ [Part.pwr, .regions, .erw, .pool]) (j k : Nat) :
    π.same ρ (σ.freeRecord j k) ↔ π.same ρ σ := by
  simp only [List.mem_cons, not_or] at apart
  unfold State.freeRecord
  split <;> simp [apart]

@[simp] theorem same_takeRecord (apart : π ∉ [Part.pwr, .regions, .erw, .pool]) (j : Nat) (x : Job) (k : Nat) :
    π.same ρ (σ.takeRecord j x k) ↔ π.same ρ σ := by
  simp only [List.mem_cons, not_or] at apart
  unfold State.takeRecord
  repeat' split
  all_goals simp [apart]

@[simp] theorem same_freeBuffers (apart : π ∉ [Part.regions, .pool]) (j k : Nat) (f : Nat → Bool) :
    π.same ρ (σ.freeBuffers j k f) ↔ π.same ρ σ := by
  simp only [List.mem_cons, not_or] at apart
  unfold State.freeBuffers
  simp [apart]

@[simp] theorem same_restartLane (apart : π ∉ [Part.pwr, .regions, .erw, .pool, .jobs]) (j k : Nat) (tile : Nat) (cores :
    List Nat) : π.same ρ (σ.restartLane j k tile cores) ↔ π.same ρ σ := by
  simp only [List.mem_cons, not_or] at apart
  unfold State.restartLane
  simp [apart]

@[simp] theorem same_restartTile (apart : π ∉ [Part.pwr, .regions, .erw, .pool, .jobs]) (src dst : Nat) :
    π.same ρ (σ.restartTile src dst) ↔ π.same ρ σ := by
  simp only [List.mem_cons, not_or] at apart
  unfold State.restartTile
  simp [apart]

@[simp] theorem same_restartRegion (apart : π ∉ [Part.pwr, .regions, .erw, .pool, .jobs]) (r : Nat) :
    π.same ρ (σ.restartRegion r) ↔ π.same ρ σ := by
  simp only [List.mem_cons, not_or] at apart
  unfold State.restartRegion
  refine (same_setJobs (by simp [apart]) _).trans ((same_foldl (fun τ p => ?_) _).trans (same_foldl (fun τ p => ?_) _))
  · exact same_restartLane (by simp [apart]) ..
  · split
    · rfl
    · exact same_restartLane (by simp [apart]) ..

@[simp] theorem same_giveCore (apart : π ∉ [Part.jobs]) (j c : Nat) : π.same ρ (σ.giveCore j c) ↔ π.same ρ σ := by
  simp only [List.mem_cons, not_or] at apart
  unfold State.giveCore
  simp [apart]

@[simp] theorem same_regroup (apart : π ∉ [Part.jobs]) : π.same ρ σ.regroup ↔ π.same ρ σ := by
  simp only [List.mem_cons, not_or] at apart
  unfold State.regroup
  refine (same_foldl (fun τ p => ?_) _).trans (same_foldl (fun τ j => ?_) _)
  · split
    · rfl
    · split <;> simp [apart]
  · split <;> simp [apart]

@[simp] theorem same_modTaken (apart : π ∉ [Part.qg]) (q e : Nat) (f : Taken → Taken) :
    π.same ρ (σ.modTaken q e f) ↔ π.same ρ σ := by
  simp only [List.mem_cons, not_or] at apart
  unfold State.modTaken
  simp [apart]

@[simp] theorem same_beginRun (apart : π ∉ [Part.sil, .qg, .runs]) (q e : Nat) (b : Bytes) (r : Run) (cs : List ListCmd) :
    π.same ρ (σ.beginRun q e b r cs) ↔ π.same ρ σ := by
  simp only [List.mem_cons, not_or] at apart
  unfold State.beginRun
  exact (same_shiftUpdate (by simp [apart])).trans ((same_setRuns (by simp [apart]) _).trans
    ((same_modTaken (by simp [apart]) ..).trans (same_bindBanks (by simp [apart]) ..)))

@[simp] theorem same_runList (apart : π ∉ [Part.sil, .qg, .runs]) (q : Nat) (list : Bytes) (mem : HostMem) (b : Bytes) :
    π.same ρ (σ.runList q list mem b) ↔ π.same ρ σ := by
  simp only [List.mem_cons, not_or] at apart
  unfold State.runList
  dsimp only
  repeat' split
  all_goals simp [apart]

@[simp] theorem same_advance (apart : π ∉ [Part.runs]) (e : Nat) : π.same ρ (σ.advance e) ↔ π.same ρ σ := by
  simp only [List.mem_cons, not_or] at apart
  unfold State.advance
  simp [apart]

@[simp] theorem same_listRow (apart : π ∉ [Part.runs]) (e op : Nat) (f : Run → ListCmd → State → State) (hf : ∀ a b σ,
    π.same ρ (f a b σ) ↔ π.same ρ σ) : π.same ρ (σ.listRow e op f) ↔ π.same ρ σ := by
  simp only [List.mem_cons, not_or] at apart
  unfold State.listRow
  repeat' split
  all_goals simp [apart, hf]
@[simp] theorem same_listWrite (apart : π ∉ [Part.runs]) (e op : Nat) : π.same ρ (σ.listWrite e op) ↔ π.same ρ σ := by
  simp only [List.mem_cons, not_or] at apart
  unfold State.listWrite
  simp [apart]

@[simp] theorem same_listStart (apart : π ∉ [Part.runs, .jobs, .nextJob]) (e : Nat) : π.same ρ (σ.listStart e) ↔ π.same ρ σ := by
  simp only [List.mem_cons, not_or] at apart
  unfold State.listStart
  refine same_listRow (by simp [apart]) _ _ _ fun r c τ => ?_
  split
  · rfl
  · exact (same_advance (by simp [apart]) _).trans ((same_modRun (by simp [apart]) ..).trans (same_setNewJob (by simp [apart]) ..))

@[simp] theorem same_listWait (apart : π ∉ [Part.runs]) (e : Nat) : π.same ρ (σ.listWait e) ↔ π.same ρ σ := by
  simp only [List.mem_cons, not_or] at apart
  unfold State.listWait
  refine same_listRow (by simp [apart]) _ _ _ fun r c τ => ?_
  split
  · simp [apart]
  · split <;> simp [apart]

@[simp] theorem same_listFinish (apart : π ∉ [Part.pwr, .regions, .erw, .qg, .det, .pool, .runs, .jobs]) (e : Nat) :
    π.same ρ (σ.listFinish e) ↔ π.same ρ σ := by
  simp only [List.mem_cons, not_or] at apart
  unfold State.listFinish
  simp [apart]

@[simp] theorem same_clearGather (apart : π ∉ [Part.tiles]) : π.same ρ σ.clearGather ↔ π.same ρ σ := by
  simp only [List.mem_cons, not_or] at apart
  unfold State.clearGather
  simp [apart]

@[simp] theorem same_jobStart (apart : π ∉ [Part.pwr, .tiles, .erw, .jobs]) (j : Nat) (mem : HostMem) :
    π.same ρ (σ.jobStart j mem) ↔ π.same ρ σ := by
  simp only [List.mem_cons, not_or] at apart
  unfold State.jobStart
  repeat' split
  all_goals simp [apart]

@[simp] theorem same_gatherLines (apart : π ∉ [Part.tiles]) (j : Nat) (x : Job) : π.same ρ (σ.gatherLines j x) ↔ π.same ρ σ := by
  simp only [List.mem_cons, not_or] at apart
  unfold State.gatherLines
  split
  · split
    · rfl
    · refine same_foldl (fun τ c => ?_) _
      split
      · split <;> simp [apart]
      · rfl
  · rfl

@[simp] theorem same_runCopy (apart : π ∉ [Part.pwr, .tiles, .erw, .pool, .runs, .outputs]) (j : Nat) (x : Job) :
    π.same ρ (σ.runCopy j x) ↔ π.same ρ σ := by
  simp only [List.mem_cons, not_or] at apart
  unfold State.runCopy
  simp [apart]

@[simp] theorem same_runExchange (apart : π ∉ [Part.stw, .runs, .outputs]) (r : Run) (x : Job) :
    π.same ρ (σ.runExchange r x) ↔ π.same ρ σ := by
  simp only [List.mem_cons, not_or] at apart
  unfold State.runExchange
  simp [apart]

@[simp] theorem same_runPlan (apart : π ∉ [Part.pwr, .erw, .pool, .runs, .outputs]) (r : Run) (x : Job) :
    π.same ρ (σ.runPlan r x) ↔ π.same ρ σ := by
  simp only [List.mem_cons, not_or] at apart
  unfold State.runPlan
  dsimp only
  repeat' split
  all_goals simp [apart]

@[simp] theorem same_writeLists (apart : π ∉ [Part.pwr, .erw, .pool, .runs, .outputs]) (r : Run) (x : Job) :
    π.same ρ (σ.writeLists r x) ↔ π.same ρ σ := by
  simp only [List.mem_cons, not_or] at apart
  unfold State.writeLists
  repeat' split
  all_goals simp [apart]

@[simp] theorem same_copyRecords (apart : π ∉ [Part.pool, .jobs]) (j : Nat) (r : Run) (x : Job) :
    π.same ρ (σ.copyRecords j r x) ↔ π.same ρ σ := by
  simp only [List.mem_cons, not_or] at apart
  unfold State.copyRecords
  split
  · refine (same_foldl (fun τ k => ?_) _).trans (same_modJob (by simp [apart]) ..)
    split <;> simp [apart]
  · rfl

@[simp] theorem same_jobFinish (apart : π ∉ [Part.pwr, .tiles, .stw, .erw, .pke, .pool, .runs, .jobs, .outputs]) (r : Run)
    (j : Nat) (x : Job) : π.same ρ (σ.jobFinish r j x) ↔ π.same ρ σ := by
  simp only [List.mem_cons, not_or] at apart
  unfold State.jobFinish
  repeat' split
  all_goals simp [apart]

@[simp] theorem same_takeAll (apart : π ∉ [Part.pwr, .regions, .erw, .pool]) (j : Nat) (x : Job) :
    π.same ρ (σ.takeAll j x) ↔ π.same ρ σ := by
  simp only [List.mem_cons, not_or] at apart
  unfold State.takeAll
  simp [apart]

@[simp] theorem same_endJob (apart : π ∉ [Part.pwr, .regions, .tiles, .stw, .erw, .pke, .pool, .runs, .jobs, .outputs]) (j :
    Nat) : π.same ρ (σ.endJob j) ↔ π.same ρ σ := by
  simp only [List.mem_cons, not_or] at apart
  unfold State.endJob
  repeat' split
  all_goals simp [apart]

@[simp] theorem same_holdOut (apart : π ∉ [Part.pwr, .erw]) (r : Run) (x : Job) (k : Nat) (o : SampleOut) :
    π.same ρ (σ.holdOut r x k o).1 ↔ π.same ρ σ := by
  simp only [List.mem_cons, not_or] at apart
  unfold State.holdOut
  split <;> simp [apart]

@[simp] theorem same_retire (apart : π ∉ [Part.pwr, .regions, .tiles, .stw, .erw, .det, .pool, .runs, .jobs, .outputs]) (r :
    Run) (j : Nat) (x : Job) (k : Nat) (o : SampleOut) (write : State → State) (hwrite : ∀ σ, π.same ρ (write σ) ↔ π.same ρ
    σ) : π.same ρ (σ.retire r j x k o write) ↔ π.same ρ σ := by
  simp only [List.mem_cons, not_or] at apart
  unfold State.retire
  simp [apart, hwrite]

@[simp] theorem same_readRetire (apart : π ∉ [Part.pwr, .erw, .pool, .runs, .outputs]) (x : Job) (k : Nat) (o : SampleOut) :
    π.same ρ (σ.readRetire x k o) ↔ π.same ρ σ := by
  simp only [List.mem_cons, not_or] at apart
  unfold State.readRetire
  split <;> simp [apart]

@[simp] theorem same_retireVoids (apart : π ∉ [Part.pwr, .regions, .tiles, .stw, .erw, .det, .pool, .runs, .jobs, .outputs])
    (r : Run) (j : Nat) (fuel : Nat) : π.same ρ (σ.retireVoids r j fuel) ↔ π.same ρ σ := by
  simp only [List.mem_cons, not_or] at apart
  induction fuel generalizing σ with
  | zero => rfl
  | succ f ih =>
    unfold State.retireVoids
    split
    · rfl
    · dsimp only
      split
      · split
        · rfl
        · exact ih.trans (same_retire (by simp [apart]) _ _ _ _ _ _ fun τ => same_readRetire (by simp [apart]) ..)
      · rfl

@[simp] theorem same_leaveLane (apart : π ∉ [Part.pwr, .regions, .erw, .pool, .jobs]) (r : Run) (j k : Nat) :
    π.same ρ (σ.leaveLane r j k) ↔ π.same ρ σ := by
  simp only [List.mem_cons, not_or] at apart
  unfold State.leaveLane
  dsimp only
  repeat' split
  all_goals simp [apart]

@[simp] theorem same_settleJob (apart : π ∉ [Part.pwr, .regions, .tiles, .stw, .erw, .det, .pool, .runs, .jobs, .outputs])
    (r : Run) (j : Nat) : π.same ρ (σ.settleJob r j) ↔ π.same ρ σ := by
  simp only [List.mem_cons, not_or] at apart
  unfold State.settleJob
  split <;> simp [apart]

@[simp] theorem same_laneDone (apart : π ∉ [Part.pwr, .regions, .tiles, .stw, .erw, .det, .pool, .runs, .jobs, .outputs]) (r
    : Run) (j : Nat) (x : Job) (k : Nat) (o : SampleOut) : π.same ρ (σ.laneDone r j x k o) ↔ π.same ρ σ := by
  simp only [List.mem_cons, not_or] at apart
  unfold State.laneDone
  simp [apart]

@[simp] theorem same_voidUnread (apart : π ∉ [Part.pwr, .regions, .tiles, .stw, .erw, .det, .pool, .runs, .jobs, .outputs])
    (r : Run) (j k : Nat) (o : SampleOut) : π.same ρ (σ.voidUnread r j k o) ↔ π.same ρ σ := by
  simp only [List.mem_cons, not_or] at apart
  unfold State.voidUnread
  simp [apart]

@[simp] theorem same_askBuffers (apart : π ∉ [Part.regions, .pool]) (r : Run) (j k : Nat) (x : Job) (l : Lane) :
    π.same ρ (σ.askBuffers r j k x l).1 ↔ π.same ρ σ := by
  simp only [List.mem_cons, not_or] at apart
  unfold State.askBuffers
  split
  · rfl
  · refine List.foldlRecOn (motive := fun a : State × Bool => π.same ρ a.1 ↔ π.same ρ σ) _ _ ?_ ?_
    · exact same_freeBuffers (by simp [apart]) ..
    · intro a ih p _
      split
      · exact (same_askUse (by simp [apart]) ..).trans ih
      · exact ih

@[simp] theorem same_settleLane (apart : π ∉ [Part.pwr, .regions, .tiles, .stw, .erw, .det, .pool, .runs, .jobs, .outputs])
    (r : Run) (j k : Nat) : π.same ρ (σ.settleLane r j k) ↔ π.same ρ σ := by
  simp only [List.mem_cons, not_or] at apart
  unfold State.settleLane
  dsimp only
  repeat' split
  all_goals simp [apart]

@[simp] theorem same_readChunk (apart : π ∉ [Part.pwr, .regions, .tiles, .stw, .erw, .det, .pool, .runs, .jobs, .outputs])
    (r : Run) (j k : Nat) (chunk : Bytes) : π.same ρ (σ.readChunk r j k chunk) ↔ π.same ρ σ := by
  simp only [List.mem_cons, not_or] at apart
  unfold State.readChunk
  dsimp only
  repeat' split
  all_goals simp [apart]

@[simp] theorem same_noteRead (apart : π ∉ [Part.jobs]) (j k : Nat) : π.same ρ (σ.noteRead j k) ↔ π.same ρ σ := by
  simp only [List.mem_cons, not_or] at apart
  unfold State.noteRead
  repeat' split
  all_goals simp [apart]

@[simp] theorem same_sampleStart (apart : π ∉ [Part.pwr, .regions, .tiles, .stw, .erw, .det, .pool, .runs, .jobs, .outputs])
    (j : Nat) (chunk : Bytes) : π.same ρ (σ.sampleStart j chunk) ↔ π.same ρ σ := by
  simp only [List.mem_cons, not_or] at apart
  unfold State.sampleStart
  dsimp only
  repeat' split
  all_goals simp [apart]

@[simp] theorem same_chunkRead (apart : π ∉ [Part.pwr, .regions, .tiles, .stw, .erw, .det, .pool, .runs, .jobs, .outputs])
    (j k : Nat) (chunk : Bytes) : π.same ρ (σ.chunkRead j k chunk) ↔ π.same ρ σ := by
  simp only [List.mem_cons, not_or] at apart
  unfold State.chunkRead
  dsimp only
  repeat' split
  all_goals simp [apart]

@[simp] theorem same_budgetEnd (apart : π ∉ [Part.pwr, .regions, .tiles, .stw, .erw, .qg, .det, .pool, .runs, .jobs,
    .outputs]) (j k : Nat) : π.same ρ (σ.budgetEnd j k) ↔ π.same ρ σ := by
  simp only [List.mem_cons, not_or] at apart
  unfold State.budgetEnd
  repeat' split
  all_goals simp [apart]

@[simp] theorem same_packOne (apart : π ∉ [Part.regions, .pool, .runs, .jobs]) (r : Run) (j : Nat) (samples : List Nat) :
    π.same ρ (σ.packOne r j samples) ↔ π.same ρ σ := by
  simp only [List.mem_cons, not_or] at apart
  unfold State.packOne
  split <;> simp [apart]

@[simp] theorem same_emitSpawn (apart : π ∉ [Part.regions, .det, .pool, .runs, .jobs, .outputs]) (r : Run) (j : Nat) (x :
    Job) : π.same ρ (σ.emitSpawn r j x).1 ↔ π.same ρ σ := by
  simp only [List.mem_cons, not_or] at apart
  unfold State.emitSpawn
  dsimp only
  repeat' split
  all_goals simp [apart]

@[simp] theorem same_emitSpawns (apart : π ∉ [Part.regions, .det, .pool, .runs, .jobs, .outputs]) (r : Run) (j : Nat) (fuel
    : Nat) : π.same ρ (σ.emitSpawns r j fuel) ↔ π.same ρ σ := by
  simp only [List.mem_cons, not_or] at apart
  induction fuel generalizing σ with
  | zero => rfl
  | succ f ih =>
    unfold State.emitSpawns
    split
    · rfl
    · dsimp only
      split
      · exact ih.trans (same_emitSpawn (by simp [apart]) ..)
      · exact same_emitSpawn (by simp [apart]) ..

@[simp] theorem same_packEmit (apart : π ∉ [Part.regions, .det, .pool, .runs, .jobs, .outputs]) (r : Run) (j : Nat) :
    π.same ρ (σ.packEmit r j) ↔ π.same ρ σ := by
  simp only [List.mem_cons, not_or] at apart
  unfold State.packEmit
  split <;> simp [apart]

@[simp] theorem same_packReady (apart : π ∉ [Part.regions, .pool, .runs, .jobs]) (r : Run) (j : Nat) (fuel : Nat) :
    π.same ρ (σ.packReady r j fuel) ↔ π.same ρ σ := by
  simp only [List.mem_cons, not_or] at apart
  induction fuel generalizing σ with
  | zero => rfl
  | succ n ih =>
    unfold State.packReady
    split
    · rfl
    · dsimp only
      split
      · exact ih.trans (same_packOne (by simp [apart]) ..)
      · rfl

@[simp] theorem same_backfill (apart : π ∉ [Part.qg, .det, .runs, .jobs]) (r : Run) (j i : Nat) :
    π.same ρ (σ.backfill r j i) ↔ π.same ρ σ := by
  simp only [List.mem_cons, not_or] at apart
  unfold State.backfill
  split <;> simp [apart]

@[simp] theorem same_packArrive (apart : π ∉ [Part.pwr, .regions, .tiles, .stw, .erw, .qg, .det, .pool, .runs, .jobs,
    .outputs]) (r : Run) (j : Nat) (x : Job) (k : Nat) (a : Arrival) : π.same ρ (σ.packArrive r j x k a) ↔ π.same ρ σ := by
  simp only [List.mem_cons, not_or] at apart
  unfold State.packArrive
  simp [apart]

@[simp] theorem same_deadlineEnd (apart : π ∉ [Part.regions, .qg, .det, .pool, .runs, .jobs, .outputs]) (j : Nat) :
    π.same ρ (σ.deadlineEnd j) ↔ π.same ρ σ := by
  simp only [List.mem_cons, not_or] at apart
  unfold State.deadlineEnd
  dsimp only
  repeat' split
  all_goals simp [apart]

@[simp] theorem same_retireOut (apart : π ∉ [Part.pwr, .regions, .tiles, .stw, .erw, .det, .pool, .runs, .jobs, .outputs])
    (r : Run) (j : Nat) (x : Job) (k : Nat) (o : SampleOut) (write : State → State) (hwrite : ∀ σ, π.same ρ (write σ) ↔
    π.same ρ σ) : π.same ρ (σ.retireOut r j x k o write) ↔ π.same ρ σ := by
  simp only [List.mem_cons, not_or] at apart
  unfold State.retireOut
  split <;> simp [apart, hwrite]

@[simp] theorem same_takeCore (apart : π ∉ [Part.jobs]) (j : Nat) (x : Job) : π.same ρ (σ.takeCore j x) ↔ π.same ρ σ := by
  simp only [List.mem_cons, not_or] at apart
  unfold State.takeCore
  simp [apart]

@[simp] theorem same_packNext (apart : π ∉ [Part.pwr, .regions, .tiles, .stw, .erw, .qg, .det, .pool, .runs, .jobs,
    .outputs]) (r : Run) (j : Nat) : π.same ρ (σ.packNext r j) ↔ π.same ρ σ := by
  simp only [List.mem_cons, not_or] at apart
  unfold State.packNext
  dsimp only
  repeat' split
  all_goals simp [apart]

@[simp] theorem same_sampleRetire (apart : π ∉ [Part.pwr, .regions, .tiles, .stw, .erw, .qg, .det, .pool, .runs, .jobs,
    .outputs]) (j : Nat) : π.same ρ (σ.sampleRetire j) ↔ π.same ρ σ := by
  simp only [List.mem_cons, not_or] at apart
  unfold State.sampleRetire
  dsimp only
  repeat' split
  all_goals simp [apart]

@[simp] theorem same_encodedEnds (apart : π ∉ [Part.stw, .runs]) (e : Nat) (x : Encoded) :
    π.same ρ (σ.encodedEnds e x) ↔ π.same ρ σ := by
  simp only [List.mem_cons, not_or] at apart
  unfold State.encodedEnds
  refine same_foldl (fun τ w => same_foldl (fun υ i => ?_) _) x.rows
  simp [apart]

@[simp] theorem same_takeSpawn (apart : π ∉ [Part.regions, .tiles, .det, .pool, .runs, .jobs, .outputs]) (j : Nat) (x : Job)
    (n : Nat) (p : Job) (c : Encoded) : π.same ρ (σ.takeSpawn j x n p c) ↔ π.same ρ σ := by
  simp only [List.mem_cons, not_or] at apart
  unfold State.takeSpawn
  simp [apart]

@[simp] theorem same_encodeSpawn (apart : π ∉ [Part.pwr, .regions, .tiles, .stw, .erw, .pke, .det, .pool, .runs, .jobs,
    .seals, .nextSeal, .dealt, .outputs]) (j : Nat) : π.same ρ (σ.encodeSpawn j) ↔ π.same ρ σ := by
  simp only [List.mem_cons, not_or] at apart
  unfold State.encodeSpawn
  repeat' split
  all_goals simp [apart]

@[simp] theorem same_tadpoleLimit (apart : π ∉ [Part.pwr, .regions, .tiles, .erw, .pke, .cus, .qg, .det, .pool, .runs,
    .jobs, .seals, .outputs]) (e i : Nat) : π.same ρ (σ.tadpoleLimit e i) ↔ π.same ρ σ := by
  simp only [List.mem_cons, not_or] at apart
  unfold State.tadpoleLimit
  repeat' split
  all_goals simp [apart]

@[simp] theorem same_adminDoneFlags (apart : π ∉ [Part.qg]) (b : Bytes) (status result flags : Nat) :
    π.same ρ (σ.adminDoneFlags b status result flags) ↔ π.same ρ σ := by
  simp only [List.mem_cons, not_or] at apart
  unfold State.adminDoneFlags
  simp [apart]

@[simp] theorem same_pauseNow (apart : π ∉ [Part.qg]) (q : Nat) : π.same ρ (σ.pauseNow q) ↔ π.same ρ σ := by
  simp only [List.mem_cons, not_or] at apart
  unfold State.pauseNow
  simp [apart]

@[simp] theorem same_boundaryReached (apart : π ∉ [Part.qg]) (q : Nat) : π.same ρ (σ.boundaryReached q) ↔ π.same ρ σ := by
  simp only [List.mem_cons, not_or] at apart
  unfold State.boundaryReached
  split <;> simp [apart]

@[simp] theorem same_writeQCtl (apart : π ∉ [Part.pwr, .erw, .qg]) (v : Nat) : π.same ρ (σ.writeQCtl v) ↔ π.same ρ σ := by
  simp only [List.mem_cons, not_or] at apart
  unfold State.writeQCtl
  simp [apart]

@[simp] theorem same_seedWrite (apart : π ∉ [Part.pwr, .erw, .qg, .det]) (v : Nat) (f : Tab Bytes → Tab Bytes) (g : Det →
    Det) : π.same ρ (σ.seedWrite v f g) ↔ π.same ρ σ := by
  simp only [List.mem_cons, not_or] at apart
  unfold State.seedWrite
  simp [apart]

@[simp] theorem same_seedCommit (apart : π ∉ [Part.pwr, .erw, .qg, .det]) (v : Nat) :
    π.same ρ (σ.seedCommit v) ↔ π.same ρ σ := by
  simp only [List.mem_cons, not_or] at apart
  unfold State.seedCommit
  simp [apart]

@[simp] theorem same_seedClear (apart : π ∉ [Part.pwr, .erw, .qg, .det]) (v : Nat) : π.same ρ (σ.seedClear v) ↔ π.same ρ σ := by
  simp only [List.mem_cons, not_or] at apart
  unfold State.seedClear
  simp [apart]

@[simp] theorem same_releaseHeld (apart : π ∉ [Part.qg]) (n : Nat) : π.same ρ (σ.releaseHeld n) ↔ π.same ρ σ := by
  simp only [List.mem_cons, not_or] at apart
  unfold State.releaseHeld
  simp [apart]


end

end Sys2Proof.Machine

namespace Sys2Proof.Machine

section
variable {π : Part} {ρ σ : State}

@[simp] theorem same_setComparator (apart : π ∉ [Part.time]) (n : Nat) (c : Comparator) :
    π.same ρ (σ.setComparator n c) ↔ π.same ρ σ := by
  simp only [List.mem_cons, not_or] at apart
  unfold State.setComparator
  simp [apart]

@[simp] theorem same_fire (apart : π ∉ [Part.time, .qg]) (n : Nat) : π.same ρ (σ.fire n) ↔ π.same ρ σ := by
  simp only [List.mem_cons, not_or] at apart
  unfold State.fire
  dsimp only
  repeat' split
  all_goals simp [apart]

@[simp] theorem same_detachLane (apart : π ∉ [Part.det]) (l : Nat) : π.same ρ (σ.detachLane l) ↔ π.same ρ σ := by
  simp only [List.mem_cons, not_or] at apart
  unfold State.detachLane
  simp [apart]

@[simp] theorem same_attachLane (apart : π ∉ [Part.qg, .det]) (q l partner : Nat) :
    π.same ρ (σ.attachLane q l partner) ↔ π.same ρ σ := by
  simp only [List.mem_cons, not_or] at apart
  unfold State.attachLane
  split <;> simp [apart]

@[simp] theorem same_contextSigned (apart : π ∉ [Part.qg, .outputs]) (b body : Bytes) (aborted : Bool) :
    π.same ρ (σ.contextSigned b body aborted) ↔ π.same ρ σ := by
  simp only [List.mem_cons, not_or] at apart
  unfold State.contextSigned
  simp [apart]

@[simp] theorem same_applyContext (apart : π ∉ [Part.qg]) (q : Nat) (d : Bytes) :
    π.same ρ (σ.applyContext q d) ↔ π.same ρ σ := by
  simp only [List.mem_cons, not_or] at apart
  unfold State.applyContext
  simp [apart]

@[simp] theorem same_certificateVerified (apart : π ∉ [Part.pke, .qg]) (b d : Bytes) (aborted : Bool) :
    π.same ρ (σ.certificateVerified b d aborted) ↔ π.same ρ σ := by
  simp only [List.mem_cons, not_or] at apart
  unfold State.certificateVerified
  simp [apart]

@[simp] theorem same_contextVerified (apart : π ∉ [Part.qg]) (b d : Bytes) (aborted : Bool) :
    π.same ρ (σ.contextVerified b d aborted) ↔ π.same ρ σ := by
  simp only [List.mem_cons, not_or] at apart
  unfold State.contextVerified
  simp [apart]

@[simp] theorem same_replay (apart : π ∉ [Part.qg, .outputs]) (b : Bytes) (mem : HostMem) (l : Ledger) (cs : List ListCmd) :
    π.same ρ (σ.replay b mem l cs) ↔ π.same ρ σ := by
  simp only [List.mem_cons, not_or] at apart
  unfold State.replay
  dsimp only
  repeat' split
  all_goals simp [apart]

@[simp] theorem same_grantClaim (apart : π ∉ [Part.time, .regions, .sil]) (kind i : Nat) (c : Claim) :
    π.same ρ (σ.grantClaim kind i c) ↔ π.same ρ σ := by
  simp only [List.mem_cons, not_or] at apart
  unfold State.grantClaim
  simp [apart]

@[simp] theorem same_releaseClaim (apart : π ∉ [Part.time, .regions, .sil]) (kind i : Nat) :
    π.same ρ (σ.releaseClaim kind i) ↔ π.same ρ σ := by
  simp only [List.mem_cons, not_or] at apart
  unfold State.releaseClaim
  simp [apart]

@[simp] theorem same_recordVerified (apart : π ∉ [Part.pwr, .erw, .sil, .qg]) (b d : Bytes) (aborted : Bool) :
    π.same ρ (σ.recordVerified b d aborted) ↔ π.same ρ σ := by
  simp only [List.mem_cons, not_or] at apart
  unfold State.recordVerified
  split <;> simp [apart]

@[simp] theorem same_answerMailbox (apart : π ∉ [Part.stw]) : π.same ρ σ.answerMailbox ↔ π.same ρ σ := by
  simp only [List.mem_cons, not_or] at apart
  unfold State.answerMailbox
  simp [apart]

@[simp] theorem same_writeMailbox (apart : π ∉ [Part.pwr, .stw, .erw]) (v : Nat) : π.same ρ (σ.writeMailbox v) ↔ π.same ρ σ := by
  simp only [List.mem_cons, not_or] at apart
  unfold State.writeMailbox
  simp [apart]

@[simp] theorem same_mailboxRow (apart : π ∉ [Part.pwr, .stw, .erw]) (code : Nat) (v : BitVec 32) :
    π.same ρ (σ.mailboxRow code v) ↔ π.same ρ σ := by
  simp only [List.mem_cons, not_or] at apart
  unfold State.mailboxRow
  simp [apart]

@[simp] theorem same_resumeJob (apart : π ∉ [Part.pwr, .regions, .tiles, .stw, .erw, .det, .pool, .runs, .jobs, .outputs])
    (j : Nat) : π.same ρ (σ.resumeJob j) ↔ π.same ρ σ := by
  simp only [List.mem_cons, not_or] at apart
  unfold State.resumeJob
  repeat' split
  all_goals simp [apart]

@[simp] theorem same_resumeAll (apart : π ∉ [Part.pwr, .regions, .tiles, .stw, .erw, .det, .pool, .runs, .jobs, .outputs]) :
    π.same ρ σ.resumeAll ↔ π.same ρ σ := by
  simp only [List.mem_cons, not_or] at apart
  unfold State.resumeAll
  simp [apart]

@[simp] theorem same_backlogResume (apart : π ∉ [Part.pool]) (key : Nat) : π.same ρ (σ.backlogResume key) ↔ π.same ρ σ := by
  simp only [List.mem_cons, not_or] at apart
  unfold State.backlogResume
  simp [apart]

@[simp] theorem same_grantRequest (apart : π ∉ [Part.pwr, .regions, .tiles, .stw, .erw, .det, .pool, .runs, .jobs,
    .outputs]) (q : WorkRequest) : π.same ρ (σ.grantRequest q) ↔ π.same ρ σ := by
  simp only [List.mem_cons, not_or] at apart
  unfold State.grantRequest
  simp [apart]

@[simp] theorem same_markRedone (apart : π ∉ [Part.runs]) (id : Nat) : π.same ρ (σ.markRedone id) ↔ π.same ρ σ := by
  simp only [List.mem_cons, not_or] at apart
  unfold State.markRedone
  simp [apart]

@[simp] theorem same_dropGone (apart : π ∉ [Part.pwr, .regions, .tiles, .erw, .pke, .qg, .det, .pool, .runs, .jobs, .seals,
    .outputs]) : π.same ρ σ.dropGone ↔ π.same ρ σ := by
  simp only [List.mem_cons, not_or] at apart
  unfold State.dropGone
  simp [apart]

@[simp] theorem same_rebask (apart : π ∉ [Part.pwr, .regions, .tiles, .sil]) (r : Nat) (bind : List (Nat × Nat)) :
    π.same ρ (σ.rebask r bind) ↔ π.same ρ σ := by
  simp only [List.mem_cons, not_or] at apart
  unfold State.rebask
  simp [apart]

@[simp] theorem same_regionFault (apart : π ∉ [Part.regions]) (r bit : Nat) : π.same ρ (σ.regionFault r bit) ↔ π.same ρ σ := by
  simp only [List.mem_cons, not_or] at apart
  unfold State.regionFault
  simp [apart]

@[simp] theorem same_abandonLeap (apart : π ∉ [Part.regions, .qg]) (r : Nat) : π.same ρ (σ.abandonLeap r) ↔ π.same ρ σ := by
  simp only [List.mem_cons, not_or] at apart
  unfold State.abandonLeap
  dsimp only
  repeat' split
  all_goals simp [apart]

@[simp] theorem same_unbindRegion (apart : π ∉ [Part.tiles, .sil]) (r : Nat) : π.same ρ (σ.unbindRegion r) ↔ π.same ρ σ := by
  simp only [List.mem_cons, not_or] at apart
  unfold State.unbindRegion
  simp [apart]

@[simp] theorem same_beginFold (apart : π ∉ [Part.pwr, .regions, .tiles, .erw, .pke, .sil, .qg, .det, .pool, .runs, .jobs,
    .seals, .dealt, .outputs]) (r trigger cause : Nat) : π.same ρ (σ.beginFold r trigger cause) ↔ π.same ρ σ := by
  simp only [List.mem_cons, not_or] at apart
  unfold State.beginFold
  simp [apart]

@[simp] theorem same_fold (apart : π ∉ [Part.pwr, .regions, .tiles, .faults, .erw, .pke, .cus, .sil, .qg, .det, .pool,
    .runs, .jobs, .dicts, .dictSlots, .keyCache, .seals, .dealt, .outputs, .fresh]) (r trigger cause : Nat) :
    π.same ρ (σ.fold r trigger cause) ↔ π.same ρ σ := by
  simp only [List.mem_cons, not_or] at apart
  unfold State.fold
  split
  · rfl
  split
  · simp [apart]
  split
  · simp [apart]
  split
  · simp [apart]
  split
  · dsimp only
    split
    · exact (same_haltEntry (by simp [apart]) _).trans ((same_setFresh (by simp [apart]) _).trans (same_beginFold (by simp [apart]) ..))
    · simp [apart]
  · simp [apart]

@[simp] theorem same_moveBuffer (apart : π ∉ [Part.pwr, .regions, .tiles, .erw, .pke, .qg, .det, .pool, .runs, .jobs,
    .seals, .outputs]) (h : Nat) : π.same ρ (σ.moveBuffer h) ↔ π.same ρ σ := by
  simp only [List.mem_cons, not_or] at apart
  unfold State.moveBuffer
  repeat' split
  all_goals simp [apart]

@[simp] theorem same_moveWork (apart : π ∉ [Part.pwr, .regions, .tiles, .erw, .pke, .qg, .det, .pool, .runs, .jobs, .seals,
    .outputs]) (w : WorkBuffer) : π.same ρ (σ.moveWork w) ↔ π.same ρ σ := by
  simp only [List.mem_cons, not_or] at apart
  unfold State.moveWork
  repeat' split
  all_goals simp [apart]

@[simp] theorem same_emptyPool (apart : π ∉ [Part.regions, .pool]) (r : Nat) : π.same ρ (σ.emptyPool r) ↔ π.same ρ σ := by
  simp only [List.mem_cons, not_or] at apart
  unfold State.emptyPool
  simp [apart]

@[simp] theorem same_foldDone (apart : π ∉ [Part.pwr, .regions, .tiles, .erw, .pke, .qg, .det, .pool, .runs, .jobs, .seals,
    .outputs]) (r : Nat) : π.same ρ (σ.foldDone r) ↔ π.same ρ σ := by
  simp only [List.mem_cons, not_or] at apart
  unfold State.foldDone
  dsimp only
  repeat' split
  all_goals simp [apart]

@[simp] theorem same_beginLeap (apart : π ∉ [Part.pwr, .regions, .tiles, .erw, .sil, .pool, .runs, .jobs]) (id : Nat)
    (retire : Bool) : π.same ρ (σ.beginLeap id retire) ↔ π.same ρ σ := by
  simp only [List.mem_cons, not_or] at apart
  unfold State.beginLeap
  simp [apart]

@[simp] theorem same_leapDone (apart : π ∉ [Part.pwr, .regions, .tiles, .erw, .qg]) (r : Nat) :
    π.same ρ (σ.leapDone r) ↔ π.same ρ σ := by
  simp only [List.mem_cons, not_or] at apart
  unfold State.leapDone
  dsimp only
  repeat' split
  all_goals simp [apart]

@[simp] theorem same_tileMoult (apart : π ∉ [Part.pwr, .tiles, .erw]) (id : Nat) (ok : Bool) :
    π.same ρ (σ.tileMoult id ok) ↔ π.same ρ σ := by
  simp only [List.mem_cons, not_or] at apart
  unfold State.tileMoult
  simp [apart]

@[simp] theorem same_afterMark (apart : π ∉ [Part.pwr, .regions, .tiles, .faults, .erw, .pke, .cus, .sil, .qg, .det, .pool,
    .runs, .jobs, .dicts, .dictSlots, .keyCache, .seals, .dealt, .outputs, .fresh]) (id : Nat) (wasBound : Bool) (cause :
    Nat) : π.same ρ (σ.afterMark id wasBound cause) ↔ π.same ρ σ := by
  simp only [List.mem_cons, not_or] at apart
  unfold State.afterMark
  simp [apart]

@[simp] theorem same_markTile (apart : π ∉ [Part.pwr, .regions, .tiles, .faults, .erw, .pke, .cus, .sil, .qg, .det, .pool,
    .runs, .jobs, .dicts, .dictSlots, .keyCache, .seals, .dealt, .outputs, .fresh]) (id cause : Nat) (moultOk : Bool) :
    π.same ρ (σ.markTile id cause moultOk) ↔ π.same ρ σ := by
  simp only [List.mem_cons, not_or] at apart
  unfold State.markTile
  simp [apart]

@[simp] theorem same_retryTile (apart : π ∉ [Part.pwr, .regions, .tiles, .faults, .erw, .pke, .cus, .sil, .qg, .det, .pool,
    .runs, .jobs, .dicts, .dictSlots, .keyCache, .seals, .dealt, .outputs, .fresh]) (id cause : Nat) (moultOk : Bool) :
    π.same ρ (σ.retryTile id cause moultOk) ↔ π.same ρ σ := by
  simp only [List.mem_cons, not_or] at apart
  unfold State.retryTile
  simp [apart]

@[simp] theorem same_linkFail (apart : π ∉ [Part.pwr, .regions, .tiles, .faults, .erw, .pke, .cus, .sil, .qg, .det, .pool,
    .runs, .jobs, .dicts, .dictSlots, .keyCache, .seals, .dealt, .outputs, .fresh]) (r : Nat) (f : LinkFailure) :
    π.same ρ (σ.linkFail r f) ↔ π.same ρ σ := by
  simp only [List.mem_cons, not_or] at apart
  unfold State.linkFail
  simp [apart]

@[simp] theorem same_tileRetire (apart : π ∉ [Part.pwr, .regions, .tiles, .erw, .sil, .qg, .pool, .runs, .jobs]) (b : Bytes)
    (id : Nat) : π.same ρ (σ.tileRetire b id) ↔ π.same ρ σ := by
  simp only [List.mem_cons, not_or] at apart
  unfold State.tileRetire
  simp [apart]

@[simp] theorem same_applyTest (apart : π ∉ [Part.regions, .tiles]) (r : Nat) (x : TestResult) :
    π.same ρ (σ.applyTest r x) ↔ π.same ρ σ := by
  simp only [List.mem_cons, not_or] at apart
  unfold State.applyTest
  simp [apart]

@[simp] theorem same_regionBack (apart : π ∉ [Part.regions, .tiles, .sil, .runs]) (r : Nat) (im : Option Image) (bind : List
    (Nat × Nat)) : π.same ρ (σ.regionBack r im bind) ↔ π.same ρ σ := by
  simp only [List.mem_cons, not_or] at apart
  unfold State.regionBack
  split <;> simp [apart]

@[simp] theorem same_refuseRun (apart : π ∉ [Part.sil, .qg]) (r : Refused) : π.same ρ (σ.refuseRun r) ↔ π.same ρ σ := by
  simp only [List.mem_cons, not_or] at apart
  unfold State.refuseRun
  simp [apart]

@[simp] theorem same_activateCheck (apart : π ∉ [Part.sil, .qg]) (b : Bytes) : π.same ρ (σ.activateCheck b) ↔ π.same ρ σ := by
  simp only [List.mem_cons, not_or] at apart
  unfold State.activateCheck
  repeat' split
  all_goals simp [apart]

@[simp] theorem same_activateProceed (apart : π ∉ [Part.sil, .qg]) : π.same ρ σ.activateProceed ↔ π.same ρ σ := by
  simp only [List.mem_cons, not_or] at apart
  unfold State.activateProceed
  split <;> simp [apart]

@[simp] theorem same_activateFails (apart : π ∉ [Part.sil, .qg]) : π.same ρ σ.activateFails ↔ π.same ρ σ := by
  simp only [List.mem_cons, not_or] at apart
  unfold State.activateFails
  simp [apart]

@[simp] theorem same_imageSwitch (apart : π ∉ [Part.time, .pwr, .regions, .tiles, .erw, .sil, .qg, .pool, .runs]) :
    π.same ρ σ.imageSwitch ↔ π.same ρ σ := by
  simp only [List.mem_cons, not_or] at apart
  unfold State.imageSwitch
  repeat' split
  all_goals simp [apart]

@[simp] theorem same_romCheck (apart : π ∉ [Part.pwr, .regions]) : π.same ρ σ.romCheck ↔ π.same ρ σ :=
  same_of_only (romCheck_only σ) apart
@[simp] theorem same_testsEnd (apart : π ∉ [Part.pwr, .regions, .tiles, .faults, .erw, .pke, .cus, .sil, .qg, .det, .pool,
    .runs, .jobs, .dicts, .dictSlots, .keyCache, .seals, .outputs]) : π.same ρ σ.testsEnd ↔ π.same ρ σ := by
  simp only [List.mem_cons, not_or] at apart
  unfold State.testsEnd
  simp [apart]

@[simp] theorem same_baskActivate (apart : π ∉ [Part.time, .pwr, .regions, .tiles, .sil, .pool, .runs]) (r : Nat) :
    π.same ρ (σ.baskActivate r) ↔ π.same ρ σ := by
  simp only [List.mem_cons, not_or] at apart
  unfold State.baskActivate
  repeat' split
  all_goals simp [apart]

@[simp] theorem same_selftestEnd (apart : π ∉ [Part.time, .pwr, .regions, .tiles, .faults, .erw, .pke, .cus, .sil, .qg,
    .det, .pool, .emc, .runs, .jobs, .dicts, .dictSlots, .keyCache, .seals, .outputs]) (r : Nat) (x : TestResult) :
    π.same ρ (σ.selftestEnd r x) ↔ π.same ρ σ := by
  simp only [List.mem_cons, not_or] at apart
  unfold State.selftestEnd
  simp [apart]

@[simp] theorem same_commitHost (apart : π ∉ [Part.time, .pwr, .erw]) (value : BitVec 32) :
    π.same ρ (σ.commitHost value) ↔ π.same ρ σ := by
  simp only [List.mem_cons, not_or] at apart
  unfold State.commitHost
  simp [apart]

@[simp] theorem same_railRecord (apart : π ∉ [Part.pwr, .erw]) (rail level : Nat) :
    π.same ρ (σ.railRecord rail level) ↔ π.same ρ σ := by
  simp only [List.mem_cons, not_or] at apart
  unfold State.railRecord
  simp [apart]

@[simp] theorem same_timingRecord (apart : π ∉ [Part.pwr, .erw]) (kind g x : Nat) :
    π.same ρ (σ.timingRecord kind g x) ↔ π.same ρ σ := by
  simp only [List.mem_cons, not_or] at apart
  unfold State.timingRecord
  simp [apart]

@[simp] theorem same_loseTiming (apart : π ∉ [Part.time, .pwr, .erw]) : π.same ρ σ.loseTiming ↔ π.same ρ σ := by
  simp only [List.mem_cons, not_or] at apart
  unfold State.loseTiming
  simp [apart]

@[simp] theorem same_lock (apart : π ∉ [Part.time, .pwr, .regions]) : π.same ρ σ.lock ↔ π.same ρ σ := by
  simp only [List.mem_cons, not_or] at apart
  unfold State.lock
  simp [apart]

@[simp] theorem same_relock (apart : π ∉ [Part.time, .pwr, .regions, .erw]) (x : Nat) : π.same ρ (σ.relock x) ↔ π.same ρ σ := by
  simp only [List.mem_cons, not_or] at apart
  unfold State.relock
  simp [apart]

@[simp] theorem same_countWord (apart : π ∉ [Part.time, .pwr, .regions, .erw]) (count : Nat) :
    π.same ρ (σ.countWord count) ↔ π.same ρ σ := by
  simp only [List.mem_cons, not_or] at apart
  unfold State.countWord
  simp [apart]

@[simp] theorem same_rawFrame (apart : π ∉ [Part.cus, .outputs]) (type : Nat) (payload : Bytes) :
    π.same ρ (σ.rawFrame type payload) ↔ π.same ρ σ := by
  simp only [List.mem_cons, not_or] at apart
  unfold State.rawFrame
  simp [apart]

@[simp] theorem same_sendFrame (apart : π ∉ [Part.cus, .outputs]) (type : Nat) (payload : Bytes) :
    π.same ρ (σ.sendFrame type payload) ↔ π.same ρ σ := by
  simp only [List.mem_cons, not_or] at apart
  unfold State.sendFrame
  simp [apart]

@[simp] theorem same_sessionFrame (apart : π ∉ [Part.cus, .outputs]) : π.same ρ σ.sessionFrame ↔ π.same ρ σ := by
  simp only [List.mem_cons, not_or] at apart
  unfold State.sessionFrame
  simp [apart]

@[simp] theorem same_sendSession (apart : π ∉ [Part.cus, .outputs]) : π.same ρ σ.sendSession ↔ π.same ρ σ := by
  simp only [List.mem_cons, not_or] at apart
  unfold State.sendSession
  simp [apart]

@[simp] theorem same_sessionsDue (apart : π ∉ [Part.cus, .outputs]) : π.same ρ σ.sessionsDue ↔ π.same ρ σ := by
  simp only [List.mem_cons, not_or] at apart
  unfold State.sessionsDue
  simp [apart]

@[simp] theorem same_sendStatus (apart : π ∉ [Part.cus, .outputs, .fresh]) (slot : Nat) :
    π.same ρ (σ.sendStatus slot) ↔ π.same ρ σ := by
  simp only [List.mem_cons, not_or] at apart
  unfold State.sendStatus
  dsimp only
  split
  · exact (same_sendFrame (by simp [apart]) ..).trans (same_setFresh (by simp [apart]) _)
  · exact same_setFresh (by simp [apart]) _

@[simp] theorem same_pkStart (apart : π ∉ [Part.pke, .qg]) (op : PkOp) (draw : Nat) :
    π.same ρ (σ.pkStart op draw) ↔ π.same ρ σ := by
  simp only [List.mem_cons, not_or] at apart
  unfold State.pkStart
  repeat' split
  all_goals simp [apart]

@[simp] theorem same_pkStore (apart : π ∉ [Part.pke]) (j : PkJob) : π.same ρ (σ.pkStore j) ↔ π.same ρ σ :=
  same_of_only (pkStore_only σ j) apart
@[simp] theorem same_endHostJob (apart : π ∉ [Part.pke, .qg, .outputs]) (j : PkJob) (aborted : Bool) :
    π.same ρ (σ.endHostJob j aborted) ↔ π.same ρ σ := by
  simp only [List.mem_cons, not_or] at apart
  unfold State.endHostJob
  simp [apart]

@[simp] theorem same_sessionKey (apart : π ∉ [Part.pke, .cus]) (draw : Nat) : π.same ρ (σ.sessionKey draw) ↔ π.same ρ σ := by
  simp only [List.mem_cons, not_or] at apart
  unfold State.sessionKey
  simp [apart]

@[simp] theorem same_certVerdict (apart : π ∉ [Part.pwr, .sil]) (ok : Bool) : π.same ρ (σ.certVerdict ok) ↔ π.same ρ σ := by
  simp only [List.mem_cons, not_or] at apart
  unfold State.certVerdict
  simp [apart]

@[simp] theorem same_endStartup (apart : π ∉ [Part.pwr, .regions, .pke, .cus, .sil, .outputs]) (j : PkJob) (aborted : Bool)
    : π.same ρ (σ.endStartup j aborted) ↔ π.same ρ σ := by
  simp only [List.mem_cons, not_or] at apart
  unfold State.endStartup
  split <;> simp [apart]

@[simp] theorem same_manifestDropped (apart : π ∉ [Part.pwr, .erw, .runs]) (m : Manifest) :
    π.same ρ (σ.manifestDropped m) ↔ π.same ρ σ := by
  simp only [List.mem_cons, not_or] at apart
  unfold State.manifestDropped
  simp [apart]


end

end Sys2Proof.Machine

namespace Sys2Proof.Machine

section
variable {π : Part} {ρ σ : State}

@[simp] theorem same_writeManifest (apart : π ∉ [Part.pwr, .regions, .erw, .pke, .qg, .det, .pool, .runs, .jobs, .outputs])
    (n : Nat) (m : Manifest) : π.same ρ (σ.writeManifest n m) ↔ π.same ρ σ :=
  same_of_only (writeManifest_only σ n m) apart
@[simp] theorem same_heldManifests (apart : π ∉ [Part.pwr, .regions, .erw, .pke, .qg, .det, .pool, .runs, .jobs, .outputs])
    (l : Nat) : π.same ρ (σ.heldManifests l) ↔ π.same ρ σ :=
  same_of_only (heldManifests_only σ l) apart
@[simp] theorem same_endManifest (apart : π ∉ [Part.pwr, .regions, .erw, .pke, .qg, .det, .pool, .runs, .jobs, .outputs]) (j
    : PkJob) (aborted : Bool) : π.same ρ (σ.endManifest j aborted) ↔ π.same ρ σ := by
  simp only [List.mem_cons, not_or] at apart
  unfold State.endManifest
  split <;> simp [apart]

@[simp] theorem same_discardRuns (apart : π ∉ [Part.pwr, .erw, .pke]) (j : PkJob) (n : Nat) :
    π.same ρ (σ.discardRuns j n) ↔ π.same ρ σ :=
  same_of_only (discardRuns_only σ j n) apart
@[simp] theorem same_keyClear (apart : π ∉ [Part.pwr, .erw, .pke]) (v : Nat) : π.same ρ (σ.keyClear v) ↔ π.same ρ σ := by
  simp only [List.mem_cons, not_or] at apart
  unfold State.keyClear
  repeat' split
  all_goals simp [apart]

@[simp] theorem same_linkDown (apart : π ∉ [Part.pwr, .erw, .cus]) : π.same ρ σ.linkDown ↔ π.same ρ σ := by
  simp only [List.mem_cons, not_or] at apart
  unfold State.linkDown
  simp [apart]

@[simp] theorem same_resendFrame (apart : π ∉ [Part.pwr, .erw, .cus, .outputs]) (seq : Nat) :
    π.same ρ (σ.resendFrame seq) ↔ π.same ρ σ := by
  simp only [List.mem_cons, not_or] at apart
  unfold State.resendFrame
  split <;> simp [apart]

@[simp] theorem same_answerFrame (apart : π ∉ [Part.cus, .outputs]) (seq reason : Nat) :
    π.same ρ (σ.answerFrame seq reason) ↔ π.same ρ σ := by
  simp only [List.mem_cons, not_or] at apart
  unfold State.answerFrame
  simp [apart]

@[simp] theorem same_receive (apart : π ∉ [Part.cus, .outputs]) (type seq : Nat) (payload : Bytes) (judge : State → Nat)
    (effect refused : State → State) (heffect : ∀ σ, π.same ρ (effect σ) ↔ π.same ρ σ) (hrefused : ∀ σ, π.same ρ (refused σ)
    ↔ π.same ρ σ) : π.same ρ (σ.receive type seq payload judge effect refused) ↔ π.same ρ σ := by
  simp only [List.mem_cons, not_or] at apart
  have go : ∀ crc, π.same ρ (State.receive.go σ seq judge effect refused crc) ↔ π.same ρ σ := fun crc => by
    unfold State.receive.go
    dsimp only
    split <;> simp [apart, heffect, hrefused]
  unfold State.receive
  split
  · rfl
  dsimp only
  split
  · split
    · simp [apart]
    · exact go _
  · exact go _

@[simp] theorem same_tapGate (apart : π ∉ [Part.cus]) : π.same ρ σ.tapGate ↔ π.same ρ σ := by
  simp only [List.mem_cons, not_or] at apart
  unfold State.tapGate
  simp [apart]

@[simp] theorem same_openLabel (apart : π ∉ [Part.pke, .cus, .qg]) (b m : Bytes) (o : Offer) (profile l : Nat) :
    π.same ρ (σ.openLabel b m o profile l) ↔ π.same ρ σ := by
  simp only [List.mem_cons, not_or] at apart
  unfold State.openLabel
  simp [apart]

@[simp] theorem same_openVerified (apart : π ∉ [Part.pke, .cus, .qg]) (b m : Bytes) (aborted : Bool) :
    π.same ρ (σ.openVerified b m aborted) ↔ π.same ρ σ := by
  simp only [List.mem_cons, not_or] at apart
  unfold State.openVerified
  repeat' split
  all_goals simp [apart]

@[simp] theorem same_askCounter (apart : π ∉ [Part.pwr, .erw, .cus, .qg, .outputs]) (b : Bytes) (l counter : Nat) :
    π.same ρ (σ.askCounter b l counter) ↔ π.same ρ σ := by
  simp only [List.mem_cons, not_or] at apart
  unfold State.askCounter
  simp [apart]

@[simp] theorem same_openAgreed (apart : π ∉ [Part.pwr, .erw, .cus, .qg, .outputs]) (b : Bytes) (l : Nat) (offer : Bytes)
    (aborted : Bool) : π.same ρ (σ.openAgreed b l offer aborted) ↔ π.same ρ σ := by
  simp only [List.mem_cons, not_or] at apart
  unfold State.openAgreed
  repeat' split
  all_goals simp [apart]

@[simp] theorem same_openDone (apart : π ∉ [Part.pwr, .erw, .cus, .qg]) (l gen token : Nat) :
    π.same ρ (σ.openDone l gen token) ↔ π.same ρ σ := by
  simp only [List.mem_cons, not_or] at apart
  unfold State.openDone
  simp [apart]

@[simp] theorem same_counterAck (apart : π ∉ [Part.pwr, .erw, .cus, .qg]) (p : Bytes) :
    π.same ρ (σ.counterAck p) ↔ π.same ρ σ := by
  simp only [List.mem_cons, not_or] at apart
  unfold State.counterAck
  split <;> simp [apart]

@[simp] theorem same_counterTimeout (apart : π ∉ [Part.pwr, .erw, .cus, .qg]) : π.same ρ σ.counterTimeout ↔ π.same ρ σ := by
  simp only [List.mem_cons, not_or] at apart
  unfold State.counterTimeout
  split <;> simp [apart]

@[simp] theorem same_revoke (apart : π ∉ [Part.pwr, .regions, .tiles, .erw, .pke, .cus, .qg, .det, .pool, .runs, .jobs,
    .dicts, .dictSlots, .keyCache, .seals, .outputs]) (b : Bytes) : π.same ρ (σ.revoke b) ↔ π.same ρ σ := by
  simp only [List.mem_cons, not_or] at apart
  unfold State.revoke
  dsimp only
  repeat' split
  all_goals simp [apart]

@[simp] theorem same_presenceAbsent (apart : π ∉ [Part.pwr, .erw, .pke, .cus, .qg]) (slot : Nat) :
    π.same ρ (σ.presenceAbsent slot) ↔ π.same ρ σ := by
  simp only [List.mem_cons, not_or] at apart
  unfold State.presenceAbsent
  simp [apart]

@[simp] theorem same_windowEnd (apart : π ∉ [Part.pwr, .regions, .tiles, .erw, .pke, .cus, .qg, .det, .pool, .runs, .jobs,
    .dicts, .dictSlots, .keyCache, .seals, .outputs]) (slot : Nat) : π.same ρ (σ.windowEnd slot) ↔ π.same ρ σ := by
  simp only [List.mem_cons, not_or] at apart
  unfold State.windowEnd
  split <;> simp [apart]

@[simp] theorem same_probeAck (apart : π ∉ [Part.pwr, .regions, .tiles, .erw, .pke, .cus, .qg, .det, .pool, .runs, .jobs,
    .dicts, .dictSlots, .keyCache, .seals, .outputs]) (p : Bytes) : π.same ρ (σ.probeAck p) ↔ π.same ρ σ := by
  simp only [List.mem_cons, not_or] at apart
  unfold State.probeAck
  simp [apart]

@[simp] theorem same_stopWaiting (apart : π ∉ [Part.cus]) (seq : Nat) : π.same ρ (σ.stopWaiting seq) ↔ π.same ρ σ := by
  simp only [List.mem_cons, not_or] at apart
  unfold State.stopWaiting
  simp [apart]

@[simp] theorem same_dcArm (apart : π ∉ [Part.cus]) (kind : Nat) : π.same ρ (σ.dcArm kind) ↔ π.same ρ σ := by
  simp only [List.mem_cons, not_or] at apart
  unfold State.dcArm
  simp [apart]

@[simp] theorem same_setUnlock (apart : π ∉ [Part.pwr, .erw, .cus]) (on : Bool) : π.same ρ (σ.setUnlock on) ↔ π.same ρ σ := by
  simp only [List.mem_cons, not_or] at apart
  unfold State.setUnlock
  simp [apart]

@[simp] theorem same_dcRow  (kind : Nat) (v : BitVec 32) (f : State → State) (hf : ∀ σ, π.same ρ (f σ) ↔ π.same ρ σ) :
    π.same ρ (σ.dcRow kind v f) ↔ π.same ρ σ := by
  unfold State.dcRow
  split
  · exact hf σ
  · rfl

@[simp] theorem same_dualAct (apart : π ∉ [Part.pwr, .erw, .cus]) : π.same ρ σ.dualAct ↔ π.same ρ σ := by
  simp only [List.mem_cons, not_or] at apart
  unfold State.dualAct
  simp [apart]

@[simp] theorem same_dualWindowEnd (apart : π ∉ [Part.cus]) : π.same ρ σ.dualWindowEnd ↔ π.same ρ σ := by
  simp only [List.mem_cons, not_or] at apart
  unfold State.dualWindowEnd
  simp [apart]

@[simp] theorem same_unlockExpiry (apart : π ∉ [Part.pwr, .erw, .cus]) : π.same ρ σ.unlockExpiry ↔ π.same ρ σ := by
  simp only [List.mem_cons, not_or] at apart
  unfold State.unlockExpiry
  simp [apart]

@[simp] theorem same_portRecord (apart : π ∉ [Part.pwr, .erw]) : π.same ρ σ.portRecord ↔ π.same ρ σ := by
  simp only [List.mem_cons, not_or] at apart
  unfold State.portRecord
  simp [apart]

@[simp] theorem same_adminReadFails (apart : π ∉ [Part.pwr, .erw, .sil, .qg]) : π.same ρ σ.adminReadFails ↔ π.same ρ σ := by
  simp only [List.mem_cons, not_or] at apart
  unfold State.adminReadFails
  split
  · split
    · refine same_adminRow (by simp [apart]) (not_mem_reloadParts (by simp [apart])) _ _ fun b τ => ?_
      dsimp only
      split
      · simp [apart]
      · split <;> simp [apart]
    · rfl
  · rfl

@[simp] theorem same_unrun (apart : π ∉ [Part.qg, .runs, .jobs]) (e : Nat) : π.same ρ (σ.unrun e) ↔ π.same ρ σ := by
  simp only [List.mem_cons, not_or] at apart
  unfold State.unrun
  split
  · rfl
  · exact (same_setRunsJobs (by simp [apart]) _ _).trans (same_modQueue (by simp [apart]) ..)

@[simp] theorem same_listReadFails (apart : π ∉ [Part.pwr, .regions, .tiles, .erw, .pke, .qg, .det, .pool, .runs, .jobs,
    .seals, .outputs]) (e : Nat) : π.same ρ (σ.listReadFails e) ↔ π.same ρ σ := by
  simp only [List.mem_cons, not_or] at apart
  unfold State.listReadFails
  simp [apart]

@[simp] theorem same_chunkReadFails (apart : π ∉ [Part.pwr, .regions, .tiles, .stw, .erw, .det, .pool, .runs, .jobs,
    .outputs]) (j k : Nat) : π.same ρ (σ.chunkReadFails j k) ↔ π.same ρ σ := by
  simp only [List.mem_cons, not_or] at apart
  unfold State.chunkReadFails
  split <;> simp [apart]

@[simp] theorem same_pkResultFails (apart : π ∉ [Part.pwr, .erw, .pke, .qg]) : π.same ρ σ.pkResultFails ↔ π.same ρ σ := by
  simp only [List.mem_cons, not_or] at apart
  unfold State.pkResultFails
  split <;> simp [apart]

@[simp] theorem same_complFails (apart : π ∉ [Part.pwr, .erw, .qg]) (q : Nat) : π.same ρ (σ.complFails q) ↔ π.same ρ σ := by
  simp only [List.mem_cons, not_or] at apart
  unfold State.complFails
  simp [apart]

@[simp] theorem same_flushFails (apart : π ∉ [Part.pwr, .erw, .qg]) : π.same ρ σ.flushFails ↔ π.same ρ σ := by
  simp only [List.mem_cons, not_or] at apart
  unfold State.flushFails
  dsimp only
  repeat' split
  all_goals simp [apart]

@[simp] theorem same_portError (apart : π ∉ [Part.pwr, .regions, .tiles, .stw, .erw, .pke, .sil, .qg, .det, .pool, .runs,
    .jobs, .seals, .outputs]) (x : PortTxn) : π.same ρ (σ.portError x) ↔ π.same ρ σ := by
  simp only [List.mem_cons, not_or] at apart
  unfold State.portError
  repeat' split
  all_goals simp [apart]

@[simp] theorem same_interruptAdmin (apart : π ∉ [Part.pwr, .erw, .pke, .cus, .sil, .qg]) :
    π.same ρ σ.interruptAdmin ↔ π.same ρ σ := by
  simp only [List.mem_cons, not_or] at apart
  unfold State.interruptAdmin
  split <;> simp [apart]

@[simp] theorem same_restartSteward (apart : π ∉ [Part.pwr, .regions, .tiles, .faults, .stw, .erw, .pke, .cus, .sil, .qg,
    .det, .pool, .runs, .jobs, .dicts, .dictSlots, .keyCache, .seals, .outputs]) (cause : Nat) :
    π.same ρ (σ.restartSteward cause) ↔ π.same ρ σ := by
  simp only [List.mem_cons, not_or] at apart
  unfold State.restartSteward
  simp [apart]

@[simp] theorem same_beginWaiting (apart : π ∉ [Part.pwr, .regions, .tiles, .faults, .erw, .pke, .cus, .sil, .qg, .det,
    .pool, .runs, .jobs, .dicts, .dictSlots, .keyCache, .seals, .dealt, .outputs, .fresh]) (r : Nat) :
    π.same ρ (σ.beginWaiting r) ↔ π.same ρ σ := by
  simp only [List.mem_cons, not_or] at apart
  unfold State.beginWaiting
  split <;> simp [apart]

@[simp] theorem same_shedCheck (apart : π ∉ [Part.pwr, .stw, .erw, .emc]) : π.same ρ σ.shedCheck ↔ π.same ρ σ := by
  simp only [List.mem_cons, not_or] at apart
  unfold State.shedCheck
  dsimp only
  repeat' split
  all_goals simp [apart]

@[simp] theorem same_restartEnd (apart : π ∉ [Part.pwr, .regions, .tiles, .faults, .stw, .erw, .pke, .cus, .sil, .qg, .det,
    .pool, .emc, .runs, .jobs, .dicts, .dictSlots, .keyCache, .seals, .dealt, .outputs, .fresh]) :
    π.same ρ σ.restartEnd ↔ π.same ρ σ := by
  simp only [List.mem_cons, not_or] at apart
  unfold State.restartEnd
  dsimp only
  repeat' split
  all_goals simp [apart]

@[simp] theorem same_rearm (apart : π ∉ [Part.intb]) (v : Nat) : π.same ρ (σ.rearm v) ↔ π.same ρ σ := by
  simp only [List.mem_cons, not_or] at apart
  unfold State.rearm
  simp [apart]

@[simp] theorem same_reread (apart : π ∉ [Part.jobs]) (j : Nat) (mem : HostMem) : π.same ρ (σ.reread j mem) ↔ π.same ρ σ := by
  simp only [List.mem_cons, not_or] at apart
  unfold State.reread
  simp [apart]

@[simp] theorem same_frameTick (apart : π ∉ [Part.jobs]) (c : Nat) (mem : HostMem) :
    π.same ρ (σ.frameTick c mem) ↔ π.same ρ σ := by
  simp only [List.mem_cons, not_or] at apart
  unfold State.frameTick
  split <;> simp [apart]

@[simp] theorem same_liveRead (apart : π ∉ [Part.jobs]) (j k : Nat) (mem : HostMem) :
    π.same ρ (σ.liveRead j k mem) ↔ π.same ρ σ := by
  simp only [List.mem_cons, not_or] at apart
  unfold State.liveRead
  split <;> simp [apart]

@[simp] theorem same_liveWindow (apart : π ∉ [Part.qg, .det, .runs, .jobs]) (j k : Nat) :
    π.same ρ (σ.liveWindow j k) ↔ π.same ρ σ := by
  simp only [List.mem_cons, not_or] at apart
  unfold State.liveWindow
  repeat' split
  all_goals simp [apart]

@[simp] theorem same_suspend (apart : π ∉ [Part.jobs]) (p : Nat × Nat) : π.same ρ (σ.suspend p) ↔ π.same ρ σ := by
  simp only [List.mem_cons, not_or] at apart
  unfold State.suspend
  simp [apart]

@[simp] theorem same_livePreempt (apart : π ∉ [Part.jobs]) (j : Nat) : π.same ρ (σ.livePreempt j) ↔ π.same ρ σ := by
  simp only [List.mem_cons, not_or] at apart
  unfold State.livePreempt
  dsimp only
  repeat' split
  all_goals simp [apart]

@[simp] theorem same_sliceOut (apart : π ∉ [Part.jobs]) (j k : Nat) : π.same ρ (σ.sliceOut j k) ↔ π.same ρ σ := by
  simp only [List.mem_cons, not_or] at apart
  unfold State.sliceOut
  repeat' split
  all_goals simp [apart]

@[simp] theorem same_pkStep (apart : π ∉ [Part.pwr, .erw, .pke, .cus, .sil, .qg, .outputs]) (b : Bytes) (step : PkStep)
    (aborted : Bool) : π.same ρ (σ.pkStep b step aborted) ↔ π.same ρ σ := by
  simp only [List.mem_cons, not_or] at apart
  unfold State.pkStep
  repeat' split
  all_goals simp [apart]

@[simp] theorem same_jobResult (apart : π ∉ [Part.pwr, .regions, .erw, .pke, .cus, .sil, .qg, .det, .pool, .runs, .jobs,
    .outputs]) (j : PkJob) (aborted : Bool) : π.same ρ (σ.jobResult j aborted) ↔ π.same ρ σ := by
  simp only [List.mem_cons, not_or] at apart
  unfold State.jobResult
  repeat' split
  all_goals simp [apart]

@[simp] theorem same_pkEnd (apart : π ∉ [Part.pwr, .regions, .erw, .pke, .cus, .sil, .qg, .det, .pool, .runs, .jobs,
    .outputs]) (failed corrected : Nat) : π.same ρ (σ.pkEnd failed corrected) ↔ π.same ρ σ := by
  simp only [List.mem_cons, not_or] at apart
  unfold State.pkEnd
  split <;> simp [apart]

@[simp] theorem same_liveWindows (apart : π ∉ [Part.qg, .det, .runs, .jobs]) (p : Nat × Nat) :
    π.same ρ (σ.liveWindows p) ↔ π.same ρ σ := by
  simp only [List.mem_cons, not_or] at apart
  unfold State.liveWindows
  generalize σ.windowsPast p.1 = n
  induction n generalizing σ with
  | zero => rfl
  | succ n ih => exact ih.trans (same_liveWindow (by simp [apart]) ..)

@[simp] theorem same_windowsClose (apart : π ∉ [Part.pwr, .regions, .tiles, .stw, .erw, .pke, .cus, .qg, .det, .pool, .runs,
    .jobs, .dicts, .dictSlots, .keyCache, .seals, .outputs]) : π.same ρ σ.windowsClose ↔ π.same ρ σ := by
  simp only [List.mem_cons, not_or] at apart
  unfold State.windowsClose
  simp [apart]

@[simp] theorem same_comparatorsFire (apart : π ∉ [Part.time, .qg]) : π.same ρ σ.comparatorsFire ↔ π.same ρ σ := by
  simp only [List.mem_cons, not_or] at apart
  unfold State.comparatorsFire
  simp [apart]


end

end Sys2Proof.Machine

/-! ### The frames of the commands -/

namespace Sys2Proof.Machine

/-- A command of an admin row or of the completion ring: its own parts, and those of the end of a reload that waits. -/
theorem adminFrame {ps : List Part} {f : State → State} {s s' : State} {t : Nat}
    (h : ∀ (u : State) (π : Part), π ∉ always ++ ps → π ∉ u.reloadParts → π.same u (f u)) (e : act t s f = .next s') :
    s.changesOnly (always ++ ps ++ s.reloadParts) s' := by
  unfold act at e
  cases e
  have reload : (s.tickTo t).reloadParts = s.reloadParts := by simp [State.reloadParts, State.waiting]
  refine only_ite (only_refl _ _) (only_trans (only_mono (tickTo_only s t) (by simp [always])) (only_trans ?_
    (only_mono (intPoll_only _) (by simp [always]))))
  intro π apart
  simp only [List.mem_append, not_or] at apart
  obtain ⟨apart, rest⟩ := apart
  exact h _ π (by simpa only [List.mem_append, not_or] using apart) (reload ▸ rest)

theorem adminRowFrame {ps : List Part} {op : Nat} {f : Bytes → State → State} {s s' : State} {t : Nat}
    (h : ∀ (b : Bytes) (u ρ : State) (π : Part), π ∉ always ++ ps → (π.same ρ (f b u) ↔ π.same ρ u)) (hq : .qg ∈ ps) :
    act t s (fun s => s.adminRow op f) = .next s' → s.changesOnly (always ++ ps ++ s.reloadParts) s' :=
  adminFrame fun u π apart rest =>
    (same_adminRow (fun m => apart (by simp_all)) rest op f fun b σ => h b σ u π apart).mpr (π.same_refl u)

/-- A command of no admin row. -/
theorem actFrame {ps : List Part} {f : State → State} {s s' : State} {t : Nat}
    (h : ∀ (u : State) (π : Part), π ∉ always ++ ps → π.same u (f u)) (e : act t s f = .next s') :
    s.changesOnly (always ++ ps) s' := act_only h e

/-- A command that acts in reset too. -/
theorem resetFrame {ps : List Part} {f : State → State} {s s' : State} {t : Nat}
    (h : ∀ (u : State) (π : Part), π ∉ always ++ ps → π.same u (f u)) (e : actInReset t s f = .next s') :
    s.changesOnly (always ++ ps) s' := actInReset_only h e

/-- A command after which the stall clock runs. -/
theorem stallsFrame {ps : List Part} {f : State → State} {s s' : State} {t : Nat} (hj : .jobs ∈ ps)
    (h : ∀ (u : State) (π : Part), π ∉ always ++ ps → π.same u (f u)) (e : actStalls t s f = .next s') :
    s.changesOnly (always ++ ps) s' :=
  act_only (f := fun u => (f u).stallClock)
    (fun u π apart => (same_stallClock fun m => apart (by simp_all)).mpr (h u π apart)) e

theorem adminStallsFrame {ps : List Part} {op : Nat} {f : Bytes → State → State} {s s' : State} {t : Nat}
    (h : ∀ (b : Bytes) (u ρ : State) (π : Part), π ∉ always ++ ps → (π.same ρ (f b u) ↔ π.same ρ u)) (hq : .qg ∈ ps)
    (hj : .jobs ∈ ps) : actStalls t s (fun s => s.adminRow op f) = .next s' →
      s.changesOnly (always ++ ps ++ s.reloadParts) s' :=
  adminFrame (f := fun u => (u.adminRow op f).stallClock) fun u π apart rest =>
    (same_stallClock fun m => apart (by simp_all)).mpr
      ((same_adminRow (fun m => apart (by simp_all)) rest op f fun b σ => h b σ u π apart).mpr (π.same_refl u))

/-- R294: with no residue fault no row ends the pass. -/
theorem State.sealPass_clean (s : State) (r : Nat) (mark mark' : Nat → State → State) :
    s.sealPass r [] mark = s.sealPass r [] mark' := by
  have clean : ∀ batch, (cleanRows [] batch).2 = false := fun batch => by simp [cleanRows]
  unfold State.sealPass
  simp only [clean, Bool.false_eq_true, if_false]

theorem State.debugAccess_nothing (s : State) : s.debugAccess .nothing = s := by
  unfold State.debugAccess
  split <;> simp_all


/-! ### The admin commands -/

theorem execCreateQueue_frame {s s' : State} {t : Nat} :
    execCreateQueue t s = .next s' → s.changesOnly (always ++ [Part.qg] ++ s.reloadParts) s' := by
  unfold execCreateQueue
  refine adminRowFrame (fun b u ρ π apart => ?_) (by simp)
  simp [always] at apart
  split <;> simp [apart]

theorem execDestroyQueue_frame {s s' : State} {t : Nat} :
    execDestroyQueue t s = .next s' → s.changesOnly (always ++ [Part.regions, .sil, .qg, .det, .pool] ++ s.reloadParts) s' := by
  unfold execDestroyQueue
  refine adminRowFrame (fun b u ρ π apart => ?_) (by simp)
  simp [always] at apart
  simp [apart]

theorem execDisableQueue_frame {s s' : State} {t : Nat} :
    execDisableQueue t s = .next s' → s.changesOnly (always ++ [Part.pwr, .erw, .qg] ++ s.reloadParts) s' := by
  unfold execDisableQueue
  refine adminRowFrame (fun b u ρ π apart => ?_) (by simp)
  simp [always] at apart
  simp [apart]

theorem execQueueInvalidate_frame {s s' : State} {t : Nat} :
    execQueueInvalidate t s = .next s' → s.changesOnly (always ++ [Part.qg] ++ s.reloadParts) s' := by
  unfold execQueueInvalidate
  refine adminRowFrame (fun b u ρ π apart => ?_) (by simp)
  simp [always] at apart
  simp [apart]

theorem execLoadImage_frame {s s' : State} {t : Nat} {b : Bytes} :
    execLoadImage t b s = .next s' → s.changesOnly (always ++ [Part.pke, .sil, .qg] ++ s.reloadParts) s' := by
  unfold execLoadImage
  refine adminRowFrame (fun b u ρ π apart => ?_) (by simp)
  simp [always] at apart
  dsimp only
  split <;> simp [apart]

theorem execActivateImage_frame {s s' : State} {t : Nat} :
    execActivateImage t s = .next s' → s.changesOnly (always ++ [Part.sil, .qg] ++ s.reloadParts) s' := by
  unfold execActivateImage
  refine adminRowFrame (fun b u ρ π apart => ?_) (by simp)
  simp [always] at apart
  simp [apart]

theorem execImageSwitch_frame {s s' : State} {t : Nat} : execImageSwitch t s = .next s' →
    s.changesOnly (always ++ [Part.pwr, .regions, .tiles, .erw, .sil, .qg, .pool, .runs] ++ s.reloadParts) s' := by
  unfold execImageSwitch
  refine adminFrame fun u π apart rest => ?_
  simp [always] at apart
  simp [apart]

theorem execReloadMicrocode_frame {s s' : State} {t : Nat} {b : Bytes} :
    execReloadMicrocode t b s = .next s' → s.changesOnly (always ++ [Part.pke, .sil, .qg] ++ s.reloadParts) s' := by
  unfold execReloadMicrocode
  refine adminRowFrame (fun b u ρ π apart => ?_) (by simp)
  simp [always] at apart
  dsimp only
  split <;> simp [apart]

theorem execOpenMatter_frame {s s' : State} {t : Nat} {b : Bytes} :
    execOpenMatter t b s = .next s' → s.changesOnly (always ++ [Part.pke, .qg] ++ s.reloadParts) s' := by
  unfold execOpenMatter
  refine adminRowFrame (fun b u ρ π apart => ?_) (by simp)
  simp [always] at apart
  simp [apart]

theorem execCloseMatter_frame {s s' : State} {t : Nat} : execCloseMatter t s = .next s' →
    s.changesOnly (always ++ [Part.pwr, .regions, .tiles, .erw, .pke, .cus, .qg,
      .det, .pool, .runs, .jobs, .dicts, .dictSlots, .keyCache, .seals] ++ s.reloadParts) s' := by
  unfold execCloseMatter
  refine adminRowFrame (fun b u ρ π apart => ?_) (by simp)
  simp [always] at apart
  simp [apart]

theorem execRevokeMatter_frame {s s' : State} {t : Nat} : execRevokeMatter t s = .next s' →
    s.changesOnly (always ++ [Part.pwr, .regions, .tiles, .erw, .pke, .cus, .qg,
      .det, .pool, .runs, .jobs, .dicts, .dictSlots, .keyCache, .seals] ++ s.reloadParts) s' := by
  unfold execRevokeMatter
  refine adminFrame fun u π apart rest => ?_
  simp [always] at apart
  repeat' split
  all_goals simp [apart]

theorem execLoadRingProfile_frame {s s' : State} {t : Nat} {b : Bytes} :
    execLoadRingProfile t b s = .next s' → s.changesOnly (always ++ [Part.qg, .profiles] ++ s.reloadParts) s' := by
  unfold execLoadRingProfile
  refine adminRowFrame (fun b u ρ π apart => ?_) (by simp)
  simp [always] at apart
  dsimp only
  split
  · exact same_adminDone (by simp [apart]) ..
  · exact (same_adminDone (by simp [apart]) ..).trans (same_setProfiles (by simp [apart]) _)

theorem execLoadPublicKey_frame {s s' : State} {t : Nat} {b : Bytes} : execLoadPublicKey t b s = .next s' →
    s.changesOnly (always ++ [Part.regions, .qg, .pool, .keyCache] ++ s.reloadParts) s' := by
  unfold execLoadPublicKey
  refine adminRowFrame (fun b u ρ π apart => ?_) (by simp)
  simp [always] at apart
  dsimp only
  split
  · exact same_adminDone (by simp [apart]) ..
  split
  · exact same_adminDone (by simp [apart]) ..
  split
  · exact same_adminDone (by simp [apart]) ..
  · exact (same_adminDone (by simp [apart]) ..).trans ((same_setKeyCache (by simp [apart]) _).trans
      (same_holdCells (by simp [apart]) ..))

theorem execLoadDictionary_frame {s s' : State} {t : Nat} {b : Bytes} : execLoadDictionary t b s = .next s' →
    s.changesOnly (always ++ [Part.regions, .qg, .pool, .dicts, .dictSlots, .nextDict] ++ s.reloadParts) s' := by
  unfold execLoadDictionary
  refine adminRowFrame (fun b u ρ π apart => ?_) (by simp)
  simp [always] at apart
  dsimp only
  split
  · exact same_adminDone (by simp [apart]) ..
  split
  · exact same_adminDone (by simp [apart]) ..
  · exact (same_adminDone (by simp [apart]) ..).trans ((same_dropUnboundDicts (by simp [apart])).trans
      ((same_setNewDict (by simp [apart]) ..).trans (same_holdCells (by simp [apart]) ..)))

theorem execPause_frame {s s' : State} {t : Nat} :
    execPause t s = .next s' → s.changesOnly (always ++ [Part.qg] ++ s.reloadParts) s' := by
  unfold execPause
  refine adminRowFrame (fun b u ρ π apart => ?_) (by simp)
  simp [always] at apart
  simp [apart]

theorem execPauseBoundaryReached_frame {s s' : State} {t : Nat} {q : BitVec 12} :
    execPauseBoundaryReached t q s = .next s' → s.changesOnly (always ++ [Part.qg] ++ s.reloadParts) s' := by
  unfold execPauseBoundaryReached
  refine adminFrame fun u π apart rest => ?_
  simp [always] at apart
  simp [apart]

theorem execSaveContext_frame {s s' : State} {t : Nat} :
    execSaveContext t s = .next s' → s.changesOnly (always ++ [Part.pke, .qg] ++ s.reloadParts) s' := by
  unfold execSaveContext
  refine adminRowFrame (fun b u ρ π apart => ?_) (by simp)
  simp [always] at apart
  simp [apart]

theorem execRestoreContext_frame {s s' : State} {t : Nat} {b : Bytes} :
    execRestoreContext t b s = .next s' → s.changesOnly (always ++ [Part.pke, .qg] ++ s.reloadParts) s' := by
  unfold execRestoreContext
  refine adminRowFrame (fun b u ρ π apart => ?_) (by simp)
  simp [always] at apart
  simp [apart]

theorem execArmLaunch_frame {s s' : State} {t : Nat} :
    execArmLaunch t s = .next s' → s.changesOnly (always ++ [Part.qg] ++ s.reloadParts) s' := by
  unfold execArmLaunch
  refine adminRowFrame (fun b u ρ π apart => ?_) (by simp)
  simp [always] at apart
  simp [apart]

theorem execLaunch_frame {s s' : State} {t : Nat} {k : BitVec 2} :
    execLaunch t k s = .next s' → s.changesOnly (always ++ [Part.qg] ++ s.reloadParts) s' := by
  unfold execLaunch
  refine adminFrame fun u π apart rest => ?_
  simp [always] at apart
  simp [apart]

theorem execChorusConfig_frame {s s' : State} {t : Nat} :
    execChorusConfig t s = .next s' → s.changesOnly (always ++ [Part.qg, .det] ++ s.reloadParts) s' := by
  unfold execChorusConfig
  refine adminRowFrame (fun b u ρ π apart => ?_) (by simp)
  simp [always] at apart
  simp [apart]

theorem execReplayDigest_frame {s s' : State} {t : Nat} {mem : HostMem} :
    execReplayDigest t mem s = .next s' → s.changesOnly (always ++ [Part.qg] ++ s.reloadParts) s' := by
  unfold execReplayDigest
  refine adminRowFrame (fun b u ρ π apart => ?_) (by simp)
  simp [always] at apart
  dsimp only
  split
  · simp [apart]
  split
  · simp [apart]
  split
  · simp [apart]
  split
  · simp [apart]
  split
  · simp [apart]
  · split <;> simp [apart]

theorem execPkJob_frame {s s' : State} {t : Nat} {b : Bytes} {b' : Bytes} :
    execPkJob t b b' s = .next s' → s.changesOnly (always ++ [Part.pke, .qg] ++ s.reloadParts) s' := by
  unfold execPkJob
  refine adminRowFrame (fun b u ρ π apart => ?_) (by simp)
  simp [always] at apart
  split <;> simp [apart]

theorem execSign_frame {s s' : State} {t : Nat} :
    execSign t s = .next s' → s.changesOnly (always ++ [Part.pke, .qg] ++ s.reloadParts) s' := by
  unfold execSign
  refine adminFrame fun u π apart rest => ?_
  simp [always] at apart
  simp [apart]

theorem execVerify_frame {s s' : State} {t : Nat} :
    execVerify t s = .next s' → s.changesOnly (always ++ [Part.pke, .qg] ++ s.reloadParts) s' := by
  unfold execVerify
  refine adminFrame fun u π apart rest => ?_
  simp [always] at apart
  simp [apart]

theorem execKeypair_frame {s s' : State} {t : Nat} {n : Nat} :
    execKeypair t n s = .next s' → s.changesOnly (always ++ [Part.pke, .qg] ++ s.reloadParts) s' := by
  unfold execKeypair
  refine adminFrame fun u π apart rest => ?_
  simp [always] at apart
  simp [apart]

theorem execEcdh_frame {s s' : State} {t : Nat} :
    execEcdh t s = .next s' → s.changesOnly (always ++ [Part.pke, .qg] ++ s.reloadParts) s' := by
  unfold execEcdh
  refine adminFrame fun u π apart rest => ?_
  simp [always] at apart
  simp [apart]

theorem execCurve_frame {s s' : State} {t : Nat} :
    execCurve t s = .next s' → s.changesOnly (always ++ [Part.pke, .qg] ++ s.reloadParts) s' := by
  unfold execCurve
  refine adminFrame fun u π apart rest => ?_
  simp [always] at apart
  simp [apart]

theorem execPkJobEnd_frame {s s' : State} {t : Nat} {k : BitVec 2} {h : BitVec 16} : execPkJobEnd t ⟨k, h⟩ s = .next s' →
    s.changesOnly (always ++ [Part.pwr, .regions, .erw, .pke, .cus, .sil, .qg,
      .det, .pool, .runs, .jobs] ++ s.reloadParts) s' := by
  unfold execPkJobEnd
  refine adminFrame fun u π apart rest => ?_
  simp [always] at apart
  simp [apart]

theorem execClaim_frame {s s' : State} {t : Nat} :
    execClaim t s = .next s' → s.changesOnly (always ++ [Part.regions, .sil, .qg] ++ s.reloadParts) s' := by
  unfold execClaim
  refine adminRowFrame (fun b u ρ π apart => ?_) (by simp)
  simp [always] at apart
  repeat' split
  all_goals simp [apart]

theorem execReleaseClaim_frame {s s' : State} {t : Nat} :
    execReleaseClaim t s = .next s' → s.changesOnly (always ++ [Part.regions, .sil, .qg] ++ s.reloadParts) s' := by
  unfold execReleaseClaim
  refine adminRowFrame (fun b u ρ π apart => ?_) (by simp)
  simp [always] at apart
  repeat' split
  all_goals simp [apart]

theorem execRecorderClear_frame {s s' : State} {t : Nat} {b : Bytes} :
    execRecorderClear t b s = .next s' → s.changesOnly (always ++ [Part.pwr, .erw, .pke, .cus, .qg] ++ s.reloadParts) s' := by
  unfold execRecorderClear
  refine adminRowFrame (fun b u ρ π apart => ?_) (by simp)
  simp [always] at apart
  simp [apart]

theorem execRecorderFlush_frame {s s' : State} {t : Nat} :
    execRecorderFlush t s = .next s' → s.changesOnly (always ++ [Part.pwr, .erw, .qg] ++ s.reloadParts) s' := by
  unfold execRecorderFlush
  refine adminRowFrame (fun b u ρ π apart => ?_) (by simp)
  simp [always] at apart
  simp [apart]

theorem execRegionOnline_frame {s s' : State} {t : Nat} {tr : TestResult} : execRegionOnline t tr s = .next s' →
    s.changesOnly (always ++ [Part.pwr, .regions, .tiles, .erw, .sil, .qg, .runs, .jobs] ++ s.reloadParts) s' := by
  unfold execRegionOnline
  refine adminStallsFrame (fun b u ρ π apart => ?_) (by simp) (by simp)
  simp [always] at apart
  simp [apart]

theorem execTileRetire_frame {s s' : State} {t : Nat} : execTileRetire t s = .next s' →
    s.changesOnly (always ++ [Part.pwr, .regions, .tiles, .erw, .sil, .qg, .pool, .runs, .jobs] ++ s.reloadParts) s' := by
  unfold execTileRetire
  refine adminStallsFrame (fun b u ρ π apart => ?_) (by simp) (by simp)
  simp [always] at apart
  simp [apart]

theorem execPoolConfig_frame {s s' : State} {t : Nat} {b : Bytes} : execPoolConfig t b s = .next s' →
    s.changesOnly (always ++ [Part.pwr, .regions, .tiles, .stw, .erw, .qg, .det, .pool, .runs, .jobs] ++ s.reloadParts) s' := by
  unfold execPoolConfig
  refine adminStallsFrame (fun b u ρ π apart => ?_) (by simp) (by simp)
  simp [always] at apart
  simp [apart]

theorem execFlushEnd_frame {s s' : State} {t : Nat} :
    execFlushEnd t s = .next s' → s.changesOnly (always ++ [Part.pwr, .erw, .qg] ++ s.reloadParts) s' := by
  unfold execFlushEnd
  refine adminFrame fun u π apart rest => ?_
  simp [always] at apart
  split <;> simp [apart]

theorem execCompletionWrite_frame {s s' : State} {t : Nat} {q : BitVec 12} : execCompletionWrite t q s = .next s' →
    s.changesOnly (always ++ [Part.pwr, .regions, .tiles, .erw, .pke, .cus, .qg,
      .det, .pool, .runs, .jobs, .dicts, .dictSlots, .keyCache, .seals] ++ s.reloadParts) s' := by
  unfold execCompletionWrite
  refine adminFrame fun u π apart rest => ?_
  simp [always] at apart
  simp [apart, rest]

/-- Settles O58, command by command. -/
theorem adminFrames : Obligations.AdminFrames := by
  intro s s' t b b' q k mem n h tr
  simp only [List.forall_mem_cons, List.not_mem_nil, false_implies, implies_true, and_true]
  exact ⟨execCreateQueue_frame, execDestroyQueue_frame, execDisableQueue_frame, execQueueInvalidate_frame, execLoadImage_frame, execActivateImage_frame, execImageSwitch_frame, execReloadMicrocode_frame, execOpenMatter_frame, execCloseMatter_frame, execRevokeMatter_frame, execLoadRingProfile_frame, execLoadPublicKey_frame, execLoadDictionary_frame, execPause_frame, execPauseBoundaryReached_frame, execSaveContext_frame, execRestoreContext_frame, execArmLaunch_frame, execLaunch_frame, execChorusConfig_frame, execReplayDigest_frame, execPkJob_frame, execSign_frame, execVerify_frame, execKeypair_frame, execEcdh_frame, execCurve_frame, execPkJobEnd_frame, execClaim_frame, execReleaseClaim_frame, execRecorderClear_frame, execRecorderFlush_frame, execRegionOnline_frame, execTileRetire_frame, execPoolConfig_frame, execFlushEnd_frame, execCompletionWrite_frame⟩

/-! ### The data path -/

theorem execRunList_frame {s s' : State} {t : Nat} {q : BitVec 12} {b : Bytes} {mem : HostMem} :
    execRunList t q b mem s = .next s' → s.changesOnly (always ++ [Part.sil, .qg, .runs]) s' := by
  unfold execRunList
  refine actFrame fun u π apart => ?_
  simp [always] at apart
  simp [apart]

theorem execFence_frame {s s' : State} {t : Nat} {q : BitVec 12} :
    execFence t q s = .next s' → s.changesOnly (always ++ [Part.qg]) s' := by
  unfold execFence
  refine actFrame fun u π apart => ?_
  simp [always] at apart
  simp [apart]

theorem execNop_frame {s s' : State} {t : Nat} {q : BitVec 12} :
    execNop t q s = .next s' → s.changesOnly (always ++ [Part.qg]) s' := by
  unfold execNop
  refine actFrame fun u π apart => ?_
  simp [always] at apart
  simp [apart]

theorem execDesc_frame {s s' : State} {t : Nat} {n : Nat} :
    execDesc t n s = .next s' → s.changesOnly (always ++ [Part.runs]) s' := by
  unfold execDesc
  refine actFrame fun u π apart => ?_
  simp [always] at apart
  simp [apart]

theorem execLoadScb_frame {s s' : State} {t : Nat} {n : Nat} :
    execLoadScb t n s = .next s' → s.changesOnly (always ++ [Part.runs]) s' := by
  unfold execLoadScb
  refine actFrame fun u π apart => ?_
  simp [always] at apart
  simp [apart]

theorem execWriteReg_frame {s s' : State} {t : Nat} {n : Nat} :
    execWriteReg t n s = .next s' → s.changesOnly (always ++ [Part.runs]) s' := by
  unfold execWriteReg
  refine actFrame fun u π apart => ?_
  simp [always] at apart
  simp [apart]

theorem execStart_frame {s s' : State} {t : Nat} {n : Nat} :
    execStart t n s = .next s' → s.changesOnly (always ++ [Part.runs, .jobs, .nextJob]) s' := by
  unfold execStart
  refine actFrame fun u π apart => ?_
  simp [always] at apart
  simp [apart]

theorem execWait_frame {s s' : State} {t : Nat} {n : Nat} :
    execWait t n s = .next s' → s.changesOnly (always ++ [Part.runs]) s' := by
  unfold execWait
  refine actFrame fun u π apart => ?_
  simp [always] at apart
  simp [apart]

theorem execListEnd_frame {s s' : State} {t : Nat} {n : Nat} :
    execListEnd t n s = .next s' → s.changesOnly (always ++ [Part.pwr, .regions, .erw, .qg, .det, .pool, .runs, .jobs]) s' := by
  unfold execListEnd
  refine actFrame fun u π apart => ?_
  simp [always] at apart
  simp [apart]

theorem execStageJobStart_frame {s s' : State} {t : Nat} {mem : HostMem} {n : Nat} :
    execStageJobStart t n mem s = .next s' → s.changesOnly (always ++ [Part.pwr, .tiles, .erw, .jobs]) s' := by
  unfold execStageJobStart
  refine stallsFrame (by simp) fun u π apart => ?_
  simp [always] at apart
  simp [apart]

theorem execJobEnd_frame {s s' : State} {t : Nat} {n : Nat} : execJobEnd t n s = .next s' →
    s.changesOnly (always ++ [Part.pwr, .regions, .tiles, .stw, .erw, .pke, .pool, .runs, .jobs]) s' := by
  unfold execJobEnd
  refine stallsFrame (by simp) fun u π apart => ?_
  simp [always] at apart
  simp [apart]

theorem execEntryFetch_frame {s s' : State} {t : Nat} {q : BitVec 12} {b : Bytes} :
    execEntryFetch t q b s = .next s' → s.changesOnly (always ++ [Part.qg]) s' := by
  unfold execEntryFetch
  refine actFrame fun u π apart => ?_
  simp [always] at apart
  simp [apart]

theorem execSqTailDoorbell_frame {s s' : State} {t : Nat} {q : BitVec 12} {v : BitVec 32} :
    execSqTailDoorbell t q v s = .next s' → s.changesOnly (always ++ [Part.pwr, .erw, .qg]) s' := by
  unfold execSqTailDoorbell
  refine actFrame fun u π apart => ?_
  simp [always] at apart
  simp [apart]

theorem execRefetch_frame {s s' : State} {t : Nat} {q : BitVec 12} {v : BitVec 32} :
    execRefetch t q v s = .next s' → s.changesOnly (always ++ [Part.pwr, .erw, .qg]) s' := by
  unfold execRefetch
  refine actFrame fun u π apart => ?_
  simp [always] at apart
  simp [apart]

theorem execCqHeadDoorbell_frame {s s' : State} {t : Nat} {q : BitVec 12} {v : BitVec 32} :
    execCqHeadDoorbell t q v s = .next s' → s.changesOnly (always ++ [Part.pwr, .erw, .qg]) s' := by
  unfold execCqHeadDoorbell
  refine actFrame fun u π apart => ?_
  simp [always] at apart
  simp [apart]

theorem execChunkRead_frame {s s' : State} {t : Nat} {b : Bytes} {n : Nat} {n' : Nat} : execChunkRead t n n' b s = .next s' →
    s.changesOnly (always ++ [Part.pwr, .regions, .tiles, .stw, .erw, .det, .pool, .runs, .jobs]) s' := by
  unfold execChunkRead
  refine stallsFrame (by simp) fun u π apart => ?_
  simp [always] at apart
  simp [apart]

theorem execSampleStart_frame {s s' : State} {t : Nat} {b : Bytes} {n : Nat} : execSampleStart t n b s = .next s' →
    s.changesOnly (always ++ [Part.pwr, .regions, .tiles, .stw, .erw, .det, .pool, .runs, .jobs]) s' := by
  unfold execSampleStart
  refine stallsFrame (by simp) fun u π apart => ?_
  simp [always] at apart
  simp [apart]

theorem execSampleRetire_frame {s s' : State} {t : Nat} {n : Nat} : execSampleRetire t n s = .next s' →
    s.changesOnly (always ++ [Part.pwr, .regions, .tiles, .stw, .erw, .qg, .det, .pool, .runs, .jobs]) s' := by
  unfold execSampleRetire
  refine stallsFrame (by simp) fun u π apart => ?_
  simp [always] at apart
  simp [apart]

theorem execBudgetWindowEnd_frame {s s' : State} {t : Nat} {n : Nat} {n' : Nat} : execBudgetWindowEnd t n n' s = .next s' →
    s.changesOnly (always ++ [Part.pwr, .regions, .tiles, .stw, .erw, .qg, .det, .pool, .runs, .jobs]) s' := by
  unfold execBudgetWindowEnd
  refine stallsFrame (by simp) fun u π apart => ?_
  simp [always] at apart
  simp [apart]

theorem execWinDeadlineEnd_frame {s s' : State} {t : Nat} {n : Nat} :
    execWinDeadlineEnd t n s = .next s' → s.changesOnly (always ++ [Part.regions, .qg, .det, .pool, .runs, .jobs]) s' := by
  unfold execWinDeadlineEnd
  refine stallsFrame (by simp) fun u π apart => ?_
  simp [always] at apart
  simp [apart]

theorem execEncodeSpawn_frame {s s' : State} {t : Nat} {n : Nat} : execEncodeSpawn t n s = .next s' →
    s.changesOnly (always ++ [Part.pwr, .regions, .tiles, .stw, .erw, .pke,
      .det, .pool, .runs, .jobs, .seals, .nextSeal, .dealt]) s' := by
  unfold execEncodeSpawn
  refine stallsFrame (by simp) fun u π apart => ?_
  simp [always] at apart
  simp [apart]

theorem execSealPass_frame {s s' : State} {t : Nat} {r : BitVec 3} {o : Bool} : execSealPass t ⟨r, [], o⟩ s = .next s' →
    s.changesOnly (always ++ [Part.regions, .tiles, .pool, .runs, .jobs, .seals]) s' := by
  unfold execSealPass
  refine stallsFrame (by simp) fun u π apart => ?_
  simp [always] at apart
  rw [State.sealPass_clean u _ _ fun _ s => s]
  exact (same_sealPass (by simp [apart]) _ _ _ fun _ _ => Iff.rfl).mpr (π.same_refl u)

theorem execCiphertextHeaderWrite_frame {s s' : State} {t : Nat} {r : BitVec 3} : execCiphertextHeaderWrite t r s = .next s' →
    s.changesOnly (always ++ [Part.pwr, .regions, .stw, .erw, .pke, .qg, .det, .pool, .runs, .jobs, .seals]) s' := by
  unfold execCiphertextHeaderWrite
  refine actFrame fun u π apart => ?_
  simp [always] at apart
  simp [apart]

theorem execTadpoleLimit_frame {s s' : State} {t : Nat} {n : Nat} {n' : Nat} : execTadpoleLimit t n n' s = .next s' →
    s.changesOnly (always ++ [Part.pwr, .regions, .tiles, .erw, .pke, .cus, .qg, .det, .pool, .runs, .jobs, .seals]) s' := by
  unfold execTadpoleLimit
  refine stallsFrame (by simp) fun u π apart => ?_
  simp [always] at apart
  simp [apart]

theorem execBacklogResume_frame {s s' : State} {t : Nat} {n : Nat} : execBacklogResume t n s = .next s' →
    s.changesOnly (always ++ [Part.pwr, .regions, .tiles, .stw, .erw, .det, .pool, .runs, .jobs]) s' := by
  unfold execBacklogResume
  refine stallsFrame (by simp) fun u π apart => ?_
  simp [always] at apart
  simp [apart]

theorem execFrameClockTick_frame {s s' : State} {t : Nat} {mem : HostMem} {r : BitVec 3} :
    execFrameClockTick t r mem s = .next s' → s.changesOnly (always ++ [Part.jobs]) s' := by
  unfold execFrameClockTick
  refine actFrame fun u π apart => ?_
  simp [always] at apart
  simp [apart]

theorem execLiveTableRead_frame {s s' : State} {t : Nat} {mem : HostMem} {n : Nat} {n' : Nat} :
    execLiveTableRead t n n' mem s = .next s' → s.changesOnly (always ++ [Part.jobs]) s' := by
  unfold execLiveTableRead
  refine actFrame fun u π apart => ?_
  simp [always] at apart
  simp [apart]

theorem execLiveWindowEnd_frame {s s' : State} {t : Nat} {n : Nat} {n' : Nat} :
    execLiveWindowEnd t n n' s = .next s' → s.changesOnly (always ++ [Part.qg, .det, .runs, .jobs]) s' := by
  unfold execLiveWindowEnd
  refine actFrame fun u π apart => ?_
  simp [always] at apart
  simp [apart]

theorem execLivePreempt_frame {s s' : State} {t : Nat} {n : Nat} :
    execLivePreempt t n s = .next s' → s.changesOnly (always ++ [Part.jobs]) s' := by
  unfold execLivePreempt
  refine actFrame fun u π apart => ?_
  simp [always] at apart
  simp [apart]

theorem execLiveSliceOut_frame {s s' : State} {t : Nat} {n : Nat} {n' : Nat} :
    execLiveSliceOut t n n' s = .next s' → s.changesOnly (always ++ [Part.jobs]) s' := by
  unfold execLiveSliceOut
  refine actFrame fun u π apart => ?_
  simp [always] at apart
  simp [apart]

theorem execChorusMessage_frame {s s' : State} {t : Nat} {b : Bytes} {o : Bool} : execChorusMessage t o b s = .next s' →
    s.changesOnly (always ++ [Part.pwr, .regions, .tiles, .stw, .erw, .qg, .det, .pool, .runs, .jobs]) s' := by
  unfold execChorusMessage
  refine stallsFrame (by simp) fun u π apart => ?_
  simp [always] at apart
  simp [apart]

theorem execChorusMissingTimeout_frame {s s' : State} {t : Nat} {o : Bool} : execChorusMissingTimeout t o s = .next s' →
    s.changesOnly (always ++ [Part.pwr, .regions, .tiles, .stw, .erw, .qg, .det, .pool, .runs, .jobs]) s' := by
  unfold execChorusMissingTimeout
  refine stallsFrame (by simp) fun u π apart => ?_
  simp [always] at apart
  simp [apart]

theorem execPortErrorResponse_frame {s s' : State} {t : Nat} {x : PortTxn} : execPortErrorResponse t x s = .next s' →
    s.changesOnly (always ++ [Part.pwr, .regions, .tiles, .stw, .erw, .pke, .sil, .qg,
      .det, .pool, .runs, .jobs, .seals]) s' := by
  unfold execPortErrorResponse
  refine stallsFrame (by simp) fun u π apart => ?_
  simp [always] at apart
  simp [apart]

/-- Settles O59, command by command. -/
theorem dataPathFrames : Obligations.DataPathFrames := by
  intro s s' t q b mem n n' v r o x
  simp only [List.forall_mem_cons, List.not_mem_nil, false_implies, implies_true, and_true]
  exact ⟨execRunList_frame, execFence_frame, execNop_frame, execDesc_frame, execLoadScb_frame, execWriteReg_frame, execStart_frame, execWait_frame, execListEnd_frame, execStageJobStart_frame, execJobEnd_frame, execEntryFetch_frame, execSqTailDoorbell_frame, execRefetch_frame, execCqHeadDoorbell_frame, execChunkRead_frame, execSampleStart_frame, execSampleRetire_frame, execBudgetWindowEnd_frame, execWinDeadlineEnd_frame, execEncodeSpawn_frame, execSealPass_frame, execCiphertextHeaderWrite_frame, execTadpoleLimit_frame, execBacklogResume_frame, execFrameClockTick_frame, execLiveTableRead_frame, execLiveWindowEnd_frame, execLivePreempt_frame, execLiveSliceOut_frame, execChorusMessage_frame, execChorusMissingTimeout_frame, execPortErrorResponse_frame⟩

/-! ### Registers, panel, pins, timing, Steward -/

theorem execAdminEnWrite_frame {s s' : State} {t : Nat} {v : BitVec 32} :
    execAdminEnWrite t v s = .next s' → s.changesOnly (always ++ [Part.pwr, .erw, .qg]) s' := by
  unfold execAdminEnWrite
  refine actFrame fun u π apart => ?_
  simp [always] at apart
  simp [apart]

theorem execSeedCommit_frame {s s' : State} {t : Nat} {v : BitVec 32} :
    execSeedCommit t v s = .next s' → s.changesOnly (always ++ [Part.pwr, .erw, .qg, .det]) s' := by
  unfold execSeedCommit
  refine actFrame fun u π apart => ?_
  simp [always] at apart
  simp [apart]

theorem execSeedClear_frame {s s' : State} {t : Nat} {v : BitVec 32} :
    execSeedClear t v s = .next s' → s.changesOnly (always ++ [Part.pwr, .erw, .qg, .det]) s' := by
  unfold execSeedClear
  refine actFrame fun u π apart => ?_
  simp [always] at apart
  simp [apart]

theorem execResume_frame {s s' : State} {t : Nat} {v : BitVec 32} :
    execResume t v s = .next s' → s.changesOnly (always ++ [Part.pwr, .erw, .qg]) s' := by
  unfold execResume
  refine actFrame fun u π apart => ?_
  simp [always] at apart
  simp [apart]

theorem execAlloc_frame {s s' : State} {t : Nat} {v : BitVec 32} :
    execAlloc t v s = .next s' → s.changesOnly (always ++ [Part.pwr, .regions, .erw, .pool]) s' := by
  unfold execAlloc
  refine actFrame fun u π apart => ?_
  simp [always] at apart
  simp [apart]

theorem execShare_frame {s s' : State} {t : Nat} {v : BitVec 32} :
    execShare t v s = .next s' → s.changesOnly (always ++ [Part.pwr, .regions, .erw, .pool]) s' := by
  unfold execShare
  refine actFrame fun u π apart => ?_
  simp [always] at apart
  simp [apart]

theorem execRelease_frame {s s' : State} {t : Nat} {v : BitVec 32} :
    execRelease t v s = .next s' → s.changesOnly (always ++ [Part.pwr, .regions, .erw, .pool]) s' := by
  unfold execRelease
  refine actFrame fun u π apart => ?_
  simp [always] at apart
  simp [apart]

theorem execFree_frame {s s' : State} {t : Nat} {v : BitVec 32} :
    execFree t v s = .next s' → s.changesOnly (always ++ [Part.pwr, .regions, .erw, .pool]) s' := by
  unfold execFree
  refine actFrame fun u π apart => ?_
  simp [always] at apart
  simp [apart]

theorem execPoolCellGrant_frame {s s' : State} {t : Nat} {wr : WorkRequest} : execPoolCellGrant t wr s = .next s' →
    s.changesOnly (always ++ [Part.pwr, .regions, .tiles, .stw, .erw, .det, .pool, .runs, .jobs]) s' := by
  unfold execPoolCellGrant
  refine stallsFrame (by simp) fun u π apart => ?_
  simp [always] at apart
  simp [apart]

theorem execRetire_frame {s s' : State} {t : Nat} {v : BitVec 32} :
    execRetire t v s = .next s' → s.changesOnly (always ++ [Part.pwr, .erw, .cus, .pool, .emc]) s' := by
  unfold execRetire
  refine actFrame fun u π apart => ?_
  simp [always] at apart
  simp [apart]

theorem execPcRetireDone_frame {s s' : State} {t : Nat} {pc : BitVec 9} {ns : List Nat} : execPcRetireDone t pc ns s = .next s' →
    s.changesOnly (always ++ [Part.pwr, .regions, .tiles, .erw, .pke, .qg,
      .det, .pool, .emc, .runs, .jobs, .dicts, .keyCache, .seals]) s' := by
  unfold execPcRetireDone
  refine actFrame fun u π apart => ?_
  simp [always] at apart
  simp [apart]

theorem execEnclaveEccError_frame {s s' : State} {t : Nat} {pc : BitVec 9} {ec : EccError} {n : Nat} : execEnclaveEccError t pc ec n s = .next s' →
    s.changesOnly (always ++ [Part.pwr, .regions, .tiles, .erw, .pke, .cus, .qg,
      .det, .pool, .emc, .runs, .jobs, .seals]) s' := by
  unfold execEnclaveEccError
  refine actFrame fun u π apart => ?_
  simp [always] at apart
  simp [apart]

theorem execKeySlotClear_frame {s s' : State} {t : Nat} {v : BitVec 32} :
    execKeySlotClear t v s = .next s' → s.changesOnly (always ++ [Part.pwr, .erw, .pke]) s' := by
  unfold execKeySlotClear
  refine actFrame fun u π apart => ?_
  simp [always] at apart
  simp [apart]

theorem execArmRecorderClear_frame {s s' : State} {t : Nat} {v : BitVec 32} :
    execArmRecorderClear t v s = .next s' → s.changesOnly (always ++ [Part.cus]) s' := by
  unfold execArmRecorderClear
  refine actFrame fun u π apart => ?_
  simp [always] at apart
  simp [apart]

theorem execArmDebugUnlock_frame {s s' : State} {t : Nat} {v : BitVec 32} :
    execArmDebugUnlock t v s = .next s' → s.changesOnly (always ++ [Part.cus]) s' := by
  unfold execArmDebugUnlock
  refine actFrame fun u π apart => ?_
  simp [always] at apart
  simp [apart]

theorem execRelock_frame {s s' : State} {t : Nat} {v : BitVec 32} :
    execRelock t v s = .next s' → s.changesOnly (always ++ [Part.pwr, .erw, .cus]) s' := by
  unfold execRelock
  refine actFrame fun u π apart => ?_
  simp [always] at apart
  simp [apart]

theorem execIdent_frame {s s' : State} {t : Nat} {v : BitVec 32} :
    execIdent t v s = .next s' → s.changesOnly (always ++ [Part.pwr, .stw, .erw]) s' := by
  unfold execIdent
  refine actFrame fun u π apart => ?_
  simp [always] at apart
  simp [apart]

theorem execSelftest_frame {s s' : State} {t : Nat} {v : BitVec 32} :
    execSelftest t v s = .next s' → s.changesOnly (always ++ [Part.pwr, .stw, .erw]) s' := by
  unfold execSelftest
  refine actFrame fun u π apart => ?_
  simp [always] at apart
  simp [apart]

theorem execStats_frame {s s' : State} {t : Nat} {v : BitVec 32} :
    execStats t v s = .next s' → s.changesOnly (always ++ [Part.pwr, .stw, .erw]) s' := by
  unfold execStats
  refine actFrame fun u π apart => ?_
  simp [always] at apart
  simp [apart]

theorem execHostValuesCommit_frame {s s' : State} {t : Nat} {v : BitVec 32} :
    execHostValuesCommit t v s = .next s' → s.changesOnly (always ++ [Part.pwr, .erw]) s' := by
  unfold execHostValuesCommit
  refine actFrame fun u π apart => ?_
  simp [always] at apart
  simp [apart]

theorem execFlushAck_frame {s s' : State} {t : Nat} {v : BitVec 32} :
    execFlushAck t v s = .next s' → s.changesOnly (always ++ [Part.erw]) s' := by
  unfold execFlushAck
  refine actFrame fun u π apart => ?_
  simp [always] at apart
  simp [apart]

theorem execWindowLoad_frame {s s' : State} {t : Nat} {v : BitVec 32} :
    execWindowLoad t v s = .next s' → s.changesOnly (always ++ [Part.pwr, .erw]) s' := by
  unfold execWindowLoad
  refine actFrame fun u π apart => ?_
  simp [always] at apart
  simp [apart]

theorem execRearm_frame {s s' : State} {t : Nat} {v : BitVec 32} :
    execRearm t v s = .next s' → s.changesOnly (always ++ []) s' := by
  unfold execRearm
  refine actFrame fun u π apart => ?_
  simp [always] at apart
  simp [apart]

theorem execPresenceAbsent_frame {s s' : State} {t : Nat} {r : BitVec 3} :
    execPresenceAbsent t r s = .next s' → s.changesOnly (always ++ [Part.pwr, .erw, .pke, .cus, .qg]) s' := by
  unfold execPresenceAbsent
  refine actFrame fun u π apart => ?_
  simp [always] at apart
  simp [apart]

theorem execPresencePresent_frame {s s' : State} {t : Nat} {r : BitVec 3} :
    execPresencePresent t r s = .next s' → s.changesOnly (always ++ [Part.cus]) s' := by
  unfold execPresencePresent
  refine actFrame fun u π apart => ?_
  simp [always] at apart
  simp [apart]

theorem execDebounceWindowEnd_frame {s s' : State} {t : Nat} {r : BitVec 3} : execDebounceWindowEnd t r s = .next s' →
    s.changesOnly (always ++ [Part.pwr, .regions, .tiles, .erw, .pke, .cus, .qg,
      .det, .pool, .runs, .jobs, .dicts, .dictSlots, .keyCache, .seals]) s' := by
  unfold execDebounceWindowEnd
  refine actFrame fun u π apart => ?_
  simp [always] at apart
  simp [apart]

theorem execErasureEnd_frame {s s' : State} {t : Nat} {l : BitVec 10} :
    execErasureEnd t ⟨l, []⟩ s = .next s' → s.changesOnly (always ++ [Part.pwr, .erw, .cus, .qg]) s' := by
  unfold execErasureEnd
  refine actFrame fun u π apart => ?_
  simp [always] at apart
  simp [apart]

theorem execButtonChange_frame {s s' : State} {t : Nat} {o : Bool} {o' : Bool} :
    execButtonChange t o o' s = .next s' → s.changesOnly (always ++ [Part.cus]) s' := by
  unfold execButtonChange
  refine actFrame fun u π apart => ?_
  simp [always] at apart
  simp [apart]

theorem execDualControlAct_frame {s s' : State} {t : Nat} :
    execDualControlAct t s = .next s' → s.changesOnly (always ++ [Part.pwr, .erw, .cus]) s' := by
  unfold execDualControlAct
  refine actFrame fun u π apart => ?_
  simp [always] at apart
  simp [apart]

theorem execDebugUnlockExpiry_frame {s s' : State} {t : Nat} :
    execDebugUnlockExpiry t s = .next s' → s.changesOnly (always ++ [Part.pwr, .erw, .cus]) s' := by
  unfold execDebugUnlockExpiry
  refine actFrame fun u π apart => ?_
  simp [always] at apart
  simp [apart]

theorem execPwrFailAssert_frame {s s' : State} {t : Nat} : execPwrFailAssert t s = .next s' →
    s.changesOnly (always ++ [Part.pwr, .regions, .tiles, .erw, .pke, .cus, .qg,
      .det, .pool, .runs, .jobs, .dicts, .dictSlots, .keyCache, .seals]) s' := by
  unfold execPwrFailAssert
  refine resetFrame fun u π apart => ?_
  simp [always] at apart
  simp [apart]

theorem execVWarnEntry_frame {s s' : State} {t : Nat} {k : BitVec 2} :
    execVWarnEntry t k s = .next s' → s.changesOnly (always ++ [Part.pwr, .erw]) s' := by
  unfold execVWarnEntry
  refine actFrame fun u π apart => ?_
  simp [always] at apart
  simp [apart]

theorem execVInhibitEntry_frame {s s' : State} {t : Nat} {k : BitVec 2} :
    execVInhibitEntry t k s = .next s' → s.changesOnly (always ++ [Part.pwr, .erw]) s' := by
  unfold execVInhibitEntry
  refine actFrame fun u π apart => ?_
  simp [always] at apart
  simp [apart]

theorem execVInhibitExit_frame {s s' : State} {t : Nat} {k : BitVec 2} :
    execVInhibitExit t k s = .next s' → s.changesOnly (always ++ [Part.pwr, .erw]) s' := by
  unfold execVInhibitExit
  refine actFrame fun u π apart => ?_
  simp [always] at apart
  simp [apart]

theorem execResetRelease_frame {s s' : State} {t : Nat} :
    execResetRelease t s = .next s' → s.changesOnly (always ++ [Part.pwr]) s' := by
  unfold execResetRelease
  refine resetFrame fun u π apart => ?_
  simp [always] at apart
  simp [apart]

theorem execStartMoultDone_frame {s s' : State} {t : Nat} {sf : StartFacts} :
    execStartMoultDone t sf s = .next s' → s.changesOnly (always ++ [Part.pwr, .stw, .pke, .sil]) s' := by
  unfold execStartMoultDone
  refine actFrame fun u π apart => ?_
  simp [always] at apart
  simp [apart]

theorem execKCtlDerived_frame {s s' : State} {t : Nat} {b : Bytes} :
    execKCtlDerived t b s = .next s' → s.changesOnly (always ++ [Part.pwr, .regions, .emc]) s' := by
  unfold execKCtlDerived
  refine actFrame fun u π apart => ?_
  simp [always] at apart
  simp [apart]

theorem execLockWaitExpiry_frame {s s' : State} {t : Nat} :
    execLockWaitExpiry t s = .next s' → s.changesOnly (always ++ [Part.pwr, .regions]) s' := by
  unfold execLockWaitExpiry
  refine actFrame fun u π apart => ?_
  simp [always] at apart
  simp [apart]

theorem execEnclaveTestEnd_frame {s s' : State} {t : Nat} {ns : List Nat} :
    execEnclaveTestEnd t ns s = .next s' → s.changesOnly (always ++ [Part.pwr, .erw, .pool, .emc]) s' := by
  unfold execEnclaveTestEnd
  refine actFrame fun u π apart => ?_
  simp [always] at apart
  simp [apart]

theorem execDieNumberWord_frame {s s' : State} {t : Nat} {v : BitVec 32} :
    execDieNumberWord t v s = .next s' → s.changesOnly (always ++ [Part.gctl, .pwr, .regions]) s' := by
  unfold execDieNumberWord
  refine actFrame fun u π apart => ?_
  simp [always] at apart
  simp [apart]

theorem execCountWord_frame {s s' : State} {t : Nat} {d : BitVec 64} :
    execCountWord t d s = .next s' → s.changesOnly (always ++ [Part.pwr, .regions, .erw]) s' := by
  unfold execCountWord
  refine actFrame fun u π apart => ?_
  simp [always] at apart
  simp [apart]

theorem execTimingLost_frame {s s' : State} {t : Nat} :
    execTimingLost t s = .next s' → s.changesOnly (always ++ [Part.pwr, .erw]) s' := by
  unfold execTimingLost
  refine actFrame fun u π apart => ?_
  simp [always] at apart
  simp [apart]

theorem execTimingRelock_frame {s s' : State} {t : Nat} {d : BitVec 64} : execTimingRelock t d s = .next s' →
    s.changesOnly (always ++ [Part.pwr, .regions, .tiles, .stw, .erw, .pke, .cus, .qg,
      .det, .pool, .runs, .jobs, .dicts, .dictSlots, .keyCache, .seals]) s' := by
  unfold execTimingRelock
  refine stallsFrame (by simp) fun u π apart => ?_
  simp [always] at apart
  simp [apart]

theorem execTimerTick_frame {s s' : State} {t : Nat} {i : BitVec 4} :
    execTimerTick t i s = .next s' → s.changesOnly (always ++ []) s' := by
  unfold execTimerTick
  refine actFrame fun u π apart => ?_
  simp [always] at apart
  simp [apart]

theorem execLeapfrogDone_frame {s s' : State} {t : Nat} {r : BitVec 3} :
    execLeapfrogDone t r s = .next s' → s.changesOnly (always ++ [Part.pwr, .regions, .tiles, .erw, .qg]) s' := by
  unfold execLeapfrogDone
  refine actFrame fun u π apart => ?_
  simp [always] at apart
  simp [apart]

theorem execFoldDone_frame {s s' : State} {t : Nat} {r : BitVec 3} : execFoldDone t r s = .next s' →
    s.changesOnly (always ++ [Part.pwr, .regions, .tiles, .erw, .pke, .qg, .det, .pool, .runs, .jobs, .seals]) s' := by
  unfold execFoldDone
  refine actFrame fun u π apart => ?_
  simp [always] at apart
  simp [apart]

theorem execLoadWindowEnd_frame {s s' : State} {t : Nat} {n : Nat} :
    execLoadWindowEnd t n s = .next s' → s.changesOnly (always ++ [Part.pwr, .stw, .erw, .emc]) s' := by
  unfold execLoadWindowEnd
  refine actFrame fun u π apart => ?_
  simp [always] at apart
  simp [apart]

theorem execStatsSweep_frame {s s' : State} {t : Nat} :
    execStatsSweep t s = .next s' → s.changesOnly (always ++ [Part.stw]) s' := by
  unfold execStatsSweep
  refine actFrame fun u π apart => ?_
  simp [always] at apart
  simp [apart]

theorem execScrubOverwrite_frame {s s' : State} {t : Nat} {n : Nat} :
    execScrubOverwrite t n s = .next s' → s.changesOnly (always ++ [Part.cus, .pool]) s' := by
  unfold execScrubOverwrite
  refine actFrame fun u π apart => ?_
  simp [always] at apart
  split <;> simp [apart]

theorem execPatrolScrubRead_frame {s s' : State} {t : Nat} {n : Nat} {o : Bool} :
    execPatrolScrubRead t n o s = .next s' → s.changesOnly (always ++ [Part.pwr, .erw, .cus, .pool, .emc]) s' := by
  unfold execPatrolScrubRead
  refine actFrame fun u π apart => ?_
  simp [always] at apart
  simp [apart]

theorem execStackTemperatureReport_frame {s s' : State} {t : Nat} {r : BitVec 3} {o : Bool} :
    execStackTemperatureReport t r o s = .next s' → s.changesOnly (always ++ [Part.emc]) s' := by
  unfold execStackTemperatureReport
  refine actFrame fun u π apart => ?_
  simp [always] at apart
  simp [apart]

theorem execHello_frame {s s' : State} {t : Nat} {b : Bytes} {y : Byte} :
    execHello t y b s = .next s' → s.changesOnly (always ++ [Part.cus]) s' := by
  unfold execHello
  refine actFrame fun u π apart => ?_
  simp [always] at apart
  simp [apart]

theorem execOffer_frame {s s' : State} {t : Nat} {b : Bytes} {y : Byte} :
    execOffer t y b s = .next s' → s.changesOnly (always ++ [Part.pwr, .erw, .cus]) s' := by
  unfold execOffer
  refine actFrame fun u π apart => ?_
  simp [always] at apart
  simp [apart]

theorem execProbeAck_frame {s s' : State} {t : Nat} {b : Bytes} {y : Byte} : execProbeAck t y b s = .next s' →
    s.changesOnly (always ++ [Part.pwr, .regions, .tiles, .erw, .pke, .cus, .qg,
      .det, .pool, .runs, .jobs, .dicts, .dictSlots, .keyCache, .seals]) s' := by
  unfold execProbeAck
  refine actFrame fun u π apart => ?_
  simp [always] at apart
  simp [apart]

theorem execCounterAck_frame {s s' : State} {t : Nat} {b : Bytes} {y : Byte} :
    execCounterAck t y b s = .next s' → s.changesOnly (always ++ [Part.pwr, .erw, .cus, .qg]) s' := by
  unfold execCounterAck
  refine actFrame fun u π apart => ?_
  simp [always] at apart
  simp [apart]

theorem execCounterAckTimeout_frame {s s' : State} {t : Nat} :
    execCounterAckTimeout t s = .next s' → s.changesOnly (always ++ [Part.pwr, .erw, .cus, .qg]) s' := by
  unfold execCounterAckTimeout
  refine actFrame fun u π apart => ?_
  simp [always] at apart
  simp [apart]

theorem execWindowRead_frame {s s' : State} {t : Nat} {b : Bytes} {y : Byte} :
    execWindowRead t y b s = .next s' → s.changesOnly (always ++ [Part.erw, .cus]) s' := by
  unfold execWindowRead
  refine actFrame fun u π apart => ?_
  simp [always] at apart
  simp [apart]

theorem execAck_frame {s s' : State} {t : Nat} {b : Bytes} {y : Byte} :
    execAck t y b s = .next s' → s.changesOnly (always ++ [Part.cus, .fresh]) s' := by
  unfold execAck
  refine actFrame fun u π apart => ?_
  simp [always] at apart
  repeat' split
  all_goals simp [apart]

theorem execNak_frame {s s' : State} {t : Nat} {b : Bytes} {y : Byte} :
    execNak t y b s = .next s' → s.changesOnly (always ++ [Part.pwr, .erw, .cus]) s' := by
  unfold execNak
  refine actFrame fun u π apart => ?_
  simp [always] at apart
  repeat' split
  all_goals simp [apart]

theorem execCustodyFrameCrcError_frame {s s' : State} {t : Nat} {y : Byte} {y' : Byte} :
    execCustodyFrameCrcError t y y' s = .next s' → s.changesOnly (always ++ [Part.cus]) s' := by
  unfold execCustodyFrameCrcError
  refine actFrame fun u π apart => ?_
  simp [always] at apart
  simp [apart]

theorem execFrameResend_frame {s s' : State} {t : Nat} {y : Byte} :
    execFrameResend t y s = .next s' → s.changesOnly (always ++ [Part.pwr, .erw, .cus]) s' := by
  unfold execFrameResend
  refine actFrame fun u π apart => ?_
  simp [always] at apart
  simp [apart]

theorem execTapInstruction_frame {s s' : State} {t : Nat} {ti : TapInstr} :
    execTapInstruction t ⟨ti, .nothing⟩ s = .next s' → s.changesOnly (always ++ [Part.cus]) s' := by
  unfold execTapInstruction
  refine actFrame fun u π apart => ?_
  simp [always] at apart
  rw [State.debugAccess_nothing]
  simp [apart]

theorem execFrameLenExceeded_frame {s s' : State} {t : Nat} :
    execFrameLenExceeded t s = .next s' → s.changesOnly (always ++ []) s' := by
  unfold execFrameLenExceeded
  refine actFrame fun u π apart => ?_
  simp [always] at apart
  simp [apart]

theorem execDualControlWindowEnd_frame {s s' : State} {t : Nat} :
    execDualControlWindowEnd t s = .next s' → s.changesOnly (always ++ [Part.cus]) s' := by
  unfold execDualControlWindowEnd
  refine actFrame fun u π apart => ?_
  simp [always] at apart
  simp [apart]

theorem execVWarnExit_frame {s s' : State} {t : Nat} {i : BitVec 4} :
    execVWarnExit t i s = .next s' → s.changesOnly (always ++ [Part.pwr]) s' := by
  unfold execVWarnExit
  refine actFrame fun u π apart => ?_
  simp [always] at apart
  simp [apart]

theorem execPwrFailDeassert_frame {s s' : State} {t : Nat} :
    execPwrFailDeassert t s = .next s' → s.changesOnly (always ++ [Part.pwr]) s' := by
  unfold execPwrFailDeassert
  refine resetFrame fun u π apart => ?_
  simp [always] at apart
  simp [apart]

theorem execCeWindowEnd_frame {s s' : State} {t : Nat} :
    execCeWindowEnd t s = .next s' → s.changesOnly (always ++ [Part.emc]) s' := by
  unfold execCeWindowEnd
  refine actFrame fun u π apart => ?_
  simp [always] at apart
  simp [apart]

theorem execCrcWindowEnd_frame {s s' : State} {t : Nat} {r : BitVec 3} :
    execCrcWindowEnd t r s = .next s' → s.changesOnly (always ++ [Part.regions, .jobs]) s' := by
  unfold execCrcWindowEnd
  refine stallsFrame (by simp) fun u π apart => ?_
  simp [always] at apart
  simp [apart]

/-- Settles O60, command by command. -/
theorem hostFrames : Obligations.HostFrames := by
  intro s s' t v wr pc ns ec n r l o o' k sf b d i y y' ti
  simp only [List.forall_mem_cons, List.not_mem_nil, false_implies, implies_true, and_true]
  exact ⟨execAdminEnWrite_frame, execSeedCommit_frame, execSeedClear_frame, execResume_frame, execAlloc_frame, execShare_frame, execRelease_frame, execFree_frame, execPoolCellGrant_frame, execRetire_frame, execPcRetireDone_frame, execEnclaveEccError_frame, execKeySlotClear_frame, execArmRecorderClear_frame, execArmDebugUnlock_frame, execRelock_frame, execIdent_frame, execSelftest_frame, execStats_frame, execHostValuesCommit_frame, execFlushAck_frame, execWindowLoad_frame, execRearm_frame, execPresenceAbsent_frame, execPresencePresent_frame, execDebounceWindowEnd_frame, execErasureEnd_frame, execButtonChange_frame, execDualControlAct_frame, execDebugUnlockExpiry_frame, execPwrFailAssert_frame, execVWarnEntry_frame, execVInhibitEntry_frame, execVInhibitExit_frame, execResetRelease_frame, execStartMoultDone_frame, execKCtlDerived_frame, execLockWaitExpiry_frame, execEnclaveTestEnd_frame, execDieNumberWord_frame, execCountWord_frame, execTimingLost_frame, execTimingRelock_frame, execTimerTick_frame, execLeapfrogDone_frame, execFoldDone_frame, execLoadWindowEnd_frame, execStatsSweep_frame, execScrubOverwrite_frame, execPatrolScrubRead_frame, execStackTemperatureReport_frame, execHello_frame, execOffer_frame, execProbeAck_frame, execCounterAck_frame, execCounterAckTimeout_frame, execWindowRead_frame, (execAck_frame (y := y)), (execNak_frame (y := y)), execCustodyFrameCrcError_frame, execFrameResend_frame, execTapInstruction_frame, execFrameLenExceeded_frame, execDualControlWindowEnd_frame, execVWarnExit_frame, execPwrFailDeassert_frame, execCeWindowEnd_frame, execCrcWindowEnd_frame⟩

end Sys2Proof.Machine

/-! ## Time, start, the Steward (R407 to R435) -/

namespace Sys2Proof.Machine

/-! ### GCNT and its lock (R407, R408, R491) -/

theorem State.loseTiming_time (s : State) :
    s.loseTiming.time = { s.time with locked := false, holdover := true, holding := false, matches_ := 0 } :=
  (by simp [State.loseTiming] : Part.time.same (s.modTime fun m =>
    { m with locked := false, holdover := true, holding := false, matches_ := 0 }) s.loseTiming)

theorem State.lock_time (s : State) : s.lock.time = { s.time with locked := true, holdover := false, holding := false } :=
  (by simp [State.lock] : Part.time.same (s.modTime fun m => { m with locked := true, holdover := false, holding := false }) s.lock)

theorem State.timingRecord_time (s : State) (kind g x : Nat) : (s.timingRecord kind g x).time = s.time :=
  (by simp : Part.time.same s (s.timingRecord kind g x))

theorem State.countWord_locked {s : State} {x : Nat} (phase : s.pwr.phase ≠ .moult) (locked : s.time.locked = true) :
    s.countWord x = if x = s.now + 1 then s else s.loseTiming := by
  unfold State.countWord
  simp [phase, locked]

/-- R491: a word that equals the local count locks GCNT when the one before it did. -/
theorem State.countWord_equal {s : State} (phase : s.pwr.phase ≠ .moult) (open_ : s.time.locked = false) :
    let w := s.countWord (s.now + 1)
    w.now = s.now ∧ w.time.matches_ = s.time.matches_ + 1 ∧ w.time.locked = decide (1 ≤ s.time.matches_) := by
  unfold State.countWord
  by_cases second : 1 ≤ s.time.matches_
  · by_cases held : s.time.holdover = true <;>
      simp [phase, open_, second, held, State.lock_time, State.timingRecord_time, State.now]
  · simp [phase, open_, second, State.now]

theorem State.countWord_first {s : State} {x : Nat} (phase : s.pwr.phase ≠ .moult) (open_ : s.time.locked = false)
    (free : s.time.holdover = false) (ahead : s.now + 1 < x) :
    s.countWord x = { s with time := { s.time with matches_ := 1, gcnt := x - 1 } } := by
  have gcnt : max s.time.gcnt (x - 1) = x - 1 := max_eq_right (by unfold State.now at ahead; omega)
  unfold State.countWord
  simp [phase, open_, free, ahead.ne', show ¬ x - 1 < s.time.gcnt by unfold State.now at ahead; omega, gcnt, State.modTime]

theorem State.relock_time (s : State) (x : Nat) :
    (s.now < x → (s.relock x).time =
      { s.time with gcnt := x, steps := s.time.steps.add 16 1 x, locked := true, holdover := false, holding := false }) ∧
    (x < s.now → (s.relock x).time = { s.time with holding := true, holds := s.time.holds.add 16 1 s.now }) ∧
    (x = s.now → (s.relock x).time = { s.time with locked := true, holdover := false, holding := false }) := by
  unfold State.relock
  refine ⟨fun late => ?_, fun early => ?_, fun equal => ?_⟩
  · simp [late, State.timingRecord_time, State.lock_time]
  · simp [early, early.not_gt, State.timingRecord_time]
  · simp [equal, State.timingRecord_time, State.lock_time]

/-- R408, R411: a comparator that fires leaves the count and its lock. -/
theorem State.fire_time (s : State) (n : Nat) : ∃ c, (s.fire n).time = { s.time with cmp := c } := by
  unfold State.fire
  dsimp only
  split
  · refine ⟨Tab.put s.time.cmp n { s.comparator n with armed := false }, ?_⟩
    split
    · split
      · exact (same_finishAdmin (ρ := s.setComparator n { s.comparator n with armed := false }) (π := .time) (by simp) ..).mpr
          ((same_releaseHeld (by simp) _).mpr (Part.same_refl _ _))
      · rfl
    · rfl
  · exact ⟨s.time.cmp, rfl⟩

theorem State.comparatorsFire_time (s : State) : ∃ c, s.comparatorsFire.time = { s.time with cmp := c } := by
  refine List.foldlRecOn (motive := fun w : State => ∃ c, w.time = { s.time with cmp := c }) _ _ ⟨s.time.cmp, rfl⟩
    fun w ih n _ => ?_
  obtain ⟨c, hc⟩ := ih
  obtain ⟨d, hd⟩ := w.fire_time n
  exact ⟨d, by rw [hd, hc]⟩

theorem State.windowsClose_time (s : State) : s.windowsClose.time = s.time :=
  (by simp : Part.time.same s s.windowsClose)

theorem State.stallClock_time (s : State) : s.stallClock.time = s.time :=
  (by simp : Part.time.same s s.stallClock)

theorem exec_timingRelock_of_acts {s u : State} {t : Nat} (h : s.actsAt t u) (x : BitVec 64) (held : u.time.holdover = true)
    (free : u.time.holding = false) : ∃ w : State, exec (.timingRelock t x) s = .next w.intPoll ∧
      ∃ c, w.time = { (u.relock x.toNat).time with cmp := c } := by
  refine ⟨_, actStalls_of_acts h fun s =>
    if s.time.holdover && !s.time.holding then
      let s' := s.relock x.toNat
      if s.now < x.toNat then s'.windowsClose.comparatorsFire else s'
    else s, ?_⟩
  rw [State.stallClock_time, held, free]
  rw [if_pos (by rfl)]
  dsimp only
  split
  · obtain ⟨c, hc⟩ := (u.relock x.toNat).windowsClose.comparatorsFire_time
    exact ⟨c, by rw [hc, State.windowsClose_time]⟩
  · exact ⟨(u.relock x.toNat).time.cmp, rfl⟩

/-- Settles O40. -/
theorem timeCommands : Obligations.TimeCommands := by
  refine ⟨?_, ?_, ?_, ?_, ?_, ?_, ?_, ?_⟩
  · intro s u t x h phase locked
    have run : exec (.countWord t x) s = .next (u.countWord x.toNat).intPoll := act_of_acts h fun s => s.countWord x.toNat
    rw [State.countWord_locked phase locked] at run
    refine ⟨fun equal => by rw [run, if_pos equal], fun differs => ⟨_, by rw [run, if_neg differs], ?_⟩⟩
    unfold State.now
    rw [State.loseTiming_time]
    exact ⟨rfl, rfl, rfl⟩
  · intro s u t x h phase open_ equal
    refine ⟨_, act_of_acts h fun s => s.countWord x.toNat, ?_⟩
    rw [equal]
    exact State.countWord_equal phase open_
  · intro s u t x h phase open_ free ahead
    rw [← State.countWord_first phase open_ free ahead]
    exact act_of_acts h fun s => s.countWord x.toNat
  · intro s u t h
    have run : exec (.timingLost t) s = .next (if u.time.locked then u.loseTiming else u).intPoll :=
      act_of_acts h fun s => if s.time.locked then s.loseTiming else s
    exact ⟨fun open_ => by rw [run, if_neg (ne_true_of_eq_false open_)],
      fun locked => ⟨_, by rw [run, if_pos locked], u.loseTiming_time⟩⟩
  · intro s u t x h held free
    obtain ⟨w, run, c, time⟩ := exec_timingRelock_of_acts h x held free
    obtain ⟨late, early, equal⟩ := u.relock_time x.toNat
    refine ⟨w, run, fun lt => ?_, fun gt => ?_, fun eq => ?_⟩
    · rw [late lt] at time
      simp [State.now, time]
    · rw [early gt] at time
      simp [State.now, time]
    · rw [equal eq] at time
      simp [State.now, time]
  · intro s t awake moves holding
    unfold State.tickTo
    simp [awake, moves.not_ge, holding]
  · intro s u t d h phase
    refine ⟨_, act_of_acts h fun s => if s.gctl.dieValid || s.pwr.phase == .moult then s
      else (s.modGctl fun g => { g with die := d, dieValid := true }).romCheck, ?_⟩
    by_cases set : u.gctl.dieValid = true
    · simp [set]
    · have gctl : ∀ v : State, v.romCheck.gctl = v.gctl := fun v => (by simp : Part.gctl.same v v.romCheck)
      simp [set, phase, gctl]
  · intro s u t i c h claim after nonzero due x
    have ticks : u.ticksNow 1 i.toNat = true := by simp [State.ticksNow, claim, after, nonzero, due]
    have run := act_of_acts h fun s =>
      let x : Timer := Tab.getD s.time.timers i.toNat {}
      if s.ticksNow 1 i.toNat && x.last != some s.now then
        s.modTime fun m => { m with timers := Tab.put m.timers i.toNat { ticks := x.ticks.add 16 1 s.now, last := some s.now } }
      else s
    rw [show exec (.timerTick t i) s = _ from run, ticks]
    by_cases again : x.last = some u.now
    · simp [x, again]
    · simp [x, again, State.modTime]

end Sys2Proof.Machine

namespace Sys2Proof.Machine

/-! ### Regions under what changes them -/

theorem State.region_modRegion_other (s : State) {r k : Nat} (ne : k ≠ r) (f : Region → Region) :
    (s.modRegion r f).region k = s.region k := Tab.getD_put_other s.regions r k (f (s.region r)) {} ne

theorem State.region_of_regions {s w : State} (h : Part.regions.same s w) (k : Nat) : w.region k = s.region k :=
  congrArg (fun t : Tab Region => Tab.getD t k ({} : Region)) h

theorem State.test_modRegion (s : State) (r : Nat) {f : Region → Region} (h : ∀ g, (f g).test = g.test) (k : Nat) :
    ((s.modRegion r f).region k).test = (s.region k).test := by
  by_cases same : k = r
  · subst same
    rw [region_modRegion, h]
  · rw [region_modRegion_other s same]

theorem State.test_spillUpdate (s : State) (r k : Nat) : ((s.spillUpdate r).region k).test = (s.region k).test := by
  unfold State.spillUpdate
  dsimp only
  rw [test_modRegion]
  exact fun _ => rfl

theorem State.test_spillUpdates (s : State) (l : List Nat) (k : Nat) :
    ((l.foldl State.spillUpdate s).region k).test = (s.region k).test :=
  List.foldlRecOn (motive := fun w : State => (w.region k).test = (s.region k).test) l _ rfl fun w ih r _ =>
    (test_spillUpdate w r k).trans ih

theorem State.test_spareFlags (s : State) (k : Nat) : (s.spareFlags.region k).test = (s.region k).test := by
  unfold State.spareFlags
  refine List.foldlRecOn (motive := fun w : State => (w.region k).test = (s.region k).test) _ _ rfl fun w ih r _ => ?_
  rw [test_modRegion, ih]
  exact fun _ => rfl

theorem State.test_switchTo (s : State) (im : Image) (host : Bool) (bind gs : List (Nat × Nat)) (k : Nat) :
    ((s.switchTo im host bind gs).region k).test = (s.region k).test := by
  unfold State.switchTo
  dsimp only
  rw [test_spillUpdates, region_of_regions (same_shiftUpdate (by simp) |>.mpr (Part.same_refl _ _)),
    region_of_regions (s := State.spareFlags _) (same_modPool (by simp) _ |>.mpr (Part.same_refl _ _)), test_spareFlags]
  exact congrArg Region.test (region_of_regions (by simp) k)

theorem State.test_baskActivate (s : State) (r k : Nat) : ((s.baskActivate r).region k).test = (s.region k).test := by
  unfold State.baskActivate
  split
  · rfl
  split
  · rfl
  next b bind _ =>
    have kept := test_switchTo s (baskImage b) false (bind.filter fun p => tileRegion p.2 == b) [] k
    generalize s.switchTo (baskImage b) false (bind.filter fun p => tileRegion p.2 == b) [] = w at *
    exact kept

/-! ### The end of phase ROM (R431, R523) -/

/-- Every piece of phase ROM is there. -/
def State.romEnds (s : State) : Prop :=
  s.cus.sessionOk = true ∧ s.emc.ctlKeyOk = true ∧ s.pwr.certDone = true ∧ (s.time.locked || s.pwr.lockWaitDone) = true

theorem State.romCheck_ends {s : State} (rom : s.pwr.phase = .rom) (ends : s.romEnds) :
    s.romCheck.pwr.phase = .selftest ∧ (s.romCheck.region 0).test = .testing := by
  unfold State.romCheck
  rw [if_pos ⟨rom, ends⟩]
  exact ⟨rfl, by rw [region_modRegion]⟩

theorem State.romCheck_waits {s : State} (waits : ¬ s.romEnds) : s.romCheck = s := by
  unfold State.romCheck
  rw [if_neg fun h => waits h.2]

theorem State.romCheck_emc (s : State) : s.romCheck.emc = s.emc := (by simp : Part.emc.same s s.romCheck)

theorem State.romCheck_time (s : State) : s.romCheck.time = s.time := (by simp : Part.time.same s s.romCheck)

theorem State.romCheck_lockWaitDone (s : State) : s.romCheck.pwr.lockWaitDone = s.pwr.lockWaitDone := by
  unfold State.romCheck
  split <;> rfl

/-! ### Region self-test (R433) -/

/-- The region as its test leaves it, with the reports and its state. -/
def State.tested (s : State) (r : Nat) (x : TestResult) : State :=
  (((s.applyTest r x).modRegion r fun g =>
    { g with test := if x.ok then .passed else .outOfService, state := if x.ok then .inService else .out,
             outCause := if x.ok then 0 else 1 })).baskActivate r

theorem State.test_tested (s : State) (r : Nat) (x : TestResult) :
    ((s.tested r x).region r).test = if x.ok then .passed else .outOfService := by
  unfold State.tested
  rw [test_baskActivate, region_modRegion]

theorem State.selftestEnd_of_testing {s : State} {r : Nat} (testing : (s.region r).test = .testing)
    (enclave : s.pwr.enclaveTested = true) (steward : s.stw.restarting = false) (x : TestResult) :
    s.selftestEnd r x =
      if r < 7 then (s.tested r x).modRegion (r + 1) fun g => { g with test := .testing } else (s.tested r x).testsEnd := by
  unfold State.selftestEnd
  rw [if_neg (by simp [testing, enclave, steward])]
  rfl

theorem TestResult.ok_iff (x : TestResult) : x.ok = true ↔ x.switchOk = true ∧ x.poolOk = true ∧ x.genOk = true := by
  simp [TestResult.ok, and_assoc]

theorem State.haltEntry_halt (s : State) (cause : Nat) : (s.haltEntry cause).faults.halt = true := by
  unfold State.haltEntry
  split
  case isTrue halted => exact halted
  case isFalse =>
    let u : State := { s with faults := { s.faults with halt := true, haltCause := cause } }
    exact congrArg Faults.halt
      (by simp : Part.faults.same u ((((u.eraseAll 3).abortPk.haltAdmin.modSil fun x => { x with activating := false }).joinFlush
        5).faultRecord 0x0106 4 0 0 (leBytes 1 cause)))

theorem State.testsEnd_phase (s : State) :
    s.testsEnd.pwr.phase = if 3 < s.outCount ∨ s.sil.active = none then .failed else .ready := by
  unfold State.testsEnd
  simp only [Option.isNone_iff_eq_none]
  split
  · rfl
  · exact congrArg Pwr.phase (by simp : Part.pwr.same (s.setPhase .ready) (s.setPhase .ready).activateProceed)

/-- Settles O43. -/
theorem startCommands : Obligations.StartCommands := by
  refine ⟨?_, ?_, ?_, ?_, ?_, ?_, ?_⟩
  · intro s u t facts h phase
    refine ⟨_, act_of_acts h fun s =>
      if s.pwr.phase = .moult then
        let s := s.setPhase .rom
        let s := s.modPwr fun w => { w with romStart := s.now }
        let s := (s.modStw fun x => { x with running := true }).answerMailbox
        let s := s.modPke fun p => { p with startup := [.keypair, .verify] }
        s.modSil fun x =>
          { x with cert := facts.cert, imageKeys := facts.imageKeys, manifestKeys := facts.manifestKeys, tokenKeys := facts.tokenKeys }
      else s, ?_⟩
    dsimp only
    rw [if_pos phase]
    unfold State.answerMailbox
    split <;> exact ⟨rfl, rfl, rfl, rfl, rfl, rfl, rfl, rfl⟩
  · intro s u t e h rom key
    have run : exec (.kCtlDerived t e) s = _ := act_of_acts h fun s =>
      if s.pwr.phase = .rom ∧ s.emc.ctlKeyOk = false then
        (s.modEmc fun x => { x with ctlKey := hkdf384 [] e (asciiBytes "HYNUS-K-CTL-1") 64, ctlKeyOk := true }).romCheck
      else s
    rw [if_pos ⟨rom, key⟩] at run
    generalize hkdf384 [] e (asciiBytes "HYNUS-K-CTL-1") 64 = x at *
    refine ⟨_, run, congrArg Emc.ctlKeyOk (State.romCheck_emc _), congrArg Emc.ctlKey (State.romCheck_emc _), fun ends => ?_,
      fun waits => ?_⟩
    · obtain ⟨session, cert, lock⟩ := ends
      exact State.romCheck_ends rom ⟨session, rfl, cert, by simpa using lock⟩
    · rw [State.romCheck_waits fun ends => waits ?_]
      · exact rom
      · obtain ⟨session, _, cert, lock⟩ := ends
        exact ⟨session, cert, by simpa using lock⟩
  · intro s u t h rom open_ first late
    have run : exec (.lockWaitExpiry t) s = _ := act_of_acts h fun s =>
      if s.pwr.phase = .rom ∧ s.time.locked = false ∧ s.pwr.lockWaitDone = false ∧ s.pwr.romStart + 10 ^ 8 ≤ s.now then
        ((s.modPwr fun w => { w with lockWaitDone := true }).modTime fun m => { m with holdover := true }).romCheck
      else s
    rw [if_pos ⟨rom, open_, first, late⟩] at run
    generalize expired : (u.modPwr fun w => { w with lockWaitDone := true }).modTime (fun m => { m with holdover := true }) = v at run
    have done : v.pwr.lockWaitDone = true := by rw [← expired]; rfl
    have ends : v.romEnds ↔ u.cus.sessionOk = true ∧ u.pwr.certDone = true ∧ u.emc.ctlKeyOk = true := by
      rw [← expired]
      simp [State.romEnds, and_comm]
    refine ⟨_, run, (State.romCheck_lockWaitDone v).trans done, ?_, ?_⟩
    · rw [State.romCheck_time, ← expired]
      rfl
    have phase : v.pwr.phase = .rom := by rw [← expired]; exact rom
    split
    case isTrue all => exact (State.romCheck_ends phase (ends.mpr all)).1
    case isFalse waits =>
      rw [State.romCheck_waits fun all => waits (ends.mp all)]
      exact phase
  · intro s u t r x h testing enclave steward below
    have low : r.toNat < 7 := by bv_omega
    have run : exec (.regionSelftestEnd t r x) s = .next (u.selftestEnd r.toNat x).intPoll :=
      act_of_acts h fun s => s.selftestEnd r.toNat x
    rw [State.selftestEnd_of_testing testing enclave steward, if_pos low] at run
    refine ⟨_, run, ?_, by rw [State.region_modRegion]⟩
    rw [State.region_modRegion_other _ (by omega), State.test_tested]
    simp only [TestResult.ok_iff]
  · intro u idle
    refine ⟨u.testsEnd_phase, fun fails => ?_⟩
    unfold State.testsEnd
    simp only [Option.isNone_iff_eq_none]
    rw [if_pos fails]
    exact u.haltEntry_halt 5
  · intro s u t x h testing enclave steward
    have run : exec (.regionSelftestEnd t 7#3 x) s = .next (u.selftestEnd 7 x).intPoll :=
      act_of_acts h fun s => s.selftestEnd 7 x
    rw [State.selftestEnd_of_testing testing enclave steward, if_neg (by decide)] at run
    refine ⟨_, run, ?_⟩
    rw [State.test_tested]
    simp only [TestResult.ok_iff]
  · intro s u t v h
    have run : exec (.hostValuesCommit t v) s = .next (u.commitHost v).intPoll := act_of_acts h fun s => s.commitHost v
    have bit : bitOf v.toNat 0 = decide (v.toNat % 2 = 1) := by simp [bitOf, beq_eq_decide]
    rw [run]
    unfold State.commitHost
    rw [bit]
    refine ⟨fun even => by simp [even], fun odd valid => by simp [odd, valid], fun odd valid => ?_⟩
    simp [odd, valid, State.modTime, State.modPwr]

end Sys2Proof.Machine

namespace Sys2Proof.Machine

/-! ### The Steward's mailbox (R427) -/

/-- The state once a query that ran is answered. -/
def State.mailboxAnswered (s : State) (code : Nat) : State :=
  let a := s.mailboxAnswer code
  { s with stw := { s.stw with
      code := code, result := a.1, rsp := a.2 ++ List.replicate (8 - a.2.length) 0, busy := false } }

theorem State.mailboxRow_of_up {s : State} {v : BitVec 32} {code : Nat} (go : v.toNat / 2 ^ 8 % 2 = 1) (idle : s.stw.busy = false)
    (runs : s.stw.running = true) (up : s.stw.restarting = false) (named : v.toNat % 256 = code) :
    s.mailboxRow code v = s.mailboxAnswered code := by
  subst named
  have field : fieldOf v.toNat 0 8 = v.toNat % 256 := by simp [fieldOf]
  unfold State.mailboxRow State.writeMailbox
  rw [if_pos field, (bitOf_iff _ 8).mpr go, idle, field]
  unfold State.stewardUp
  simp only [Bool.not_true, Bool.false_eq_true, if_false]
  rw [if_pos (by simp [State.modStw, runs, up])]
  rfl

theorem State.mailboxRow_of_down {s : State} {v : BitVec 32} {code : Nat} (go : v.toNat / 2 ^ 8 % 2 = 1)
    (down : s.stw.busy = true ∨ s.stw.running = false ∨ s.stw.restarting = true) (named : v.toNat % 256 = code) :
    s.mailboxRow code v = if s.stw.busy then s.opsWrite 0x20020 v.toNat
      else { s with stw := { s.stw with busy := true, code := v.toNat % 256 } } := by
  subst named
  have field : fieldOf v.toNat 0 8 = v.toNat % 256 := by simp [fieldOf]
  unfold State.mailboxRow State.writeMailbox
  rw [if_pos field, (bitOf_iff _ 8).mpr go, field]
  simp only [Bool.not_true, Bool.false_eq_true, if_false]
  split
  case isTrue => rfl
  case isFalse idle =>
    rw [if_neg]
    · rfl
    · unfold State.stewardUp
      simp only [State.modStw_stw, Bool.and_eq_true, Bool.not_eq_true']
      rintro ⟨runs, up⟩
      simp_all

/-- Settles O44. -/
theorem mailboxQueries : Obligations.MailboxQueries := by
  refine ⟨fun s u t v h go idle runs up => ?_, fun s u t v h go => ?_⟩
  · intro answer region g
    have row : ∀ code, v.toNat % 256 = code → u.mailboxRow code v = u.mailboxAnswered code := fun code =>
      State.mailboxRow_of_up go idle runs up
    refine ⟨fun one => ?_, fun two low => ?_, fun two high => ?_, fun three => ?_⟩
    · rw [show exec (.ident t v) s = _ from act_of_acts h fun s => s.mailboxRow 1 v, row 1 one]
      rfl
    · rw [show exec (.selftest t v) s = _ from act_of_acts h fun s => s.mailboxRow 2 v, row 2 two]
      simp only [State.mailboxAnswered, State.mailboxAnswer]
      rw [if_neg (not_le.mpr low)]
      rfl
    · rw [show exec (.selftest t v) s = _ from act_of_acts h fun s => s.mailboxRow 2 v, row 2 two]
      simp only [State.mailboxAnswered, State.mailboxAnswer]
      rw [if_pos high]
      rfl
    · rw [show exec (.stats t v) s = _ from act_of_acts h fun s => s.mailboxRow 3 v, row 3 three]
      rfl
  · intro w down
    have row : ∀ code, v.toNat % 256 = code → u.mailboxRow code v = w := fun code => State.mailboxRow_of_down go down
    refine ⟨fun one => ?_, fun two => ?_, fun three => ?_⟩
    · rw [← row 1 one]
      exact act_of_acts h fun s => s.mailboxRow 1 v
    · rw [← row 2 two]
      exact act_of_acts h fun s => s.mailboxRow 2 v
    · rw [← row 3 three]
      exact act_of_acts h fun s => s.mailboxRow 3 v

end Sys2Proof.Machine

namespace Sys2Proof.Machine

/-! ### Restarts of the Steward (R423 to R426) -/

theorem State.restartsTooFast_false {s : State} (h : ∀ a x rest, s.stw.starts = a :: x :: rest → x + 60 * 10 ^ 9 ≤ s.now) :
    s.restartsTooFast = false := by
  unfold State.restartsTooFast
  split
  next a x rest starts => simpa using h a x rest starts
  next => rfl

theorem State.restartSteward_stw {s : State} (runs : s.stw.running = true) (up : s.stw.restarting = false)
    (slow : s.restartsTooFast = false) (cause : Nat) :
    (s.restartSteward cause).stw = { s.stw with
      running := false, restarting := true, count := satAdd 16 s.stw.count 1, cause := cause,
      starts := s.now :: s.stw.starts } := by
  unfold State.restartSteward State.stewardUp
  simp only [runs, up, slow, Bool.not_false, Bool.and_self, Bool.not_true, Bool.false_eq_true, if_false]
  let u := s.modStw fun w =>
    { w with running := false, restarting := true, count := satAdd 16 w.count 1, cause := cause, starts := s.now :: w.starts }
  exact (by simp : Part.stw.same u (u.faultRecord 0x0113 3 0 cause []).interruptAdmin)

theorem State.haltEntry_facts {s : State} (free : s.faults.halt = false) (cause : Nat) :
    (s.haltEntry cause).stw = s.stw ∧ (s.haltEntry cause).faults = { s.faults with halt := true, haltCause := cause } := by
  refine ⟨(by simp : Part.stw.same s (s.haltEntry cause)), ?_⟩
  unfold State.haltEntry
  simp only [free, Bool.false_eq_true, if_false]
  let u : State := { s with faults := { s.faults with halt := true, haltCause := cause } }
  exact (by simp : Part.faults.same u ((((u.eraseAll 3).abortPk.haltAdmin.modSil fun x => { x with activating := false }).joinFlush
    5).faultRecord 0x0106 4 0 0 (leBytes 1 cause)))

/-- R426: a restart too many stops the Steward and enters Halt-safe. -/
theorem State.restartSteward_tooFast {s : State} {a x : Nat} {rest : List Nat} (runs : s.stw.running = true)
    (up : s.stw.restarting = false) (starts : s.stw.starts = a :: x :: rest) (fast : s.now < x + 60 * 10 ^ 9)
    (free : s.faults.halt = false) (cause : Nat) :
    let w := s.restartSteward cause
    w.stw.running = false ∧ w.faults.halt = true ∧ w.faults.haltCause = 3 := by
  have tooFast : s.restartsTooFast = true := by
    unfold State.restartsTooFast
    rw [starts]
    simpa using fast
  have halts : s.restartSteward cause = (s.modStw fun w => { w with running := false }).haltEntry 3 := by
    unfold State.restartSteward State.stewardUp
    simp [runs, up, tooFast]
  obtain ⟨stw, faults⟩ := State.haltEntry_facts (s := s.modStw fun w => { w with running := false }) free 3
  intro w
  rw [show w = _ from halts]
  exact ⟨by rw [stw]; rfl, by rw [faults], by rw [faults]⟩

theorem State.beginWaiting_none {s : State} {r : Nat} (fold : (s.region r).foldWait = none)
    (leap : (s.region r).leapWait = none) : s.beginWaiting r = s := by
  unfold State.beginWaiting
  rw [fold, leap]

theorem State.beginWaiting_all {s : State} (calm : ∀ r < 8, (s.region r).foldWait = none ∧ (s.region r).leapWait = none) :
    regionNumbers.foldl State.beginWaiting s = s := by
  refine List.foldlRecOn (motive := fun w => w = s) _ _ rfl fun w same r listed => ?_
  subst same
  obtain ⟨fold, leap⟩ := calm r (by simpa [regionNumbers] using listed)
  exact State.beginWaiting_none fold leap

/-- R424: the command that waited for the Steward. -/
def State.restarted (s : State) : State :=
  let w := s.modStw fun w => { w with restarting := false, running := true }
  match w.waiting with
  | some (.done st r) => w.finishAdmin st r
  | _ => w

theorem State.restarted_only (s : State) :
    (s.modStw fun w => { w with restarting := false, running := true }).changesOnly [.qg] s.restarted := by
  unfold State.restarted
  dsimp only
  split
  · exact finishAdmin_only _ _ _
  · exact only_refl _ _

theorem State.restarted_of_done {s : State} {b : Bytes} {st x : Nat} (run : s.qg.run = some ⟨b, .done st x⟩) :
    s.restarted.qg = { s.qg with run := none, due := s.qg.due ++ [complOf b st x] } := by
  have run' : (s.modStw fun w => { w with restarting := false, running := true }).qg.run = some ⟨b, .done st x⟩ := run
  unfold State.restarted State.waiting
  dsimp only
  rw [run']
  exact congrArg State.qg (State.finishAdmin_run run' rfl st x)

theorem State.restarted_of_other {s : State} (run : ∀ b st x, s.qg.run ≠ some ⟨b, .done st x⟩) : s.restarted.qg = s.qg := by
  unfold State.restarted
  dsimp only
  split
  next st x waits =>
    obtain ⟨⟨b, w⟩, held, rfl⟩ := Option.map_eq_some_iff.mp waits
    exact absurd held (run b st x)
  next => rfl

/-- R425: with nothing that waits for the Steward, its restart ends with the interrupted command alone. -/
theorem State.restartEnd_calm {s : State} (restarting : s.stw.restarting = true) (idle : s.stw.busy = false)
    (above : s.stw.above < 10) (below : s.stw.below < 10)
    (calm : ∀ r < 8, (s.region r).foldWait = none ∧ (s.region r).leapWait = none) : s.restartEnd = s.restarted := by
  have stw : s.restarted.stw = { s.stw with restarting := false, running := true } := s.restarted_only .stw (by simp)
  have regions : ∀ r, s.restarted.region r = s.region r := State.region_of_regions (s.restarted_only .regions (by simp))
  have ended : s.restartEnd = (regionNumbers.foldl State.beginWaiting s.restarted).answerMailbox.shedCheck := by
    unfold State.restartEnd State.restarted
    rw [if_neg (by simp [restarting])] <;> rfl
  rw [ended, State.beginWaiting_all fun r low => by rw [regions]; exact calm r low]
  unfold State.answerMailbox
  rw [if_neg (by simp [stw, idle])]
  unfold State.shedCheck
  simp [stw, above.not_ge, below.not_ge]

/-! ### Load and sweeps (R420 to R422) -/

theorem State.shedCheck_stw (s : State) : s.shedCheck.stw = { s.stw with
    shedding := if s.stw.restarting then s.stw.shedding
      else if s.stw.shedding then decide (s.stw.below < 10) else decide (10 ≤ s.stw.above) } := by
  have recorded : ∀ (w : State) b, (w.record 2 0x0301 1 b).stw = w.stw := fun w b =>
    (by simp : Part.stw.same w (w.record 2 0x0301 1 b))
  unfold State.shedCheck
  split
  case isTrue => rfl
  case isFalse =>
    split
    case isTrue starts =>
      rw [recorded, if_neg (ne_true_of_eq_false starts.1), decide_eq_true starts.2]
      rfl
    case isFalse still =>
      split
      case isTrue ends =>
        rw [recorded, if_pos ends.1, decide_eq_false ends.2.not_gt]
        split <;> rfl
      case isFalse stays =>
        cases shed : s.stw.shedding
        · rw [if_neg Bool.false_ne_true, decide_eq_false fun long => still ⟨shed, long⟩, ← shed]
        · rw [if_pos rfl, decide_eq_true (not_le.mp fun long => stays ⟨shed, long⟩), ← shed]

theorem exec_loadWindowEnd_of_acts {s u : State} {t : Nat} (h : s.actsAt t u) (busy : Nat) (ends : u.now % 10 ^ 6 = 0) :
    let n := min busy 1000
    exec (.loadWindowEnd t busy) s = .next (u.modStw fun w =>
      { w with last := n, peak := if w.peak.val < n then w.peak.put n u.now else w.peak,
               above := if 900 < n then w.above + 1 else 0, below := if n ≤ 750 then w.below + 1 else 0 }).shedCheck.intPoll := by
  have run : exec (.loadWindowEnd t busy) s = _ := act_of_acts h fun s =>
    if s.now % 10 ^ 6 ≠ 0 then s
    else
      let n := min busy 1000
      (s.modStw fun w =>
        { w with last := n, peak := if w.peak.val < n then w.peak.put n s.now else w.peak,
                 above := if 900 < n then w.above + 1 else 0, below := if n ≤ 750 then w.below + 1 else 0 }).shedCheck
  rw [if_neg (not_not.mpr ends)] at run
  exact run

/-- Settles O45. -/
theorem stewardCommands : Obligations.StewardCommands := by
  refine ⟨?_, ?_, ?_, ?_, ?_⟩
  · intro s u t rom h runs up slow
    have slow := State.restartsTooFast_false slow
    exact ⟨⟨_, act_of_acts h fun s => s.restartSteward 1, State.restartSteward_stw runs up slow 1⟩,
      ⟨_, act_of_acts h fun s => s.restartSteward (if rom then 2 else 3), State.restartSteward_stw runs up slow _⟩⟩
  · intro s u t a x rest rom h runs up starts fast free c listed
    have tooFast := State.restartSteward_tooFast runs up starts fast free
    simp only [List.mem_cons, List.not_mem_nil, or_false] at listed
    obtain rfl | rfl := listed
    · exact ⟨_, act_of_acts h fun s => s.restartSteward 1, tooFast 1⟩
    · exact ⟨_, act_of_acts h fun s => s.restartSteward (if rom then 2 else 3), tooFast _⟩
  · intro s u t h restarting idle above below calm
    refine ⟨_, act_of_acts h State.restartEnd, ?_⟩
    rw [State.restartEnd_calm restarting idle above below calm]
    refine ⟨u.restarted_only .stw (by simp), fun b st x run => ?_, State.restarted_of_other⟩
    rw [State.restarted_of_done run]
    exact ⟨rfl, rfl⟩
  · intro s u t busy h ends n above below
    refine ⟨_, exec_loadWindowEnd_of_acts h busy ends, ?_⟩
    rw [State.shedCheck_stw]
    exact ⟨rfl, rfl, rfl, rfl, rfl⟩
  · intro s u t h
    rw [show exec (.statsSweep t) s = _ from act_of_acts h fun s =>
      if s.stewardUp && !s.stw.shedding && decide (s.stw.snapGcnt + 10 ^ 8 ≤ s.now) then
        s.modStw fun w => { w with snapGcnt := s.now, snapSealed := w.sealed, snapVoided := w.voided }
      else s]
    simp only [State.stewardUp, Bool.and_eq_true, Bool.not_eq_true', decide_eq_true_eq, and_assoc]
    rfl

end Sys2Proof.Machine

/-! ## Pools and enclave memory (R369 to R385) -/

namespace Sys2Proof.Machine

/-! ### The response of the Pool Manager, which no cell depends on (R369) -/

/-- The response registers set. -/
def State.responding (s : State) (til st h : Nat) : State :=
  { s with pool := { s.pool with busyTil := til, rspStatus := st, rspHandle := h } }

section
variable (s : State) (til st h : Nat)

theorem State.lowestEnc_responding (f c n : Nat) : (s.responding til st h).lowestEnc f c n = s.lowestEnc f c n := by
  induction f generalizing c n with
  | zero => rfl
  | succ f ih =>
    simp only [State.lowestEnc, ih]
    rfl

theorem State.takeEnc_responding (n : Nat) : (s.responding til st h).takeEnc n = s.takeEnc n := by
  simp only [State.takeEnc, lowestEnc_responding]
  rfl

theorem State.freeSlot_responding (r k f i : Nat) : (s.responding til st h).freeSlot r k f i = s.freeSlot r k f i := by
  induction f generalizing i with
  | zero => rfl
  | succ f ih =>
    simp only [State.freeSlot, ih]
    rfl

theorem State.sizedSlot_responding (r n f k : Nat) : (s.responding til st h).sizedSlot r n f k = s.sizedSlot r n f k := by
  induction f generalizing k with
  | zero => rfl
  | succ f ih =>
    simp only [State.sizedSlot, ih, freeSlot_responding]
    rfl

theorem State.takeRegion_responding (r n : Nat) : (s.responding til st h).takeRegion r n = s.takeRegion r n := by
  simp only [State.takeRegion, sizedSlot_responding]
  rfl

theorem State.findCells_responding (pool : Nat) (res : Option Nat) (n : Nat) :
    (s.responding til st h).findCells pool res n = s.findCells pool res n := by
  simp only [State.findCells, takeEnc_responding, takeRegion_responding]
  rfl

theorem State.reqStatus_responding (v : Nat) : (s.responding til st h).reqStatus v = s.reqStatus v := by
  simp only [State.reqStatus, findCells_responding]
  rfl

end

/-! ### Requests (R369, R370) -/

theorem reqOp_eq (v : Nat) : reqOp v = v % 8 := by simp [reqOp, fieldOf]

theorem exec_poolRow_of_acts {s u : State} {t : Nat} (h : s.actsAt t u) (v : BitVec 32) :
    ∀ c ∈ [(1, Instr.alloc t v), (2, .share t v), (3, .release t v), (4, .free t v)],
      v.toNat % 8 = c.1 → exec c.2 s = .next (u.poolRequest v.toNat).intPoll := by
  have row : ∀ op, v.toNat % 8 = op → u.poolRow op v = u.poolRequest v.toNat := fun op named =>
    if_pos ((reqOp_eq _).trans named)
  simp only [List.forall_mem_cons, List.not_mem_nil, false_implies, implies_true, and_true]
  exact ⟨fun n => by rw [← row 1 n]; exact act_of_acts h fun s => s.poolRow 1 v,
    fun n => by rw [← row 2 n]; exact act_of_acts h fun s => s.poolRow 2 v,
    fun n => by rw [← row 3 n]; exact act_of_acts h fun s => s.poolRow 3 v,
    fun n => by rw [← row 4 n]; exact act_of_acts h fun s => s.poolRow 4 v⟩

/-- R370: the state in which a request that passes acts. -/
def State.answering (s : State) (v : Nat) : State :=
  s.responding (s.poolDone v) (s.reqStatus v) (if v % 8 = 1 then s.pool.rspHandle else s.pool.reqArg.toNat)

theorem State.poolRequest_of_free {s : State} {v : Nat} (free : s.pool.busyTil ≤ s.now) :
    s.poolRequest v =
      if s.reqStatus v ≠ 0 then s.answering v
      else match reqOp v with
        | 1 => (s.answering v).doAlloc v
        | 2 => (s.answering v).doShare
        | 3 => (s.answering v).doRelease (reqQueue v) false
        | _ => (s.answering v).doRelease (reqQueue v) true := by
  have status : (s.modPool fun p => { p with busyTil := s.poolDone v }).reqStatus v = s.reqStatus v :=
    s.reqStatus_responding (s.poolDone v) s.pool.rspStatus s.pool.rspHandle v
  unfold State.poolRequest
  rw [if_neg (by simpa [State.poolBusy] using free)]
  unfold State.poolServe State.answering
  rw [status, ← reqOp_eq] <;> rfl

theorem State.poolRequest_of_busy {s : State} (busy : s.now < s.pool.busyTil) (v : Nat) :
    s.poolRequest v = (s.modPool fun p => { p with refused := p.refused.add 16 1 s.now }).opsWrite 0x28008 v := by
  unfold State.poolRequest
  rw [if_pos (by simpa [State.poolBusy] using busy)]

/-! ### Buffers under what the requests do (R372 to R374) -/

/-- What a response reports beside its handle: its status, and the protocol errors. -/
def Pool.answer (p : Pool) : Nat × Rc := (p.rspStatus, p.protocol)

theorem State.modBuffer_eq {s : State} {h : Nat} {b : Buffer} (held : s.buffer? h = some b) (f : Buffer → Buffer) :
    s.modBuffer h f = { s with pool := { s.pool with buffers := Tab.put s.pool.buffers h (f b) } } := by
  unfold State.modBuffer
  rw [held]
  rfl

theorem State.buffer_modBuffer {s : State} {h : Nat} {b : Buffer} (held : s.buffer? h = some b) (f : Buffer → Buffer) :
    (s.modBuffer h f).buffer? h = some (f b) := by
  rw [modBuffer_eq held]
  exact Tab.find_put_same ..

theorem State.buffer_modBuffer_other (s : State) {h k : Nat} (ne : k ≠ h) (f : Buffer → Buffer) :
    (s.modBuffer h f).buffer? k = s.buffer? k := by
  unfold State.modBuffer
  split
  · rfl
  · exact Tab.find_put_other _ h k _ ne

theorem State.answer_modBuffer (s : State) (h : Nat) (f : Buffer → Buffer) : (s.modBuffer h f).pool.answer = s.pool.answer := by
  unfold State.modBuffer
  split <;> rfl

theorem State.giveCells_pool (s : State) (r : Nat) (enc : Bool) (cs : List Nat) (l : Nat) :
    (s.giveCells r enc cs l).pool.buffers = s.pool.buffers ∧ (s.giveCells r enc cs l).pool.answer = s.pool.answer := by
  unfold State.giveCells
  split <;> exact ⟨rfl, rfl⟩

theorem State.giveCells_enclave (s : State) (r : Nat) (cs : List Nat) (l : Nat) :
    (s.giveCells r true cs l).pool.encUsed = s.pool.encUsed.filter (fun c => !cs.contains c) ∧
      (s.giveCells r true cs l).pool.dirty = s.pool.dirty ++ cs.map fun c => (c, l) := ⟨rfl, rfl⟩

/-- The state with a buffer's entry free, before its cells are. -/
theorem State.returnBuffer_eq {s : State} {h : Nat} {b : Buffer} (held : s.buffer? h = some b) :
    s.returnBuffer h =
      (s.modPool fun p => { p with buffers := Tab.del p.buffers h }).giveCells (poolOf h) b.inEnclave b.cells b.label := by
  unfold State.returnBuffer
  rw [held]

theorem State.returnBuffer_facts {s : State} {h : Nat} {b : Buffer} (held : s.buffer? h = some b) :
    (s.returnBuffer h).buffer? h = none ∧ (∀ k, k ≠ h → (s.returnBuffer h).buffer? k = s.buffer? k) ∧
      (s.returnBuffer h).pool.answer = s.pool.answer ∧
      (b.inEnclave = true → (s.returnBuffer h).pool.encUsed = s.pool.encUsed.filter (fun c => !b.cells.contains c) ∧
        (s.returnBuffer h).pool.dirty = s.pool.dirty ++ b.cells.map fun c => (c, b.label)) := by
  rw [returnBuffer_eq held]
  obtain ⟨buffers, answer⟩ := State.giveCells_pool (s.modPool fun p => { p with buffers := Tab.del p.buffers h }) (poolOf h)
    b.inEnclave b.cells b.label
  refine ⟨?_, fun k ne => ?_, answer, fun enc => ?_⟩
  · rw [State.buffer?, buffers]
    exact Tab.find_del_same ..
  · rw [State.buffer?, buffers]
    exact Tab.find_del_other _ h k ne
  · rw [enc]
    exact State.giveCells_enclave ..

theorem State.dueBuffer_facts {s : State} {h : Nat} {b : Buffer} (held : s.buffer? h = some b) :
    (s.named h b = true → (s.dueBuffer h).buffer? h = some { b with due := true }) ∧
      (s.named h b = false → s.dueBuffer h = s.returnBuffer h) ∧
      (∀ k, k ≠ h → (s.dueBuffer h).buffer? k = s.buffer? k) ∧ (s.dueBuffer h).pool.answer = s.pool.answer := by
  have due : s.dueBuffer h = if s.named h b then s.modBuffer h fun b => { b with due := true } else s.returnBuffer h := by
    unfold State.dueBuffer
    rw [held]
  obtain ⟨_, others, answer, _⟩ := State.returnBuffer_facts held
  rw [due]
  refine ⟨fun named => ?_, fun free => ?_, fun k ne => ?_, ?_⟩
  · rw [if_pos named]
    exact State.buffer_modBuffer held _
  · rw [if_neg (ne_true_of_eq_false free)]
  · split
    · exact State.buffer_modBuffer_other s ne _
    · exact others k ne
  · split
    · exact State.answer_modBuffer ..
    · exact answer

theorem State.freeBuffer_eq {s : State} {h : Nat} {b : Buffer} (held : s.buffer? h = some b) :
    s.freeBuffer h = if b.owners = [b.holder] then s.dueBuffer h else s.modBuffer h fun b => { b with parked := true } := by
  unfold State.freeBuffer
  rw [held]

theorem State.freeBuffer_keeps {s : State} {h : Nat} {b : Buffer} (held : s.buffer? h = some b) :
    (∀ k, k ≠ h → (s.freeBuffer h).buffer? k = s.buffer? k) ∧ (s.freeBuffer h).pool.answer = s.pool.answer := by
  obtain ⟨_, _, others, answer⟩ := State.dueBuffer_facts held
  rw [State.freeBuffer_eq held]
  split
  · exact ⟨others, answer⟩
  · exact ⟨fun k ne => State.buffer_modBuffer_other s ne _, State.answer_modBuffer ..⟩

theorem State.dropOwner_facts {s : State} {h q : Nat} {b : Buffer} (held : s.buffer? h = some b) :
    (b.parked = false → (s.dropOwner h q).buffer? h = some { b with owners := b.owners.filter fun x => x != q }) ∧
      (∀ k, k ≠ h → (s.dropOwner h q).buffer? k = s.buffer? k) ∧ (s.dropOwner h q).pool.answer = s.pool.answer := by
  generalize dropped : (s.modBuffer h fun b' => { b' with owners := b.owners.filter fun x => x != q }) = w
  have kept : w.buffer? h = some { b with owners := b.owners.filter fun x => x != q } := by
    rw [← dropped]
    exact State.buffer_modBuffer held _
  have others : ∀ k, k ≠ h → w.buffer? k = s.buffer? k := fun k ne => by
    rw [← dropped]
    exact State.buffer_modBuffer_other s ne _
  have answer : w.pool.answer = s.pool.answer := by
    rw [← dropped]
    exact State.answer_modBuffer ..
  obtain ⟨_, _, dueOthers, dueAnswer⟩ := State.dueBuffer_facts kept
  have drop : s.dropOwner h q =
      if b.parked && (b.owners.filter fun x => x != q) == [b.holder] then w.dueBuffer h else w := by
    unfold State.dropOwner
    rw [held, ← dropped]
  rw [drop]
  refine ⟨fun open_ => ?_, fun k ne => ?_, ?_⟩
  · rw [if_neg (by simp [open_])]
    exact kept
  · split
    · exact (dueOthers k ne).trans (others k ne)
    · exact others k ne
  · split
    · exact dueAnswer.trans answer
    · exact answer

/-- R373: a protocol error is counted, and touches no buffer. -/
theorem State.protocolError_pool (s : State) (q h : Nat) :
    (s.protocolError q h).pool = { s.pool with protocol := s.pool.protocol.add 16 1 s.now } :=
  (by simp [State.protocolError] : Part.pool.same (s.modPool fun p => { p with protocol := p.protocol.add 16 1 s.now })
    (s.protocolError q h))

theorem State.protocolError_qg (s : State) (q h : Nat) : (s.protocolError q h).qg = s.qg :=
  (by simp : Part.qg.same s (s.protocolError q h))

/-! ### RELEASE and FREE (R373) -/

/-- What a request of queue `q` leaves of buffer `h`, when it is the free right holder's FREE or an owner's RELEASE. -/
def State.released (u : State) (h q : Nat) (b : Buffer) (w : State) : Prop :=
  (b.holder = q → b.owners = [q] → u.named h b = false → w.buffer? h = none ∧
    (b.inEnclave = true → w.pool.encUsed = u.pool.encUsed.filter (fun c => !b.cells.contains c) ∧
      w.pool.dirty = u.pool.dirty ++ b.cells.map fun c => (c, b.label))) ∧
  (b.holder = q → b.owners = [q] → u.named h b = true → w.buffer? h = some { b with due := true }) ∧
  (b.holder = q → b.owners ≠ [q] → w.buffer? h = some { b with parked := true }) ∧
  (b.holder ≠ q → b.parked = false → w.buffer? h = some { b with owners := b.owners.filter fun x => x != q }) ∧
  (∀ k, k ≠ h → w.buffer? k = u.buffer? k)

theorem State.freeBuffer_released {s : State} {h q : Nat} {b : Buffer} (held : s.buffer? h = some b) (holder : b.holder = q) :
    s.released h q b (s.freeBuffer h) := by
  obtain ⟨named, free, _⟩ := State.dueBuffer_facts held
  obtain ⟨gone, _, _, cells⟩ := State.returnBuffer_facts held
  have freed := State.freeBuffer_eq held
  rw [holder] at freed
  refine ⟨fun _ sole unnamed => ?_, fun _ sole isNamed => ?_, fun _ shared => ?_, fun ne => absurd holder ne,
    (State.freeBuffer_keeps held).1⟩
  · rw [freed, if_pos sole, free unnamed]
    exact ⟨gone, cells⟩
  · rw [freed, if_pos sole]
    exact named isNamed
  · rw [freed, if_neg shared]
    exact State.buffer_modBuffer held _

theorem State.dropOwner_released {s : State} {h q : Nat} {b : Buffer} (held : s.buffer? h = some b) (holder : b.holder ≠ q) :
    s.released h q b (s.dropOwner h q) := by
  obtain ⟨owners, others, _⟩ := State.dropOwner_facts (q := q) held
  exact ⟨fun same => absurd same holder, fun same => absurd same holder, fun same => absurd same holder, fun _ => owners,
    others⟩

theorem State.dropOwner_keeps {s : State} {h q : Nat} {b : Buffer} (held : s.buffer? h = some b) :
    (s.dropOwner h q).pool.answer = s.pool.answer := (State.dropOwner_facts held).2.2

/-- States that agree in their buffers, their enclave cells and their queues. -/
theorem State.released_congr {u v w : State} {h q : Nat} {b : Buffer} (buffers : v.pool.buffers = u.pool.buffers)
    (used : v.pool.encUsed = u.pool.encUsed) (dirty : v.pool.dirty = u.pool.dirty) (qg : v.qg = u.qg)
    (released : v.released h q b w) : u.released h q b w := by
  unfold State.released State.buffer? State.named at *
  rw [buffers, used, dirty, qg] at released
  exact released

theorem State.protocolError_released {s w : State} {h q q' h' : Nat} {b : Buffer}
    (released : (s.protocolError q' h').released h q b w) : s.released h q b w := by
  refine State.released_congr ?_ ?_ ?_ (s.protocolError_qg q' h') released <;> rw [State.protocolError_pool]

theorem State.buffer_protocolError (s : State) (q h k : Nat) : (s.protocolError q h).buffer? k = s.buffer? k := by
  unfold State.buffer?
  rw [State.protocolError_pool]

theorem State.answer_protocolError (s : State) (q h : Nat) :
    (s.protocolError q h).pool.answer = (s.pool.rspStatus, s.pool.protocol.add 16 1 s.now) := by
  rw [State.protocolError_pool]
  rfl

/-- R373: the request acts as the free right holder's FREE or the owner's RELEASE, whichever of the two it should have been; the
wrong one counts. -/
theorem State.doRelease_facts {s : State} {b : Buffer} (held : s.buffer? s.pool.reqArg.toNat = some b) (q : Nat) (free : Bool) :
    s.released s.pool.reqArg.toNat q b (s.doRelease q free) ∧
      (s.doRelease q free).pool.answer = (s.pool.rspStatus,
        if (b.holder = q) = (free = true) then s.pool.protocol else s.pool.protocol.add 16 1 s.now) := by
  generalize arg : s.pool.reqArg.toNat = h at *
  have acts : s.doRelease q free =
      if b.holder = q then (if free then s.freeBuffer h else (s.protocolError q h).freeBuffer h)
      else if free then (s.protocolError q h).dropOwner h q else s.dropOwner h q := by
    unfold State.doRelease
    rw [arg]
    dsimp only
    rw [held]
  have heldErr : (s.protocolError q h).buffer? h = some b := (s.buffer_protocolError q h h).trans held
  rw [acts]
  by_cases holder : b.holder = q
  · rw [if_pos holder]
    cases free
    · exact ⟨State.protocolError_released (State.freeBuffer_released heldErr holder),
        by rw [if_neg Bool.false_ne_true, (State.freeBuffer_keeps heldErr).2, State.answer_protocolError]; simp [holder]⟩
    · exact ⟨State.freeBuffer_released held holder, by rw [if_pos rfl, (State.freeBuffer_keeps held).2]; simp [holder, Pool.answer]⟩
  · rw [if_neg holder]
    cases free
    · exact ⟨State.dropOwner_released held holder,
        by rw [if_neg Bool.false_ne_true, State.dropOwner_keeps held]; simp [holder, Pool.answer]⟩
    · exact ⟨State.protocolError_released (State.dropOwner_released heldErr holder),
        by rw [if_pos rfl, State.dropOwner_keeps heldErr, State.answer_protocolError]; simp [holder]⟩

/-! ### ALLOC (R370) -/

/-- A check that passes did not fail, and those after it pass. -/
theorem of_ite_eq_zero {c : Prop} [Decidable c] {n x : Nat} (h : (if c then n else x) = 0) (hn : n ≠ 0) : ¬ c ∧ x = 0 := by
  split at h
  · exact absurd h hn
  · exact ⟨‹_›, h⟩

theorem State.reqStatus_alloc {s : State} {v : Nat} (passes : s.reqStatus v = 0) (alloc : reqOp v = 1) :
    (∃ x, s.findCells (reqPool v) (if reqRes v = 0x7F then none else some (reqRes v)) s.pool.reqArg.toNat = some x) ∧
      ∃ i, s.freeEntry (reqPool v) = some i := by
  unfold State.reqStatus at passes
  dsimp only at passes
  iterate 8 replace passes := (of_ite_eq_zero passes (by decide)).2
  obtain ⟨found, _⟩ := of_ite_eq_zero passes (by decide)
  simpa [alloc, Option.isNone_iff_eq_none, Option.ne_none_iff_exists'] using found

theorem State.holdCells_pool (s : State) (r : Nat) (enc : Bool) (cs : List Nat) :
    (s.holdCells r enc cs).pool.buffers = s.pool.buffers ∧ (s.holdCells r enc cs).pool.rspStatus = s.pool.rspStatus ∧
      (s.holdCells r enc cs).pool.rspHandle = s.pool.rspHandle ∧ (s.holdCells r enc cs).pool.requests = s.pool.requests ∧
      (s.holdCells r enc cs).pool.work = s.pool.work ∧
      (s.holdCells r enc cs).pool.encUsed = if enc then s.pool.encUsed ++ cs else s.pool.encUsed := by
  unfold State.holdCells
  cases enc <;> exact ⟨rfl, rfl, rfl, rfl, rfl, rfl⟩

/-! ### POOL_CELL_GRANT (R371, R32) -/

/-- The request that is first for its pool. -/
def State.firstFor (s : State) (q : WorkRequest) : Option WorkRequest :=
  (s.pool.requests.filter fun w => w.region == q.region).head?

/-- The region cells that a request counts. -/
def requestCells (q : WorkRequest) : Nat := match q.region with | none => 16 * q.cells | some _ => q.cells

theorem State.cellsFor_eq (s : State) (q : WorkRequest) :
    s.cellsFor q = if s.firstFor q = none ∨ s.firstFor q = some q then s.findCells (poolOfRequest q) none (requestCells q)
      else none := by
  unfold State.cellsFor State.firstFor requestCells
  cases s.pool.requests.filter fun w => w.region == q.region with
  | nil => simp <;> rfl
  | cons w ws => by_cases same : w = q <;> simp [same] <;> rfl

theorem State.askCells_waits {s : State} {q : WorkRequest} (open_ : q.use = .other ∨ s.holds q.use = false)
    (none_ : s.cellsFor q = none) : s.askCells q = (if q ∈ s.pool.requests then s
      else s.modPool fun p => { p with requests := p.requests ++ [q] }, false) := by
  unfold State.askCells
  rw [if_neg (by simpa [or_iff_not_imp_left] using open_), none_]
  simp

theorem State.askCells_found {s : State} {q : WorkRequest} {enc : Bool} {cs : List Nat}
    (open_ : q.use = .other ∨ s.holds q.use = false) (found : s.cellsFor q = some (enc, cs)) :
    s.askCells q = (s.serveRequest q enc cs, true) := by
  unfold State.askCells
  rw [if_neg (by simpa [or_iff_not_imp_left] using open_), found]

theorem State.grantRequest_of_asks {s : State} {q : WorkRequest} (asks : q ∈ s.pool.requests ∨ q.use = .other) :
    s.grantRequest q = if (s.askCells q).2 then (s.askCells q).1.resumeAll else (s.askCells q).1 := by
  unfold State.grantRequest
  rw [if_neg (by simpa [or_iff_not_imp_left] using asks)]

theorem State.serveRequest_pool (s : State) (q : WorkRequest) (enc : Bool) (cs : List Nat) :
    (s.serveRequest q enc cs).pool.requests = s.pool.requests.erase q ∧
      (s.serveRequest q enc cs).pool.work = s.pool.work ++
        [{ label := q.label.toNat, gen := q.gen.toNat, inEnclave := enc, region := poolOfRequest q, cells := cs,
           slot := !enc && !s.pool.chain, run := q.run, use := q.use }] := by
  unfold State.serveRequest
  obtain ⟨_, _, _, requests, work, _⟩ := State.holdCells_pool (s.modPool fun p =>
    { p with requests := p.requests.erase q,
             work := p.work ++ [{ label := q.label.toNat, gen := q.gen.toNat, inEnclave := enc, region := poolOfRequest q, cells := cs, slot := !enc && !p.chain,
                                  run := q.run, use := q.use }] }) (poolOfRequest q) enc cs
  exact ⟨requests, work⟩

/-! ### The obligation -/

theorem State.alloc_facts {s : State} {v : Nat} (passes : s.reqStatus v = 0) (alloc : v % 8 = 1) :
    let res := if reqRes v = 0x7F then none else some (reqRes v)
    let q := reqQueue v
    ∃ (enc : Bool) (cs : List Nat) (i : Nat),
      s.findCells (reqPool v) res s.pool.reqArg.toNat = some (enc, cs) ∧ s.freeEntry (reqPool v) = some i ∧
      (let h := reqPool v * 2 ^ 28 + i
       let w := (s.answering v).doAlloc v
       w.pool.rspStatus = 0 ∧ w.pool.rspHandle = h ∧
        w.buffer? h = some
          { label := (s.queue q).label, gen := (s.queue q).gen, size := s.pool.reqArg.toNat * 4096, inEnclave := enc,
            cells := cs, res := res, slot := !enc && res.isNone && !s.pool.chain, owners := [q], holder := q,
            serial := s.pool.nextSerial } ∧
        (∀ k, k ≠ h → w.buffer? k = s.buffer? k) ∧
        w.pool.encUsed = (if enc then s.pool.encUsed ++ cs else s.pool.encUsed)) := by
  intro res q
  obtain ⟨⟨⟨enc, cs⟩, cells⟩, i, entry⟩ := State.reqStatus_alloc passes ((reqOp_eq v).trans alloc)
  refine ⟨enc, cs, i, cells, entry, ?_⟩
  intro h w
  let b : Buffer :=
    { label := (s.queue q).label, gen := (s.queue q).gen, size := s.pool.reqArg.toNat * 4096, inEnclave := enc,
      cells := cs, res := res, slot := !enc && res.isNone && !s.pool.chain, owners := [q], holder := q,
      serial := s.pool.nextSerial }
  have acts : w = ((s.answering v).modPool fun p =>
      { p with buffers := Tab.put p.buffers h b, nextSerial := p.nextSerial + 1, rspHandle := h }).holdCells (reqPool v) enc cs := by
    have entry' : (s.answering v).freeEntry (reqPool v) = some i := entry
    have cells' : (s.answering v).findCells (reqPool v) res s.pool.reqArg.toNat = some (enc, cs) :=
      (s.findCells_responding ..).trans cells
    show (s.answering v).doAlloc v = _
    unfold State.doAlloc
    dsimp only
    rw [entry', show (s.answering v).findCells (reqPool v) (if reqRes v = 0x7F then none else some (reqRes v))
      (s.answering v).pool.reqArg.toNat = _ from cells']
    rfl
  obtain ⟨buffers, status, handle, _, _, used⟩ := State.holdCells_pool ((s.answering v).modPool fun p =>
    { p with buffers := Tab.put p.buffers h b, nextSerial := p.nextSerial + 1, rspHandle := h }) (reqPool v) enc cs
  rw [acts]
  refine ⟨status.trans passes, handle, ?_, fun k ne => ?_, used⟩
  · rw [State.buffer?, buffers]
    exact Tab.find_put_same ..
  · rw [State.buffer?, buffers]
    exact Tab.find_put_other _ h k _ ne

/-- Settles O46. -/
theorem poolRequests : Obligations.PoolRequests := by
  refine ⟨?_, ?_, ?_, ?_, ?_, ?_⟩
  · intro s u t v h busy w c listed named
    rw [exec_poolRow_of_acts h v c listed named, State.poolRequest_of_busy busy]
    rfl
  · intro s u t v h free fails c listed named
    rw [exec_poolRow_of_acts h v c listed named, State.poolRequest_of_free free, if_pos fails, ← named]
    rfl
  · intro s u t v h free passes named res q
    obtain ⟨enc, cs, i, cells, entry, facts⟩ := State.alloc_facts passes named
    refine ⟨_, enc, cs, i, exec_poolRow_of_acts h v (1, .alloc t v) (by simp) named, cells, entry, ?_⟩
    rw [State.poolRequest_of_free free, if_neg (not_not.mpr passes), (reqOp_eq _).trans named]
    exact facts
  · intro s u t v b h free passes held named
    refine ⟨_, exec_poolRow_of_acts h v (2, .share t v) (by simp) named, ?_⟩
    rw [State.poolRequest_of_free free, if_neg (not_not.mpr passes), (reqOp_eq _).trans named]
    have held' : (u.answering v.toNat).buffer? u.pool.reqArg.toNat = some b := held
    refine ⟨(congrArg Prod.fst (State.answer_modBuffer ..)).trans passes, State.buffer_modBuffer held' _,
      fun k ne => State.buffer_modBuffer_other _ ne _⟩
  · intro s u t v b h free passes held hd q out
    have held' : (u.answering v.toNat).buffer? (u.answering v.toNat).pool.reqArg.toNat = some b := held
    have outcome : ∀ way, out ((u.answering v.toNat).doRelease q way) ∧ ((u.answering v.toNat).doRelease q way).pool.protocol =
        if (b.holder = q) = (way = true) then u.pool.protocol else u.pool.protocol.add 16 1 u.now := fun way => by
      obtain ⟨⟨gone, due, parked, left, others⟩, answer⟩ := State.doRelease_facts held' q way
      exact ⟨⟨gone, due, parked, left, others, (congrArg Prod.fst answer).trans passes⟩, congrArg Prod.snd answer⟩
    have acts := State.poolRequest_of_free (v := v.toNat) free
    rw [if_neg (not_not.mpr passes)] at acts
    refine ⟨fun named => ?_, fun named => ?_⟩
    · rw [(reqOp_eq _).trans named] at acts
      refine ⟨_, exec_poolRow_of_acts h v (3, .release t v) (by simp) named, ?_⟩
      rw [acts]
      obtain ⟨result, protocol⟩ := outcome false
      refine ⟨result, protocol.trans ?_⟩
      by_cases holder : b.holder = q <;> simp [holder]
    · rw [(reqOp_eq _).trans named] at acts
      refine ⟨_, exec_poolRow_of_acts h v (4, .free t v) (by simp) named, ?_⟩
      rw [acts]
      obtain ⟨result, protocol⟩ := outcome true
      refine ⟨result, protocol.trans ?_⟩
      by_cases holder : b.holder = q <;> simp [holder]
  · intro s u t q h n first
    have run : exec (.poolCellGrant t q) s = .next (u.grantRequest q).stallClock.intPoll :=
      actStalls_of_acts h fun s => s.grantRequest q
    refine ⟨fun absent named => ?_, fun asks open_ => ⟨fun enc cs front found => ?_, fun none_ => ?_⟩⟩
    · rw [run]
      unfold State.grantRequest
      rw [if_pos (by simp [absent, named])]
    · have cells : u.cellsFor q = some (enc, cs) := by
        have front' : u.firstFor q = none ∨ u.firstFor q = some q := front
        rw [State.cellsFor_eq, if_pos front']
        exact found
      intro v
      rw [run, State.grantRequest_of_asks asks, State.askCells_found open_ cells]
      exact ⟨rfl, State.serveRequest_pool u q enc cs⟩
    · have cells : u.cellsFor q = none := by
        rw [State.cellsFor_eq]
        split
        case isTrue front =>
          obtain ⟨w, isFirst, other⟩ | missing := none_
          · have same : u.firstFor q = some w := isFirst
            rw [same] at front
            simp_all
          · exact missing
        case isFalse => rfl
      rw [run, State.grantRequest_of_asks asks, State.askCells_waits open_ cells]
      by_cases waits : q ∈ u.pool.requests <;> simp [waits, State.modPool]

end Sys2Proof.Machine

namespace Sys2Proof.Machine

/-! ### Pseudo-channels (R381, R385) -/

theorem State.pc_modPc_same (s : State) (p : Nat) (f : PseudoChannel → PseudoChannel) : (s.modPc p f).pc p = f (s.pc p) := by
  simp [State.pc, State.modPc]

theorem State.pc_modPc_other (s : State) {p k : Nat} (ne : k ≠ p) (f : PseudoChannel → PseudoChannel) :
    (s.modPc p f).pc k = s.pc k := Tab.getD_put_other s.emc.pcs p k _ {} ne

theorem State.pc_of_emc {s w : State} (h : w.emc = s.emc) (p : Nat) : w.pc p = s.pc p := 
  congrArg (fun e : Emc => Tab.getD e.pcs p ({} : PseudoChannel)) h

theorem State.encFree_congr {s w : State} (state : ∀ p, (w.pc p).state = (s.pc p).state) (pool : w.pool = s.pool) :
    w.encFree = s.encFree := by
  simp only [State.encFree, state, pool]

/-- The held cells of the pseudo-channel find room outside it. -/
def State.retireFits (s : State) (p : Nat) : Prop := (s.heldOf p).length ≤ (s.modPc p fun x => { x with state := 1 }).encFree

theorem State.retirePc_fits {s : State} {p : Nat} (serves : (s.pc p).state = 0) (fits : s.retireFits p) :
    let w := s.retirePc p
    w.emc = (s.modPc p fun x => { x with state := 1 }).emc ∧ w.pool.dirty = s.pool.dirty.filter fun d => pcOf d.1 != p := by
  intro w
  let begun := (s.modPc p fun x => { x with state := 1 }).modPool fun q => { q with dirty := q.dirty.filter fun d => pcOf d.1 != p }
  have acts : w = ((s.pool.dirty.filter fun d => pcOf d.1 == p).map Prod.snd).foldl State.scrubCheck begun := by
    show s.retirePc p = _
    unfold State.retirePc
    rw [if_neg (not_not.mpr serves)]
    exact if_neg (not_lt.mpr fits)
  rw [acts]
  generalize (s.pool.dirty.filter fun d => pcOf d.1 == p).map Prod.snd = ls
  exact ⟨(by simp : Part.emc.same begun _), congrArg Pool.dirty (by simp : Part.pool.same begun (ls.foldl State.scrubCheck begun))⟩

theorem State.retirePc_stops {s : State} {p : Nat} (serves : (s.pc p).state = 0) (tooFew : ¬ s.retireFits p) :
    (s.retirePc p).emc = s.emc ∧ (s.retirePc p).pool = s.pool := by
  unfold State.retirePc
  rw [if_neg (not_not.mpr serves)]
  dsimp only
  rw [if_pos (not_le.mp tooFew)]
  exact ⟨(by simp : Part.emc.same s _), (by simp : Part.pool.same s _)⟩

/-! ### The end of a retirement (R381) -/

/-- What the remap table alone may differ in. -/
def Emc.remapped (e f : Emc) : Prop := f.pcs = e.pcs ∧ f.inService = e.inService

theorem State.moveControl_remapped (s : State) (i : Nat) : s.emc.remapped (s.moveControl i).emc := by
  unfold State.moveControl
  split <;> exact ⟨rfl, rfl⟩

theorem State.moveControls_remapped (s : State) (l : List Nat) : s.emc.remapped (l.foldl State.moveControl s).emc :=
  List.foldlRecOn (motive := fun w : State => s.emc.remapped w.emc) l _ ⟨rfl, rfl⟩ fun w ih i _ =>
    ⟨(w.moveControl_remapped i).1.trans ih.1, (w.moveControl_remapped i).2.trans ih.2⟩

theorem State.retireDone_emc {s : State} {p : Nat} (moving : (s.pc p).state = 1) (lost : List Nat) :
    (s.retireDone p lost).emc.pcs = Tab.put s.emc.pcs p { s.pc p with state := 2 } ∧
      (s.retireDone p lost).emc.inService = s.emc.inService - 1 := by
  unfold State.retireDone
  rw [if_neg (not_not.mpr moving)]
  dsimp only
  generalize s.holdersOf _ = bad
  have marked : (bad.foldl (fun s h => (s.loseBuffer h).dropNaming h) s).emc = s.emc := (by simp : Part.emc.same s _)
  generalize bad.foldl (fun s h => (s.loseBuffer h).dropNaming h) s = v at *
  have moved : ((v.heldOf p).foldl State.moveCell v).emc = v.emc := (by simp : Part.emc.same v _)
  generalize (v.heldOf p).foldl State.moveCell v = w at *
  obtain ⟨pcs, inService⟩ := w.moveControls_remapped (w.controlOf p)
  generalize (w.controlOf p).foldl State.moveControl w = x at *
  have emc : w.emc = s.emc := moved.trans marked
  rw [emc] at pcs inService
  have ended := congrArg (fun e : Emc => (e.pcs, e.inService))
    (by simp : Part.emc.same ((x.modPc p fun x => { x with state := 2 }).modEmc fun e => { e with inService := e.inService - 1 })
      (((x.modPc p fun x => { x with state := 2 }).modEmc fun e => { e with inService := e.inService - 1 }).faultRecord 0x0114 3 0 0
        (leBytes 2 p ++ [0])))
  refine ⟨(congrArg Prod.fst ended).trans ?_, (congrArg Prod.snd ended).trans ?_⟩
  · show Tab.put x.emc.pcs p { Tab.getD x.emc.pcs p {} with state := 2 } = _
    rw [pcs]
    rfl
  · show x.emc.inService - 1 = _
    rw [inService]

/-! ### Errors of the enclave's memory (R381) -/

theorem State.eccError_corrected {s : State} {p : Nat} (known : p < 384) (serves : (s.pc p).state ≠ 2)
    (below : satAdd 16 (s.ceCount p) 1 < s.emc.ceLimit.toNat) :
    s.eccError p .corrected = (s.modEmc fun x => { x with ce := x.ce.add 16 1 s.now }).modPc p fun x =>
      { x with ceWindow := satAdd 16 (s.ceCount p) 1, ceWindowNo := s.ceWindowNow } := by
  unfold State.eccError
  rw [if_neg (by simp [known, serves])]
  dsimp only
  rw [if_neg]
  · rfl
  · rw [State.pc_modPc_same]
    exact not_le.mpr below

theorem exec_enclaveEccError_of_acts {s u : State} {t : Nat} (h : s.actsAt t u) (p : BitVec 9) (err : EccError) (cell : Nat)
    (still : ((u.pc p.toNat).state == 1 && err == .uncorrectable) = false) :
    exec (.enclaveEccError t p err cell) s = .next (u.eccError p.toNat err).intPoll := by
  have run : exec (.enclaveEccError t p err cell) s = _ := act_of_acts h fun s =>
    let moving := (s.pc p.toNat).state == 1
    let s := s.eccError p.toNat err
    if moving && err == .uncorrectable then
      (s.holdersOf [cell]).foldl (fun s h => (s.loseBuffer h).dropNaming h) s
    else s
  dsimp only at run
  rw [still] at run
  exact run

/-- R381: the channel with an uncorrectable error counted. -/
def State.ueMet (s : State) (p : Nat) : State :=
  (s.modEmc fun x => { x with ue := x.ue.add 16 1 s.now }).modPc p fun x => { x with ueSeen := true }

theorem State.eccError_uncorrectable {s : State} {p : Nat} (known : p < 384) (serves : (s.pc p).state = 0) :
    s.eccError p .uncorrectable = (s.ueMet p).retirePc p := by
  unfold State.eccError
  rw [if_neg (by simp [known, serves])]
  rfl

theorem State.pc_ueMet (s : State) (p : Nat) : (s.ueMet p).pc p = { s.pc p with ueSeen := true } := State.pc_modPc_same ..

theorem State.retireFits_ueMet {s : State} {p : Nat} (fits : s.retireFits p) : (s.ueMet p).retireFits p := by
  have free : ((s.ueMet p).modPc p fun x => { x with state := 1 }).encFree = (s.modPc p fun x => { x with state := 1 }).encFree := by
    refine State.encFree_congr (fun k => ?_) rfl
    by_cases same : k = p
    · subst same
      rw [State.pc_modPc_same, State.pc_modPc_same]
    · rw [State.pc_modPc_other _ same, State.pc_modPc_other _ same]
      exact congrArg PseudoChannel.state (State.pc_modPc_other _ same _)
  unfold State.retireFits
  rw [free]
  exact fits

/-! ### Scrub, patrol, temperature (R375 to R377, R494) -/

theorem State.scrubCheck_pool (s : State) (l : Nat) : (s.scrubCheck l).pool = s.pool := (by simp : Part.pool.same s (s.scrubCheck l))

theorem State.scrubCheck_last {s : State} {l : Nat} (scrubbing : (s.label l).state = .scrubbing)
    (last : ∀ d ∈ s.pool.dirty, d.2 ≠ l) : ((s.scrubCheck l).label l).state = .free := by
  unfold State.scrubCheck
  rw [if_pos ⟨scrubbing, by simpa using last⟩, State.label_modLabel_same]
  rfl

theorem getLsbD_putBit_same {w : Nat} (v : BitVec w) {i : Nat} (low : i < w) (b : Bool) : (putBit v i b).getLsbD i = b := by
  have set : (BitVec.ofNat w (2 ^ i)).getLsbD i = true := by
    rw [BitVec.getLsbD_ofNat, Nat.testBit_two_pow_self, decide_eq_true low]
    rfl
  cases b
  · exact (BitVec.getLsbD_and ..).trans (by rw [BitVec.getLsbD_not, set, Bool.not_true, Bool.and_false, Bool.and_false])
  · exact (BitVec.getLsbD_or ..).trans (by rw [set, Bool.or_true])

theorem getLsbD_putBit_other {w : Nat} (v : BitVec w) {i k : Nat} (ne : k ≠ i) (b : Bool) :
    (putBit v i b).getLsbD k = v.getLsbD k := by
  have apart : (BitVec.ofNat w (2 ^ i)).getLsbD k = false := by
    rw [BitVec.getLsbD_ofNat, Nat.testBit_two_pow_of_ne ne.symm, Bool.and_false]
  cases b
  · refine (BitVec.getLsbD_and ..).trans ?_
    rw [BitVec.getLsbD_not, apart, Bool.not_false, Bool.and_true]
    by_cases low : k < w
    · rw [decide_eq_true low, Bool.and_true]
    · rw [BitVec.getLsbD_of_ge _ _ (not_lt.mp low), Bool.false_and]
  · exact (BitVec.getLsbD_or ..).trans (by rw [apart, Bool.or_false])

/-! ### The enclave test (R434) -/

/-- The failed channels out of service. -/
def State.retired (s : State) (l : List Nat) : State := l.foldl (fun s p => s.modPc p fun x => { x with state := 2 }) s

theorem State.pc_retired (s : State) (l : List Nat) (p : Nat) :
    (s.retired l).pc p = if p ∈ l then { s.pc p with state := 2 } else s.pc p := by
  induction l generalizing s with
  | nil => rfl
  | cons a l ih =>
    show (State.retired (s.modPc a fun x => { x with state := 2 }) l).pc p = _
    rw [ih]
    by_cases same : p = a
    · subst same
      simp [State.pc_modPc_same]
    · simp [State.pc_modPc_other _ same, same]

/-- R434: the enclave test has ended; the channels that fail are out. -/
def State.enclaveCounted (s : State) (failed : List Nat) : State :=
  let w := ((s.retired failed).modPool fun p => { p with encKnown := true }).modPwr fun w => { w with enclaveTested := true }
  w.modEmc fun e =>
    { e with inService := ((List.range 384).filter fun p => (w.pc p).state == 0).length,
             rate := if w.stw.shedding then 1000 else e.patrol.toNat }

/-- The control cells of a failed channel move, and its record is made. -/
def State.controlMoved (s : State) (p : Nat) : State :=
  ((s.controlOf p).foldl State.moveControl s).faultRecord 0x0114 3 0 0 (leBytes 2 p ++ [0])

theorem State.enclaveTested_eq (s : State) (failed : List Nat) :
    s.enclaveTested failed =
      let out := (failed.filter fun p => decide (p < 384)).eraseDups
      out.foldl State.controlMoved (s.enclaveCounted out) := rfl

theorem State.controlMoved_facts (s : State) (p : Nat) :
    s.emc.remapped (s.controlMoved p).emc ∧ (s.controlMoved p).pool.encKnown = s.pool.encKnown ∧
      (s.controlMoved p).pwr.enclaveTested = s.pwr.enclaveTested := by
  have moves : ∀ l : List Nat, (l.foldl State.moveControl s).pool.encKnown = s.pool.encKnown ∧
      (l.foldl State.moveControl s).pwr = s.pwr := fun l =>
    List.foldlRecOn (motive := fun w : State => w.pool.encKnown = s.pool.encKnown ∧ w.pwr = s.pwr) l _ ⟨rfl, rfl⟩ fun w ih i _ => by
      unfold State.moveControl
      split <;> exact ih
  obtain ⟨known, pwr⟩ := moves (s.controlOf p)
  have remapped := s.moveControls_remapped (s.controlOf p)
  unfold State.controlMoved
  generalize (s.controlOf p).foldl State.moveControl s = w at *
  refine ⟨?_, ?_, ?_⟩
  · rw [show (w.faultRecord 0x0114 3 0 0 (leBytes 2 p ++ [0])).emc = w.emc from (by simp : Part.emc.same w _)]
    exact remapped
  · rw [show (w.faultRecord 0x0114 3 0 0 (leBytes 2 p ++ [0])).pool = w.pool from (by simp : Part.pool.same w _)]
    exact known
  · obtain ⟨e, a, d, h⟩ := w.record_eq 1 0x0114 3 (leBytes 1 0 ++ leBytes 1 0 ++ (leBytes 2 p ++ [0]))
    rw [show w.faultRecord 0x0114 3 0 0 (leBytes 2 p ++ [0]) = _ from h]
    show w.pwr.enclaveTested = _
    rw [pwr]

theorem State.enclaveTested_facts (s : State) (failed : List Nat) :
    let w := s.enclaveTested failed
    let out := (failed.filter fun p => decide (p < 384)).eraseDups
    (s.enclaveCounted out).emc.remapped w.emc ∧ w.pool.encKnown = true ∧ w.pwr.enclaveTested = true := by
  intro w out
  rw [show w = _ from s.enclaveTested_eq failed]
  refine List.foldlRecOn (motive := fun w : State =>
    (s.enclaveCounted out).emc.remapped w.emc ∧ w.pool.encKnown = true ∧ w.pwr.enclaveTested = true) out _
    ⟨⟨rfl, rfl⟩, rfl, rfl⟩ fun w ih p _ => ?_
  obtain ⟨⟨pcs, inService⟩, known, tested⟩ := ih
  obtain ⟨⟨pcs', inService'⟩, known', tested'⟩ := w.controlMoved_facts p
  exact ⟨⟨pcs'.trans pcs, inService'.trans inService⟩, known'.trans known, tested'.trans tested⟩

/-- Settles O47. -/
theorem enclaveMemory : Obligations.EnclaveMemory := by
  refine ⟨?_, ?_, ?_, ?_, ?_, ?_, ?_, ?_, ?_⟩
  · intro s u t v h go known p serves
    refine ⟨_, act_of_acts h fun s => s.writePcCtl v.toNat, ?_⟩
    have acts : u.writePcCtl v.toNat = u.retirePc p := if_pos ⟨(bitOf_iff _ 0).mpr (by simpa using go), known⟩
    rw [acts]
    refine ⟨fun fits => ?_, fun tooFew => State.retirePc_stops serves tooFew⟩
    obtain ⟨emc, dirty⟩ := State.retirePc_fits serves fits
    rw [State.pc_of_emc emc, State.pc_modPc_same, dirty]
    exact ⟨rfl, fun d listed => by simpa using (List.mem_filter.mp listed).2⟩
  · intro s u t p lost h moving
    refine ⟨_, act_of_acts h fun s => s.retireDone p.toNat lost, ?_⟩
    obtain ⟨pcs, inService⟩ := State.retireDone_emc moving lost
    refine ⟨?_, fun k ne => ?_, inService⟩
    · unfold State.pc
      rw [pcs, Tab.getD_put_same]
    · unfold State.pc
      rw [pcs]
      exact Tab.getD_put_other _ p.toNat k _ _ ne
  · intro s u t cell p h known serves window n below
    refine ⟨_, exec_enclaveEccError_of_acts h p .corrected cell (by simp), ?_⟩
    rw [State.eccError_corrected known serves below]
    exact ⟨rfl, State.pc_modPc_same .., rfl⟩
  · intro s u t cell p h known serves fits
    refine ⟨_, exec_enclaveEccError_of_acts h p .uncorrectable cell (by simp [serves]), ?_⟩
    rw [State.eccError_uncorrectable known serves]
    obtain ⟨emc, _⟩ := State.retirePc_fits (s := u.ueMet p.toNat) (by rw [State.pc_ueMet]; exact serves)
      (State.retireFits_ueMet fits)
    rw [State.pc_of_emc emc, State.pc_modPc_same, State.pc_ueMet, emc]
    exact ⟨rfl, rfl, rfl⟩
  · intro s u t h
    exact act_of_acts h fun s =>
      if s.now % 3600000000000 = 0 then
        s.modEmc fun e => { e with pcs := Tab.mapVals (fun _ x =>
          if x.ceWindowNo = s.ceWindowNow then x else { x with ceWindow := 0, ceWindowNo := s.ceWindowNow }) e.pcs }
      else s
  · intro s u t cell l h found lowest
    have run : exec (.scrubOverwrite t cell) s = _ := act_of_acts h fun s =>
      match s.pool.dirty.find? fun d => d.1 == cell with
      | none => s
      | some d =>
        if s.pool.dirty.any fun x => decide (x.1 < cell) then s
        else (s.modPool fun p => { p with dirty := p.dirty.filter fun x => x.1 != cell }).scrubCheck d.2
    have first : (u.pool.dirty.any fun x => decide (x.1 < cell)) = false := by simpa using lowest
    rw [found] at run
    dsimp only at run
    rw [first] at run
    refine ⟨_, run, ?_, fun scrubbing last => ?_⟩
    · exact congrArg Pool.dirty (State.scrubCheck_pool ..)
    · exact State.scrubCheck_last (s := u.modPool fun p => { p with dirty := p.dirty.filter fun x => x.1 != cell }) scrubbing
        (by rw [← State.scrubCheck_pool _ l]; exact last)
  · intro s u t cell h rate here next
    rw [show exec (.patrolScrubRead t cell false) s = _ from act_of_acts h fun s =>
      if s.emc.rate = 0 ∨ s.nextInService 384 s.emc.patrolCell ≠ cell then s
      else
        let next := s.nextInService 384 (cell + 1)
        let s := s.modEmc fun e =>
          if next < encCells then { e with patrolCell := next }
          else { e with patrolCell := 0, patrolPasses := satAdd 16 e.patrolPasses 1 }
        if false then s.eccError (pcOf cell) .corrected else s,
      if_neg (by simp [rate, here])]
    rfl
  · intro s u t k hot h low
    refine ⟨_, act_of_acts h fun s =>
      if k.toNat < 6 then s.modEmc fun e => { e with shortRefresh := putBit e.shortRefresh k.toNat hot } else s, ?_⟩
    rw [if_pos low]
    exact ⟨getLsbD_putBit_same _ low _, fun i ne => getLsbD_putBit_other _ ne _⟩
  · intro s u t failed h phase first
    refine ⟨_, act_of_acts h fun s =>
      if s.pwr.phase = .selftest ∧ s.pwr.enclaveTested = false then s.enclaveTested failed else s, ?_⟩
    rw [if_pos ⟨phase, first⟩]
    obtain ⟨⟨pcs, inService⟩, known, tested⟩ := u.enclaveTested_facts failed
    generalize out : (failed.filter fun p => decide (p < 384)).eraseDups = l at *
    have pc : ∀ p, (u.enclaveTested failed).pc p = (u.retired l).pc p := fun p =>
      congrArg (fun t : Tab PseudoChannel => Tab.getD t p ({} : PseudoChannel)) pcs
    have listed : ∀ p, p ∈ l ↔ p ∈ failed ∧ p < 384 := fun p => by simp [← out]
    refine ⟨tested, known, fun p isFailed low => ?_, fun p works => ?_, ?_⟩
    · rw [pc, State.pc_retired, if_pos ((listed p).mpr ⟨isFailed, low⟩)]
    · rw [pc, State.pc_retired, if_neg fun m => works ((listed p).mp m).1]
    · rw [inService]
      simp only [pc]
      rfl

end Sys2Proof.Machine

/-! ## Repair (R447 to R467) -/

namespace Sys2Proof.Machine

/-! ### What every region, and every tile, keeps in view -/

/-- A view of a region shows the same of every region in both states. -/
def State.keepsRegions {α : Type} (v : Region → α) (s w : State) : Prop := ∀ k, v (w.region k) = v (s.region k)

/-- A view of a tile shows the same of every tile in both states. -/
def State.keepsTiles {α : Type} (v : Tile → α) (s w : State) : Prop := ∀ k, v (w.tile k) = v (s.tile k)

theorem State.tile_modTile_other (s : State) {i k : Nat} (ne : k ≠ i) (f : Tile → Tile) : (s.modTile i f).tile k = s.tile k :=
  Tab.getD_put_other s.tiles i k _ {} ne

theorem State.tile_of_tiles {s w : State} (h : Part.tiles.same s w) (k : Nat) : w.tile k = s.tile k :=
  congrArg (fun t : Tab Tile => Tab.getD t k ({} : Tile)) h

section
variable {α : Type} {v : Region → α} {s w x : State}

theorem State.keepsRegions.trans (h : s.keepsRegions v w) (g : w.keepsRegions v x) : s.keepsRegions v x :=
  fun k => (g k).trans (h k)

theorem State.keepsRegions_of_same (h : Part.regions.same s w) : s.keepsRegions v w := fun k => congrArg v (region_of_regions h k)

theorem State.keepsRegions_modRegion {f : Region → Region} (hf : ∀ g, v (f g) = v g) (s : State) (r : Nat) :
    s.keepsRegions v (s.modRegion r f) := fun k => by
  by_cases same : k = r
  · rw [same, region_modRegion, hf]
  · rw [region_modRegion_other s same]

theorem State.keepsRegions_foldl {β : Type} {f : State → β → State} (h : ∀ (s : State) (a : β), s.keepsRegions v (f s a)) (l : List β)
    (s : State) : s.keepsRegions v (l.foldl f s) :=
  List.foldlRecOn (motive := s.keepsRegions v) l f (fun _ => rfl) fun w ih a _ => ih.trans (h w a)

end

section
variable {α : Type} {v : Tile → α} {s w x : State}

theorem State.keepsTiles.trans (h : s.keepsTiles v w) (g : w.keepsTiles v x) : s.keepsTiles v x := fun k => (g k).trans (h k)

theorem State.keepsTiles_of_same (h : Part.tiles.same s w) : s.keepsTiles v w := fun k => congrArg v (tile_of_tiles h k)

theorem State.keepsTiles_modTile {f : Tile → Tile} (hf : ∀ t, v (f t) = v t) (s : State) (i : Nat) :
    s.keepsTiles v (s.modTile i f) := fun k => by
  by_cases same : k = i
  · rw [same, tile_modTile, hf]
  · rw [tile_modTile_other s same]

theorem State.keepsTiles_foldl {β : Type} {f : State → β → State} (h : ∀ (s : State) (a : β), s.keepsTiles v (f s a)) (l : List β)
    (s : State) : s.keepsTiles v (l.foldl f s) :=
  List.foldlRecOn (motive := s.keepsTiles v) l f (fun _ => rfl) fun w ih a _ => ih.trans (h w a)

end

/-! ### Cells that come back change a region in its spill state alone -/

section
variable {α : Type} {v : Region → α} (hv : ∀ g b, v { g with spill := b } = v g)
include hv

theorem State.keepsRegions_spillUpdate (s : State) (r : Nat) : s.keepsRegions v (s.spillUpdate r) :=
  State.keepsRegions_modRegion (fun g => hv g _) s r

theorem State.keepsRegions_giveCells (s : State) (r : Nat) (enc : Bool) (cs : List Nat) (l : Nat) :
    s.keepsRegions v (s.giveCells r enc cs l) := by
  unfold State.giveCells
  split
  · exact fun _ => rfl
  · exact State.keepsRegions_spillUpdate hv (State.modPool s _) r

theorem State.keepsRegions_freeWork (s : State) (f : WorkBuffer → Bool) : s.keepsRegions v (s.freeWork f) :=
  State.keepsRegions_foldl
    (fun (s : State) (w : WorkBuffer) => State.keepsRegions_giveCells hv s w.region w.inEnclave w.cells w.label) _
    (s.modPool fun p => { p with work := p.work.filter fun w => !f w })

theorem State.keepsRegions_dropWork (s : State) (e : Nat) : s.keepsRegions v (s.dropWork e) :=
  State.keepsRegions_freeWork hv s fun w => w.run == e

theorem State.keepsRegions_freeUse (s : State) (u : CellUse) : s.keepsRegions v (s.freeUse u) :=
  State.keepsRegions_freeWork hv s fun w => w.use == u

theorem State.keepsRegions_restartLane (s : State) (j n tile : Nat) (cores : List Nat) :
    s.keepsRegions v (s.restartLane j n tile cores) := by
  have change (t : State) (f : Job → Job) : t.keepsRegions v (t.modJob j f) :=
    State.keepsRegions_of_same (by simp)
  unfold State.restartLane
  exact ((State.keepsRegions_freeWork hv s _).trans (State.keepsRegions_freeUse hv (State.modPool _ _) _)).trans (change _ _)

theorem State.keepsRegions_restartTile (s : State) (src dst : Nat) : s.keepsRegions v (s.restartTile src dst) :=
  State.keepsRegions_foldl (fun (s : State) (p : Nat × Nat) => State.keepsRegions_restartLane hv s p.1 p.2 dst []) _ s

theorem State.keepsRegions_restartRegion (s : State) (r : Nat) : s.keepsRegions v (s.restartRegion r) := by
  unfold State.restartRegion
  refine ((State.keepsRegions_foldl (fun s p => ?_) _ s).trans
    (State.keepsRegions_foldl (fun (s : State) (p : Nat × Nat) => State.keepsRegions_restartLane hv s p.1 p.2 0 []) _ _)).trans fun _ => rfl
  split
  · exact fun _ => rfl
  · exact State.keepsRegions_restartLane hv s _ _ _ _

theorem State.keepsRegions_endRun (s : State) (e : Nat) : s.keepsRegions v (s.endRun e) := by
  unfold State.endRun
  split
  · exact fun _ => rfl
  · exact (State.keepsRegions_of_same (by simp)).trans (State.keepsRegions_dropWork hv (State.dropPoints _ e) e)

variable (hb : ∀ g b, v { g with sealBusy := b } = v g)
include hb

omit hv in
theorem State.keepsRegions_dropSeals (s : State) (e : Nat) : s.keepsRegions v (s.dropSeals e) := by
  have idle (t : State) (l : List (Nat × SealSpawn)) :
      t.keepsRegions v (l.foldl (fun s x => s.modRegion x.2.region fun w => { w with sealBusy := false }) t) :=
    State.keepsRegions_foldl (fun s x => State.keepsRegions_modRegion (fun g => hb g false) s x.2.region) l t
  have moulted (t : State) (l : List Nat) : t.keepsRegions v (l.foldl (fun s a => s.emit (.interior a (zeroBytes 64))) t) :=
    State.keepsRegions_of_same (by simp)
  have unkeyed (t : State) (l : List Nat) (f : Tile → Tile) : t.keepsRegions v (l.foldl (fun s id => s.modTile id f) t) :=
    State.keepsRegions_of_same (by simp)
  have left (t : State) (l : Tab SealSpawn) : t.keepsRegions v { t with seals := l } := fun _ => rfl
  unfold State.dropSeals
  dsimp only
  split
  · exact ((moulted _ _).trans (idle _ _)).trans (left _ _)
  · exact (((moulted _ _).trans (idle _ _)).trans (unkeyed _ _ _)).trans (left _ _)

theorem State.keepsRegions_dropRun (s : State) (e : Nat) : s.keepsRegions v (s.dropRun e) := by
  have unqueued (f : Run → Run) : s.keepsRegions v (((s.dropCopies e).dropEntryLoops e).modRun e f) :=
    State.keepsRegions_of_same (by simp)
  have withdrawn (t : State) : t.keepsRegions v (t.dropManifests e) := State.keepsRegions_of_same (by simp)
  exact (((unqueued _).trans (State.keepsRegions_dropSeals hb _ e)).trans (withdrawn _)).trans
    (State.keepsRegions_endRun hv _ e)

theorem State.keepsRegions_dropGone (s : State) : s.keepsRegions v s.dropGone :=
  State.keepsRegions_foldl (fun s e => State.keepsRegions_dropRun hv hb s e) _ s

end

section
variable {α : Type} {v : Tile → α} (hk : ∀ t k, v { t with keys := k } = v t)
include hk

theorem State.keepsTiles_dropSeals (s : State) (e : Nat) : s.keepsTiles v (s.dropSeals e) := by
  have moulted (t : State) (l : List Nat) : t.keepsTiles v (l.foldl (fun s a => s.emit (.interior a (zeroBytes 64))) t) :=
    State.keepsTiles_of_same (by simp)
  have idle (t : State) (l : List (Nat × SealSpawn)) (f : Region → Region) :
      t.keepsTiles v (l.foldl (fun s x => s.modRegion x.2.region f) t) := State.keepsTiles_of_same (by simp)
  have left (t : State) (l : Tab SealSpawn) : t.keepsTiles v { t with seals := l } := fun _ => rfl
  unfold State.dropSeals
  dsimp only
  split
  · exact ((moulted _ _).trans (idle _ _ _)).trans (left _ _)
  · exact (((moulted _ _).trans (idle _ _ _)).trans
      (State.keepsTiles_foldl (fun s id => State.keepsTiles_modTile (fun t => hk t _) s id) _ _)).trans (left _ _)

variable (hs : ∀ t x, v { t with seq := x } = v t)
include hs

omit hk in
theorem State.keepsTiles_dropEntryLoops (s : State) (e : Nat) : s.keepsTiles v (s.dropEntryLoops e) :=
  State.keepsTiles_foldl (fun s id => State.keepsTiles_modTile (fun t => hs t {}) s id) _ s

theorem State.keepsTiles_dropRun (s : State) (e : Nat) : s.keepsTiles v (s.dropRun e) := by
  have uncopied : s.keepsTiles v (s.dropCopies e) := State.keepsTiles_of_same (by simp)
  have marked (t : State) (f : Run → Run) : t.keepsTiles v (t.modRun e f) := State.keepsTiles_of_same (by simp)
  have ended (t : State) : t.keepsTiles v ((t.dropManifests e).endRun e) := State.keepsTiles_of_same (by simp)
  exact (((uncopied.trans (State.keepsTiles_dropEntryLoops hs _ e)).trans (marked _ _)).trans
    (State.keepsTiles_dropSeals hk _ e)).trans (ended _)

theorem State.keepsTiles_dropGone (s : State) : s.keepsTiles v s.dropGone :=
  State.keepsTiles_foldl (fun s e => State.keepsTiles_dropRun hk hs s e) _ s

end

/-! ### Fold (R453, R456) -/

theorem State.tile_unbindRegion (s : State) (r : Nat) {k : Nat} (free : (s.tile k).state ≠ .bound) :
    (s.unbindRegion r).tile k = s.tile k := by
  unfold State.unbindRegion
  refine List.foldlRecOn (motive := fun w : State => w.tile k = s.tile k) (List.range 256) _ rfl fun w ih id _ => ?_
  split
  next bound =>
    rw [tile_modTile_other w (fun same : k = id => free (ih ▸ same ▸ bound.2)), ih]
  · exact ih

/-- R456: the Fold's own writes to its region. -/
def Region.folded (g : Region) (trigger : Nat) : Region :=
  { g with leapWait := none, leapRetire := false, state := .folding, foldWait := none, outCause := if trigger = 1 then 3 else 2 }

theorem State.region_abandonLeap (s : State) (r : Nat) :
    (s.abandonLeap r).region r = { s.region r with leapWait := none, leapRetire := false } := by
  have ends (w : State) (x y : Nat) : (w.finishAdmin x y).region r = w.region r := State.region_of_regions (by simp) r
  unfold State.abandonLeap
  dsimp only
  split
  next r' _ =>
    by_cases mine : r' = r
    · rw [if_pos mine, ends, region_modRegion]
    · rw [if_neg mine, region_modRegion]
  · rw [region_modRegion]

theorem State.region_beginFold {α : Type} {v : Region → α} (hv : ∀ g b, v { g with spill := b } = v g)
    (hb : ∀ g b, v { g with sealBusy := b } = v g) (s : State) (r trigger cause : Nat) :
    v ((s.beginFold r trigger cause).region r) = v ((s.region r).folded trigger) := by
  have recorded (t : State) (f : Sil → Sil) :
      t.keepsRegions v ((((t.modSil f).faultRecord 0x0104 3 r cause (leBytes 1 trigger)).unbindRegion r).markRuns (fun _ => true)
        fun x => { x with folded := true }).shiftUpdate := State.keepsRegions_of_same (by simp)
  have rehomed (t : State) : t.keepsRegions v (t.rehomeSeals r) := State.keepsRegions_of_same (by simp)
  refine (((((recorded _ _).trans (State.keepsRegions_dropGone hv hb _)).trans (rehomed _)).trans
    (State.keepsRegions_restartRegion hv _ r)) r).trans (congrArg v ?_)
  rw [region_modRegion, region_abandonLeap]
  rfl

theorem State.tile_beginFold {α : Type} {v : Tile → α} (hk : ∀ t k, v { t with keys := k } = v t)
    (hs : ∀ t x, v { t with seq := x } = v t) (s : State) (r trigger cause : Nat) {k : Nat} (free : (s.tile k).state ≠ .bound) :
    v ((s.beginFold r trigger cause).tile k) = v (s.tile k) := by
  let g : Region → Region := fun g => { g with state := .folding, foldWait := none, outCause := if trigger = 1 then 3 else 2 }
  have begun (f : Sil → Sil) (k : Nat) :
      ((((s.abandonLeap r).modRegion r g).modSil f).faultRecord 0x0104 3 r cause (leBytes 1 trigger)).tile k = s.tile k :=
    State.tile_of_tiles (by simp) k
  have counted (t : State) : t.keepsTiles v (t.markRuns (fun _ => true) fun x => { x with folded := true }).shiftUpdate :=
    State.keepsTiles_of_same (by simp)
  have moved (t : State) : t.keepsTiles v ((t.rehomeSeals r).restartRegion r) := State.keepsTiles_of_same (by simp)
  refine ((((counted _).trans (State.keepsTiles_dropGone hk hs _)).trans (moved _)) k).trans (congrArg v ?_)
  exact (State.tile_unbindRegion _ r (by rw [begun]; exact free)).trans (begun _ k)

theorem State.fold_of_mayFold {s : State} {r : Nat} (may : s.mayFold r) (trigger cause : Nat) :
    s.fold r trigger cause = s.beginFold r trigger cause := by
  obtain ⟨serves, runs, few, room, awake⟩ := may
  unfold State.fold
  rw [if_neg (by simp [serves]), if_neg (by simp [runs]), if_neg (by omega), if_neg (by omega), if_neg fun basks => awake basks.1]

theorem State.mayFold_congr {s w : State} (h : s.keepsRegions (fun g => (g.test, g.state)) w) (steward : w.stw = s.stw)
    (phase : w.pwr.phase = s.pwr.phase) (r : Nat) : w.mayFold r ↔ s.mayFold r := by
  have test (k : Nat) : (w.region k).test = (s.region k).test := congrArg Prod.fst (h k)
  have state (k : Nat) : (w.region k).state = (s.region k).state := congrArg Prod.snd (h k)
  have out : w.isOut = s.isOut := funext fun k => by unfold State.isOut; rw [test, state]
  unfold State.mayFold State.inService State.foldingCount State.outCount
  simp only [test, state, out, steward, phase]

/-! ### Records leave PWR_STAT as it is: no record triggers a power flush (R476) -/

theorem State.issueFlush_pwr (s : State) {trigger : Nat} (power : trigger ≠ 2) : (s.issueFlush trigger).pwr = s.pwr := by
  obtain ⟨e, closed⟩ := State.foldl_modChan_eq (fun s => closeTaken s.now) clearable s
  unfold State.issueFlush
  split
  · rfl
  split
  · rfl
  · simp [closed]

theorem State.triggerFlush_pwr (s : State) {trigger : Nat} (power : trigger ≠ 2) : (s.triggerFlush trigger).pwr = s.pwr := by
  unfold State.triggerFlush
  split
  · rfl
  · exact s.issueFlush_pwr power

theorem State.recordTriggers_pwr (s : State) (c severity : Nat) (before : Bool) :
    (s.recordTriggers c severity before).pwr = s.pwr := by
  have faults {fires : Prop} {d : Decidable fires} (f : Erw → Erw) :
      (if fires then (s.modErw f).triggerFlush 1 else s).pwr = s.pwr := by
    split
    · exact State.triggerFlush_pwr (s.modErw f) (by decide)
    · rfl
  have full (t : State) {fires : Prop} {d : Decidable fires} : (if fires then t.triggerFlush 3 else t).pwr = t.pwr := by
    split
    · exact t.triggerFlush_pwr (by decide)
    · rfl
  exact (full _).trans (faults _)

theorem State.record_pwr (s : State) (c code severity : Nat) (payload : Bytes) : (s.record c code severity payload).pwr = s.pwr := by
  have put : (s.putRecord c code severity payload).pwr = s.pwr := (by simp : Part.pwr.same s (s.putRecord c code severity payload))
  unfold State.record
  dsimp only
  split
  · exact put
  · exact (State.recordTriggers_pwr ..).trans put

/-! ### Marks (R450) -/

/-- R450: what TILE_MARK writes to its tile, whose Moult may fail. -/
def Tile.markedBy (t : Tile) (cause : Nat) (ok : Bool) : Tile :=
  { t with state := .marked, leapIn := false, cause := if ok then cause else 8, retried := false, residue := false,
           keys := [], gather := [], seq := {}, sramOff := !ok || t.sramOff }

/-- The state of TILE_MARK before what follows the mark. -/
def State.marked (s : State) (id cause : Nat) (ok : Bool) : State :=
  let r := tileRegion id
  let s := s.modTile id fun t => { t with state := .marked, leapIn := false, cause := cause, retried := false, residue := false, keys := [], gather := [], seq := {} }
  let s := s.modSil fun x => { x with actFailed := x.actFailed || x.activating }
  let s := s.regionFault r 0
  let s := if tileKind id = 1 ∧ (cause = 1 ∨ cause = 2) then s.modRegion r fun g => { g with sealMarked := g.sealMarked.add 8 1 s.now } else s
  (s.faultRecord 0x0101 3 r cause (leBytes 1 id)).tileMoult id ok

theorem State.markTile_usable {s : State} {id : Nat} (usable : s.tileUsable id = true) (cause : Nat) (ok : Bool) :
    s.markTile id cause ok = (s.marked id cause ok).afterMark id ((s.tile id).state == .bound) cause := by
  unfold State.markTile
  exact if_neg (by simp [usable])

theorem State.tile_faultRecord (s : State) (code severity region cause : Nat) (more : Bytes) (k : Nat) :
    (s.faultRecord code severity region cause more).tile k = s.tile k := State.tile_of_tiles (by simp) k

theorem State.tile_tileMoult (s : State) (id : Nat) (ok : Bool) :
    (s.tileMoult id ok).tile id = if ok then s.tile id else { s.tile id with sramOff := true, cause := 8 } := by
  cases ok
  · exact (State.tile_faultRecord ..).trans (tile_modTile s id _)
  · rfl

theorem State.tile_tileMoult_other (s : State) {id k : Nat} (ne : k ≠ id) (ok : Bool) : (s.tileMoult id ok).tile k = s.tile k := by
  cases ok
  · exact (State.tile_faultRecord ..).trans (tile_modTile_other s ne _)
  · rfl

theorem State.tile_marked (s : State) (id cause : Nat) (ok : Bool) :
    (s.marked id cause ok).tile id = (s.tile id).markedBy cause ok := by
  have counted (t : State) (c : Prop) [Decidable c] (f : Sil → Sil) (g : Region → Region) (b : Bytes) :
      ((if c then ((t.modSil f).regionFault (tileRegion id) 0).modRegion (tileRegion id) g
        else (t.modSil f).regionFault (tileRegion id) 0).faultRecord 0x0101 3 (tileRegion id) cause b).tile id = t.tile id :=
    State.tile_of_tiles (by simp) id
  unfold State.marked
  dsimp only
  rw [tile_tileMoult, counted, tile_modTile]
  cases ok <;> rfl

theorem State.tile_marked_other (s : State) {id k : Nat} (ne : k ≠ id) (cause : Nat) (ok : Bool) :
    (s.marked id cause ok).tile k = s.tile k := by
  have counted (t : State) (c : Prop) [Decidable c] (f : Sil → Sil) (g : Region → Region) (b : Bytes) :
      ((if c then ((t.modSil f).regionFault (tileRegion id) 0).modRegion (tileRegion id) g
        else (t.modSil f).regionFault (tileRegion id) 0).faultRecord 0x0101 3 (tileRegion id) cause b).tile k = t.tile k :=
    State.tile_of_tiles (by simp) k
  unfold State.marked
  dsimp only
  rw [tile_tileMoult_other _ ne, counted, tile_modTile_other s ne]

theorem State.region_marked (s : State) (id cause : Nat) (ok : Bool) (k : Nat) :
    (s.marked id cause ok).region k = if k = tileRegion id then
      { s.region k with
        fault := (s.region k).fault.set 0 s.now
        sealMarked := if tileKind id = 1 ∧ (cause = 1 ∨ cause = 2) then (s.region k).sealMarked.add 8 1 s.now
          else (s.region k).sealMarked }
    else s.region k := by
  have moulted (t : State) (b : Bytes) : ((t.faultRecord 0x0101 3 (tileRegion id) cause b).tileMoult id ok).region k = t.region k :=
    State.region_of_regions (by simp) k
  unfold State.marked
  dsimp only
  rw [moulted]
  have begun (f : Tile → Tile) (g : Sil → Sil) : ((s.modTile id f).modSil g).region k = s.region k :=
    State.region_of_regions (by simp) k
  by_cases mine : k = tileRegion id
  · subst mine
    rw [if_pos rfl]
    split <;> simp only [State.regionFault, region_modRegion, begun] <;> rfl
  · rw [if_neg mine]
    split <;> simp only [State.regionFault, region_modRegion_other _ mine, begun]

/-! ### Leapfrog (R451) -/

/-- The spare of a tile's kind in its region. -/
def spareOf (id : Nat) : Nat := tileId (tileKind id) (tileRegion id) 8

theorem State.region_beginLeap (s : State) (id : Nat) (retire : Bool) :
    let g := (s.beginLeap id retire).region (tileRegion id)
    g.state = .leaping ∧ g.leapFrom = BitVec.ofNat 8 id ∧ g.leapTo = BitVec.ofNat 8 (spareOf id) := by
  unfold State.beginLeap
  dsimp only
  rw [region_modRegion]
  exact ⟨rfl, rfl, rfl⟩

theorem State.tile_beginLeap (s : State) (id : Nat) (retire : Bool) (k : Nat) :
    (s.beginLeap id retire).tile k =
      (((s.markRedone id).modTile (spareOf id) fun t =>
        { t with state := .bound, leapIn := true, role := (s.tile id).role, lslot := (s.tile id).lslot, keys := [], gather := [] }).modTile
          id fun t => { t with role := 0, lslot := 0, keys := [], gather := [], seq := {} }).tile k := by
  have moved (t : State) (f : Sil → Sil) (a b : Nat) (g : Region → Region) :
      (((t.modSil f).restartTile a b).modRegion (tileRegion id) g).tile k = t.tile k := State.tile_of_tiles (by simp) k
  exact moved ..

theorem State.tile_markRedone (s : State) (id k : Nat) : (s.markRedone id).tile k = s.tile k := State.tile_of_tiles (by simp) k

/-- R451: the spare takes the role and the logical slot of a tile that keeps its state. -/
theorem State.beginLeap_tiles (s : State) {id : Nat} (ne : id ≠ spareOf id) (retire : Bool) :
    let w := s.beginLeap id retire
    (w.tile id).state = (s.tile id).state ∧ (w.tile id).cause = (s.tile id).cause ∧
      (w.tile (spareOf id)).state = .bound ∧ (w.tile (spareOf id)).leapIn = true ∧
      (w.tile (spareOf id)).role = (s.tile id).role ∧ (w.tile (spareOf id)).lslot = (s.tile id).lslot := by
  intro w
  have own : w.tile id = { s.tile id with role := 0, lslot := 0, keys := [], gather := [], seq := {} } := by
    rw [tile_beginLeap, tile_modTile, tile_modTile_other _ ne, tile_markRedone]
  have spare : w.tile (spareOf id) = { s.tile (spareOf id) with
      state := .bound, leapIn := true, role := (s.tile id).role, lslot := (s.tile id).lslot, keys := [], gather := [] } := by
    rw [tile_beginLeap, tile_modTile_other _ ne.symm, tile_modTile, tile_markRedone]
  rw [own, spare]
  exact ⟨rfl, rfl, rfl, rfl, rfl, rfl⟩

theorem spareOf_byte (id : BitVec 8) : (BitVec.ofNat 8 (spareOf id.toNat)).toNat = spareOf id.toNat := by
  have small := id.isLt
  simp only [BitVec.toNat_ofNat, spareOf, tileId, tileKind, tileRegion]
  omega

/-! ### What follows a mark (R451, R453) -/

section
variable {s : State} {id : Nat}

theorem State.afterMark_unbound (still : (s.region (tileRegion id)).state ≠ .leaping)
    (noWait : (s.region (tileRegion id)).leapWait = none) (spare : (s.tile (spareOf id)).state = .spare ∨ id = spareOf id)
    (cause : Nat) : s.afterMark id false cause = s := by
  unfold State.afterMark
  exact (if_neg (by simp [still, noWait])).trans (if_pos ⟨rfl, spare⟩)

theorem State.afterMark_leaps (still : (s.region (tileRegion id)).state ≠ .leaping)
    (noWait : (s.region (tileRegion id)).leapWait = none) (spare : (s.tile (spareOf id)).state = .spare)
    (runs : s.stw.restarting = false) (cause : Nat) : s.afterMark id true cause = s.beginLeap id false := by
  unfold State.afterMark
  exact (if_neg (by simp [still, noWait])).trans ((if_neg (by simp)).trans ((if_pos spare).trans (if_neg (by simp [runs]))))

theorem State.afterMark_noSpare {wasBound : Bool} (still : (s.region (tileRegion id)).state ≠ .leaping)
    (noWait : (s.region (tileRegion id)).leapWait = none) (used : (s.tile (spareOf id)).state ≠ .spare)
    (hands : wasBound = true ∨ id ≠ spareOf id) (cause : Nat) : s.afterMark id wasBound cause = s.fold (tileRegion id) 0 cause := by
  unfold State.afterMark
  refine (if_neg (by simp [still, noWait])).trans ((if_neg ?_).trans (if_neg used))
  rintro ⟨unbound, spare | spare⟩
  · exact used spare
  · rcases hands with bound | other
    · simp [unbound] at bound
    · exact other spare

theorem State.afterMark_leaping (leaps : (s.region (tileRegion id)).state = .leaping) (wasBound : Bool) (cause : Nat) :
    s.afterMark id wasBound cause = s.fold (tileRegion id) 0 cause := by
  unfold State.afterMark
  exact if_pos (Or.inl leaps)

end

section
variable {u : State} {id : Nat} (usable : u.tileUsable id = true) (cause : Nat) (ok : Bool)

theorem State.marked_spare (ne : id ≠ spareOf id) : (u.marked id cause ok).tile (spareOf id) = u.tile (spareOf id) :=
  State.tile_marked_other u ne.symm cause ok

theorem State.marked_region_view (k : Nat) : ((u.marked id cause ok).region k).state = (u.region k).state ∧
    ((u.marked id cause ok).region k).leapWait = (u.region k).leapWait ∧
    ((u.marked id cause ok).region k).test = (u.region k).test := by
  rw [State.region_marked]
  split <;> exact ⟨rfl, rfl, rfl⟩

theorem State.marked_stw : (u.marked id cause ok).stw = u.stw := by
  have counted (t : State) (c : Prop) [Decidable c] (f : Tile → Tile) (h : Sil → Sil) (g : Region → Region) (b : Bytes) :
      Part.stw.same t (((if c then (((t.modTile id f).modSil h).regionFault (tileRegion id) 0).modRegion (tileRegion id) g
        else ((t.modTile id f).modSil h).regionFault (tileRegion id) 0).faultRecord 0x0101 3 (tileRegion id) cause b).tileMoult id ok) := by
    simp
  exact counted ..

theorem State.marked_phase : (u.marked id cause ok).pwr.phase = u.pwr.phase := by
  have begun (t : State) (c : Prop) [Decidable c] (f : Tile → Tile) (h : Sil → Sil) (g : Region → Region) :
      Part.pwr.same t (if c then (((t.modTile id f).modSil h).regionFault (tileRegion id) 0).modRegion (tileRegion id) g
        else ((t.modTile id f).modSil h).regionFault (tileRegion id) 0) := by
    simp
  have moulted (t : State) : (t.tileMoult id ok).pwr.phase = t.pwr.phase := by
    cases ok
    · exact congrArg Pwr.phase (State.record_pwr ..)
    · rfl
  unfold State.marked
  exact (moulted _).trans (congrArg Pwr.phase ((State.record_pwr ..).trans (begun ..)))

theorem State.marked_mayFold (r : Nat) : (u.marked id cause ok).mayFold r ↔ u.mayFold r := by
  refine State.mayFold_congr (fun k => ?_) (State.marked_stw cause ok) (State.marked_phase cause ok) r
  obtain ⟨state, -, test⟩ := State.marked_region_view (u := u) (id := id) cause ok k
  exact Prod.ext test state

end

/-! ### Faults of a tile (R447 to R453, R329) -/

theorem State.region_stallClock (s : State) (k : Nat) : s.stallClock.region k = s.region k := State.region_of_regions (by simp) k

theorem State.tile_stallClock (s : State) (k : Nat) : s.stallClock.tile k = s.tile k := State.tile_of_tiles (by simp) k

theorem exec_sramError_single {s u : State} {t : Nat} {id : BitVec 8} (h : s.actsAt t u) (usable : u.tileUsable id.toNat = true)
    (ok : Bool) : exec (.sramError t id .single ok) s =
      .next (u.modTile id.toNat fun x => { x with ce := x.ce.add 16 1 u.now }).stallClock.intPoll := by
  have run : exec (.sramError t id .single ok) s = .next (if !u.tileUsable id.toNat then u
      else u.modTile id.toNat fun x => { x with ce := x.ce.add 16 1 u.now }).stallClock.intPoll :=
    actStalls_of_acts h fun s => if !s.tileUsable id.toNat then s else s.modTile id.toNat fun x => { x with ce := x.ce.add 16 1 s.now }
  rw [run, if_neg (by simp [usable])]

/-- The rows whose fault marks the tile, each with its cause. -/
def markRows (t : Nat) (id : BitVec 8) (ok : Bool) : List (Nat × Instr) :=
  [(1, .sramError t id .double ok), (3, .laneParityError t id ok), (6, .generatorParityError t ⟨.sTile id, ok⟩)]

theorem exec_markRows {s u : State} {t : Nat} {id : BitVec 8} {ok : Bool} (h : s.actsAt t u)
    (usable : u.tileUsable id.toNat = true) {c : Nat × Instr} (row : c ∈ markRows t id ok)
    (sTile : c.1 = 6 → tileKind id.toNat = 1) : exec c.2 s = .next (u.markTile id.toNat c.1 ok).stallClock.intPoll := by
  simp only [markRows, List.mem_cons, List.not_mem_nil, or_false] at row
  rcases row with rfl | rfl | rfl
  · have run : exec (.sramError t id .double ok) s = .next (if !u.tileUsable id.toNat then u
        else u.markTile id.toNat 1 ok).stallClock.intPoll :=
      actStalls_of_acts h fun s => if !s.tileUsable id.toNat then s else s.markTile id.toNat 1 ok
    rw [run, if_neg (by simp [usable])]
  · exact actStalls_of_acts h fun s => s.markTile id.toNat 3 ok
  · have run : exec (.generatorParityError t ⟨.sTile id, ok⟩) s = .next (if tileKind id.toNat = 1 then u.markTile id.toNat 6 ok
        else u).stallClock.intPoll :=
      actStalls_of_acts h fun s => if tileKind id.toNat = 1 then s.markTile id.toNat 6 ok else s
    rw [run, if_pos (sTile rfl)]

section
variable {u : State} {id : Nat} (usable : u.tileUsable id = true) (cause : Nat) (ok : Bool)
include usable

theorem State.markTile_unbound (unbound : (u.tile id).state ≠ .bound) (still : (u.region (tileRegion id)).state ≠ .leaping)
    (noWait : (u.region (tileRegion id)).leapWait = none) (spare : (u.tile (spareOf id)).state = .spare ∨ id = spareOf id) :
    u.markTile id cause ok = u.marked id cause ok := by
  obtain ⟨state, wait, -⟩ := State.marked_region_view (u := u) (id := id) cause ok (tileRegion id)
  rw [State.markTile_usable usable, beq_eq_false_iff_ne.mpr unbound]
  refine State.afterMark_unbound (state ▸ still) (wait.trans noWait) ?_ cause
  by_cases own : id = spareOf id
  · exact Or.inr own
  · exact Or.inl ((congrArg Tile.state (State.marked_spare cause ok own)).trans (spare.resolve_right own))

theorem State.markTile_leaps (bound : (u.tile id).state = .bound) (still : (u.region (tileRegion id)).state ≠ .leaping)
    (noWait : (u.region (tileRegion id)).leapWait = none) (ne : id ≠ spareOf id) (spare : (u.tile (spareOf id)).state = .spare)
    (runs : u.stw.restarting = false) : u.markTile id cause ok = (u.marked id cause ok).beginLeap id false := by
  obtain ⟨state, wait, -⟩ := State.marked_region_view (u := u) (id := id) cause ok (tileRegion id)
  rw [State.markTile_usable usable, beq_iff_eq.mpr bound]
  exact State.afterMark_leaps (state ▸ still) (wait.trans noWait)
    ((congrArg Tile.state (State.marked_spare cause ok ne)).trans spare) ((congrArg Stw.restarting (State.marked_stw cause ok)).trans runs) cause

theorem State.markTile_noSpare (hands : (u.tile id).state = .bound ∨ id ≠ spareOf id)
    (still : (u.region (tileRegion id)).state ≠ .leaping) (noWait : (u.region (tileRegion id)).leapWait = none)
    (used : (u.tile (spareOf id)).state ≠ .spare) (may : u.mayFold (tileRegion id)) :
    u.markTile id cause ok = (u.marked id cause ok).beginFold (tileRegion id) 0 cause := by
  obtain ⟨state, wait, -⟩ := State.marked_region_view (u := u) (id := id) cause ok (tileRegion id)
  have usedStill : ((u.marked id cause ok).tile (spareOf id)).state ≠ .spare := by
    by_cases own : id = spareOf id
    · rw [← own, State.tile_marked]
      exact TileState.noConfusion
    · rwa [State.marked_spare cause ok own]
  rw [State.markTile_usable usable,
    State.afterMark_noSpare (state ▸ still) (wait.trans noWait) usedStill (hands.imp_left beq_iff_eq.mpr)]
  exact State.fold_of_mayFold ((State.marked_mayFold cause ok _).mpr may) 0 cause

theorem State.markTile_leaping (leaps : (u.region (tileRegion id)).state = .leaping) (may : u.mayFold (tileRegion id)) :
    u.markTile id cause ok = (u.marked id cause ok).beginFold (tileRegion id) 0 cause := by
  obtain ⟨state, -, -⟩ := State.marked_region_view (u := u) (id := id) cause ok (tileRegion id)
  rw [State.markTile_usable usable, State.afterMark_leaping (state.trans leaps)]
  exact State.fold_of_mayFold ((State.marked_mayFold cause ok _).mpr may) 0 cause

end

theorem State.beginFold_folding (s : State) (r trigger cause : Nat) :
    ((s.beginFold r trigger cause).region r).state = .folding ∧ ((s.beginFold r trigger cause).region r).leapWait = none ∧
      ((s.beginFold r trigger cause).region r).outCause = if trigger = 1 then 3 else 2 := by
  have folded := State.region_beginFold (v := fun g : Region => (g.state, g.leapWait, g.outCause)) (fun _ _ => rfl)
    (fun _ _ => rfl) s r trigger cause
  simpa [Region.folded] using folded

/-! ### The one retry of a tile's unit (R448, R449) -/

theorem State.retryTile_first {s : State} {id : Nat} (first : (s.tile id).retried = false) (cause : Nat) (ok : Bool) :
    let w := s.retryTile id cause ok
    (w.tile id = { s.tile id with retried := true, retry := (s.tile id).retry.add 4 1 s.now, seq := {} }) ∧
      ∀ b, s.keepsRegions (fun g => { g with spill := b }) w := by
  intro w
  let counted := s.modTile id fun x => { x with retried := true, retry := x.retry.add 4 1 s.now }
  let role := (s.tile id).role
  have retries : w = (((counted.dropLoops id).markRedone id).restartTile id id).faultRecord 0x0102 3 (tileRegion id) cause
      (leBytes 1 id ++ leBytes 1 role) := by
    show s.retryTile id cause ok = _
    unfold State.retryTile
    exact if_neg (by simp [first])
  rw [retries]
  constructor
  · rw [State.tile_of_tiles (by simp : Part.tiles.same (counted.dropLoops id) _) id]
    unfold State.dropLoops
    rw [tile_modTile, tile_modTile]
  · intro b
    have begun : Part.regions.same s ((counted.dropLoops id).markRedone id) := by simp [counted]
    have recorded (t : State) (code sev r c : Nat) (more : Bytes) : Part.regions.same t (t.faultRecord code sev r c more) := by simp
    exact ((State.keepsRegions_of_same begun).trans (State.keepsRegions_restartTile (fun _ _ => rfl) _ id id)).trans
      (State.keepsRegions_of_same (recorded ..))

theorem State.retryTile_second {s : State} {id : Nat} (second : (s.tile id).retried = true) (cause : Nat) (ok : Bool) :
    s.retryTile id cause ok = s.markTile id cause ok := by
  unfold State.retryTile
  exact if_pos second

theorem exec_microcodeEccError {s u : State} {t : Nat} {id : BitVec 8} (h : s.actsAt t u)
    (bound : (u.tile id.toNat).state = .bound) (ok : Bool) :
    exec (.microcodeEccError t ⟨id, ok⟩) s = .next (u.retryTile id.toNat 5 ok).stallClock.intPoll := by
  have run : exec (.microcodeEccError t ⟨id, ok⟩) s =
      .next (if (u.tile id.toNat).state ≠ .bound then u else u.retryTile id.toNat 5 ok).stallClock.intPoll :=
    actStalls_of_acts h fun s => if (s.tile id.toNat).state ≠ .bound then s else s.retryTile id.toNat 5 ok
  rw [run, if_neg (not_not.mpr bound)]

/-- R449: the watchdog's expiry counts in the tile's status block. -/
def State.wdCounted (s : State) (id : Nat) : State := s.modTile id fun x => { x with wd := x.wd.add 4 1 s.now }

theorem exec_sequencerWatchdogExpiry {s u : State} {t : Nat} {id : BitVec 8} (h : s.actsAt t u)
    (bound : (u.tile id.toNat).state = .bound) (ok : Bool) :
    exec (.sequencerWatchdogExpiry t ⟨id, ok⟩) s = .next ((u.wdCounted id.toNat).retryTile id.toNat 4 ok).stallClock.intPoll := by
  have run : exec (.sequencerWatchdogExpiry t ⟨id, ok⟩) s =
      .next (if (u.tile id.toNat).state ≠ .bound then u else (u.wdCounted id.toNat).retryTile id.toNat 4 ok).stallClock.intPoll :=
    actStalls_of_acts h fun s =>
      if (s.tile id.toNat).state ≠ .bound then s else (s.wdCounted id.toNat).retryTile id.toNat 4 ok
  rw [run, if_neg (not_not.mpr bound)]

theorem State.tile_wdCounted (s : State) (id : Nat) :
    (s.wdCounted id).tile id = { s.tile id with wd := (s.tile id).wd.add 4 1 s.now } := tile_modTile s id _

theorem State.wdCounted_state (s : State) (id : Nat) : s.keepsTiles Tile.state (s.wdCounted id) := by
  unfold State.wdCounted
  refine State.keepsTiles_modTile ?_ s id
  exact fun _ => rfl

/-- R449, R453: the second fault of a bound tile in one unit marks it, and its region folds where no spare is left. -/
theorem State.retryTile_folds {u : State} {id : Nat} (bound : (u.tile id).state = .bound) (second : (u.tile id).retried = true)
    (still : (u.region (tileRegion id)).state ≠ .leaping) (noWait : (u.region (tileRegion id)).leapWait = none)
    (used : (u.tile (spareOf id)).state ≠ .spare) (may : u.mayFold (tileRegion id)) (cause : Nat) (ok : Bool) :
    let w := u.retryTile id cause ok
    (w.tile id).state = .marked ∧ (w.region (tileRegion id)).state = .folding := by
  have usable : u.tileUsable id = true := by simp [State.tileUsable, bound]
  intro w
  have folds : w = (u.marked id cause ok).beginFold (tileRegion id) 0 cause :=
    (State.retryTile_second second cause ok).trans (State.markTile_noSpare usable cause ok (Or.inl bound) still noWait used may)
  rw [folds]
  refine ⟨?_, (State.beginFold_folding ..).1⟩
  refine (State.tile_beginFold (v := Tile.state) (fun _ _ => rfl) (fun _ _ => rfl) _ _ 0 cause ?_).trans ?_ <;>
    rw [State.tile_marked]
  · exact TileState.noConfusion
  · rfl

/-! ### The end of a Leapfrog (R451) -/

theorem State.keepsRegions_spareFlags {α : Type} {v : Region → α} (hf : ∀ g a b, v { g with spareM := a, spareS := b } = v g)
    (s : State) : s.keepsRegions v s.spareFlags := by
  unfold State.spareFlags
  exact State.keepsRegions_foldl (fun (s : State) (r : Nat) => State.keepsRegions_modRegion (fun g => hf g _ _) s r) regionNumbers s

/-- LEAPFROG_DONE before it completes the command that waits. -/
def State.leapEnds (s : State) (r : Nat) : State :=
  let g := s.region r
  let src := g.leapFrom.toNat
  let dst := g.leapTo.toNat
  let s := s.modTile dst fun t => { t with leapIn := false }
  let s := s.modRegion r fun g => { g with state := .inService, leapRetire := false }
  let s := s.spareFlags.regionFault r 1
  let s := s.faultRecord 0x0103 3 r (s.tile src).cause (leBytes 1 src ++ leBytes 1 dst)
  if g.leapRetire then s.faultRecord 0x0108 3 r 7 (leBytes 1 src) else s

/-- R451: the TILE_RETIRE that waits for the region's Leapfrog completes. -/
def State.leapFinish (s : State) (r : Nat) : State :=
  match s.waiting with
  | some (.leapfrog r') => if r' = r then s.finishAdmin 0 0 else s
  | _ => s

theorem State.leapDone_leaping {s : State} {r : Nat} (leaps : (s.region r).state = .leaping) (runs : s.stw.restarting = false) :
    s.leapDone r = (s.leapEnds r).leapFinish r := by
  have ends : s.leapDone r = if (s.region r).state ≠ .leaping ∨ s.stw.restarting = true then s else (s.leapEnds r).leapFinish r := rfl
  rw [ends, if_neg (by simp [leaps, runs])]

theorem State.leapEnds_facts (s : State) (r : Nat) :
    let w := s.leapEnds r
    (w.region r).state = .inService ∧ (w.region r).fault = (s.region r).fault.set 1 s.now ∧
      (w.tile (s.region r).leapTo.toNat).leapIn = false ∧ w.qg = s.qg ∧ w.stw = s.stw := by
  intro w
  let dst := (s.region r).leapTo.toNat
  let begun := (s.modTile dst fun t => { t with leapIn := false }).modRegion r fun g => { g with state := .inService, leapRetire := false }
  have records {retires : Prop} {d : Decidable retires} {π : Part} (apart : π ∉ [Part.pwr, .erw]) (t : State) (c c' : Nat)
      (b b' : Bytes) : π.same t (if retires then (t.faultRecord 0x0103 3 r c b).faultRecord 0x0108 3 r c' b'
        else t.faultRecord 0x0103 3 r c b) := by
    split <;> simp [apart]
  have flags : begun.keepsRegions (fun g => (g.state, g.fault)) begun.spareFlags :=
    State.keepsRegions_spareFlags (fun _ _ _ => rfl) begun
  have clock : begun.spareFlags.now = s.now :=
    congrArg (fun t : Time => t.gcnt) (by simp [begun] : Part.time.same s begun.spareFlags)
  have region : w.region r =
      { begun.spareFlags.region r with fault := (begun.spareFlags.region r).fault.set 1 begun.spareFlags.now } :=
    (State.region_of_regions (records (by simp) _ _ _ _ _) r).trans (region_modRegion _ r _)
  have own : begun.region r = { s.region r with state := .inService, leapRetire := false } := region_modRegion _ r _
  have view := flags r
  rw [own] at view
  have tile : w.tile dst = { s.tile dst with leapIn := false } := by
    refine (State.tile_of_tiles (records (by simp) _ _ _ _ _) dst).trans ?_
    exact (State.tile_of_tiles (by simp : Part.tiles.same begun (begun.spareFlags.regionFault r 1)) dst).trans
      (tile_modTile s dst fun t => { t with leapIn := false })
  refine ⟨?_, ?_, congrArg Tile.leapIn tile, ?_, ?_⟩
  · rw [region]
    exact congrArg Prod.fst view
  · rw [region, clock]
    exact congrArg (fun f : W1c 5 => f.set 1 s.now) (congrArg Prod.snd view)
  · exact (records (π := .qg) (by simp) _ _ _ _ _).trans (by simp [begun] : Part.qg.same s (begun.spareFlags.regionFault r 1))
  · exact (records (π := .stw) (by simp) _ _ _ _ _).trans (by simp [begun] : Part.stw.same s (begun.spareFlags.regionFault r 1))

theorem State.leapFinish_keeps (s : State) (r k : Nat) :
    (s.leapFinish r).region k = s.region k ∧ (s.leapFinish r).tile k = s.tile k := by
  have ends {π : Part} (apart : π ∉ [Part.pke, .qg]) : π.same s (s.leapFinish r) := by
    simp only [List.mem_cons, not_or] at apart
    unfold State.leapFinish
    repeat' split
    all_goals simp [apart]
  exact ⟨State.region_of_regions (ends (by simp)) k, State.tile_of_tiles (ends (by simp)) k⟩

theorem State.leapFinish_waits {s : State} {r : Nat} {b : Bytes} (waits : s.qg.run = some ⟨b, .leapfrog r⟩)
    (runs : s.stw.restarting = false) : (s.leapFinish r).qg.run = none ∧ (s.leapFinish r).qg.due = s.qg.due ++ [complOf b 0 0] := by
  have finishes : s.leapFinish r = s.finishAdmin 0 0 := by
    simp [State.leapFinish, State.waiting, waits]
  rw [finishes, State.finishAdmin_run waits runs]
  exact ⟨rfl, rfl⟩

theorem exec_leapfrogDone {s u : State} {t : Nat} {r : BitVec 3} (h : s.actsAt t u) (leaps : (u.region r.toNat).state = .leaping)
    (runs : u.stw.restarting = false) :
    exec (.leapfrogDone t r) s = .next ((u.leapEnds r.toNat).leapFinish r.toNat).intPoll := by
  have run : exec (.leapfrogDone t r) s = .next (u.leapDone r.toNat).intPoll := act_of_acts h fun s => s.leapDone r.toNat
  rw [run, State.leapDone_leaping leaps runs]

section
variable {s u : State} {t : Nat} {id : BitVec 8} {ok : Bool} (h : s.actsAt t u) (usable : u.tileUsable id.toNat = true)
  {c : Nat × Instr} (row : c ∈ markRows t id ok) (sTile : c.1 = 6 → tileKind id.toNat = 1)
include h usable row sTile

theorem mark_of_unbound (unbound : (u.tile id.toNat).state ≠ .bound) (still : (u.region (tileRegion id.toNat)).state ≠ .leaping)
    (noWait : (u.region (tileRegion id.toNat)).leapWait = none)
    (spare : (u.tile (spareOf id.toNat)).state = .spare ∨ id.toNat = spareOf id.toNat) :
    ∃ w : State, exec c.2 s = .next w.intPoll ∧ (w.tile id.toNat).state = .marked ∧
      (w.tile id.toNat).cause = (if ok then c.1 else 8) ∧ (w.tile id.toNat).keys = [] ∧
      (w.tile id.toNat).seq = {} ∧ (w.tile id.toNat).sramOff = (!ok || (u.tile id.toNat).sramOff) ∧
      (w.region (tileRegion id.toNat)).fault = (u.region (tileRegion id.toNat)).fault.set 0 u.now ∧
      (w.region (tileRegion id.toNat)).state = (u.region (tileRegion id.toNat)).state ∧
      (∀ k, k ≠ id.toNat → w.tile k = u.tile k) := by
  have run := exec_markRows h usable row sTile
  rw [State.markTile_unbound usable c.1 ok unbound still noWait spare] at run
  have own := State.tile_marked u id.toNat c.1 ok
  have region := State.region_marked u id.toNat c.1 ok (tileRegion id.toNat)
  rw [if_pos rfl] at region
  refine ⟨_, run, ?_⟩
  simp only [State.tile_stallClock, State.region_stallClock, own, region]
  exact ⟨rfl, rfl, rfl, rfl, rfl, trivial, trivial, fun k ne => State.tile_marked_other u ne c.1 ok⟩

theorem mark_leaps (bound : (u.tile id.toNat).state = .bound) (still : (u.region (tileRegion id.toNat)).state ≠ .leaping)
    (noWait : (u.region (tileRegion id.toNat)).leapWait = none) (ne : id.toNat ≠ spareOf id.toNat)
    (spare : (u.tile (spareOf id.toNat)).state = .spare) (runs : u.stw.restarting = false) :
    ∃ w : State, exec c.2 s = .next w.intPoll ∧ (w.tile id.toNat).state = .marked ∧
      (w.region (tileRegion id.toNat)).state = .leaping ∧ (w.region (tileRegion id.toNat)).leapFrom = id ∧
      (w.region (tileRegion id.toNat)).leapTo.toNat = spareOf id.toNat ∧
      (w.tile (spareOf id.toNat)).state = .bound ∧ (w.tile (spareOf id.toNat)).leapIn = true ∧
      (w.tile (spareOf id.toNat)).role = (u.tile id.toNat).role ∧
      (w.tile (spareOf id.toNat)).lslot = (u.tile id.toNat).lslot := by
  have run := exec_markRows h usable row sTile
  rw [State.markTile_leaps usable c.1 ok bound still noWait ne spare runs] at run
  obtain ⟨leaping, src, dst⟩ := State.region_beginLeap (u.marked id.toNat c.1 ok) id.toNat false
  obtain ⟨state, -, spareState, leapIn, role, lslot⟩ := State.beginLeap_tiles (u.marked id.toNat c.1 ok) ne false
  rw [State.tile_marked] at state role lslot
  refine ⟨_, run, ?_⟩
  simp only [State.tile_stallClock, State.region_stallClock]
  exact ⟨state, leaping, src.trans (by simp), (congrArg BitVec.toNat dst).trans (spareOf_byte id), spareState, leapIn, role, lslot⟩

theorem mark_folds_of_noSpare (hands : (u.tile id.toNat).state = .bound ∨ id.toNat ≠ spareOf id.toNat)
    (still : (u.region (tileRegion id.toNat)).state ≠ .leaping) (noWait : (u.region (tileRegion id.toNat)).leapWait = none)
    (used : (u.tile (spareOf id.toNat)).state ≠ .spare) (may : u.mayFold (tileRegion id.toNat)) :
    ∃ w : State, exec c.2 s = .next w.intPoll ∧ (w.region (tileRegion id.toNat)).state = .folding := by
  have run := exec_markRows h usable row sTile
  rw [State.markTile_noSpare usable c.1 ok hands still noWait used may] at run
  obtain ⟨folding, -, -⟩ := State.beginFold_folding (u.marked id.toNat c.1 ok) (tileRegion id.toNat) 0 c.1
  exact ⟨_, run, (congrArg Region.state (State.region_stallClock ..)).trans folding⟩

theorem mark_folds_of_leaping (leaps : (u.region (tileRegion id.toNat)).state = .leaping) (may : u.mayFold (tileRegion id.toNat)) :
    ∃ w : State, exec c.2 s = .next w.intPoll ∧ (w.region (tileRegion id.toNat)).state = .folding ∧
      (w.region (tileRegion id.toNat)).leapWait = none := by
  have run := exec_markRows h usable row sTile
  rw [State.markTile_leaping usable c.1 ok leaps may] at run
  obtain ⟨folding, noWait, -⟩ := State.beginFold_folding (u.marked id.toNat c.1 ok) (tileRegion id.toNat) 0 c.1
  exact ⟨_, run, (congrArg Region.state (State.region_stallClock ..)).trans folding,
    (congrArg Region.leapWait (State.region_stallClock ..)).trans noWait⟩

end

/-- Settles O48: each row marks or retries its tile, and what follows the mark is the one branch its hypotheses choose. -/
theorem tileFaults : Obligations.TileFaults := by
  unfold Obligations.TileFaults
  refine ⟨?_, ?_, ?_, ?_, ?_⟩
  · intro s u t id ok h usable
    refine ⟨_, exec_sramError_single h usable ok, ?_, fun k ne => ?_⟩
    · rw [State.tile_stallClock, State.tile_modTile]
    · rw [State.tile_stallClock, State.tile_modTile_other u ne]
  · intro s u t id ok h usable r spare c row sTile
    exact ⟨mark_of_unbound h usable row sTile, mark_leaps h usable row sTile, mark_folds_of_noSpare h usable row sTile,
      mark_folds_of_leaping h usable row sTile⟩
  · intro s u t id ok h bound first x regions
    obtain ⟨tile, kept⟩ := State.retryTile_first first 5 ok
    obtain ⟨tile', kept'⟩ := State.retryTile_first (s := u.wdCounted id.toNat) (by rwa [State.tile_wdCounted]) 4 ok
    refine ⟨⟨_, exec_microcodeEccError h bound ok, ?_, fun k => ?_⟩, _, exec_sequencerWatchdogExpiry h bound ok, fun k => ?_, ?_⟩
    · rw [State.tile_stallClock, tile]
    · rw [State.region_stallClock]
      exact kept (u.region k).spill k
    · rw [State.region_stallClock]
      exact kept' (u.region k).spill k
    · rw [State.tile_stallClock, tile', State.tile_wdCounted]
      rfl
  · intro s u t id ok h bound second still noWait used may c row
    simp only [List.mem_cons, List.not_mem_nil, or_false] at row
    rcases row with rfl | rfl
    · obtain ⟨marked, folding⟩ := State.retryTile_folds bound second still noWait used may 5 ok
      refine ⟨_, exec_microcodeEccError h bound ok, ?_, ?_⟩
      · rwa [State.tile_stallClock]
      · rwa [State.region_stallClock]
    · have own := State.tile_wdCounted u id.toNat
      have spare : ((u.wdCounted id.toNat).tile (spareOf id.toNat)).state = (u.tile (spareOf id.toNat)).state :=
        u.wdCounted_state id.toNat (spareOf id.toNat)
      obtain ⟨marked, folding⟩ := State.retryTile_folds (u := u.wdCounted id.toNat) (by rw [own]; exact bound)
        (by rw [own]; exact second) still noWait (by rw [spare]; exact used) may 4 ok
      refine ⟨_, exec_sequencerWatchdogExpiry h bound ok, ?_, ?_⟩
      · rwa [State.tile_stallClock]
      · rwa [State.region_stallClock]
  · intro s u t r h leaps runs
    obtain ⟨state, fault, tile, qg, stw⟩ := State.leapEnds_facts u r.toNat
    refine ⟨_, exec_leapfrogDone h leaps runs, ?_, ?_, ?_, fun b waits => ?_⟩
    · rwa [(State.leapFinish_keeps ..).1]
    · rwa [(State.leapFinish_keeps ..).1]
    · rwa [(State.leapFinish_keeps ..).2]
    · have ends := State.leapFinish_waits (s := u.leapEnds r.toNat) (by rw [qg]; exact waits) (by rw [stw]; exact runs)
      rwa [qg] at ends

end Sys2Proof.Machine

/-! ## The repair commands (R465 to R467) -/

namespace Sys2Proof.Machine

theorem State.adminDone_due (s : State) (b : Bytes) (st x : Nat) :
    (s.adminDone b st x).stallClock.qg.due = s.qg.due ++ [complOf b st x] := 
  congrArg Qg.due (by simp : Part.qg.same (s.adminDone b st x) _)

theorem State.adminWaits_run (s : State) (b : Bytes) (w : AdminWait) : (s.adminWaits b w).stallClock.qg.run = some ⟨b, w⟩ :=
  congrArg Qg.run (by simp : Part.qg.same (s.adminWaits b w) (s.adminWaits b w).stallClock)

theorem State.adminWaits_region (s : State) (b : Bytes) (w : AdminWait) (k : Nat) :
    (s.adminWaits b w).stallClock.region k = s.region k := State.region_of_regions (by simp) k

theorem State.adminWaits_tile (s : State) (b : Bytes) (w : AdminWait) (k : Nat) :
    (s.adminWaits b w).stallClock.tile k = s.tile k := State.tile_of_tiles (by simp) k

theorem exec_tileRetire {s u : State} {t : Nat} {b : Bytes} (h : s.takesAdmin t 0x3A b u) :
    exec (.tileRetire t) s = .next (u.tileRetire b (entLen b % 256)).stallClock.intPoll := by
  have run : exec (.tileRetire t) s = .next (u.tileRetire b (fieldOf (entLen b) 0 8)).stallClock.intPoll :=
    adminRow_stalls_of_takes h fun b s => s.tileRetire b (fieldOf (entLen b) 0 8)
  simpa [fieldOf] using run

/-- R465: the status of TILE_RETIRE; 0 when the tile is retired. -/
def State.retireStatus (s : State) (id : Nat) : Nat :=
  if 8 < tileSlot id then 0x12
  else if s.baskGuard (tileRegion id) = true then 0x40
  else if s.inService (tileRegion id) = false ∨ s.tileUsable id = false then 0x12
  else if (s.tile id).state = .bound ∧
    ((s.region (tileRegion id)).state = .leaping ∨ (s.tile (spareOf id)).state ≠ .spare) then 0x40
  else 0

/-- R465: what TILE_RETIRE writes to its tile. -/
def State.tileRetired (s : State) (id : Nat) : State := s.modTile id fun t => { t with state := .retired, cause := 7 }

theorem State.tileRetire_eq (s : State) (b : Bytes) (id : Nat) :
    s.tileRetire b id =
      if s.retireStatus id ≠ 0 then s.adminDone b (s.retireStatus id) 0
      else if (s.tile id).state = .bound then ((s.tileRetired id).beginLeap id true).adminWaits b (.leapfrog (tileRegion id))
      else ((s.tileRetired id).faultRecord 0x0108 3 (tileRegion id) 7 (leBytes 1 id)).adminDone b 0 0 := by
  have asBool (x y : Bool) : (!x || !y) = true ↔ x = false ∨ y = false := by simp
  unfold State.tileRetire State.retireStatus
  simp only [asBool]
  by_cases slot : 8 < tileSlot id
  · simp [slot]
  by_cases guard : s.baskGuard (tileRegion id) = true
  · simp [slot, guard]
  by_cases gone : s.inService (tileRegion id) = false ∨ s.tileUsable id = false
  · simp only [slot, guard, gone, if_true, if_false]
    rfl
  by_cases bound : (s.tile id).state = .bound
  · by_cases busy : (s.region (tileRegion id)).state = .leaping ∨ (s.tile (spareOf id)).state ≠ .spare
    · have busy' := busy
      simp only [spareOf] at busy'
      simp only [slot, guard, gone, bound, busy, busy', if_true, if_false, and_self]
      rfl
    · have busy' := busy
      simp only [spareOf] at busy'
      simp only [slot, guard, gone, bound, busy, busy', if_true, if_false, and_false, ne_eq]
      rfl
  · simp only [slot, guard, gone, bound, if_false, false_and, ne_eq]
    rfl

theorem State.retireStatus_zero {s : State} {id : Nat} (passed : s.retireStatus id = 0) (bound : (s.tile id).state = .bound) :
    (s.tile (spareOf id)).state = .spare := by
  by_contra used
  unfold State.retireStatus at passed
  rw [if_pos (c := (s.tile id).state = .bound ∧ _) ⟨bound, Or.inr used⟩] at passed
  split at passed <;> [skip; split at passed <;> [skip; split at passed]] <;> simp at passed

theorem State.tile_tileRetired (s : State) (id : Nat) :
    (s.tileRetired id).tile id = { s.tile id with state := .retired, cause := 7 } := tile_modTile s id _

theorem State.tileRetire_bound {s : State} {id : Nat} (passed : s.retireStatus id = 0) (bound : (s.tile id).state = .bound)
    (b : Bytes) : s.tileRetire b id = ((s.tileRetired id).beginLeap id true).adminWaits b (.leapfrog (tileRegion id)) := by
  rw [State.tileRetire_eq, if_neg (not_not.mpr passed), if_pos bound]

theorem State.tileRetire_unbound {s : State} {id : Nat} (passed : s.retireStatus id = 0) (unbound : (s.tile id).state ≠ .bound)
    (b : Bytes) : s.tileRetire b id =
      ((s.tileRetired id).faultRecord 0x0108 3 (tileRegion id) 7 (leBytes 1 id)).adminDone b 0 0 := by
  rw [State.tileRetire_eq, if_neg (not_not.mpr passed), if_neg unbound]

/-- R466: the two outcomes of REGION_OFFLINE. -/
def State.offline (s : State) (b : Bytes) (r : Nat) : State :=
  if s.offlineRefused r then s.adminDone b 0x40 0
  else if ((s.fold r 1 0).region r).state = .folding then (s.fold r 1 0).adminWaits b (.fold r) else (s.fold r 1 0).adminDone b 0x73 0

theorem exec_regionOffline {s u : State} {t : Nat} {b : Bytes} (h : s.takesAdmin t 0x38 b u) :
    exec (.regionOffline t) s = .next (u.offline b (entLen b % 8)).stallClock.intPoll := by
  have run : exec (.regionOffline t) s = .next (u.offline b (fieldOf (entLen b) 0 3)).stallClock.intPoll :=
    adminRow_stalls_of_takes h fun b s => s.offline b (fieldOf (entLen b) 0 3)
  simpa [fieldOf] using run

/-- R467: the region's retest: its reports, and the region back in service or still out. -/
def State.retested (s : State) (r : Nat) (x : TestResult) : State :=
  let o := (s.applyTest r x).onlineResult r x
  if o.1 = 0 then (s.applyTest r x).regionBack r (s.applyTest r x).sil.active o.2
  else (s.applyTest r x).modRegion r fun g => { g with test := .outOfService }

/-- R467: the outcomes of REGION_ONLINE. -/
def State.online (s : State) (b : Bytes) (r : Nat) (x : TestResult) : State :=
  if !s.isOut r || (s.region r).state == .folding then s.adminDone b 0x12 0
  else
    let res := ((s.applyTest r x).onlineResult r x).1
    ((s.retested r x).faultRecord 0x0107 3 r 0 (leBytes 1 res)).adminDone b (if res = 0 then 0 else 0x40) res

theorem exec_regionOnline {s u : State} {t : Nat} {b : Bytes} (h : s.takesAdmin t 0x39 b u) (x : TestResult) :
    exec (.regionOnline t x) s = .next (u.online b (entLen b % 8) x).stallClock.intPoll := by
  have run : exec (.regionOnline t x) s = .next (u.online b (fieldOf (entLen b) 0 3) x).stallClock.intPoll :=
    adminRow_stalls_of_takes h fun b s => s.online b (fieldOf (entLen b) 0 3) x
  simpa [fieldOf] using run

theorem State.region_applyTest (s : State) (r : Nat) (x : TestResult) :
    ((s.applyTest r x).region r).vcPass = x.vc := by
  unfold State.applyTest
  dsimp only
  rw [region_modRegion]

theorem State.region_regionBack (s : State) (r : Nat) (im : Option Image) (bind : List (Nat × Nat)) :
    let g := (s.regionBack r im bind).region r
    g.test = .passed ∧ g.state = .inService ∧ g.vcPass = (s.region r).vcPass := by
  let begun := s.modRegion r fun g => { g with test := .passed, state := .inService, outCause := 0 }
  have bound (f : Sil → Sil) : Part.regions.same begun (match im with
      | none => begun.modSil f
      | some im => (begun.modSil f).tileBindings im (begun.modSil f).sil.bind) := by
    split <;> simp
  have counted (t : State) : Part.regions.same t t.shiftUpdate := by simp
  have kept : begun.keepsRegions (fun g => (g.test, g.state, g.vcPass)) (s.regionBack r im bind) := 
    ((State.keepsRegions_of_same (bound _)).trans (State.keepsRegions_spareFlags (fun _ _ _ => rfl) _)).trans
      (State.keepsRegions_of_same (counted _))
  have view := kept r
  rw [show begun.region r = _ from region_modRegion s r _] at view
  exact ⟨congrArg Prod.fst view, congrArg (fun p => p.2.1) view, congrArg (fun p => p.2.2) view⟩

/-- R467: what the retest leaves of the region: its report, and the outcome that its result gives. -/
theorem State.region_retested (s : State) (r : Nat) (x : TestResult) :
    let g := (s.retested r x).region r
    let res := ((s.applyTest r x).onlineResult r x).1
    g.vcPass = x.vc ∧ g.test = (if res = 0 then .passed else .outOfService) ∧ (res = 0 → g.state = .inService) := by
  intro g res
  by_cases passed : res = 0
  · have back : s.retested r x = (s.applyTest r x).regionBack r (s.applyTest r x).sil.active ((s.applyTest r x).onlineResult r x).2 :=
      if_pos passed
    obtain ⟨test, state, vc⟩ := State.region_regionBack (s.applyTest r x) r (s.applyTest r x).sil.active
      ((s.applyTest r x).onlineResult r x).2
    rw [if_pos passed]
    simp only [g, back]
    exact ⟨vc.trans (State.region_applyTest s r x), test, fun _ => state⟩
  · have out : s.retested r x = (s.applyTest r x).modRegion r fun g => { g with test := .outOfService } := if_neg passed
    rw [if_neg passed]
    simp only [g, out, region_modRegion]
    exact ⟨State.region_applyTest s r x, trivial, fun zero => absurd zero passed⟩

theorem State.retested_qg (s : State) (r : Nat) (x : TestResult) : (s.retested r x).qg = s.qg := by
  unfold State.retested
  dsimp only
  split
  · exact (by simp : Part.qg.same s ((s.applyTest r x).regionBack r _ _))
  · exact (by simp : Part.qg.same s ((s.applyTest r x).modRegion r _))

theorem State.onlineResult_cases (s : State) (r : Nat) (x : TestResult) :
    (x.ok = false → (s.onlineResult r x).1 = 1) ∧
      (x.ok = true → ((s.onlineResult r x).1 = 0 ∨ (s.onlineResult r x).1 = 8) ∧ (s.sil.active = none → (s.onlineResult r x).1 = 0)) := by
  unfold State.onlineResult
  refine ⟨fun fails => by rw [if_pos (by simp [fails])], fun passes => ?_⟩
  rw [if_neg (by simp [passes])]
  split
  · exact ⟨Or.inl rfl, fun _ => rfl⟩
  next active =>
    refine ⟨?_, fun none => by simp [none] at active⟩
    split
    · exact Or.inl rfl
    · exact Or.inr rfl

/-- Settles O50: each command's row is one conditional on its checks. -/
theorem repairCommands : Obligations.RepairCommands := by
  unfold Obligations.RepairCommands
  refine ⟨?_, ?_, ?_⟩
  · intro s u t b h id r spare status
    have run := exec_tileRetire h
    refine ⟨fun fails => ?_, fun passed => ?_⟩
    · rw [run, State.tileRetire_eq, if_pos (show u.retireStatus id ≠ 0 from fails)]
      rfl
    have passed : u.retireStatus id = 0 := passed
    by_cases bound : (u.tile id).state = .bound
    · have free : (u.tile spare).state = .spare := State.retireStatus_zero passed bound
      have ne : id ≠ spare := fun same => by rw [← same, bound] at free; cases free
      rw [State.tileRetire_bound passed bound] at run
      obtain ⟨leaping, -, -⟩ := State.region_beginLeap (u.tileRetired id) id true
      obtain ⟨state, cause, -, -, role, -⟩ := State.beginLeap_tiles (u.tileRetired id) ne true
      rw [State.tile_tileRetired] at state cause role
      refine ⟨_, run, ?_⟩
      simp only [State.adminWaits_tile, State.adminWaits_region, State.adminWaits_run]
      exact ⟨state, cause, fun unbound => absurd bound unbound, fun _ _ => ⟨rfl, leaping, role⟩⟩
    · rw [State.tileRetire_unbound passed bound] at run
      have recorded (k : Nat) : (((u.tileRetired id).faultRecord 0x0108 3 r 7 (leBytes 1 id)).adminDone b 0 0).tile k =
          (u.tileRetired id).tile k := State.tile_of_tiles (by simp) k
      refine ⟨_, run, ?_⟩
      simp only [State.tile_stallClock]
      rw [recorded, State.tile_tileRetired]
      refine ⟨rfl, rfl, fun _ => ⟨?_, fun k ne => ?_⟩, fun bound' => absurd bound' bound⟩
      · rw [State.adminDone_due]
        exact congrArg (fun q : Qg => q.due ++ [complOf b 0 0])
          (by simp [State.tileRetired] : Part.qg.same u ((u.tileRetired id).faultRecord 0x0108 3 r 7 (leBytes 1 id)))
      · rw [recorded]
        exact State.tile_modTile_other u ne _
  · intro s u t b h r
    have run := exec_regionOffline h
    unfold State.offline at run
    refine ⟨fun refused => ?_, fun granted may => ?_⟩
    · rw [run, if_pos refused]
    · obtain ⟨folding, -, cause⟩ := State.beginFold_folding u r 1 0
      rw [if_neg (by simp [r, granted]), State.fold_of_mayFold may, if_pos folding] at run
      refine ⟨_, run, ?_⟩
      simp only [State.adminWaits_region, State.adminWaits_run]
      exact ⟨folding, cause, rfl⟩
  · intro s u t b x h r
    have run : exec (.regionOnline t x) s = .next (u.online b r x).stallClock.intPoll := exec_regionOnline h x
    unfold State.online at run
    refine ⟨fun refused => ?_, fun out still => ?_⟩
    · rw [run, if_pos (by simpa [r] using refused)]
    · rw [if_neg (by simp [r, out, still])] at run
      refine ⟨_, ((u.applyTest r x).onlineResult r x).1, run, ?_⟩
      obtain ⟨vc, test, back⟩ := u.region_retested r x
      obtain ⟨fails, passes⟩ := (u.applyTest r x).onlineResult_cases r x
      have active : (u.applyTest r x).sil.active = u.sil.active :=
        congrArg Sil.active (by simp : Part.sil.same u (u.applyTest r x))
      rw [active] at passes
      have recorded (b' : Bytes) (st res : Nat) :
          (((u.retested r x).faultRecord 0x0107 3 r 0 b').adminDone b st res).stallClock.region r = (u.retested r x).region r :=
        State.region_of_regions (by simp) r
      simp only [recorded]
      refine ⟨vc, test, back, ?_, fun bad => fails ?_, fun switch pool gen => passes ?_⟩
      · rw [State.adminDone_due]
        exact congrArg (fun q : Qg => q.due ++ [_])
          ((by simp : Part.qg.same (u.retested r x) ((u.retested r x).faultRecord 0x0107 3 r 0 _)).trans (u.retested_qg r x))
      · rcases bad with bad | bad | bad <;> simp [TestResult.ok, bad]
      · exact (TestResult.ok_iff x).mpr ⟨switch, pool, gen⟩

end Sys2Proof.Machine

/-! ## Command lists (R118, R136 to R141) -/

namespace Sys2Proof.Machine

theorem Tab.put_put {α : Type} (t : Tab α) (k : Nat) (v w : α) : Tab.put (Tab.put t k v) k w = Tab.put t k w := by
  induction t with
  | nil => simp [Tab.put]
  | cons p t ih =>
    obtain ⟨i, x⟩ := p
    by_cases above : k < i
    · simp [Tab.put, above]
    by_cases same : i = k
    · simp [Tab.put, same]
    · simp [Tab.put, above, same, ih]

/-! ### The front command acts (R141) -/

section
variable {s : State} {e : Nat} {r : Run} (here : Tab.find s.runs e = some r)
include here

theorem State.runs_modRun (f : Run → Run) : (s.modRun e f).runs = Tab.put s.runs e (f r) :=
  congrArg State.runs (modRun_of_find here f)

/-- What a command that acts leaves of its entry's run and of the others. -/
theorem State.runs_acted (f : Run → Run) :
    ((s.modRun e f).advance e).runs = Tab.put s.runs e { f r with cmds := (f r).cmds.drop 1, pos := (f r).pos + 1 } := by
  have changed : Tab.find (s.modRun e f).runs e = some (f r) := by rw [State.runs_modRun here]; exact Tab.find_put_same ..
  unfold State.advance
  rw [State.runs_modRun changed, State.runs_modRun here, Tab.put_put]

theorem State.find_acted (f : Run → Run) :
    Tab.find ((s.modRun e f).advance e).runs e = some { f r with cmds := (f r).cmds.drop 1, pos := (f r).pos + 1 } := by
  rw [State.runs_acted here, Tab.find_put_same]

end

theorem State.acted_only (s : State) (e : Nat) (f : Run → Run) : s.changesOnly [.runs] ((s.modRun e f).advance e) :=
  only_trans (modRun_only s e f) (modRun_only _ e _)

theorem State.takesCommand_run {s u : State} {t e op : Nat} {r : Run} {c : ListCmd} (h : s.takesCommand t e op r c u) :
    Tab.find u.runs e = some r := by
  obtain ⟨v, r₀, cs, n, -, -, -, -, -, -, -, rfl⟩ := h
  exact Tab.find_put_same ..

theorem exec_listWrite_of_takes {s u : State} {t e : Nat} {r : Run} {c : ListCmd} {x : Nat × Instr}
    (row : x ∈ [(1, Instr.desc t e), (2, .loadScb t e), (3, .writeReg t e)]) (h : s.takesCommand t e x.1 r c u) :
    exec x.2 s = .next ((u.modRun e fun r => { r with ctx := r.ctx.apply r.pos c }).advance e).intPoll := by
  simp only [List.mem_cons, List.not_mem_nil, or_false] at row
  rcases row with rfl | rfl | rfl <;>
    exact listRow_of_takes h fun _ c s => (s.modRun e fun r => { r with ctx := r.ctx.apply r.pos c }).advance e

/-! ### RUN_LIST (R118) -/

/-- R118: a mark of a run that `shiftUpdate` may set. -/
theorem State.find_shiftUpdate {s : State} {e : Nat} {r : Run} (here : Tab.find s.runs e = some r) :
    ∃ b, Tab.find s.shiftUpdate.runs e = some { r with shifted := b } := by
  unfold State.shiftUpdate
  simp only [Tab.find_mapVals, here, Option.map_some]
  split
  · exact ⟨true, rfl⟩
  · exact ⟨r.shifted, rfl⟩

/-- R118: the run of an entry that starts. -/
def State.startedRun (s : State) (r : Run) (cs : List ListCmd) : Run :=
  let ps := (walkList cs).starts.map Started.snap
  let roles := ((ps.map Snap.stage).filter fun c => decide (c ≤ 9)).eraseDups
  { r with cmds := cs, planned := ps.map startPlan, snaps := ps, banks := (s.bindBanks r.stamp roles).2 }

theorem State.find_beginRun (s : State) (q e : Nat) (b : Bytes) (r : Run) (cs : List ListCmd) :
    ∃ shifted, Tab.find (s.beginRun q e b r cs).runs e = some { s.startedRun r cs with shifted := shifted } := by
  unfold State.beginRun
  exact State.find_shiftUpdate (Tab.find_put_same ..)

/-- The start of an entry's run changes of the queues its taken entry alone. -/
theorem State.qg_beginRun (s : State) (q e : Nat) (b : Bytes) (r : Run) (cs : List ListCmd) :
    ∃ f, (s.beginRun q e b r cs).qg = (s.modTaken q e f).qg := by
  let ps := (walkList cs).starts.map Started.snap
  let roles := ((ps.map Snap.stage).filter fun c => decide (c ≤ 9)).eraseDups
  let led := s.ledgerOf r b ps
  let f : Taken → Taken := fun t => { t with ran := true, ledger := some led, names := handlesOf ps, dicts := r.dicts.map Prod.snd }
  refine ⟨f, ?_⟩
  have banks : (s.bindBanks r.stamp roles).1.qg = s.qg := (by simp : Part.qg.same s (s.bindBanks r.stamp roles).1)
  have taken (t : State) (same : t.qg = s.qg) : (t.modTaken q e f).qg = (s.modTaken q e f).qg := by
    unfold State.modTaken State.modQueue State.modQg
    simp only [same]
  have counted (t : State) : t.shiftUpdate.qg = t.qg := (by simp : Part.qg.same t t.shiftUpdate)
  unfold State.beginRun
  exact (counted _).trans (taken _ banks)

theorem State.modQueue_serial (s : State) (q : Nat) (f : Queue → Queue) : (s.modQueue q f).qg.nextSerial = s.qg.nextSerial := by
  unfold State.modQueue
  split <;> rfl

theorem State.takeFront_serial (s : State) (q : Nat) (b : Bytes) (f : Bool) (c : Option Compl) :
    (s.takeFront q b f c).qg.nextSerial = s.qg.nextSerial + 1 := by
  have served (t : State) : (t.serveRound q).qg.nextSerial = t.qg.nextSerial := by
    unfold State.serveRound
    dsimp only
    split <;> exact State.modQueue_serial ..
  unfold State.takeFront
  dsimp only
  rw [State.modQueue_serial, served]
  rfl

theorem State.modTaken_queue (s : State) (q e : Nat) (f : Taken → Taken) :
    ((s.modTaken q e f).queue q).cache = (s.queue q).cache ∧ ((s.modTaken q e f).queue q).sqHead = (s.queue q).sqHead := by
  unfold State.modTaken
  rw [State.queue_modQueue_same]
  exact ⟨rfl, rfl⟩

theorem exec_runList_of_takes {s u : State} {t : Nat} {q : BitVec 12} {b : Bytes} (h : s.takesEntry t q.toNat 0x80 b u)
    (list : Bytes) (mem : HostMem) :
    exec (.runList t q list mem) s = .next (u.runList q.toNat list mem b).intPoll :=
  workRow_of_takes h fun b s => s.runList q.toNat list mem b

theorem State.runList_refused {s : State} {q st : Nat} {list b : Bytes} {mem : HostMem}
    (fails : s.checkList s.qg.nextSerial mem (s.newRun q b mem) (padTo (entLen b) list) = .error st) :
    s.runList q list mem b = s.takeFront q b false (some (complOf b st 0)) := by
  unfold State.runList
  dsimp only
  rw [fails]

theorem State.runList_begins {s : State} {q : Nat} {list b : Bytes} {mem : HostMem} {cs : List ListCmd}
    (passes : s.checkList s.qg.nextSerial mem (s.newRun q b mem) (padTo (entLen b) list) = .ok cs) :
    s.runList q list mem b = (s.takeFront q b false none).beginRun q s.qg.nextSerial b (s.newRun q b mem) cs := by
  unfold State.runList
  dsimp only
  rw [passes]

/-! ### START, WAIT and END (R140, R141) -/

theorem jobsNextJob_only (s : State) (x : Tab Job) (n : Nat) :
    s.changesOnly [.runs, .jobs, .nextJob] { s with jobs := x, nextJob := n } := by
  intro π apart
  cases π <;> simp_all [Part.same]

/-- R141: the job that a START makes of its stage's context. -/
def State.newJob (s : State) (e : Nat) (r : Run) (c : ListCmd) : Job :=
  let p := r.ctx.snap c.stage (c.arg % 256)
  { run := e, stage := c.stage, tag := c.arg % 256, snap := p, first := p.sampleFirst, count := p.samples r.count, tick := s.now,
    clock := if isLiveStart p then some (vdecCfg p).lfc else none }

/-- R141: a START acts: its job waits on its stage. -/
def State.jobQueued (s : State) (e : Nat) (r : Run) (c : ListCmd) : State :=
  ({ s with jobs := Tab.put s.jobs s.nextJob (s.newJob e r c), nextJob := s.nextJob + 1 }.modRun e fun r =>
    { r with tags := Tab.put r.tags (c.arg % 256) s.nextJob, started := r.started ++ [s.nextJob] }).advance e

theorem exec_start_of_takes {s u : State} {t e : Nat} {r : Run} {c : ListCmd} (h : s.takesCommand t e 4 r c u) :
    exec (.start t e) s = .next (if 32 ≤ (u.queuedOn c.stage).length then u else u.jobQueued e r c).intPoll :=
  listRow_of_takes h fun r c s => if 32 ≤ (s.queuedOn c.stage).length then s else s.jobQueued e r c

theorem exec_wait_of_takes {s u : State} {t e : Nat} {r : Run} {c : ListCmd} (h : s.takesCommand t e 5 r c u) :
    exec (.wait t e) s = .next (if bitOf c.arg 8 then
        (if r.started.all u.jobEnded then (u.modRun e fun r => { r with tags := [] }).advance e else u)
      else match Tab.find r.tags (c.arg % 256) with
        | none => u
        | some j => if u.jobEnded j then (u.modRun e fun r => { r with tags := Tab.del r.tags (c.arg % 256) }).advance e else u).intPoll :=
  listRow_of_takes h fun r c s =>
    if bitOf c.arg 8 then
      if r.started.all s.jobEnded then (s.modRun e fun r => { r with tags := [] }).advance e else s
    else match Tab.find r.tags (c.arg % 256) with
      | none => s
      | some j => if s.jobEnded j then (s.modRun e fun r => { r with tags := Tab.del r.tags (c.arg % 256) }).advance e else s

/-- R141: the list of an entry has ended. -/
def State.listEnded (s : State) (e : Nat) : State := (s.modRun e fun r => { r with ended := true }).advance e

theorem exec_listEnd_of_takes {s u : State} {t e : Nat} {r : Run} {c : ListCmd} (h : s.takesCommand t e 7 r c u) :
    exec (.listEnd t e) s =
      .next (if r.started.all u.jobEnded then (u.listEnded e).settleRun e else u).intPoll :=
  listRow_of_takes h fun r _ s => if r.started.all s.jobEnded then (s.listEnded e).settleRun e else s

/-! ### The end of an entry (R120 to R122) -/

theorem State.endRun_of_find {s : State} {e : Nat} {r : Run} (here : Tab.find s.runs e = some r) :
    let w := s.endRun e
    w.runs = Tab.del s.runs e ∧ w.jobs = s.jobs.filter (fun j => j.2.run != e) ∧
      (w.queue r.queue).taken =
        setNdc e r.ndc (setCompl e (r.compl s.faults.halt (takenBytes e (s.queue r.queue).taken)) (s.queue r.queue).taken) := by
  let f : Queue → Queue := fun q => { q with
    taken := setNdc e r.ndc (setCompl e (r.compl s.faults.halt (takenBytes e (s.queue r.queue).taken)) q.taken) }
  have ends : s.endRun e = { ((s.modQueue r.queue f).dropPoints e).dropWork e with
      runs := Tab.del (((s.modQueue r.queue f).dropPoints e).dropWork e).runs e
      jobs := (((s.modQueue r.queue f).dropPoints e).dropWork e).jobs.filter fun j => j.2.run != e } := by
    unfold State.endRun
    rw [here]
  have runs : (((s.modQueue r.queue f).dropPoints e).dropWork e).runs = s.runs :=
    (by simp : Part.runs.same s (((s.modQueue r.queue f).dropPoints e).dropWork e))
  have jobs : (((s.modQueue r.queue f).dropPoints e).dropWork e).jobs = s.jobs :=
    (by simp : Part.jobs.same s (((s.modQueue r.queue f).dropPoints e).dropWork e))
  have qg : (((s.modQueue r.queue f).dropPoints e).dropWork e).qg = (s.modQueue r.queue f).qg :=
    (by simp : Part.qg.same (s.modQueue r.queue f) (((s.modQueue r.queue f).dropPoints e).dropWork e))
  intro w
  refine ⟨?_, ?_, ?_⟩
  · simp only [w, ends, runs]
  · simp only [w, ends, jobs]
  · have queue : w.queue r.queue = (s.modQueue r.queue f).queue r.queue :=
      State.queue_congr (by simp only [w, ends]; exact qg) r.queue
    rw [queue, State.queue_modQueue_same]

/-- R120: the entry's completion stands in its place among the taken ones. -/
theorem mem_setNdc_setCompl {e n : Nat} {c : Compl} {ts : List Taken} {x : Taken} (mem : x ∈ ts) (serial : x.serial = e)
    (unformed : x.compl = none) : ∃ y ∈ setNdc e n (setCompl e c ts), y.serial = e ∧ y.ran = x.ran ∧ y.compl = some c := by
  refine ⟨{ x with compl := some c, ledger := x.ledger.map fun l => { l with ndc := min n 65535 } }, ?_, serial, rfl, rfl⟩
  unfold setNdc setCompl
  simp only [List.map_map, List.mem_map, Function.comp_apply]
  exact ⟨x, mem, by simp [serial, unformed]⟩

theorem State.settleRun_open {s : State} {e : Nat} {r : Run} (here : Tab.find s.runs e = some r)
    (waits : s.manifestsOpen e = true ∨ s.pointsOpen e = true) : s.settleRun e = s := by
  unfold State.settleRun
  rw [here]
  exact if_neg (by rcases waits with h | h <;> simp [h])

theorem State.settleRun_ends {s : State} {e : Nat} {r : Run} (here : Tab.find s.runs e = some r) (ended : r.ended = true)
    (written : s.manifestsOpen e = false) (compared : s.pointsOpen e = false) (same : r.divs = []) :
    s.settleRun e = s.endRun e := by
  have settled : s.settleDivs e = s := by
    unfold State.settleDivs
    simp only [here, same, firstDiv]
  unfold State.settleRun
  rw [here]
  exact (if_pos (by simp [ended, written, compared])).trans (congrArg (fun w : State => w.endRun e) settled)

/-- Settles O51: each row is the function of its frame on the front command, and every part that it does not name is kept by
the frame laws. -/
theorem listCommands : Obligations.ListCommands := by
  unfold Obligations.ListCommands
  refine ⟨?_, ?_, ?_, ?_, ?_, ?_⟩
  · intro s u t q list b mem h e r
    have run := exec_runList_of_takes h list mem
    have work : q.toNat ≠ 0 := h.2.1
    refine ⟨fun st fails => ?_, fun cs passes => ?_⟩
    · rw [run, State.runList_refused fails]
    · rw [State.runList_begins passes] at run
      obtain ⟨shifted, found⟩ := (u.takeFront q.toNat b false none).find_beginRun q.toNat e b r cs
      obtain ⟨f, qg⟩ := (u.takeFront q.toNat b false none).qg_beginRun q.toNat e b r cs
      obtain ⟨n, x, -, taken⟩ := u.queue_takeFront work b false none
      obtain ⟨cache, head⟩ := (u.takeFront q.toNat b false none).modTaken_queue q.toNat e f
      have queue := State.queue_congr qg q.toNat
      refine ⟨_, _, run, found, rfl, rfl, rfl, rfl, rfl, rfl, rfl, rfl, rfl, rfl, rfl, rfl, rfl, rfl, ?_, ?_, ?_, ?_⟩
      · exact (by simp : Part.jobs.same u ((u.takeFront q.toNat b false none).beginRun q.toNat e b r cs))
      · rw [qg]
        exact (State.modQueue_serial ..).trans (u.takeFront_serial q.toNat b false none)
      · rw [queue, cache, taken]
      · rw [queue, head, taken]
        rfl
  · intro s u t e r c x row h
    have here := State.takesCommand_run h
    refine ⟨_, exec_listWrite_of_takes row h, State.find_acted here _, fun k ne => ?_, State.acted_only u e _⟩
    rw [State.runs_acted here, Tab.find_put_other _ _ _ _ ne]
  · intro x n c
    refine ⟨fun desc => ?_, fun load => ?_, fun write => ?_⟩
    · simp [ListCtx.apply, desc]
    · simp only [ListCtx.apply, load]
      exact ⟨trivial, Tab.getD_put_same .., fun k ne => Tab.getD_put_other _ _ _ _ _ ne⟩
    · simp only [ListCtx.apply, write]
      exact ⟨trivial, Tab.getD_put_same .., fun k ne => Tab.getD_put_other _ _ _ _ _ ne⟩
  · intro s u t e r c h p
    have here := State.takesCommand_run h
    have run := exec_start_of_takes h
    refine ⟨fun full => ?_, fun room => ?_⟩
    · rw [run, if_pos full]
    · rw [if_neg (Nat.not_le.mpr room)] at run
      have queued : Tab.find ({ u with jobs := Tab.put u.jobs u.nextJob (u.newJob e r c), nextJob := u.nextJob + 1 } : State).runs e =
        some r := here
      have acted := State.acted_only ({ u with jobs := Tab.put u.jobs u.nextJob (u.newJob e r c), nextJob := u.nextJob + 1 } : State) e
        fun r => { r with tags := Tab.put r.tags (c.arg % 256) u.nextJob, started := r.started ++ [u.nextJob] }
      refine ⟨_, u.newJob e r c, run, acted .jobs (by simp), acted .nextJob (by simp), rfl, rfl, rfl, rfl, rfl, rfl, rfl, rfl, rfl,
        State.find_acted queued _, only_after acted (by simp) (jobsNextJob_only u _ _)⟩
  · intro s u t e r c h all tag
    have here := State.takesCommand_run h
    have run := exec_wait_of_takes h
    refine ⟨fun every waits => ?_, fun one waits => ?_, fun ended => ?_⟩
    · rw [run, if_pos every, if_neg (by simp [waits])]
    · obtain ⟨j, tagged, works⟩ := waits
      rw [run, if_neg (Bool.eq_false_iff.mp one), show Tab.find r.tags (c.arg % 256) = some j from tagged]
      dsimp only
      rw [if_neg (Bool.eq_false_iff.mp works)]
    · rcases ended with ⟨every, ended⟩ | ⟨one, j, tagged, ended⟩
      · rw [if_pos every, if_pos ended] at run
        refine ⟨_, run, ?_, State.acted_only u e _⟩
        rw [State.find_acted here, if_pos every]
      · rw [if_neg (Bool.eq_false_iff.mp one), show Tab.find r.tags (c.arg % 256) = some j from tagged] at run
        dsimp only at run
        rw [if_pos ended] at run
        refine ⟨_, run, ?_, State.acted_only u e _⟩
        rw [State.find_acted here, if_neg (Bool.eq_false_iff.mp one)]
  · intro s u t e r c h
    have here := State.takesCommand_run h
    have run := exec_listEnd_of_takes h
    have found : Tab.find (u.listEnded e).runs e = some { r with ended := true, cmds := r.cmds.drop 1, pos := r.pos + 1 } :=
      State.find_acted here _
    have kept : u.changesOnly [.runs] (u.listEnded e) := State.acted_only u e _
    have manifests : (u.listEnded e).manifestsOpen e = u.manifestsOpen e :=
      congrArg (fun p : Pke => p.held.any fun m => m.2.run == e) (kept .pke (by simp))
    have points : (u.listEnded e).pointsOpen e = u.pointsOpen e :=
      congrArg (fun d : Det => d.lanes.any fun l => l.2.here.any fun p => p.serial == e) (kept .det (by simp))
    refine ⟨fun waits => ?_, fun ended opened => ?_, fun ended written compared same => ?_⟩
    · rw [run, if_neg (by simp [waits])]
    · rw [if_pos ended, State.settleRun_open found (by rwa [manifests, points])] at run
      exact ⟨_, run, found, kept⟩
    · rw [if_pos ended, State.settleRun_ends found rfl (by rw [manifests, written]) (by rw [points, compared]) same] at run
      obtain ⟨runs, jobs, taken⟩ := State.endRun_of_find found
      have queue : (u.listEnded e).queue r.queue = u.queue r.queue := State.queue_congr (kept .qg (by simp)) r.queue
      have halt : (u.listEnded e).faults = u.faults := kept .faults (by simp)
      refine ⟨_, run, fun x mem => ?_, ?_, fun x mem serial unformed => ?_⟩
      · rw [jobs] at mem
        simpa using (List.mem_filter.mp mem).2
      · rw [runs]
        exact congrArg (fun t : Tab Run => Tab.del t e) (State.runs_acted here _)
      · obtain ⟨y, stands, serial', -, formed⟩ := mem_setNdc_setCompl mem serial unformed
        rw [queue, halt] at taken
        exact ⟨y, by rw [taken]; exact stands, serial', formed⟩

end Sys2Proof.Machine

/-! ## Stage jobs (R141 to R144) -/

namespace Sys2Proof.Machine

/-! ### The start of a job (R143) -/

theorem State.record_erw (s : State) (c code severity : Nat) (payload : Bytes) :
    ∃ e, s.record c code severity payload = { s with erw := e } := by
  have power := s.record_pwr c code severity payload
  obtain ⟨e, a, d, recorded⟩ := s.record_eq c code severity payload
  rw [recorded] at power
  dsimp only at power
  exact ⟨e, by rw [recorded, power]⟩

theorem State.judgeReads_erw (s : State) (r : Run) (ds : List Desc) : ∃ e, s.judgeReads r ds = { s with erw := e } := by
  unfold State.judgeReads
  refine List.foldlRecOn (motive := fun w : State => ∃ e, w = { s with erw := e }) ds _ ⟨s.erw, rfl⟩ fun w ih d _ => ?_
  obtain ⟨e, rfl⟩ := ih
  split
  · split
    · exact ⟨e, rfl⟩
    · obtain ⟨e', recorded⟩ := State.record_erw { s with erw := e } 1 0x0110 3 (leBytes 1 (d.handle / 2 ^ 28 % 8) ++ leBytes 1 0 ++
        (leBytes 2 r.label ++ leBytes 2 (Config.unitOf r.label d.handle)))
      exact ⟨e', recorded⟩
  · exact ⟨e, rfl⟩

/-- R143, R19: what the start of a job does before it changes the job: its reads are judged, its sequencers loaded, and the
gather caches of COPY cleared. -/
def State.readied (s : State) (r : Run) (x : Job) : State :=
  let s := s.judgeReads r x.snap.reads
  let s := (s.unitsOf x.stage).foldl (fun s id =>
    s.modTile id fun t => { t with seq := Sequencer.load ((List.range 4).map x.snap.loop) }) s
  if x.stage = 7 then s.clearGather else s

theorem State.readied_only (s : State) (r : Run) (x : Job) : s.changesOnly [.tiles, .erw] (s.readied r x) := by
  have judged : s.changesOnly [.tiles, .erw] (s.judgeReads r x.snap.reads) := by
    obtain ⟨e, judged⟩ := s.judgeReads_erw r x.snap.reads
    rw [judged]
    intro π apart
    cases π <;> simp_all [Part.same]
  refine only_of_same fun π apart => ?_
  have loaded (t : State) (l : List Nat) (f : Tile → Tile) : π.same s (l.foldl (fun s id => s.modTile id f) t) ↔ π.same s t := by
    simp_all
  have cleared (t : State) : π.same s t.clearGather ↔ π.same s t := same_clearGather (by simp_all)
  unfold State.readied
  dsimp only
  split
  · exact (cleared _).mpr ((loaded _ _ _).mpr (judged π apart))
  · exact (loaded _ _ _).mpr (judged π apart)

/-- R143: a job starts. -/
def State.jobBegun (s : State) (j : Nat) (x : Job) (r : Run) (mem : HostMem) : State :=
  let core := if x.clock.isSome ∨ x.stage = 0x11 then (s.judgeReads r x.snap.reads).freeCore else none
  let s := s.readied r x
  let copy := if x.stage = 7 then s.copyPlan j x (r.host ++ mem) else ([], 0)
  s.modJob j fun x =>
    { x with running := true, began := s.now, host := r.host ++ mem, pack := State.packAtStart r x, core := core,
             wantsCore := x.clock.isSome && core.isNone, tiles := s.tileCount 5, copy := copy.1, copyLost := copy.2 }

theorem State.modJob_of_find {s : State} {j : Nat} {x : Job} (found : Tab.find s.jobs j = some x) (f : Job → Job) :
    s.modJob j f = { s with jobs := Tab.put s.jobs j (f x) } := by
  unfold State.modJob
  rw [found]

theorem State.freeCore_judgeReads (s : State) (r : Run) (ds : List Desc) : (s.judgeReads r ds).freeCore = s.freeCore := by
  obtain ⟨e, judged⟩ := s.judgeReads_erw r ds
  rw [judged]
  rfl

theorem State.jobBegun_jobs {s : State} {j : Nat} {x : Job} (found : Tab.find s.jobs j = some x) (r : Run) (mem : HostMem) :
    ∃ y, (s.jobBegun j x r mem).jobs = Tab.put s.jobs j y ∧ y.running = true ∧ y.ended = x.ended ∧ y.began = s.now ∧
      y.host = r.host ++ mem ∧ y.run = x.run ∧ y.stage = x.stage ∧ y.snap = x.snap ∧ y.next = x.next ∧ y.outs = x.outs ∧
      y.core = (if x.clock.isSome = true ∨ x.stage = 0x11 then s.freeCore else none) ∧
      y.wantsCore = (x.clock.isSome && (if x.clock.isSome = true ∨ x.stage = 0x11 then s.freeCore else none).isNone) := by
  have kept := s.readied_only r x
  have jobs : (s.readied r x).jobs = s.jobs := kept .jobs (by simp)
  have clock : (s.readied r x).now = s.now := congrArg (fun t : Time => t.gcnt) (kept .time (by simp))
  have begun := congrArg State.jobs (State.modJob_of_find (s := s.readied r x) (j := j) (by rw [jobs]; exact found) fun y =>
    { y with
      running := true, began := (s.readied r x).now, host := r.host ++ mem, pack := State.packAtStart r y,
      core := if x.clock.isSome ∨ x.stage = 0x11 then (s.judgeReads r x.snap.reads).freeCore else none,
      wantsCore := y.clock.isSome &&
        (if x.clock.isSome ∨ x.stage = 0x11 then (s.judgeReads r x.snap.reads).freeCore else none).isNone,
      tiles := (s.readied r x).tileCount 5,
      copy := (if x.stage = 7 then (s.readied r x).copyPlan j x (r.host ++ mem) else ([], 0)).1,
      copyLost := (if x.stage = 7 then (s.readied r x).copyPlan j x (r.host ++ mem) else ([], 0)).2 })
  simp only [jobs, clock, State.freeCore_judgeReads] at begun
  refine ⟨_, Eq.trans ?_ begun, rfl, rfl, rfl, rfl, rfl, rfl, rfl, rfl, rfl, rfl, rfl⟩
  unfold State.jobBegun
  simp only [clock, State.freeCore_judgeReads]

theorem State.jobBegun_only (s : State) (j : Nat) (x : Job) (r : Run) (mem : HostMem) :
    s.changesOnly [.jobs, .tiles, .erw] (s.jobBegun j x r mem) :=
  only_after (modJob_only _ j _) (by simp) (only_mono (s.readied_only r x) (by simp))

/-- R143, R144: the job that starts next on the stage of a job. -/
def State.nextStart (s : State) (x : Job) : Option Nat := ((s.queuedOn x.stage).find? fun y => !s.hazard y.2).map Prod.fst

section
variable {s : State} {j : Nat} {x : Job} (found : Tab.find s.jobs j = some x)
include found

theorem State.jobStart_waits (mem : HostMem) (waits : s.nextStart x ≠ some j ∨ s.stageFree j x = false) :
    s.jobStart j mem = s := by
  unfold State.jobStart State.job?
  rw [found]
  dsimp only
  split
  · rfl
  · exact if_pos (by rcases waits with other | busy <;> simp_all [State.nextStart])

variable {r : Run} (run : Tab.find s.runs x.run = some r)
include run

theorem State.jobStart_starts (waits : x.running = false) (unended : x.ended = false) (may : s.mayWork r = true)
    (next : s.nextStart x = some j) (free : s.stageFree j x = true) (mem : HostMem) :
    s.jobStart j mem = s.jobBegun j x r mem := by
  have next' : ((s.queuedOn x.stage).find? fun y => !s.hazard y.2).map Prod.fst = some j := next
  unfold State.jobStart State.job?
  rw [found]
  dsimp only
  rw [run]
  exact if_neg (by simp [waits, unended, may, next', free])

end

/-! ### Free stages, hazards and the order of entries (R143, R144) -/

theorem State.stageFree_recorded {s : State} {j : Nat} {x : Job} (video : x.stage = 0x10) :
    s.stageFree j x = true ↔ x.clock ≠ none ∨ ∀ y ∈ s.jobs, y.2.stage = 0x10 → y.2.running = true → y.2.clock = none →
      y.2.count ≤ y.2.next := by
  have unlike : x.stage ≠ 0x11 := by rw [video]; decide
  unfold State.stageFree
  rw [if_neg unlike, if_pos video]
  simp [Option.isSome_iff_ne_none]

theorem State.stageFree_undealt {s : State} {j : Nat} {x : Job} (low : x.stage ≤ 9) (undealt : 7 ≤ x.stage ∨ x.snap.streamIn = true) :
    s.stageFree j x = true := by
  unfold State.stageFree
  rw [if_neg (by omega), if_neg (by omega)]
  rcases undealt with high | stream
  · simp [Job.dealt, show ¬ x.stage ≤ 6 by omega]
  · simp [Job.dealt, stream]

/-- R143: the unit at place `p` has its turn for a waiting job. -/
theorem State.turnOf_waiting {s : State} {j p : Nat} {x : Job} (low : 1 ≤ x.stage) (high : x.stage ≤ 6) (waits : x.running = false) :
    s.turnOf j { x with began := s.now } p = true ↔ ∀ y ∈ s.jobs,
      y.1 = j ∨ y.2.stage ≠ x.stage ∨ y.2.running = false ∨ y.2.snap.streamIn = true ∨ s.now < y.2.began ∨
        ∀ k < y.2.count, s.unitFor y.2.stage y.1 k ≠ p ∨ k < y.2.outs.length ∨ Tab.find y.2.done k ≠ none := by
  unfold State.turnOf
  rw [List.all_eq_true]
  refine forall₂_congr fun y _ => ?_
  by_cases stage : y.2.stage = x.stage
  · have dealt : y.2.dealt = !y.2.snap.streamIn := by simp [Job.dealt, stage, low, high]
    simp [waits, stage, dealt, State.shareDone, Job.finishedSample, Option.isSome_iff_ne_none, or_assoc]
  · simp [stage]

theorem State.stageFree_dealt {s : State} {j : Nat} {x : Job} (low : 1 ≤ x.stage) (high : x.stage ≤ 6)
    (sampled : x.snap.streamIn = false) (waits : x.running = false) :
    s.stageFree j x = true ↔ ∃ p < (s.unitsAt x.stage).length, ∀ y ∈ s.jobs,
      y.1 = j ∨ y.2.stage ≠ x.stage ∨ y.2.running = false ∨ y.2.snap.streamIn = true ∨ s.now < y.2.began ∨
        ∀ k < y.2.count, s.unitFor y.2.stage y.1 k ≠ p ∨ k < y.2.outs.length ∨ Tab.find y.2.done k ≠ none := by
  have dealt : x.dealt = true := by simp [Job.dealt, low, high, sampled]
  unfold State.stageFree
  rw [if_neg (by omega), if_neg (by omega), dealt, Bool.not_true, Bool.false_or, List.any_eq_true]
  simp only [List.mem_range, State.turnOf_waiting low high waits]

theorem State.hazard_iff {s : State} {x : Job} {r : Run} (run : Tab.find s.runs x.run = some r) :
    s.hazard x = true ↔ ∃ z ∈ s.runs, z.2.label = r.label ∧ z.2.gen = r.gen ∧ s.takenBefore z.1 x.run = true ∧
      ((∃ y ∈ s.jobs, y.2.run = z.1 ∧ y.2.ended = false ∧ conflicts y.2.snap x.snap = true) ∨
        ∃ p ∈ z.2.snaps.drop z.2.started.length, conflicts p x.snap = true) := by
  unfold State.hazard
  rw [run]
  simp only [State.jobsOf, List.any_eq_true, Bool.and_eq_true, Bool.or_eq_true, beq_iff_eq, List.mem_filter, Bool.not_eq_true',
    and_assoc]

theorem State.takenBefore_iff {s : State} {a b : Nat} {x y : Run} (first : Tab.find s.runs a = some x)
    (second : Tab.find s.runs b = some y) : s.takenBefore a b = true ↔
      x.tick < y.tick ∨ (x.tick = y.tick ∧ (x.queue < y.queue ∨ (x.queue = y.queue ∧ a < b))) := by
  unfold State.takenBefore
  rw [first, second]
  simp

/-! ### The end of a job (R141) -/

theorem State.find_stallClock_idle {s : State} {j : Nat} {y : Job} (found : Tab.find s.jobs j = some y) (idle : y.lanes = []) :
    Tab.find s.stallClock.jobs j = some y := by
  unfold State.stallClock
  simp only [Tab.find_mapVals, found, Option.map_some]
  split
  · rfl
  · cases y
    cases idle
    rfl

/-- R308: what remains of a SEAL job's sealed rows, once the job has ended, makes a manifest. -/
def Job.closes (x : Job) : Bool :=
  sealMan x.snap && !((x.sealed.drop (x.closed * sealManRows x.snap)).take (sealManRows x.snap)).isEmpty

theorem State.closable_final {s : State} {e j : Nat} {r : Run} {x : Job} (run : Tab.find s.runs e = some r)
    (found : Tab.find s.jobs j = some x) : (s.closable e j true).isSome = x.closes := by
  unfold State.closable Job.closes
  rw [run, found]
  simp only [Bool.true_or, Bool.and_true]
  have listed (c : Bool) (es : List (Nat × Bytes)) : (if c then some es else none).isSome = c := by cases c <;> rfl
  exact listed _ _

theorem State.manifestStalls_of_closed {s : State} {e j : Nat} {x : Job} (found : Tab.find s.jobs j = some x)
    (closed : x.closes = false) : s.manifestStalls e j true = false := by
  unfold State.manifestStalls
  cases run : Tab.find s.runs e with
  | none => simp [State.closable, run]
  | some r => simp [State.closable_final run found, closed]

theorem State.closeManifests_none {s : State} {e j : Nat} {final : Bool} (closed : s.closable e j final = none) (fuel : Nat) :
    s.closeManifests e j final fuel = s := by
  cases fuel with
  | zero => rfl
  | succ n =>
    unfold State.closeManifests
    rw [closed]

theorem State.closeManifests_full {s : State} {e j : Nat} {final : Bool} (stalls : s.manifestStalls e j final = true) (fuel : Nat) :
    s.closeManifests e j final fuel = s := by
  cases fuel with
  | zero => rfl
  | succ n =>
    unfold State.closeManifests
    split
    · exact if_pos stalls
    · rfl

/-- The part of a job that its last writes may change: what it has sent. -/
theorem State.find_jobFinish {s : State} {r : Run} {j : Nat} {x : Job} (found : Tab.find s.jobs j = some x)
    (closed : s.closable x.run j true = none) : ∃ outs, Tab.find (s.jobFinish r j x).jobs j = some { x with outs := outs } := by
  have kept {w : State} (same : w.jobs = s.jobs) : Tab.find w.jobs j = some { x with outs := x.outs } := by rw [same, found]
  unfold State.jobFinish
  split
  · split
    · exact ⟨_, kept (by simp : Part.jobs.same s (s.writeLists r x))⟩
    · exact ⟨_, kept (by simp : Part.jobs.same s (s.runExchange r x))⟩
    · exact ⟨_, kept (by simp : Part.jobs.same s (s.runPlan r x))⟩
  · have copied : Tab.find (s.runCopy j x).jobs j = some x :=
      (congrArg (fun t : Tab Job => Tab.find t j) (by simp : Part.jobs.same s (s.runCopy j x))).trans found
    unfold State.copyRecords
    split
    · let sent : Tab SampleOut := (List.range x.count).map fun k =>
        (k, { index := jobBase r x + k, values := Config.copyOut x.run ((s.runCopy j x).placeOf x.run j) k })
      have noted (w : State) (l : List Nat) : Part.jobs.same w
          (l.foldl (fun s k => match s.job? j with | some y => s.noteOutput j y k | none => s) w) := by
        refine List.foldlRecOn (motive := Part.jobs.same w) l _ rfl fun t ih k _ => ?_
        split
        · exact (same_noteOutput (by simp) ..).mpr ih
        · exact ih
      refine ⟨sent, (congrArg (fun t : Tab Job => Tab.find t j) (noted _ _)).trans ?_⟩
      rw [State.modJob_of_find copied]
      exact Tab.find_put_same ..
    · exact ⟨_, kept (by simp : Part.jobs.same s (s.runCopy j x))⟩
  · rw [State.closeManifests_none closed]
    exact ⟨_, kept rfl⟩
  · exact ⟨_, kept rfl⟩

/-- JOB_END once its job has written what it writes. -/
def State.jobOver (s : State) (r : Run) (j : Nat) (x : Job) : State :=
  (((s.jobFinish r j x).modJob j fun y => { y with running := false, ended := true, lanes := [], done := [] }).takeAll j x).unitDone
    x.stage

section
variable {s : State} {j : Nat} {x : Job} {r : Run} (found : Tab.find s.jobs j = some x) (run : Tab.find s.runs x.run = some r)
include found run

theorem State.endJob_eq : s.endJob j =
    if x.running && !x.ended && s.mayWork r && s.jobDone r j x then
      (if (s.jobFinish r j x).manifestStalls x.run j true then s.jobFinish r j x else s.jobOver r j x)
    else s := by
  unfold State.endJob State.job?
  rw [found]
  dsimp only
  rw [run]
  rfl

theorem State.endJob_full (stage : x.stage = 9) (stalls : s.manifestStalls x.run j true = true) : s.endJob j = s := by
  have finishes : s.jobFinish r j x = s := by
    unfold State.jobFinish
    simp only [stage]
    exact State.closeManifests_full stalls _
  rw [State.endJob_eq found run, finishes, stalls]
  simp

theorem State.endJob_closed (runs : x.running = true) (unended : x.ended = false) (may : s.mayWork r = true)
    (done : s.jobDone r j x = true) (closed : s.closable x.run j true = none) :
    s.endJob j = s.jobOver r j x ∧
      ∃ outs, Tab.find (s.jobOver r j x).jobs j =
        some { x with outs := outs, running := false, ended := true, lanes := [], done := [] } := by
  obtain ⟨outs, finished⟩ := State.find_jobFinish (r := r) found closed
  have closes : x.closes = false := by rw [← State.closable_final run found, closed]; rfl
  have room := State.manifestStalls_of_closed (e := x.run) finished closes
  refine ⟨?_, outs, ?_⟩
  · rw [State.endJob_eq found run, if_pos (by simp [runs, unended, may, done]), room]
    rfl
  · let done := (s.jobFinish r j x).modJob j fun y => { y with running := false, ended := true, lanes := [], done := [] }
    have jobs : (s.jobOver r j x).jobs = done.jobs := (by simp : Part.jobs.same done ((done.takeAll j x).unitDone x.stage))
    rw [jobs]
    unfold done
    rw [State.modJob_of_find finished]
    exact Tab.find_put_same ..

end

theorem State.jobOver_only (s : State) (r : Run) (j : Nat) {x : Job} (pack : x.stage ≠ 6) (copy : x.stage ≠ 7) (sealing : x.stage ≠ 9) :
    s.changesOnly [.jobs, .tiles] (s.jobOver r j x) := by
  have finishes : s.jobFinish r j x = s := by
    unfold State.jobFinish
    split <;> simp_all
  refine only_of_same fun π apart => ?_
  unfold State.jobOver State.takeAll
  rw [finishes, if_neg copy]
  simp_all

/-- R255: the exchange message of a MODE 1 job is among the outputs. -/
theorem State.exchange_mem (s : State) (r : Run) (j : Nat) {x : Job} (pack : x.stage = 6) (mode : (packCfg x.snap).mode = 1) :
    .interior (packCfg x.snap).exch (exchMessage (packCfg x.snap) r.step (jobBase r x) ((List.range x.count).map fun k =>
      limitItem (packCfg x.snap) (s.limitOf r) (lenItem (packCfg x.snap) (s.lenWords x k)))) ∈ (s.jobOver r j x).outputs := by
  have finishes : s.jobFinish r j x = s.runExchange r x := by
    unfold State.jobFinish
    simp only [pack, mode]
  have outputs : (s.jobOver r j x).outputs = (s.runExchange r x).outputs := by
    unfold State.jobOver
    rw [finishes]
    have ends (w : State) (f : Job → Job) : Part.outputs.same w (((w.modJob j f).takeAll j x).unitDone x.stage) := by simp
    exact ends _ _
  have voided (w : State) (l : List Nat) (c : Nat → Prop) (d : DecidablePred c) (i : Nat → Nat) (n : Nat → Nat) :
      Part.outputs.same w (l.foldl (fun s k => if c k then s else s.voidSample x.run (i k) (n k)) w) := by
    refine List.foldlRecOn (motive := Part.outputs.same w) l _ rfl fun t ih k _ => ?_
    split
    · exact ih
    · exact (same_voidSample (by simp) ..).mpr ih
  rw [outputs]
  refine (voided _ _ _ _ _ _ : (s.runExchange r x).outputs = _) ▸ ?_
  exact List.mem_cons_self

/-- Settles O52: a start and an end are each one conditional; the stages' readiness, the hazards and the order are stated once. -/
theorem stageJobs : Obligations.StageJobs := by
  unfold Obligations.StageJobs
  refine ⟨?_, ?_, ?_, ?_, ?_, ?_⟩
  · intro s u t j mem x r h found run waits unended may next free
    have starts : exec (.stageJobStart t j mem) s = .next (u.jobStart j mem).stallClock.intPoll :=
      actStalls_of_acts h fun s => s.jobStart j mem
    rw [State.jobStart_starts found run waits unended may next free] at starts
    obtain ⟨y, jobs, running, ended, began, host, entry, stage, snap, place, outs, core, wants⟩ := State.jobBegun_jobs found r mem
    refine ⟨_, y, starts, jobs, running, ended.trans unended, began, host, entry, stage, snap, place, outs, core, ?_,
      u.jobBegun_only j x r mem⟩
    rw [wants]
    cases live : x.clock.isSome <;> simp
  · intro s u t j mem x h found waits
    have starts : exec (.stageJobStart t j mem) s = .next (u.jobStart j mem).stallClock.intPoll :=
      actStalls_of_acts h fun s => s.jobStart j mem
    rw [starts, State.jobStart_waits found mem waits]
  · intro u j x
    exact ⟨fun encoder => if_pos encoder, State.stageFree_recorded, State.stageFree_undealt, State.stageFree_dealt⟩
  · exact fun u x r run => State.hazard_iff run
  · exact fun u a b x y first second => State.takenBefore_iff first second
  · intro s u t j x r h found run
    have ends : exec (.jobEnd t j) s = .next (u.endJob j).stallClock.intPoll := actStalls_of_acts h fun s => s.endJob j
    refine ⟨fun unfit => ?_, fun running unended may done => ⟨fun stage open_ full room => ?_, fun closed => ?_⟩⟩
    · rw [ends, State.endJob_eq found run, if_neg]
      rcases unfit with h | h | h | h <;> simp [h]
    · have stalls : u.manifestStalls x.run j true = true := by
        unfold State.manifestStalls
        simp [found, full, room, Option.isSome_iff_ne_none, open_]
      rw [ends, State.endJob_full found run stage stalls]
    · obtain ⟨over_, outs, ended⟩ := State.endJob_closed found run running unended may done closed
      rw [over_] at ends
      refine ⟨_, _, ends, State.find_stallClock_idle ended rfl, rfl, rfl, rfl, rfl, fun pack copy sealing => ?_, fun pack mode => ?_⟩
      · exact only_of_same fun π apart => (same_stallClock (by simp_all)).mpr (u.jobOver_only r j pack copy sealing π apart)
      · have outputs : (u.jobOver r j x).stallClock.outputs = (u.jobOver r j x).outputs :=
          (by simp : Part.outputs.same (u.jobOver r j x) _)
        rw [outputs]
        exact u.exchange_mem r j pack mode

end Sys2Proof.Machine

/-! ## Error responses at the ports (R490) -/

namespace Sys2Proof.Machine

theorem exec_portError {s u : State} {t : Nat} (h : s.actsAt t u) (x : PortTxn) :
    exec (.portErrorResponse t x) s = .next (u.portError x).stallClock.intPoll :=
  actStalls_of_acts h fun s => s.portError x

/-- The record of an error response changes the recorder alone. -/
theorem State.portRecord_erw (s : State) : ∃ e, s.portRecord = { s with erw := e } := State.record_erw s 0 0x02FF 1 _

/-! ### Entries that are not read -/

theorem State.fetchEntry_unread {s : State} {q : Nat} (work : q ≠ 0)
    (state : (s.queue q).state = .enabled ∨ (s.queue q).state = .disabling)
    (opened : (s.label (s.queue q).label).state = .opened) (room : (s.queue q).cache.length < 16)
    (posted : (s.queue q).cache.length < (s.queue q).posted) :
    s.portRecord.fetchEntry q none =
      s.portRecord.modQueue q fun x => { x with cache := x.cache ++ [{ entry := none, stamp := s.sil.nextGen }] } := by
  obtain ⟨e, recorded⟩ := s.portRecord_erw
  rw [recorded]
  exact State.fetchEntry_work work state opened room posted

/-- An entry kept as unread completes with BAD_LIST when it is taken. -/
theorem State.workRow_unread {s : State} {q : Nat} {xs : List (Option Bytes)} (work : q ≠ 0) (turn : s.nextQueue = some q)
    (front : (s.queue q).cache.map Cached.entry = none :: xs) (op : Nat) (f : Bytes → State → State) :
    s.workRow q op f = s.takeFront q [] false (some complOfError) := by
  unfold State.workRow
  dsimp only
  rw [if_neg (by simp [work, turn]), front]

theorem State.workRow_takes {s u : State} {t q op : Nat} {b : Bytes} (h : s.takesEntry t q op b u) (f : Bytes → State → State) :
    u.workRow q op f = f b u := by
  obtain ⟨-, work, turn, front, running, check, opcode⟩ := h
  obtain ⟨rest, cache⟩ : ∃ rest, (u.queue q).cache.map Cached.entry = some b :: rest := by
    cases cache : (u.queue q).cache.map Cached.entry with
    | nil => simp [cache] at front
    | cons x xs => exact ⟨xs, by simpa [cache] using front⟩
  unfold State.workRow
  dsimp only
  rw [if_neg (by simp [work, turn]), cache]
  simp [running, check, opcode]

/-! ### Records that are not read (R51) -/

/-- R51, R490: how an admin command whose record is not read completes. -/
def State.recordUnread (b : Bytes) (s : State) : State :=
  let s := s.portRecord
  if entOp b = 0x08 then (s.modSil fun x => { x with staged := none }).refuse b { reason := 1, section_ := 0, entry := 0 }
  else if entOp b = 0x0A then s.refuse b { reason := 1, section_ := 0, entry := 0 }
  else s.adminDone b 0x12 0

theorem exec_adminRead {s u : State} {t op : Nat} {b : Bytes} (h : s.takesAdmin t op b u) (reads : readsRecord op = true) :
    entOp b = op ∧ exec (.portErrorResponse t .adminRead) s = .next (u.recordUnread b).stallClock.intPoll := by
  obtain ⟨v, acts, row⟩ := State.takesAdmin_row h State.recordUnread
  obtain ⟨v', acts', -, -, -, -, front, -, opcode, -⟩ := h
  obtain ⟨-, rfl⟩ := acts
  obtain ⟨acts, rfl⟩ := acts'
  obtain ⟨rest, list⟩ : ∃ rest, (s.tickTo t).qg.todo = some b :: rest := by
    cases list : (s.tickTo t).qg.todo with
    | nil => rw [list] at front; cases front
    | cons x xs => rw [list] at front; exact ⟨xs, congrArg (· :: xs) (Option.some.inj front)⟩
  refine ⟨opcode, ?_⟩
  rw [exec_portError ⟨acts, rfl⟩, ← row]
  have fails : (s.tickTo t).adminReadFails = (s.tickTo t).adminRow (entOp b) State.recordUnread := by
    unfold State.adminReadFails
    rw [list]
    exact if_pos (by rw [opcode]; exact reads)
  rw [show (s.tickTo t).portError .adminRead = _ from fails, opcode]

/-! ### Tail drop (R457, R463) -/

/-- A view of a run shows the same of every entry in execution in both states. -/
def State.keepsRuns {α : Type} (v : Run → α) (s w : State) : Prop := ∀ e, (Tab.find w.runs e).map v = (Tab.find s.runs e).map v

section
variable {α : Type} {v : Run → α}

theorem State.keepsRuns_of_same {s w : State} (h : Part.runs.same s w) : s.keepsRuns v w := fun e => by rw [show w.runs = _ from h]

theorem State.keepsRuns.trans {s w x : State} (h : s.keepsRuns v w) (g : w.keepsRuns v x) : s.keepsRuns v x :=
  fun e => (g e).trans (h e)

theorem State.keepsRuns_modRun (s : State) (e : Nat) {f : Run → Run} (hf : ∀ r, v (f r) = v r) :
    s.keepsRuns v (s.modRun e f) := fun k => by
  cases here : Tab.find s.runs e with
  | none => unfold State.modRun; rw [here]
  | some r =>
    rw [State.runs_modRun here]
    by_cases same : k = e
    · rw [same, Tab.find_put_same, here]
      exact congrArg some (hf r)
    · rw [Tab.find_put_other _ _ _ _ same]

variable (hv : ∀ r a b, v { r with scratch := a, oob := b } = v r)
include hv

theorem State.keepsRuns_store (s : State) (e stage : Nat) (d : Desc) (m : Memory) : s.keepsRuns v (s.store e stage d m) := by
  have emitted (l : List (Nat × Bytes)) : s.keepsRuns v (l.foldl (fun s x => s.emit (.interior x.1 x.2)) s) :=
    State.keepsRuns_of_same (by simp)
  unfold State.store
  split
  · split
    · split
      · exact State.keepsRuns_of_same rfl
      · exact State.keepsRuns_of_same (by simp)
    · exact State.keepsRuns_of_same rfl
  · exact s.keepsRuns_modRun e fun r => hv r _ r.oob
  · exact emitted _

theorem State.keepsRuns_countOob (s : State) (e n : Nat) : s.keepsRuns v (s.countOob e n) :=
  s.keepsRuns_modRun e fun r => hv r r.scratch _

theorem State.keepsRuns_putCopy (s : State) (x : Job) (f : Nat → Bool) : s.keepsRuns v (s.putCopy x f) := by
  unfold State.putCopy
  split
  · exact State.keepsRuns_of_same rfl
  · exact (s.keepsRuns_store hv _ _ _ _).trans (State.keepsRuns_countOob hv _ _ _)

theorem State.keepsRuns_dropCopies (s : State) (e : Nat) : s.keepsRuns v (s.dropCopies e) :=
  List.foldlRecOn (motive := s.keepsRuns v) _ _ (State.keepsRuns_of_same rfl) fun w ih _ _ =>
    ih.trans (w.keepsRuns_putCopy hv _ _)

end

/-- R457: a Tail drop up to the end of the entry. -/
def State.dropping (s : State) (e : Nat) : State :=
  ((((s.dropCopies e).dropEntryLoops e).modRun e fun r => { r with dropped := true }).dropSeals e).dropManifests e

theorem State.dropping_run {s : State} {e : Nat} {r : Run} (here : Tab.find s.runs e = some r) :
    ∃ r', Tab.find (s.dropping e).runs e = some r' ∧ r'.queue = r.queue ∧ r'.dropped = true := by
  have copied := s.keepsRuns_dropCopies (v := Run.queue) (fun _ _ _ => rfl) e e
  rw [here, Option.map_some, Option.map_eq_some_iff] at copied
  obtain ⟨r', found, queue⟩ := copied
  have found' : Tab.find ((s.dropCopies e).dropEntryLoops e).runs e = some r' :=
    (congrArg (fun t : Tab Run => Tab.find t e) (by simp : Part.runs.same (s.dropCopies e) _)).trans found
  have left (w : State) : Part.runs.same w ((w.dropSeals e).dropManifests e) := by simp
  refine ⟨{ r' with dropped := true }, ?_, queue, rfl⟩
  refine (congrArg (fun t : Tab Run => Tab.find t e) (left _)).trans ?_
  rw [State.runs_modRun found']
  exact Tab.find_put_same ..

theorem State.seals_dropSeals (s : State) (e : Nat) : (s.dropSeals e).seals = s.seals.filter fun x => x.2.run != e := by
  have left {w : State} (kept : w.seals = s.seals) : (w.seals.filter fun x => x.2.run != e) = s.seals.filter fun x => x.2.run != e := by
    rw [kept]
  have cleared (l : List Nat) (m : List (Nat × SealSpawn)) (f : Region → Region) : Part.seals.same s
      (m.foldl (fun s x => s.modRegion x.2.region f) (l.foldl (fun s a => s.emit (.interior a (zeroBytes 64))) s)) := by simp
  have unkeyed (w : State) (l : List Nat) (f : Tile → Tile) : Part.seals.same w (l.foldl (fun s id => s.modTile id f) w) := by simp
  unfold State.dropSeals
  dsimp only
  split
  · exact left (cleared _ _ _)
  · exact left ((unkeyed _ _ _).trans (cleared _ _ _))

theorem State.dropRun_facts {s : State} {e : Nat} {r : Run} (here : Tab.find s.runs e = some r) :
    Tab.find (s.dropRun e).runs e = none ∧ (∀ x ∈ (s.dropRun e).jobs, x.2.run ≠ e) ∧ (∀ x ∈ (s.dropRun e).seals, x.2.run ≠ e) ∧
      (∀ x ∈ (s.dropRun e).pke.held, x.2.run ≠ e) ∧
      (s.faults.halt = false → ∀ x ∈ (s.queue r.queue).taken, x.serial = e → x.compl = none →
        ∃ y ∈ ((s.dropRun e).queue r.queue).taken, y.serial = e ∧ ∃ c, y.compl = some c ∧ c.status = 0x60) := by
  obtain ⟨r', found, queue, dropped⟩ := State.dropping_run here
  obtain ⟨runs, jobs, taken⟩ := State.endRun_of_find found
  have ends : s.dropRun e = (s.dropping e).endRun e := rfl
  refine ⟨?_, fun x mem => ?_, fun x mem => ?_, fun x mem => ?_, fun working x mem serial unformed => ?_⟩
  · rw [ends, runs, Tab.find_del_same]
  · rw [ends, jobs] at mem
    simpa using (List.mem_filter.mp mem).2
  · have seals : (s.dropRun e).seals = (((((s.dropCopies e).dropEntryLoops e).modRun e fun r => { r with dropped := true }).dropSeals
        e)).seals := (by simp : Part.seals.same (State.dropSeals _ e) ((State.dropManifests (State.dropSeals _ e) e).endRun e))
    rw [seals, State.seals_dropSeals] at mem
    simpa using (List.mem_filter.mp mem).2
  · have held : (s.dropRun e).pke = (s.dropping e).pke := (by simp : Part.pke.same (s.dropping e) ((s.dropping e).endRun e))
    rw [held] at mem
    simpa using (List.mem_filter.mp mem).2
  · have qg : (s.dropping e).qg = s.qg := (by simp [State.dropping] : Part.qg.same s (s.dropping e))
    have faults : (s.dropping e).faults = s.faults := (by simp [State.dropping] : Part.faults.same s (s.dropping e))
    rw [queue, State.queue_congr qg, faults] at taken
    obtain ⟨y, stands, serial', -, formed⟩ := mem_setNdc_setCompl mem serial unformed
    exact ⟨y, by rw [ends, taken]; exact stands, serial', _, formed, by simp [Run.compl, Run.status, working, dropped]⟩

/-! ### A list whose data is not read -/

theorem State.unrun_facts {s : State} {e : Nat} {r : Run} (here : Tab.find s.runs e = some r) :
    Tab.find (s.unrun e).runs e = none ∧
      (∀ x ∈ (s.queue r.queue).taken, x.serial = e → x.compl = none → ∃ y ∈ ((s.unrun e).queue r.queue).taken, y.serial = e ∧
        y.ran = false ∧ y.compl = some (complOf (takenBytes e (s.queue r.queue).taken) 0x12 0)) := by
  let f : Queue → Queue := fun q => { q with
    taken := setCompl e (complOf (takenBytes e (s.queue r.queue).taken) 0x12 0)
      (q.taken.map fun t => if t.serial = e then { t with ran := false, ledger := none } else t) }
  have ends : s.unrun e = { s.modQueue r.queue f with
      runs := Tab.del (s.modQueue r.queue f).runs e
      jobs := (s.modQueue r.queue f).jobs.filter fun j => j.2.run != e } := by
    unfold State.unrun
    rw [here]
  refine ⟨?_, fun x mem serial unformed => ?_⟩
  · rw [ends]
    exact Tab.find_del_same ..
  · have queue : (s.unrun e).queue r.queue = (s.modQueue r.queue f).queue r.queue :=
      State.queue_congr (by rw [ends]) r.queue
    rw [queue, State.queue_modQueue_same]
    refine ⟨{ x with ran := false, ledger := none, compl := some (complOf (takenBytes e (s.queue r.queue).taken) 0x12 0) }, ?_,
      serial, rfl, rfl⟩
    simp only [f, setCompl, List.map_map, List.mem_map, Function.comp_apply]
    exact ⟨x, mem, by simp [serial, unformed]⟩

theorem State.listReadFails_started {s : State} {e : Nat} {r : Run} (here : Tab.find s.runs e = some r)
    (started : ∃ j ∈ s.jobs, j.2.run = e ∧ (j.2.running = true ∨ j.2.ended = true)) :
    s.listReadFails e = s.portRecord.dropRun e := by
  unfold State.listReadFails
  rw [here, if_neg (by simp), if_pos]
  simpa using started

theorem State.listReadFails_unstarted {s : State} {e : Nat} {r : Run} (here : Tab.find s.runs e = some r)
    (unstarted : ∀ j ∈ s.jobs, j.2.run = e → j.2.running = false ∧ j.2.ended = false) :
    s.listReadFails e = s.portRecord.unrun e := by
  unfold State.listReadFails
  rw [here, if_neg (by simp), if_neg]
  simpa using unstarted

/-! ### A completion that is not written -/

theorem State.complFails_due {s : State} {q : Nat} (due : s.complDue q = true) : (s.complFails q).queue q =
    { s.queue q with writeFails := (s.queue q).writeFails + 1, stuck := decide (4 ≤ (s.queue q).writeFails + 1) } := by
  obtain ⟨e, recorded⟩ := s.portRecord_erw
  unfold State.complFails
  rw [if_pos due, State.queue_modQueue_same, recorded]
  rfl

/-! ### A flush that is not written -/

theorem State.unacked_modChans (s : State) (l : List Nat) (f : State → Channel → Channel) :
    (l.foldl (fun s c => s.modChan c (f s)) s).erw.unacked = s.erw.unacked ∧
      (l.foldl (fun s c => s.modChan c (f s)) s).erw.evt = s.erw.evt :=
  List.foldlRecOn (motive := fun w : State => w.erw.unacked = s.erw.unacked ∧ w.erw.evt = s.erw.evt) l _ ⟨rfl, rfl⟩
    fun _ ih _ _ => ih

theorem W1c.bitOf_set {w : Nat} (e : W1c w) {i : Nat} (inside : i < w) (now : Nat) : bitOf (e.set i now).bits.toNat i = true := by
  rw [bitOf_toNat]
  exact getLsbD_putBit_same e.bits inside true

/-- R476, R477: a flush that begins leaves the acknowledgements, and of the recorder's events it sets at most its own. -/
theorem State.issueFlush_notes (s : State) (trigger : Nat) : (s.issueFlush trigger).erw.unacked = s.erw.unacked ∧
    (bitOf s.erw.evt.bits.toNat 3 = true → bitOf (s.issueFlush trigger).erw.evt.bits.toNat 3 = true) := by
  obtain ⟨unacked, evt⟩ := s.unacked_modChans clearable fun s => closeTaken s.now
  unfold State.issueFlush
  split
  · exact ⟨rfl, fun noted => noted⟩
  split
  · exact ⟨rfl, fun _ => W1c.bitOf_set _ (by decide) _⟩
  · dsimp only
    split
    · exact ⟨unacked, fun noted => by rwa [modPwr_erw, modErw_erw, evt]⟩
    · exact ⟨unacked, fun noted => by rwa [modErw_erw, evt]⟩

theorem State.triggerFlush_unacked (s : State) (trigger : Nat) : (s.triggerFlush trigger).erw.unacked = s.erw.unacked := by
  unfold State.triggerFlush
  split
  · rfl
  · exact (s.issueFlush_notes trigger).1

theorem State.record_unacked (s : State) (c code severity : Nat) (payload : Bytes) :
    (s.record c code severity payload).erw.unacked = s.erw.unacked := by
  have put : (s.putRecord c code severity payload).erw.unacked = s.erw.unacked := by
    unfold State.putRecord
    dsimp only
    split
    · rfl
    · split <;> split <;> rfl
  have faults (w : State) {fires : Prop} {d : Decidable fires} (f : Erw → Erw) (same : (f w.erw).unacked = w.erw.unacked) :
      (if fires then (w.modErw f).triggerFlush 1 else w).erw.unacked = w.erw.unacked := by
    split
    · exact (State.triggerFlush_unacked (w.modErw f) 1).trans same
    · rfl
  have full (w : State) {fires : Prop} {d : Decidable fires} : (if fires then w.triggerFlush 3 else w).erw.unacked = w.erw.unacked := by
    split
    · exact w.triggerFlush_unacked 3
    · rfl
  unfold State.record
  dsimp only
  split
  · exact put
  · exact ((full _).trans (faults _ _ rfl)).trans put

/-- The flush that runs ends unwritten. -/
def State.flushFailed (s : State) : State :=
  let s := s.portRecord.modErw fun e => { e with flush := none, evt := e.evt.set 3 s.now }
  if s.pwr.flushActive then s.modPwr fun p => { p with flushActive := false } else s

theorem State.flushFailed_facts (s : State) :
    bitOf s.flushFailed.erw.evt.bits.toNat 3 = true ∧ s.flushFailed.erw.unacked = s.erw.unacked ∧ s.flushFailed.qg = s.qg ∧
      ∀ k, k ≠ 0 → (s.flushFailed.chan k).records.map Record.seq = (s.chan k).records.map Record.seq := by
  let failed := s.portRecord.modErw fun e => { e with flush := none, evt := e.evt.set 3 s.now }
  have erw : s.flushFailed.erw = failed.erw := by
    unfold State.flushFailed
    dsimp only
    split <;> rfl
  have qg : s.flushFailed.qg = s.qg := by
    obtain ⟨e, recorded⟩ := s.portRecord_erw
    unfold State.flushFailed
    rw [recorded]
    dsimp only
    split <;> rfl
  refine ⟨?_, ?_, qg, fun k ops => ?_⟩
  · rw [erw]
    exact W1c.bitOf_set _ (by decide) _
  · rw [erw]
    exact State.record_unacked s 0 0x02FF 1 _
  · have agree := record_chan s 0 0x02FF 1 (leBytes 4 490 ++ leBytes 4 (Config.ruleArg 490 s.now)) k
    rw [putRecord_other _ _ _ _ _ _ ops] at agree
    have chan : s.flushFailed.chan k = failed.chan k := congrArg (fun e : Erw => e.chans.getD k {}) erw
    rw [chan]
    exact chanAgree_map Record.seq (fun _ => rfl) agree

theorem State.nextFlush_facts (s : State) : s.nextFlush.erw.unacked = s.erw.unacked ∧
    (bitOf s.erw.evt.bits.toNat 3 = true → bitOf s.nextFlush.erw.evt.bits.toNat 3 = true) ∧
    ∀ k, (s.nextFlush.chan k).records.map Record.seq = (s.chan k).records.map Record.seq := by
  unfold State.nextFlush
  split
  · exact ⟨rfl, fun noted => noted, fun _ => rfl⟩
  split
  · exact ⟨rfl, fun noted => noted, fun _ => rfl⟩
  next trigger _ _ =>
    let begun := s.modErw fun e => { e with wait := none }
    obtain ⟨unacked, evt⟩ := begun.issueFlush_notes trigger
    exact ⟨unacked, evt, fun k => chanAgree_map Record.seq (fun _ => rfl) (issueFlush_chan begun trigger k)⟩

theorem State.flushFails_idle {s : State} {f : Flush} (runs : s.erw.flush = some f) (idle : s.qg.run = none) :
    s.flushFails = s.flushFailed.nextFlush := by
  have waits : s.flushFailed.flushWaiters = s.flushFailed := State.flushWaiters_idle (by rw [s.flushFailed_facts.2.2.1, idle])
  have fails : s.flushFails = s.flushFailed.flushWaiters.nextFlush := by
    unfold State.flushFails
    rw [runs]
    rfl
  rw [fails, waits]

/-! ### A job's result that is not written -/

theorem State.pkResultFails_host {s : State} {p : PkJob} {b : Bytes} (runs : s.pke.running = some p) (host : p.client = .host)
    (over_ : p.start + p.dur ≤ s.now) (run : s.qg.run = some ⟨b, .pkJob⟩) :
    s.pkResultFails.qg.run = none ∧ s.pkResultFails.qg.due = s.qg.due ++ [complOf b 0x60 0] := by
  obtain ⟨e, recorded⟩ := s.portRecord_erw
  have fails : s.pkResultFails = (s.portRecord.finishAdmin 0x60 0).modPke fun q => q.afterJob p := by
    unfold State.pkResultFails
    rw [runs]
    exact if_pos ⟨over_, by simp [State.waiting, run, PkJob.writes, host]⟩
  rw [fails, State.finishAdmin_pkJob (b := b) (by rw [recorded]; exact run), recorded]
  exact ⟨rfl, rfl⟩

/-! ### An output that is not written -/

theorem State.portError_output {s : State} {e : Nat} {r : Run} (here : Tab.find s.runs e = some r) :
    s.portError (.output e) = s.portRecord.dropRun e := by
  unfold State.portError
  dsimp only
  exact if_pos (by simp [here])

theorem State.portError_manifest {s : State} {n : Nat} {m : Manifest} (held : Tab.find s.pke.held n = some m) :
    s.portError (.manifest n) = s.portRecord.dropRun m.run := by
  unfold State.portError
  dsimp only
  rw [held]

/-- R490: the clauses about an entry in execution. -/
theorem portErrors_entries {s u : State} {t e : Nat} {r : Run} (h : s.actsAt t u) (here : Tab.find u.runs e = some r) :
    (exec (.portErrorResponse t (.output e)) s = .next (u.portRecord.dropRun e).stallClock.intPoll) ∧
    (∀ n m, Tab.find u.pke.held n = some m → m.run = e →
      exec (.portErrorResponse t (.manifest n)) s = .next (u.portRecord.dropRun e).stallClock.intPoll) ∧
    ((∃ j ∈ u.jobs, j.2.run = e ∧ (j.2.running = true ∨ j.2.ended = true)) →
      exec (.portErrorResponse t (.listRead e)) s = .next (u.portRecord.dropRun e).stallClock.intPoll) ∧
    ((∀ j ∈ u.jobs, j.2.run = e → j.2.running = false ∧ j.2.ended = false) →
      ∃ w : State, exec (.portErrorResponse t (.listRead e)) s = .next w.intPoll ∧ Tab.find w.runs e = none ∧
        (∀ x ∈ (u.queue r.queue).taken, x.serial = e → x.compl = none → ∃ y ∈ (w.queue r.queue).taken, y.serial = e ∧
          y.ran = false ∧ y.compl = some (complOf (takenBytes e (u.queue r.queue).taken) 0x12 0))) := by
  refine ⟨?_, fun n m held entry => ?_, fun started => ?_, fun unstarted => ?_⟩
  · rw [exec_portError h, State.portError_output here]
  · rw [exec_portError h, State.portError_manifest held, entry]
  · rw [exec_portError h]
    exact congrArg (fun w : State => Host.Outcome.next w.stallClock.intPoll) (State.listReadFails_started here started)
  · have run := exec_portError h (.listRead e)
    rw [show u.portError (.listRead e) = _ from State.listReadFails_unstarted here unstarted] at run
    obtain ⟨x, recorded⟩ := u.portRecord_erw
    obtain ⟨gone, completes⟩ := State.unrun_facts (s := u.portRecord) (e := e) (r := r) (by rw [recorded]; exact here)
    have queue : (u.portRecord.unrun e).stallClock.queue r.queue = (u.portRecord.unrun e).queue r.queue :=
      State.queue_congr (by simp : Part.qg.same (u.portRecord.unrun e) _) r.queue
    have before : u.portRecord.queue r.queue = u.queue r.queue := by rw [recorded]; rfl
    refine ⟨_, run, gone, ?_⟩
    rw [queue]
    rwa [before] at completes

/-- Settles O53: each transaction's outcome is its branch of `portError`, after a record that changes the recorder alone. -/
theorem portErrors : Obligations.PortErrors := by
  unfold Obligations.PortErrors
  refine ⟨fun u => rfl, fun s u t q h => ⟨exec_portError h _, exec_portError h _⟩, ?_, ?_, ?_, ?_,
    fun s u t e r h here => portErrors_entries h here, fun u e r here => State.dropRun_facts here, ?_, ?_, ?_, ?_, ?_⟩
  · intro s u t q h work state opened room posted
    rw [exec_portError h]
    exact congrArg (fun w : State => Host.Outcome.next w.stallClock.intPoll)
      (State.fetchEntry_unread (queueNumber_ne_zero work) state opened room posted)
  · intro s u t q xs list mem h work turn front c row
    have unread (op : Nat) (f : Bytes → State → State) : act t s (fun s => s.workRow q.toNat op f) =
        .next (u.takeFront q.toNat [] false (some complOfError)).intPoll := by
      rw [act_of_acts h, State.workRow_unread (queueNumber_ne_zero work) turn front]
    simp only [List.mem_cons, List.not_mem_nil, or_false] at row
    rcases row with rfl | rfl | rfl <;> exact unread _ _
  · intro s u t op b h reads
    obtain ⟨opcode, run⟩ := exec_adminRead h reads
    unfold State.recordUnread at run
    rw [opcode] at run
    refine ⟨fun image micro => ?_, fun image => ?_, fun micro => ?_⟩
    · rw [run, if_neg image, if_neg micro]
    · rw [run, if_pos image]
    · rw [run, if_neg (by rw [micro]; decide), if_pos micro]
  · intro s u t q b h
    rw [exec_portError h.1]
    exact congrArg (fun w : State => Host.Outcome.next w.stallClock.intPoll)
      (State.workRow_takes h fun b s => s.portRecord.takeFront q.toNat b false (some (complOf b 0x12 0)))
  · intro s u t j k x l h found lane
    have fails : u.chunkReadFails j k = u.portRecord.chunkRead j k [] := by
      unfold State.chunkReadFails State.job?
      rw [found]
      exact if_pos (by simp [lane])
    rw [exec_portError h]
    exact congrArg (fun w : State => Host.Outcome.next w.stallClock.intPoll) fails
  · intro s u t j x h found unread next
    have fails : u.chunkReadFails j x.next = u.portRecord.sampleStart j [] := by
      unfold State.chunkReadFails State.job?
      rw [found]
      exact (if_neg (by simp [unread])).trans (if_pos ⟨rfl, next⟩)
    rw [exec_portError h]
    exact congrArg (fun w : State => Host.Outcome.next w.stallClock.intPoll) fails
  · intro s u t q h due
    have queue : (u.complFails q.toNat).stallClock.queue q.toNat = (u.complFails q.toNat).queue q.toNat :=
      State.queue_congr (by simp : Part.qg.same (u.complFails q.toNat) _) q.toNat
    refine ⟨_, exec_portError h (.completion q), ?_⟩
    simp only [State.portError, queue, State.complFails_due due]
    exact ⟨trivial, decide_eq_true_iff, trivial, trivial⟩
  · intro s u t f h runs idle waits
    have fails : u.portError .flushBuffer = u.flushFailed.nextFlush := State.flushFails_idle runs idle
    obtain ⟨noted, unacked, -, chans⟩ := u.flushFailed_facts
    obtain ⟨unacked', noted', chans'⟩ := u.flushFailed.nextFlush_facts
    have erw : u.flushFailed.nextFlush.stallClock.erw = u.flushFailed.nextFlush.erw :=
      (by simp : Part.erw.same u.flushFailed.nextFlush _)
    refine ⟨_, (exec_portError h .flushBuffer).trans (by rw [fails]), ?_, ?_, fun k ops => ?_⟩
    · rw [erw]
      exact noted' noted
    · rw [erw, unacked', unacked]
    · exact (congrArg (fun e : Erw => (e.chans.getD k {}).records.map Record.seq) erw).trans ((chans' k).trans (chans k ops))
  · intro s u t p b h runs host ended run
    obtain ⟨idle, due⟩ := State.pkResultFails_host runs host ended run
    have qg : u.pkResultFails.stallClock.qg = u.pkResultFails.qg := (by simp : Part.qg.same u.pkResultFails _)
    exact ⟨_, exec_portError h .pkResult, (congrArg Qg.run qg).trans idle, (congrArg Qg.due qg).trans due⟩

end Sys2Proof.Machine

/-! ## Samples in work (R86, R87, R261, R262) -/

namespace Sys2Proof.Machine

theorem Tab.length_put {α : Type} (t : Tab α) (k : Nat) (v : α) :
    (Tab.put t k v).length = t.length ∨ (Tab.put t k v).length = t.length + 1 := by
  induction t with
  | nil => exact .inr rfl
  | cons p t ih =>
    obtain ⟨i, w⟩ := p
    by_cases above : k < i
    · simp [Tab.put, above]
    by_cases same : i = k
    · simp [Tab.put, same]
    · simpa [Tab.put, above, same] using ih

theorem Tab.length_le_put {α : Type} (t : Tab α) (k : Nat) (v : α) : t.length ≤ (Tab.put t k v).length := by
  rcases Tab.length_put t k v with same | grown <;> omega

/-! ### What a retirement leaves of the runs (R262) -/

section
variable {α : Type} {v : Run → α} (hv : ∀ r a b, v { r with scratch := a, oob := b } = v r)
include hv

theorem State.keepsRuns_writeElems (s : State) (e stage : Nat) (d : Desc) (es : List (List Nat × Nat)) :
    s.keepsRuns v (s.writeElems e stage d es) := by
  unfold State.writeElems
  exact (s.keepsRuns_store hv _ _ _ _).trans (State.keepsRuns_countOob hv _ _ _)

/-- A tensor that a stage writes where its slot names one. -/
theorem State.keepsRuns_writeSlot (s : State) (e stage : Nat) (d : Option Desc) (es : Desc → List (List Nat × Nat)) :
    s.keepsRuns v (match d with | some d => s.writeElems e stage d (es d) | none => s) := by
  cases d with
  | none => exact State.keepsRuns_of_same rfl
  | some d => exact s.keepsRuns_writeElems hv _ _ _ _

theorem State.keepsRuns_tokRetire (s : State) (e : Nat) (p : Snap) (k : Nat) (o : SampleOut) :
    s.keepsRuns v (s.tokRetire e p k o) :=
  ((State.keepsRuns_writeSlot hv s e 4 _ _).trans (State.keepsRuns_writeSlot hv _ e 4 _ _)).trans
    (State.keepsRuns_writeSlot hv _ e 4 _ _)

theorem State.keepsRuns_imgRetire (s : State) (e : Nat) (p : Snap) (k : Nat) (o : SampleOut) :
    s.keepsRuns v (s.imgRetire e p k o) :=
  (State.keepsRuns_writeSlot hv s e p.stage _ _).trans (State.keepsRuns_writeSlot hv _ e p.stage _ _)

theorem State.keepsRuns_pyrRetire (s : State) (e : Nat) (p : Snap) (k : Nat) (o : SampleOut) :
    s.keepsRuns v (s.pyrRetire e p k o) :=
  ((State.keepsRuns_writeSlot hv s e 5 _ _).trans (State.keepsRuns_writeSlot hv _ e 5 _ _)).trans
    (State.keepsRuns_writeSlot hv _ e 5 _ _)

theorem State.keepsRuns_readRetire (s : State) (x : Job) (k : Nat) (o : SampleOut) : s.keepsRuns v (s.readRetire x k o) := by
  unfold State.readRetire
  split
  · exact s.keepsRuns_tokRetire hv _ _ _ _
  · exact State.keepsRuns_writeSlot hv s x.run 0x10 _ _
  · exact s.keepsRuns_imgRetire hv _ _ _ _

end

section
variable {α : Type} {v : Run → α}
  (hv : ∀ r a b c d e, v { r with scratch := a, oob := b, tadpoles := c, lastPoint := d, divs := e } = v r)
include hv

theorem State.keepsRuns_tadpoleRelease (s : State) (e sample : Nat) : s.keepsRuns v (s.tadpoleRelease e sample) := by
  unfold State.tadpoleRelease
  refine s.keepsRuns_modRun e fun r => ?_
  split
  · rfl
  · split
    · exact hv r r.scratch r.oob _ r.lastPoint r.divs
    · exact hv r r.scratch r.oob _ r.lastPoint r.divs

theorem State.keepsRuns_point (s : State) (e stage index : Nat) (digest : Bytes) (unit : Option Nat) :
    s.keepsRuns v (s.point e stage index digest unit) := by
  have compared (w : State) (a b : ChorusPoint) (l : Nat) (f : Chorus → Chorus) :
      w.keepsRuns v ((w.comparePoints a b).modLane l f) := by
    unfold State.comparePoints
    split
    · exact State.keepsRuns_of_same rfl
    · exact (w.keepsRuns_modRun _ fun r => hv r r.scratch r.oob r.tadpoles r.lastPoint _).trans (State.keepsRuns_of_same rfl)
  have placed (w : State) (l : Nat) (f : Chorus → Chorus) : w.keepsRuns v (w.modLane l f) := State.keepsRuns_of_same rfl
  unfold State.point
  split
  · exact State.keepsRuns_of_same rfl
  split
  · exact State.keepsRuns_of_same rfl
  · have noted (o : Output) : s.keepsRuns v ((s.modRun e fun r => { r with lastPoint := s.now }).emit o) :=
      (s.keepsRuns_modRun e fun r => hv r r.scratch r.oob r.tadpoles _ r.divs).trans (State.keepsRuns_of_same rfl)
    dsimp only
    split
    · exact (noted _).trans (compared _ _ _ _ _)
    · exact (noted _).trans (placed _ _ _)

end

/-! ### The steps of a retirement -/

/-- R121, R262: a sample that retires has its place in order, and its void or its concealment counts for the entry. -/
def State.retireBegun (s : State) (r : Run) (j : Nat) (x : Job) (k : Nat) (o : SampleOut) : State :=
  let s := s.modJob j fun y => { y with done := Tab.del y.done k, outs := Tab.put y.outs k o, tiles := s.tileCount 5 }
  if o.reason ≠ 0 then s.voidSample x.run (jobBase r x + k) o.reason
  else if o.concealed then s.affect x.run (jobBase r x + k) 0x23 false else s

/-- R262, R351, R99: then come its tensors, its Tadpole, its point and its cells. -/
def State.retireRest (s : State) (r : Run) (j : Nat) (x : Job) (k : Nat) (o : SampleOut) (write : State → State) : State :=
  let idx := jobBase r x + k
  let s := write s
  let s := if keepsTadpole r x o then s else s.tadpoleRelease x.run idx
  let s := if (readsSealed x.stage && x.isPrepass) || x.stage == 6 then s
    else s.point x.run x.stage idx (sha256 (sampleBytes x.snap o)) (if isCoreStage x.stage then none else s.unitAt x.stage j k)
  let s := if x.snap.streamOut && x.stage != 6 then s.noteOutput j x k else s.freeUse (.record j k)
  (s.unitDone x.stage).takeRecord j x k

theorem State.retire_eq (s : State) (r : Run) (j : Nat) (x : Job) (k : Nat) (o : SampleOut) (write : State → State) :
    s.retire r j x k o write = (s.retireBegun r j x k o).retireRest r j x k o write := rfl

/-- The run of an entry once a sample of it has retired. -/
def Run.retired (r : Run) (sample : Nat) (o : SampleOut) : Run :=
  if o.reason ≠ 0 then r.affect sample o.reason true else if o.concealed then r.affect sample 0x23 false else r

theorem State.retireBegun_jobs {s : State} {j : Nat} {y : Job} (found : Tab.find s.jobs j = some y) (r : Run) (x : Job) (k : Nat)
    (o : SampleOut) : (s.retireBegun r j x k o).jobs =
      Tab.put s.jobs j { y with done := Tab.del y.done k, outs := Tab.put y.outs k o, tiles := s.tileCount 5 } := by
  have voided (w : State) (e i c : Nat) : Part.jobs.same w (w.voidSample e i c) := by simp
  have concealed (w : State) (e i c : Nat) : Part.jobs.same w (w.affect e i c false) := by simp
  unfold State.retireBegun
  rw [State.modJob_of_find found]
  dsimp only
  split
  · exact voided _ _ _ _
  · split
    · exact concealed _ _ _ _
    · rfl

theorem State.retireBegun_run {s : State} {j : Nat} {x : Job} {r₀ : Run} (found : Tab.find s.runs x.run = some r₀) (r : Run)
    (k : Nat) (o : SampleOut) : Tab.find (s.retireBegun r j x k o).runs x.run = some (r₀.retired (jobBase r x + k) o) := by
  have kept (f : Job → Job) : (s.modJob j f).runs = s.runs := (by simp : Part.runs.same s (s.modJob j f))
  have affected {w : State} (there : Tab.find w.runs x.run = some r₀) (c : Nat) (lost : Bool) :
      Tab.find (w.affect x.run (jobBase r x + k) c lost).runs x.run = some (r₀.affect (jobBase r x + k) c lost) := by
    unfold State.affect
    rw [State.runs_modRun there, Tab.find_put_same]
  unfold State.retireBegun Run.retired
  dsimp only
  split
  · unfold State.voidSample
    rw [kept, found]
    dsimp only
    refine affected ?_ _ _
    split
    · exact (congrArg (Tab.find · x.run) (kept _)).trans found
    · exact (congrArg (Tab.find · x.run) (kept _)).trans found
  · split
    · exact affected ((congrArg (Tab.find · x.run) (kept _)).trans found) _ _
    · exact (congrArg (Tab.find · x.run) (kept _)).trans found

/-- The jobs stand as they did, as far as `v` sees them. -/
def State.keepsJobs {α : Type} (v : Job → α) (s w : State) : Prop :=
  ∀ k, (Tab.find w.jobs k).map v = (Tab.find s.jobs k).map v

section
variable {α : Type} {v : Job → α}

theorem State.keepsJobs_of_same {s w : State} (h : Part.jobs.same s w) : s.keepsJobs v w := fun k => by
  rw [show w.jobs = _ from h]

theorem State.keepsJobs.trans {s w x : State} (h : s.keepsJobs v w) (g : w.keepsJobs v x) : s.keepsJobs v x :=
  fun k => (g k).trans (h k)

theorem State.keepsJobs_modJob (s : State) (j : Nat) {f : Job → Job} (hf : ∀ y, v (f y) = v y) :
    s.keepsJobs v (s.modJob j f) := fun k => by
  cases here : Tab.find s.jobs j with
  | none => unfold State.modJob; rw [here]
  | some y =>
    rw [State.modJob_of_find here]
    by_cases same : k = j
    · subst same; simp [Tab.find_put_same, here, hf]
    · exact congrArg (Option.map v) (Tab.find_put_other _ _ _ _ same)

theorem State.keepsJobs_ite {c : Prop} {d : Decidable c} {s a b : State} (ha : s.keepsJobs v a) (hb : s.keepsJobs v b) :
    s.keepsJobs v (if c then a else b) := by
  split
  · exact ha
  · exact hb

theorem State.retireRest_jobs (s : State) (r : Run) (j : Nat) (x : Job) (k : Nat) (o : SampleOut) {write : State → State}
    (written : s.keepsJobs v (write s)) : s.keepsJobs v (s.retireRest r j x k o write) := by
  have tadpole (w : State) (i : Nat) : Part.jobs.same w (w.tadpoleRelease x.run i) := by simp
  have pointed (w : State) (g i : Nat) (b : Bytes) (a : Option Nat) : Part.jobs.same w (w.point x.run g i b a) := by simp
  have noted (w : State) : Part.jobs.same w (w.noteOutput j x k) := by simp
  have freed (w : State) (c : CellUse) : Part.jobs.same w (w.freeUse c) := by simp
  have taken (w : State) : Part.jobs.same w ((w.unitDone x.stage).takeRecord j x k) := by simp
  have same (w : State) : w.keepsJobs v w := fun _ => rfl
  unfold State.retireRest
  exact ((((written.trans (State.keepsJobs_ite (same _) (State.keepsJobs_of_same (tadpole _ _)))).trans
    (State.keepsJobs_ite (same _) (State.keepsJobs_of_same (pointed _ _ _ _ _)))).trans
    (State.keepsJobs_ite (State.keepsJobs_of_same (noted _)) (State.keepsJobs_of_same (freed _ _))))).trans
    (State.keepsJobs_of_same (taken _))

end

section
variable {α : Type} {v : Run → α}

theorem State.keepsRuns_ite {c : Prop} {d : Decidable c} {s a b : State} (ha : s.keepsRuns v a) (hb : s.keepsRuns v b) :
    s.keepsRuns v (if c then a else b) := by
  split
  · exact ha
  · exact hb

theorem State.retireRest_runs (hv : ∀ r a b c d e, v { r with scratch := a, oob := b, tadpoles := c, lastPoint := d, divs := e } = v r)
    (s : State) (r : Run) (j : Nat) (x : Job) (k : Nat) (o : SampleOut) {write : State → State}
    (written : s.keepsRuns v (write s)) : s.keepsRuns v (s.retireRest r j x k o write) := by
  have noted (w : State) : Part.runs.same w (w.noteOutput j x k) := by simp
  have freed (w : State) (c : CellUse) : Part.runs.same w (w.freeUse c) := by simp
  have taken (w : State) : Part.runs.same w ((w.unitDone x.stage).takeRecord j x k) := by simp
  have same (w : State) : w.keepsRuns v w := fun _ => rfl
  unfold State.retireRest
  exact ((((written.trans (State.keepsRuns_ite (same _) (State.keepsRuns_tadpoleRelease hv _ _ _))).trans
    (State.keepsRuns_ite (same _) (State.keepsRuns_point hv _ _ _ _ _ _))).trans
    (State.keepsRuns_ite (State.keepsRuns_of_same (noted _)) (State.keepsRuns_of_same (freed _ _))))).trans
    (State.keepsRuns_of_same (taken _))

end

/-! ### A retired sample -/

theorem Run.mem_voided_retired (r : Run) (sample : Nat) {o : SampleOut} (void : o.reason ≠ 0) :
    sample ∈ (r.retired sample o).voided := by
  unfold Run.retired Run.affect
  rw [if_pos void]
  by_cases there : sample ∈ r.voided
  · simp [there]
  · simp [there]

theorem Run.mem_affected_retired (r : Run) (sample : Nat) {o : SampleOut} (void : o.reason ≠ 0) :
    ∃ a ∈ (r.retired sample o).affected, a.1 = sample := by
  unfold Run.retired Run.affect
  rw [if_pos void]
  dsimp only
  split
  case isTrue there =>
    obtain ⟨a, mem, eq⟩ := List.any_eq_true.mp there
    have eq : a.1 = sample := by simpa using eq
    split
    · refine ⟨_, List.mem_map_of_mem mem, ?_⟩
      split
      · rfl
      · exact eq
    · exact ⟨a, mem, eq⟩
  case isFalse => exact ⟨(sample, o.reason), by simp, rfl⟩

theorem Run.voided_subset_retired (r : Run) (sample : Nat) (o : SampleOut) : r.voided ⊆ (r.retired sample o).voided := by
  unfold Run.retired Run.affect
  split
  · dsimp only
    split
    · exact List.subset_append_left _ _
    · exact List.Subset.refl _
  · split
    · simp
    · exact List.Subset.refl _

theorem Run.voided_retired (r : Run) (sample : Nat) {o : SampleOut} (whole : o.reason = 0) :
    (r.retired sample o).voided = r.voided := by
  unfold Run.retired Run.affect
  rw [if_neg (not_not.mpr whole)]
  split
  · simp
  · rfl

/-- What the retirement of a sample says of its entry: the samples voided, and those affected. -/
def Run.voids (r : Run) : List Nat × List (Nat × Nat) := (r.voided, r.affected)

theorem State.retire_job {α : Type} {v : Job → α} {s : State} {j : Nat} {y : Job} (found : Tab.find s.jobs j = some y) (r : Run)
    (x : Job) (k : Nat) (o : SampleOut) {write : State → State} (written : ∀ w : State, w.keepsJobs v (write w)) :
    (Tab.find (s.retire r j x k o write).jobs j).map v =
      some (v { y with done := Tab.del y.done k, outs := Tab.put y.outs k o, tiles := s.tileCount 5 }) := by
  have rest := (s.retireBegun r j x k o).retireRest_jobs r j x k o (written _) j
  rw [← State.retire_eq, State.retireBegun_jobs found, Tab.find_put_same] at rest
  exact rest

theorem State.retire_run {s : State} {x : Job} {r₀ : Run} (found : Tab.find s.runs x.run = some r₀) (r : Run) (j k : Nat)
    (o : SampleOut) {write : State → State} (written : ∀ w : State, w.keepsRuns Run.voids (write w)) :
    (Tab.find (s.retire r j x k o write).runs x.run).map Run.voids =
      some (r₀.retired (jobBase r x + k) o).voids := by
  have rest := (s.retireBegun r j x k o).retireRest_runs (v := Run.voids) (fun _ _ _ _ _ _ => rfl) r j x k o (written _) x.run
  rw [← State.retire_eq, State.retireBegun_run found] at rest
  exact rest

/-! ### Lanes, and the voids that are next (R262) -/

theorem State.leaveLane_idle {s : State} {j : Nat} {x : Job} (found : Tab.find s.jobs j = some x)
    (working : ∀ l ∈ x.lanes, l.2.out = none) (r : Run) (k : Nat) : s.leaveLane r j k = s := by
  unfold State.leaveLane
  rw [show s.job? j = some x from found]
  dsimp only
  cases lane : Tab.find x.lanes k with
  | none => rfl
  | some l => rw [show (some l).bind Lane.out = none from working (k, l) (Tab.mem_of_find _ _ _ lane)]

/-- Where no lane holds an outcome, only voids that are next leave. -/
theorem State.settleJob_voids {s : State} {j : Nat} {x : Job} (found : Tab.find s.jobs j = some x)
    (working : ∀ l ∈ x.lanes, l.2.out = none) (r : Run) : s.settleJob r j = s.retireVoids r j (x.count + 1) := by
  have idle : (x.lanes.map Prod.fst).foldl (fun s k => s.leaveLane r j k) s = s :=
    List.foldlRecOn (motive := fun w => w = s) _ _ rfl fun w ih k _ => by rw [ih]; exact State.leaveLane_idle found working r k
  unfold State.settleJob
  rw [show s.job? j = some x from found]
  exact congrArg (·.retireVoids r j (x.count + 1)) idle

theorem State.retireVoids_waits {s : State} {j : Nat} {x : Job} (found : Tab.find s.jobs j = some x)
    (next : Tab.find x.done x.outs.length = none) (r : Run) (n : Nat) : s.retireVoids r j n = s := by
  cases n with
  | zero => rfl
  | succ n =>
    unfold State.retireVoids
    rw [show s.job? j = some x from found]
    dsimp only
    rw [next]

/-- A sample that is complete waits for SAMPLE_RETIRE. -/
theorem State.retireVoids_stops {s : State} {j : Nat} {x : Job} {o : SampleOut} (found : Tab.find s.jobs j = some x)
    (next : Tab.find x.done x.outs.length = some o) (whole : o.reason = 0) (r : Run) (n : Nat) : s.retireVoids r j n = s := by
  cases n with
  | zero => rfl
  | succ n =>
    unfold State.retireVoids
    rw [show s.job? j = some x from found]
    dsimp only
    rw [next]
    simp [whole]

theorem State.retireVoids_next {s : State} {j : Nat} {x : Job} {o : SampleOut} (found : Tab.find s.jobs j = some x)
    (next : Tab.find x.done x.outs.length = some o) (void : o.reason ≠ 0) {r : Run}
    (flows : s.outputStalls r j x x.outs.length = false) (n : Nat) :
    s.retireVoids r j (n + 1) =
      (s.retire r j x x.outs.length o fun s => s.readRetire x x.outs.length o).retireVoids r j n := by
  rw [State.retireVoids]
  rw [show s.job? j = some x from found]
  dsimp only
  rw [next]
  simp [void, flows]

/-- Sample `k` of a job has retired with outcome `o`, and does so once. -/
def Job.keepsOut (x : Job) (k : Nat) (o : SampleOut) : Prop :=
  Tab.find x.outs k = some o ∧ (k < x.outs.length ∨ Tab.find x.done k = none)

theorem Job.keepsOut.next {x : Job} {k : Nat} {o : SampleOut} (kept : x.keepsOut k o) {p : SampleOut}
    (next : Tab.find x.done x.outs.length = some p) (n : Nat) :
    Job.keepsOut { x with done := Tab.del x.done x.outs.length, outs := Tab.put x.outs x.outs.length p, tiles := n } k o := by
  obtain ⟨found, once⟩ := kept
  have other : k ≠ x.outs.length := by
    rcases once with less | gone
    · exact Nat.ne_of_lt less
    · rintro rfl; rw [next] at gone; cases gone
  refine ⟨(Tab.find_put_other _ _ _ _ other).trans found, once.imp (fun less => ?_) fun gone => ?_⟩
  · exact Nat.lt_of_lt_of_le less (Tab.length_le_put _ _ _)
  · exact (Tab.find_del_other _ _ _ other).trans gone

/-- The voids that retire leave a job's lanes and what it retired before them, and unvoid no sample of its entry. -/
theorem State.retireVoids_keeps (r : Run) (j n : Nat) : ∀ {s : State} {x : Job} {r₀ : Run}, Tab.find s.jobs j = some x →
    Tab.find s.runs x.run = some r₀ →
    ∃ y z, Tab.find (s.retireVoids r j n).jobs j = some y ∧ Tab.find (s.retireVoids r j n).runs x.run = some z ∧
      y.lanes = x.lanes ∧ (∀ k o, x.keepsOut k o → y.keepsOut k o) ∧ r₀.voided ⊆ z.voided := by
  induction n with
  | zero => exact fun found entry => ⟨_, _, found, entry, rfl, fun _ _ h => h, List.Subset.refl _⟩
  | succ n ih =>
    intro s x r₀ found entry
    cases next : Tab.find x.done x.outs.length with
    | none => rw [State.retireVoids_waits found next]; exact ⟨_, _, found, entry, rfl, fun _ _ h => h, List.Subset.refl _⟩
    | some o =>
      by_cases whole : o.reason = 0
      · rw [State.retireVoids_stops found next whole]; exact ⟨_, _, found, entry, rfl, fun _ _ h => h, List.Subset.refl _⟩
      by_cases stalled : s.outputStalls r j x x.outs.length = true
      · have stays : s.retireVoids r j (n + 1) = s := by
          rw [State.retireVoids, show s.job? j = some x from found]; dsimp only; rw [next]; simp [stalled]
        rw [stays]; exact ⟨_, _, found, entry, rfl, fun _ _ h => h, List.Subset.refl _⟩
      · rw [State.retireVoids_next found next whole (by simpa using stalled)]
        have job := State.retire_job (v := id) found r x x.outs.length o (write := fun s => s.readRetire x x.outs.length o)
          fun w => State.keepsJobs_of_same (by simp)
        have run := State.retire_run entry r j x.outs.length o (write := fun s => s.readRetire x x.outs.length o)
          fun w => w.keepsRuns_readRetire (fun _ _ _ => rfl) _ _ _
        rw [Option.map_id, id] at job
        obtain ⟨r₁, entry₁, voids⟩ := Option.map_eq_some_iff.mp run
        obtain ⟨y, z, found', entry', lanes, outs, voided⟩ := ih job entry₁
        refine ⟨y, z, found', entry', lanes, fun k p kept => outs k p (kept.next next _), ?_⟩
        have grown : r₁.voided = (r₀.retired (jobBase r x + x.outs.length) o).voided := congrArg Prod.fst voids
        exact fun i there => voided (grown ▸ r₀.voided_subset_retired _ _ there)

/-- R262: a void with samples before it waits in the reorder buffer. -/
theorem State.voidUnread_waits {s : State} {j k : Nat} {x : Job} (found : Tab.find s.jobs j = some x)
    (working : ∀ l ∈ x.lanes, l.2.out = none) (other : k ≠ x.outs.length) (next : Tab.find x.done x.outs.length = none) (r : Run)
    (o : SampleOut) : s.voidUnread r j k o = { s with jobs := Tab.put s.jobs j { x with done := Tab.put x.done k o } } := by
  have there : Tab.find (Tab.put s.jobs j { x with done := Tab.put x.done k o }) j = some { x with done := Tab.put x.done k o } :=
    Tab.find_put_same _ _ _
  unfold State.voidUnread
  rw [State.modJob_of_find found]
  refine (State.settleJob_voids (x := { x with done := Tab.put x.done k o }) there working r).trans ?_
  exact State.retireVoids_waits there ((Tab.find_put_other _ _ _ _ other.symm).trans next) r _

end Sys2Proof.Machine

/-! ## SAMPLE_START, CHUNK_READ and BUDGET_WINDOW_END (R86, R87, R261) -/

namespace Sys2Proof.Machine

theorem State.regroup_idle {u : State} (settled : ∀ y ∈ u.jobs, y.2.wantsCore = false)
    (placed : ∀ y ∈ u.jobs, y.2.stage = 0x10 → y.2.clock = none → ∀ l ∈ y.2.lanes, l.2.cores ≠ []) : u.regroup = u := by
  have live : (u.jobs.filter fun y => y.2.running && !y.2.ended && y.2.clock.isSome && y.2.wantsCore) = [] :=
    List.filter_eq_nil_iff.mpr fun y mem => by simp [settled y mem]
  have lanes : (u.lanesWhere fun x l => x.stage == 0x10 && x.clock.isNone && l.cores.isEmpty) = [] := by
    unfold State.lanesWhere
    refine List.flatMap_eq_nil_iff.mpr fun y mem => ?_
    rw [List.map_eq_nil_iff, List.filter_eq_nil_iff]
    intro l there
    simpa using fun stage clock => placed y mem stage clock l there
  unfold State.regroup
  rw [live]
  exact congrArg (List.foldl _ u) lanes

/-! ### SAMPLE_START -/

theorem State.holdOut_unplanned (s : State) {r : Run} {x : Job} (free : x.planned r = false) (k : Nat) (o : SampleOut) :
    s.holdOut r x k o = (s, o) := by
  unfold State.holdOut
  simp [free]

section
variable {u : State} {j : Nat} {x : Job} {r : Run}

/-- What SAMPLE_START does of a sample that a unit takes: its stage voids it at once, or its lane reads the first chunk. -/
def State.sampleTaken (s : State) (r : Run) (j : Nat) (x : Job) (id : Nat) (cores : List Nat) (chunk : Bytes) : State :=
  let k := x.next
  let s := s.modJob j fun y => { y with next := k + 1 }
  match s.plannedVoid r x k, s.skipped r x k with
  | some o, _ => s.voidUnread r j k o
  | none, some o => let h := s.holdOut r x k o; h.1.voidUnread r j k h.2
  | none, none =>
    let s := s.modJob j fun y => { y with lanes := Tab.put y.lanes k { tile := id, cores := cores, start := s.now, fenced := 0 } }
    (s.readChunk r j k chunk).noteRead j k

theorem State.sampleStart_takes (found : Tab.find u.regroup.jobs j = some x) (entry : Tab.find u.regroup.runs x.run = some r)
    (running : x.running = true) (reads : readsSealed x.stage = true) (more : x.next < x.count) (may : u.regroup.mayWork r = true)
    {id : Nat} {cores : List Nat} (place : u.regroup.placeFor j x x.next = some (id, cores)) (c : Bytes) :
    u.sampleStart j c = u.regroup.sampleTaken r j x id cores c := by
  have free : (!x.running || !readsSealed x.stage || decide (x.count ≤ x.next) || !u.regroup.mayWork r) = false := by
    simp [running, reads, more, may]
  unfold State.sampleStart
  simp only [State.job?, found, entry, free, place]
  rfl

theorem State.sampleStart_waits (found : Tab.find u.regroup.jobs j = some x) (entry : Tab.find u.regroup.runs x.run = some r)
    (waits : x.running = false ∨ x.count ≤ x.next ∨ u.regroup.mayWork r = false ∨ u.regroup.placeFor j x x.next = none)
    (c : Bytes) : u.sampleStart j c = u.regroup := by
  unfold State.sampleStart
  simp only [State.job?, found, entry]
  by_cases held : (!x.running || !readsSealed x.stage || decide (x.count ≤ x.next) || !u.regroup.mayWork r) = true
  · rw [if_pos held]
  · rw [if_neg held]
    have noPlace : u.regroup.placeFor j x x.next = none := by
      rcases waits with h | h | h | h
      · simp [h] at held
      · simp [h] at held
      · simp [h] at held
      · exact h
    rw [noPlace]

/-- The state once the job's next sample is taken. -/
abbrev State.withNext (s : State) (j : Nat) (x : Job) : State := { s with jobs := Tab.put s.jobs j { x with next := x.next + 1 } }

theorem State.sampleTaken_void (found : Tab.find u.jobs j = some x) {o : SampleOut}
    (void : (u.withNext j x).plannedVoid r x x.next = some o ∨
      ((u.withNext j x).plannedVoid r x x.next = none ∧ x.planned r = false ∧ (u.withNext j x).skipped r x x.next = some o))
    (id : Nat) (cores : List Nat) (c : Bytes) :
    u.sampleTaken r j x id cores c = (u.withNext j x).voidUnread r j x.next o := by
  unfold State.sampleTaken
  dsimp only
  rw [State.modJob_of_find found]
  rcases void with planned | ⟨unplanned, free, skipped⟩
  · simp only [planned]
  · simp only [unplanned, skipped, State.holdOut_unplanned _ free]

theorem State.sampleTaken_reads (found : Tab.find u.jobs j = some x) (unplanned : (u.withNext j x).plannedVoid r x x.next = none)
    (kept : (u.withNext j x).skipped r x x.next = none) (id : Nat) (cores : List Nat) (c : Bytes) :
    u.sampleTaken r j x id cores c =
      (({ u.withNext j x with jobs := Tab.put (u.withNext j x).jobs j { x with
          next := x.next + 1, lanes := Tab.put x.lanes x.next { tile := id, cores := cores, start := u.now, fenced := 0 } } } :
        State).readChunk r j x.next c).noteRead j x.next := by
  unfold State.sampleTaken
  dsimp only
  rw [State.modJob_of_find found]
  simp only [unplanned, kept]
  rw [State.modJob_of_find (Tab.find_put_same _ _ _)]

end

/-! ### CHUNK_READ -/

theorem State.openChunk_none (u : State) (r : Run) (index no : Nat) (c : Bytes)
    (bad : leAt c 0 8 ≠ (u.label r.label).matter ∨ leAt c 8 8 ≠ index ∨ leAt c 16 4 ≠ no ∨ leAt c 20 4 % 2 ^ 31 = 0 ∨
      65536 < leAt c 20 4 % 2 ^ 31) : u.openChunk r index no c = none := by
  unfold State.openChunk
  rw [fieldOf_eq, Nat.pow_zero, Nat.div_one]
  exact if_pos bad

theorem State.openChunk_some {u : State} {r : Run} {index no : Nat} {c p : Bytes} {last : Bool}
    (opened : u.openChunk r index no c = some (p, last)) : last = bitOf (leAt c 20 4) 31 ∧
      gcmOpen (u.label r.label).kData (leBytes 8 index ++ leBytes 4 no) (slice c 0 24) (slice c 24 (leAt c 20 4 % 2 ^ 31))
        (slice c (24 + leAt c 20 4 % 2 ^ 31) 16) = some p := by
  unfold State.openChunk at opened
  rw [fieldOf_eq, Nat.pow_zero, Nat.div_one] at opened
  dsimp only at opened
  split at opened
  · cases opened
  · obtain ⟨q, gcm, eq⟩ := Option.map_eq_some_iff.mp opened
    cases eq
    exact ⟨rfl, gcm⟩

theorem State.laneReads_iff (g : State) (r : Run) (j : Nat) (x : Job) (k : Nat) (l : Lane) :
    g.laneReads r j x k l = true ↔ g.mayWork r = true ∧ g.windowOver r l = false ∧ l.out = none ∧ l.ending = .more ∧
      g.laneWaits j k = false ∧ (isCoreStage x.stage = true → l.cores ≠ []) ∧
      (isCoreStage x.stage = false → g.tileReady l.tile = true) := by
  unfold State.laneReads
  cases isCoreStage x.stage <;> simp [and_assoc]

theorem State.chunkRead_eq {u : State} {j k : Nat} {x : Job} {r : Run} {l : Lane} (found : Tab.find u.regroup.jobs j = some x)
    (entry : Tab.find u.regroup.runs x.run = some r) (lane : Tab.find x.lanes k = some l) (c : Bytes) :
    u.chunkRead j k c = if u.regroup.laneReads r j x k l = true then (u.regroup.readChunk r j k c).noteRead j k else u.regroup := by
  unfold State.chunkRead
  simp only [State.job?, found, entry, lane]

/-! ### What a lane makes of a chunk (R87) -/

section
variable {u : State} {j k : Nat} {x : Job} {l : Lane}

/-- The chunk that a lane cuts from what it reads: 24 header bytes, the sealed bytes that they name, and the tag. -/
def chunkOf (c : Bytes) : Bytes := padTo (40 + leAt (padTo 24 c) 20 4 % 2 ^ 31) c

/-- R261: the first chunk opens a lane's budget window. -/
def State.laneOpened (u : State) (r : Run) (l : Lane) : Lane :=
  if l.chunks = 0 then { l with start := u.now, fenced := u.fencedSoFar r.label, stall := 0, stalledFrom := none, again := false } else l

theorem State.readChunk_eq (found : Tab.find u.jobs j = some x) (lane : Tab.find x.lanes k = some l) (recorded : x.clock = none)
    (r : Run) (c : Bytes) : u.readChunk r j k c =
      let settle := fun (s : State) (l : Lane) => (s.modJob j fun y => { y with lanes := Tab.put y.lanes k l }).settleLane r j k
      if (x.tableEntry k).2 - l.taken < 24 ∨ (x.tableEntry k).2 - l.taken < (chunkOf c).length then
        settle u { u.laneOpened r l with ending := .badAuth }
      else match u.openChunk r (jobBase r x + k) l.chunks (chunkOf c) with
        | none => settle u { u.laneOpened r l with ending := .badAuth }
        | some (p, last) =>
          settle (if l.chunks = 0 ∧ Tab.find r.tadpoles (jobBase r x + k) = none then u.tadpoleBegin x.run (jobBase r x + k) else u)
            { u.laneOpened r l with
              chunks := l.chunks + 1, taken := l.taken + (chunkOf c).length, data := l.data ++ p,
              ending := if last then .whole else if (x.tableEntry k).2 - l.taken = (chunkOf c).length then .badAuth else .more } := by
  have cut : padTo (40 + fieldOf (leAt (padTo 24 c) 20 4) 0 31) c = chunkOf c := by
    rw [fieldOf_eq, Nat.pow_zero, Nat.div_one]; rfl
  unfold State.readChunk
  rw [show u.job? j = some x from found]
  dsimp only
  rw [lane]
  dsimp only
  rw [recorded]
  by_cases first : l.chunks = 0
  · simp only [State.laneOpened, first, if_true, cut, true_and, Option.isSome_none, Option.isNone_none, Option.isNone_iff_eq_none,
      Bool.false_eq_true, if_false] <;> rfl
  · simp only [State.laneOpened, first, if_false, cut, false_and, Option.isSome_none, Option.isNone_none, true_and,
      Bool.false_eq_true] <;> rfl

theorem State.readChunk_fails (found : Tab.find u.jobs j = some x) (lane : Tab.find x.lanes k = some l) (recorded : x.clock = none)
    (r : Run) (c : Bytes) (bad : u.openChunk r (jobBase r x + k) l.chunks (chunkOf c) = none ∨
      (x.tableEntry k).2 - l.taken < (chunkOf c).length) : u.readChunk r j k c =
        ({ u with jobs := Tab.put u.jobs j { x with lanes := Tab.put x.lanes k { u.laneOpened r l with ending := .badAuth } } } :
          State).settleLane r j k := by
  rw [State.readChunk_eq found lane recorded]
  dsimp only
  rw [State.modJob_of_find found]
  split
  · rfl
  case isFalse room =>
    rw [bad.resolve_right fun short => room (.inr short)]

theorem State.readChunk_opens (found : Tab.find u.jobs j = some x) (lane : Tab.find x.lanes k = some l) (recorded : x.clock = none)
    {r : Run} {c p : Bytes} {last : Bool} (opened : u.openChunk r (jobBase r x + k) l.chunks (chunkOf c) = some (p, last))
    (room : (chunkOf c).length ≤ (x.tableEntry k).2 - l.taken) {v : State}
    (begins : v = if l.chunks = 0 ∧ Tab.find r.tadpoles (jobBase r x + k) = none then u.tadpoleBegin x.run (jobBase r x + k) else u) :
    u.readChunk r j k c = ({ v with jobs := Tab.put v.jobs j { x with lanes := Tab.put x.lanes k { u.laneOpened r l with
      chunks := l.chunks + 1, taken := l.taken + (chunkOf c).length, data := l.data ++ p,
      ending := if last then .whole else if (x.tableEntry k).2 - l.taken = (chunkOf c).length then .badAuth else .more } } } :
        State).settleLane r j k := by
  have found' : Tab.find v.jobs j = some x := by
    rw [begins]
    split
    · exact (congrArg (Tab.find · j) (by simp : Part.jobs.same u (u.tadpoleBegin x.run (jobBase r x + k)))).trans found
    · exact found
  have long : 40 ≤ (chunkOf c).length := by rw [chunkOf, length_padTo]; omega
  rw [State.readChunk_eq found lane recorded]
  dsimp only
  rw [if_neg (by omega), opened, ← begins]
  dsimp only
  rw [State.modJob_of_find found']

/-- A lane that needs no coefficient store and no frame buffers decodes what it has read. -/
theorem State.settleLane_decodes (found : Tab.find u.jobs j = some x) (lane : Tab.find x.lanes k = some l) (works : l.out = none)
    (storeless : x.storeBytes l.data = 0) (bufferless : x.stage ≠ 0x10 ∨ x.isPrepass = true) (r : Run) :
    u.settleLane r j k = match u.evalSample r x k l.data x.cuts l.ending with
      | some o => u.laneDone r j x k o
      | none => u := by
  have store (p : Nat) : u.askUse x.run r p (x.storeBytes l.data) (.coefficients j k) = (u, true) := if_pos storeless
  have buffers : u.askBuffers r j k x l = (u, true) := if_pos bufferless
  unfold State.settleLane
  simp only [State.job?, found, lane, works, Option.isSome_none, Bool.false_eq_true, if_false, store, if_true, buffers] <;> rfl

/-! ### A sample leaves its lane (R262) -/

theorem foldl_of_once {σ : Type} {f : σ → Nat → σ} {a b : σ} {k : Nat} (moves : f a k = b) (idle : ∀ m, m ≠ k → f a m = a)
    (rests : ∀ m, f b m = b) {l : List Nat} (mem : k ∈ l) : l.foldl f a = b := by
  have rested (l : List Nat) : l.foldl f b = b :=
    List.foldlRecOn (motive := fun w => w = b) l f rfl fun w ih m _ => by rw [ih, rests]
  induction l with
  | nil => cases mem
  | cons m l ih =>
    rw [List.foldl_cons]
    by_cases here : m = k
    · rw [here, moves, rested]
    · rw [idle m here]
      exact ih ((List.mem_cons.mp mem).resolve_left fun eq => here eq.symm)

theorem State.leaveLane_free (found : Tab.find u.jobs j = some x) (lane : Tab.find x.lanes k = some l) {o : SampleOut}
    (out : l.out = some o) (free : k = x.outs.length ∨ o.reason ≠ 0) (r : Run) : u.leaveLane r j k =
      { u with jobs := Tab.put u.jobs j { x with lanes := Tab.del x.lanes k, done := Tab.put x.done k o } } := by
  have outcome : (Tab.find x.lanes k).bind Lane.out = some o := by rw [lane]; exact out
  unfold State.leaveLane
  rw [show u.job? j = some x from found]
  dsimp only
  rw [outcome]
  dsimp only
  rw [if_neg fun full => full.1 free, if_pos free, State.modJob_of_find found]
  rfl

theorem State.leaveLane_works (found : Tab.find u.jobs j = some x) (works : (Tab.find x.lanes k).bind Lane.out = none) (r : Run) :
    u.leaveLane r j k = u := by
  unfold State.leaveLane
  rw [show u.job? j = some x from found]
  dsimp only
  rw [works]

/-- The lane of sample `k` alone has an outcome, which may leave: the others work on. -/
theorem State.leaveLanes_one (found : Tab.find u.jobs j = some x) (lane : Tab.find x.lanes k = some l) {o : SampleOut}
    (out : l.out = some o) (free : k = x.outs.length ∨ o.reason ≠ 0)
    (works : ∀ m, m ≠ k → (Tab.find x.lanes m).bind Lane.out = none) (r : Run) :
    (x.lanes.map Prod.fst).foldl (fun s k => s.leaveLane r j k) u =
      { u with jobs := Tab.put u.jobs j { x with lanes := Tab.del x.lanes k, done := Tab.put x.done k o } } := by
  refine foldl_of_once (State.leaveLane_free found lane out free r) (fun m other => State.leaveLane_works found (works m other) r)
    (fun m => State.leaveLane_works (Tab.find_put_same _ _ _) ?_ r) (List.mem_map_of_mem (Tab.mem_of_find _ _ _ lane))
  by_cases here : m = k
  · rw [here, Tab.find_del_same]; rfl
  · rw [Tab.find_del_other _ _ _ here]; exact works m here

theorem State.laneDone_leaves (found : Tab.find u.jobs j = some x) (lane : Tab.find x.lanes k = some l) {r : Run}
    (unplanned : x.planned r = false) (works : ∀ m ∈ x.lanes, m.1 ≠ k → m.2.out = none) {o : SampleOut}
    (leaves : (k = x.outs.length ∧ o.reason = 0) ∨ (k ≠ x.outs.length ∧ o.reason ≠ 0 ∧ Tab.find x.done x.outs.length = none)) :
    ∃ y : Job, Tab.find (u.laneDone r j x k o).jobs j = some y ∧ Tab.find y.done k = some o ∧
      Tab.find y.lanes k = none ∧ (∀ m, m ≠ k → Tab.find y.lanes m = Tab.find x.lanes m) ∧ y.outs = x.outs ∧
      u.changesOnly [.jobs, .pool, .regions] (u.laneDone r j x k o) := by
  obtain ⟨v, freed⟩ : ∃ v, v = (u.freeUse (.coefficients j k)).freeBuffers j k fun _ => true := ⟨_, rfl⟩
  have there : Tab.find v.jobs j = some x :=
    (congrArg (Tab.find · j) (freed ▸ (by simp : Part.jobs.same u _))).trans found
  obtain ⟨x', held⟩ : ∃ x' : Job, x' = { x with lanes := Tab.put x.lanes k { l with data := [], out := some o } } := ⟨_, rfl⟩
  obtain ⟨y, left⟩ : ∃ y : Job, y = { x' with lanes := Tab.del x'.lanes k, done := Tab.put x'.done k o } := ⟨_, rfl⟩
  have others (m : Nat) (other : m ≠ k) : (Tab.find x'.lanes m).bind Lane.out = none := by
    rw [held, Tab.find_put_other _ _ _ _ other]
    cases here : Tab.find x.lanes m with
    | none => rfl
    | some l => exact works (m, l) (Tab.mem_of_find _ _ _ here) other
  have lane' : Tab.find x'.lanes k = some { l with data := [], out := some o } := by rw [held]; exact Tab.find_put_same _ _ _
  have free : k = x'.outs.length ∨ o.reason ≠ 0 := by rw [held]; exact leaves.imp And.left fun h => h.2.1
  have settles : u.laneDone r j x k o = { v with jobs := Tab.put (Tab.put v.jobs j x') j y } := by
    unfold State.laneDone
    rw [State.holdOut_unplanned _ unplanned]
    dsimp only
    rw [← freed, State.modJob_of_find there]
    unfold State.settleJob
    rw [lane]
    dsimp only
    rw [← held]
    rw [show ({ v with jobs := Tab.put v.jobs j x' } : State).job? j = some x' from Tab.find_put_same _ _ _]
    dsimp only
    rw [State.leaveLanes_one (Tab.find_put_same _ _ _) lane' rfl free others, ← left]
    rcases leaves with ⟨rfl, whole⟩ | ⟨other, -, next⟩
    · refine State.retireVoids_stops (o := o) (Tab.find_put_same _ _ _) ?_ whole r _
      rw [left, held]
      exact Tab.find_put_same _ _ _
    · refine State.retireVoids_waits (Tab.find_put_same _ _ _) ?_ r _
      rw [left, held]
      exact (Tab.find_put_other _ _ _ _ other.symm).trans next
  rw [settles]
  refine ⟨y, Tab.find_put_same _ _ _, ?_, ?_, fun m other => ?_, ?_, only_of_same fun π apart => ?_⟩
  · rw [left]; exact Tab.find_put_same _ _ _
  · rw [left]; exact Tab.find_del_same _ _
  · rw [left, Tab.find_del_other _ _ _ other, held]; exact Tab.find_put_other _ _ _ _ other
  · rw [left, held]
  · have kept : π.same u v := by rw [freed]; simp_all
    exact (same_setJobs (by simp_all) _).mpr ((same_setJobs (by simp_all) _).mpr kept)

end

/-! ### BUDGET_WINDOW_END (R261) -/

theorem State.addNdc_of_find {s : State} {e : Nat} {r : Run} (entry : Tab.find s.runs e = some r) :
    Tab.find (s.addNdc e).runs e = some { r with ndc := r.ndc + 1 } ∧
      (s.addNdc e).det.ndcGlobal = satAdd 64 s.det.ndcGlobal 1 ∧
      (s.addNdc e).queue r.queue = { s.queue r.queue with ndc := satAdd 64 (s.queue r.queue).ndc 1 } := by
  have queue (w : State) (f : Queue → Queue) (g : Det → Det) (q : Nat) : (((w.modQueue q f).modDet g).queue q) = f (w.queue q) :=
    State.queue_modQueue_same w q f
  unfold State.addNdc
  rw [entry]
  dsimp only
  rw [modRun_of_find entry]
  refine ⟨Tab.find_put_same _ _ _, rfl, ?_⟩
  rw [queue]
  rfl

section
variable {u : State} {j k : Nat} {x : Job} {r : Run} {l : Lane}

theorem State.windowOver_iff (u : State) (r : Run) (l : Lane) : u.windowOver r l = true ↔
    r.cls ≠ 0 ∧ r.budget ≠ 0 ∧ l.again = false ∧ l.start + r.budget + (u.fencedSoFar r.label - l.fenced) + u.stallTicks r l ≤ u.now := by
  unfold State.windowOver
  simp [and_assoc]

theorem State.budgetEnd_nothing (found : Tab.find u.jobs j = some x) (entry : Tab.find u.runs x.run = some r)
    (lane : Tab.find x.lanes k = some l)
    (held : ¬ u.windowOver r l = true ∨ l.out ≠ none ∨ u.faults.halt = true ∨ (u.label r.label).state = .fenced) :
    u.budgetEnd j k = u := by
  unfold State.budgetEnd
  simp only [State.job?, found, entry, lane]
  refine if_neg ?_
  rcases held with h | h | h | h
  · simp [h]
  · simp [Option.isNone_iff_eq_none, h]
  · simp [h]
  · simp [h]

/-- The state in which a sample's budget window has ended: counted, its lane empty. -/
def State.windowEnded (u : State) (j k : Nat) (x : Job) : State :=
  let w := (u.addNdc x.run).freeUse (.coefficients j k)
  { w with jobs := Tab.put w.jobs j { x with lanes := Tab.del x.lanes k } }

theorem State.budgetEnd_voids (found : Tab.find u.jobs j = some x) (entry : Tab.find u.runs x.run = some r)
    (lane : Tab.find x.lanes k = some l) (ends : u.windowOver r l = true) (works : l.out = none) (awake : u.faults.halt = false)
    (open_ : (u.label r.label).state ≠ .fenced) :
    u.budgetEnd j k = (u.windowEnded j k x).voidUnread r j k (voidOut x.stage (jobBase r x + k) 0x22) := by
  have there : Tab.find ((u.addNdc x.run).freeUse (.coefficients j k)).jobs j = some x :=
    (congrArg (Tab.find · j) (by simp : Part.jobs.same u _)).trans found
  have goes : (u.windowOver r l && l.out.isNone && !u.faults.halt && !((u.label r.label).state == .fenced)) = true := by
    simp [ends, works, awake, open_]
  unfold State.budgetEnd
  simp only [State.job?, found, entry, lane]
  rw [if_pos goes, State.modJob_of_find there]
  rfl

theorem State.windowEnded_job (u : State) (j k : Nat) (x : Job) :
    Tab.find (u.windowEnded j k x).jobs j = some { x with lanes := Tab.del x.lanes k } := Tab.find_put_same _ _ _

theorem State.windowEnded_only (u : State) (j k : Nat) (x : Job) :
    u.changesOnly [.jobs, .runs, .qg, .det, .pool, .regions] (u.windowEnded j k x) :=
  only_of_same fun π apart => (same_setJobs (by simp_all) _).mpr (by simp_all)

theorem State.windowEnded_counts (entry : Tab.find u.runs x.run = some r) (j k : Nat) :
    Tab.find (u.windowEnded j k x).runs x.run = some { r with ndc := r.ndc + 1 } ∧
      (u.windowEnded j k x).det.ndcGlobal = satAdd 64 u.det.ndcGlobal 1 ∧
      (u.windowEnded j k x).queue r.queue = { u.queue r.queue with ndc := satAdd 64 (u.queue r.queue).ndc 1 } := by
  obtain ⟨run, det, queue⟩ := State.addNdc_of_find entry
  have runs : (u.windowEnded j k x).runs = (u.addNdc x.run).runs :=
    (by simp : Part.runs.same (u.addNdc x.run) ((u.addNdc x.run).freeUse (.coefficients j k)))
  have dets : (u.windowEnded j k x).det = (u.addNdc x.run).det :=
    (by simp : Part.det.same (u.addNdc x.run) ((u.addNdc x.run).freeUse (.coefficients j k)))
  have queues : (u.windowEnded j k x).qg = (u.addNdc x.run).qg :=
    (by simp : Part.qg.same (u.addNdc x.run) ((u.addNdc x.run).freeUse (.coefficients j k)))
  refine ⟨(congrArg (Tab.find · x.run) runs).trans run, (congrArg Det.ndcGlobal dets).trans det, ?_⟩
  rw [State.queue, queues]
  exact queue

end

theorem State.outputStalls_alone {s : State} {r : Run} (silent : (s.queue r.queue).chorus = none) {x : Job}
    (alone : ∀ y ∈ s.jobs, y.2.run = x.run → y.2.snap.streamIn = false) (j k : Nat) : s.outputStalls r j x k = false := by
  have chorus : s.chorusStalled r = false := by unfold State.chorusStalled; rw [silent]
  have consumers : s.consumersOf j x = [] := by
    refine List.filter_eq_nil_iff.mpr fun c mem => ?_
    obtain ⟨mem, run⟩ := List.mem_filter.mp mem
    simp [alone c mem (by simpa using run)]
  unfold State.outputStalls
  rw [chorus, consumers]
  rfl

theorem Tab.mem_put {α : Type} {t : Tab α} {k : Nat} {v : α} {p : Nat × α} (mem : p ∈ Tab.put t k v) : p = (k, v) ∨ p ∈ t := by
  induction t with
  | nil => exact .inl (by simpa [Tab.put] using mem)
  | cons q t ih =>
    obtain ⟨i, w⟩ := q
    unfold Tab.put at mem
    split at mem
    · exact List.mem_cons.mp mem
    · split at mem
      · exact (List.mem_cons.mp mem).imp id (List.mem_cons_of_mem _)
      · rcases List.mem_cons.mp mem with here | mem
        · exact .inr (here ▸ List.mem_cons_self)
        · exact (ih mem).imp id (List.mem_cons_of_mem _)

/-- R262: a void settles; what it leaves of its job's lanes and of its entry. -/
theorem State.voidUnread_keeps {s : State} {j k : Nat} {x : Job} {r₀ : Run} (found : Tab.find s.jobs j = some x)
    (entry : Tab.find s.runs x.run = some r₀) (working : ∀ l ∈ x.lanes, l.2.out = none) (r : Run) (o : SampleOut) :
    ∃ y z, Tab.find (s.voidUnread r j k o).jobs j = some y ∧ Tab.find (s.voidUnread r j k o).runs x.run = some z ∧
      y.lanes = x.lanes ∧ (k = x.outs.length → o.reason ≠ 0 → (s.queue r.queue).chorus = none →
        (∀ y ∈ s.jobs, y.2.run = x.run → y.2.snap.streamIn = false) →
        Tab.find y.outs k = some o ∧ jobBase r x + k ∈ z.voided) := by
  obtain ⟨x', voided⟩ : ∃ x' : Job, x' = { x with done := Tab.put x.done k o } := ⟨_, rfl⟩
  obtain ⟨w, placed⟩ : ∃ w : State, w = { s with jobs := Tab.put s.jobs j x' } := ⟨_, rfl⟩
  have there : Tab.find w.jobs j = some x' := by rw [placed]; exact Tab.find_put_same _ _ _
  have settles : s.voidUnread r j k o = w.retireVoids r j (x'.count + 1) := by
    unfold State.voidUnread
    rw [State.modJob_of_find found, ← voided, ← placed]
    exact State.settleJob_voids there (by rw [voided]; exact working) r
  have entry' : Tab.find w.runs x'.run = some r₀ := by rw [placed, voided]; exact entry
  have lanes : x'.lanes = x.lanes := by rw [voided]
  have run : x'.run = x.run := by rw [voided]
  rw [settles, ← lanes, ← run]
  by_cases leaves : k = x.outs.length ∧ o.reason ≠ 0 ∧ (s.queue r.queue).chorus = none ∧
      ∀ y ∈ s.jobs, y.2.run = x'.run → y.2.snap.streamIn = false
  · obtain ⟨last, void, silent, alone⟩ := leaves
    have place : x'.outs.length = k := by rw [voided]; exact last.symm
    have next : Tab.find x'.done x'.outs.length = some o := by rw [place, voided]; exact Tab.find_put_same _ _ _
    have flows : w.outputStalls r j x' x'.outs.length = false := by
      refine State.outputStalls_alone (by rw [placed]; exact silent) (fun y mem same => ?_) _ _
      rw [placed] at mem
      rcases Tab.mem_put mem with rfl | mem
      · rw [voided]; exact alone (j, x) (Tab.mem_of_find _ _ _ found) run.symm
      · exact alone y mem same
    rw [State.retireVoids_next there next void flows, place]
    have job := State.retire_job (v := id) there r x' k o (write := fun s => s.readRetire x' k o)
      fun w => State.keepsJobs_of_same (by simp)
    have retired := State.retire_run entry' r j k o (write := fun s => s.readRetire x' k o)
      fun w => w.keepsRuns_readRetire (fun _ _ _ => rfl) _ _ _
    rw [Option.map_id, id] at job
    obtain ⟨r₁, entry₁, voids⟩ := Option.map_eq_some_iff.mp retired
    obtain ⟨y, z, found', entry₂, lanes', outs, grown⟩ := State.retireVoids_keeps r j x'.count job entry₁
    have same : r₁.voided = (r₀.retired (jobBase r x' + k) o).voided := congrArg Prod.fst voids
    have listed : jobBase r x' + k ∈ r₁.voided := same ▸ r₀.mem_voided_retired _ void
    have once := outs k o ⟨Tab.find_put_same _ _ _, .inr (Tab.find_del_same _ _)⟩
    refine ⟨y, z, found', entry₂, lanes', fun _ _ _ _ => ⟨once.1, ?_⟩⟩
    have base : jobBase r x' = jobBase r x := by rw [voided]; rfl
    exact grown (base ▸ listed)
  · obtain ⟨y, z, found', entry₂, lanes', -, -⟩ := State.retireVoids_keeps r j (x'.count + 1) there entry'
    exact ⟨y, z, found', entry₂, lanes', fun last void silent alone => absurd ⟨last, void, silent, alone⟩ leaves⟩

/-- R261: what the end of a budget window comes to. -/
theorem State.budgetEnd_comes {u : State} {j k : Nat} {x : Job} {r : Run} (found : Tab.find u.jobs j = some x)
    (entry : Tab.find u.runs x.run = some r) (working : ∀ m ∈ x.lanes, m.2.out = none) {void : SampleOut}
    (overtime : void.reason ≠ 0) :
    ∃ (y : Job) (z : Run), Tab.find ((u.windowEnded j k x).voidUnread r j k void).jobs j = some y ∧ Tab.find y.lanes k = none ∧
      Tab.find ((u.windowEnded j k x).voidUnread r j k void).runs x.run = some z ∧
      (k ≠ x.outs.length → Tab.find x.done x.outs.length = none →
        y = { x with lanes := Tab.del x.lanes k, done := Tab.put x.done k void } ∧ z = { r with ndc := r.ndc + 1 } ∧
        ((u.windowEnded j k x).voidUnread r j k void).det.ndcGlobal = satAdd 64 u.det.ndcGlobal 1 ∧
        (((u.windowEnded j k x).voidUnread r j k void).queue r.queue).ndc = satAdd 64 (u.queue r.queue).ndc 1 ∧
        u.changesOnly [.jobs, .runs, .qg, .det, .pool, .regions] ((u.windowEnded j k x).voidUnread r j k void)) ∧
      (k = x.outs.length → (u.queue r.queue).chorus = none →
        (∀ y ∈ u.jobs, y.2.run = x.run → y.2.snap.streamIn = false) →
        Tab.find y.outs k = some void ∧ jobBase r x + k ∈ z.voided) := by
  have there := u.windowEnded_job j k x
  obtain ⟨counted, det, queue⟩ := State.windowEnded_counts entry j k
  have working' : ∀ l ∈ Tab.del x.lanes k, l.2.out = none := fun l mem => working l (Tab.del_subset _ _ l mem)
  by_cases waits : k ≠ x.outs.length ∧ Tab.find x.done x.outs.length = none
  · rw [State.voidUnread_waits there working' waits.1 waits.2]
    refine ⟨_, _, Tab.find_put_same _ _ _, Tab.find_del_same _ _, counted, fun _ _ => ⟨rfl, rfl, det, congrArg Queue.ndc queue, ?_⟩,
      fun last => absurd last waits.1⟩
    exact only_of_same fun π apart => (same_setJobs (by simp_all) _).mpr (u.windowEnded_only j k x π apart)
  · obtain ⟨y, z, job, run, lanes, voids⟩ := State.voidUnread_keeps (k := k) there counted working' r void
    refine ⟨y, z, job, lanes ▸ Tab.find_del_same _ _, run, fun other next => absurd ⟨other, next⟩ waits, fun last silent alone =>
      voids last overtime ((congrArg Queue.chorus queue).trans silent) fun y mem same => ?_⟩
    rcases Tab.mem_put mem with rfl | mem
    · exact alone (j, x) (Tab.mem_of_find _ _ _ found) rfl
    · have kept : ((u.addNdc x.run).freeUse (.coefficients j k)).jobs = u.jobs := (by simp : Part.jobs.same u _)
      exact alone y (kept ▸ mem) same

/-- Settles O54: a sample is taken, read, decoded and left lane by lane; a void that is next retires with the voids behind it. -/
theorem sampleReading : Obligations.SampleReading := by
  unfold Obligations.SampleReading
  refine ⟨?_, fun u => State.regroup_idle, ?_, ?_, ?_, ?_, ?_, ?_, ?_, ?_⟩
  · exact fun u => only_of_same fun π apart => by simp [apart]
  · intro s u g t j id cores c x r h hg found entry running reads more may place
    subst hg
    have starts : exec (.sampleStart t j c) s = .next (u.sampleStart j c).stallClock.intPoll :=
      actStalls_of_acts h fun s => s.sampleStart j c
    rw [State.sampleStart_takes found entry running reads more may place] at starts
    refine ⟨fun o void other next working => ?_, fun unplanned kept => ?_⟩
    · rw [State.sampleTaken_void found void] at starts
      rw [State.voidUnread_waits (x := { x with next := x.next + 1 }) (Tab.find_put_same _ _ _) working other next] at starts
      exact starts
    · rw [State.sampleTaken_reads found unplanned kept] at starts
      have now : u.regroup.now = u.now := congrArg Time.gcnt (by simp : Part.time.same u u.regroup)
      rw [now] at starts
      exact starts
  · intro s u g t j c x r h hg found entry waits
    subst hg
    have starts : exec (.sampleStart t j c) s = .next (u.sampleStart j c).stallClock.intPoll :=
      actStalls_of_acts h fun s => s.sampleStart j c
    rw [starts, State.sampleStart_waits found entry waits]
  · exact fun u r index no c => ⟨u.openChunk_none r index no c, fun p last => State.openChunk_some⟩
  · intro s u g t j k c x r l h hg found entry lane
    subst hg
    have reads : exec (.chunkRead t j k c) s = .next (u.chunkRead j k c).stallClock.intPoll :=
      actStalls_of_acts h fun s => s.chunkRead j k c
    exact ⟨State.laneReads_iff _ _ _ _ _ _, by rw [reads, State.chunkRead_eq found entry lane]⟩
  · intro u j k c x r l found lane recorded
    exact ⟨State.readChunk_fails found lane recorded r c,
      fun p last opened room => State.readChunk_opens found lane recorded opened room rfl⟩
  · exact fun u j k x r l found lane works storeless bufferless => State.settleLane_decodes found lane works storeless bufferless r
  · exact fun u r j k x l o found lane unplanned works => State.laneDone_leaves found lane unplanned works
  · intro s u t j k x r l h found entry lane
    have ends : exec (.budgetWindowEnd t j k) s = .next (u.budgetEnd j k).stallClock.intPoll :=
      actStalls_of_acts h fun s => s.budgetEnd j k
    refine ⟨fun held => ?_, fun cls budget again after working awake open_ => ?_⟩
    · rw [ends, State.budgetEnd_nothing found entry lane]
      rw [State.windowOver_iff]
      rcases held with h | h | h | h | h | h | h
      · exact .inl fun g => g.1 h
      · exact .inl fun g => g.2.1 h
      · exact .inl fun g => by simp [h] at g
      · exact .inl fun g => absurd g.2.2.2 (Nat.not_le.mpr h)
      · exact .inr (.inl h)
      · exact .inr (.inr (.inl h))
      · exact .inr (.inr (.inr h))
    · rw [State.budgetEnd_voids found entry lane (u.windowOver_iff r l |>.mpr ⟨cls, budget, again, after⟩)
        (working (k, l) (Tab.mem_of_find _ _ _ lane)) awake open_] at ends
      obtain ⟨y, z, job, gone, run, waits, retires⟩ := State.budgetEnd_comes (k := k) found entry working
        (void := voidOut x.stage (jobBase r x + k) 0x22) (show 0x22 ≠ 0 by decide)
      exact ⟨_, y, z, ends, job, gone, run, waits, retires⟩

end Sys2Proof.Machine

/-! ## SAMPLE_RETIRE and WIN_DEADLINE_END (R258, R262) -/

namespace Sys2Proof.Machine

/-- A request of a use that is held is served. -/
theorem State.askUse_held {s : State} {u : CellUse} (named : u ≠ .other) (held : s.holds u = true) (e : Nat) (r : Run) (p bytes : Nat) :
    s.askUse e r p bytes u = (s, true) := by
  unfold State.askUse
  split
  · rfl
  · unfold State.askCells
    exact if_pos (by simp [workRequest, named, held])

theorem readsSealed_iff (stage : Nat) :
    readsSealed stage = true ↔ stage = 1 ∨ stage = 2 ∨ stage = 3 ∨ stage = 4 ∨ stage = 0x10 := by
  unfold readsSealed
  simp [or_assoc]

section
variable {u : State} {j : Nat} {x : Job} {r : Run}

/-- The outcome that a stage has for its job's next sample, with the tensors that it writes. -/
def State.nextOut (s : State) (r : Run) (j : Nat) (x : Job) (k : Nat) : Option (SampleOut × (State → State)) :=
  match x.stage with
  | 5 => if s.worksOnSample j x k then (s.pyrWork r j x k).map fun o => (o, fun s => s.pyrRetire x.run x.snap k o) else none
  | 0x11 => if s.worksOnSample j x k then (s.vencWork j x k).map fun o => (o, id) else none
  | 6 | 7 | 8 | 9 => none
  | _ => (Tab.find x.done k).map fun o => (o, fun s => s.readRetire x k o)

/-- An encoder that has its V-core takes none. -/
theorem State.takeCore_kept (cored : x.stage ≠ 0x11 ∨ x.core ≠ none) (s : State) (j : Nat) : s.takeCore j x = s := by
  unfold State.takeCore
  refine if_neg fun lost => ?_
  rcases cored with other | core
  · exact other lost.1
  · exact core (Option.isNone_iff_eq_none.mp lost.2)

theorem State.sampleRetire_eq (found : Tab.find u.jobs j = some x) (entry : Tab.find u.runs x.run = some r)
    (cored : x.stage ≠ 0x11 ∨ x.core ≠ none) : u.sampleRetire j =
      if (!x.running || !u.mayWork r) = true then u
      else if x.stage = 6 ∧ (packCfg x.snap).mode = 0 then u.packNext r j
      else if (u.outputStalls r j x x.outs.length || decide (x.count ≤ x.outs.length)) = true then u
      else match u.nextOut r j x x.outs.length with
        | none => u
        | some (o, write) => u.retireOut r j x x.outs.length o write := by
  unfold State.sampleRetire State.nextOut
  rw [show u.job? j = some x from found]
  dsimp only
  rw [entry]
  dsimp only
  rw [State.takeCore_kept cored]
  rw [show u.job? j = some x from found, Option.getD_some]
  split
  · rfl
  split
  · rfl
  split
  · rfl
  obtain ⟨stage, here⟩ : ∃ n, x.stage = n := ⟨_, rfl⟩
  rw [here]
  split
  · split
    · cases u.pyrWork r j x x.outs.length <;> rfl
    · rfl
  · split
    · cases u.vencWork j x x.outs.length <;> rfl
    · rfl
  · rfl
  · rfl
  · rfl
  · rfl
  · cases Tab.find x.done x.outs.length <;> simp_all

theorem State.sampleRetire_nothing (found : Tab.find u.jobs j = some x) (entry : Tab.find u.runs x.run = some r)
    (cored : x.stage ≠ 0x11 ∨ x.core ≠ none)
    (held : x.running = false ∨ u.mayWork r = false ∨
      (x.stage ≠ 6 ∧ (u.outputStalls r j x x.outs.length = true ∨ x.count ≤ x.outs.length)) ∨
      (readsSealed x.stage = true ∧ Tab.find x.done x.outs.length = none)) : u.sampleRetire j = u := by
  rw [State.sampleRetire_eq found entry cored]
  rcases held with h | h | ⟨other, h⟩ | ⟨reads, h⟩
  · exact if_pos (by simp [h])
  · exact if_pos (by simp [h])
  · have waits : (u.outputStalls r j x x.outs.length || decide (x.count ≤ x.outs.length)) = true := by simpa using h
    rw [if_pos waits, if_neg (fun pack : x.stage = 6 ∧ _ => other pack.1), ite_self]
  · have nothing : u.nextOut r j x x.outs.length = none ∧ x.stage ≠ 6 := by
      unfold State.nextOut
      rcases (readsSealed_iff _).mp reads with e | e | e | e | e <;> simp [e, h]
    rw [nothing.1, if_neg (fun pack : x.stage = 6 ∧ _ => nothing.2 pack.1), ite_self, ite_self]

theorem State.nextOut_some {o : SampleOut}
    (made : (readsSealed x.stage = true ∧ Tab.find x.done x.outs.length = some o) ∨
      (x.stage = 5 ∧ u.worksOnSample j x x.outs.length = true ∧ u.pyrWork r j x x.outs.length = some o) ∨
      (x.stage = 0x11 ∧ x.core ≠ none ∧ u.vencWork j x x.outs.length = some o)) :
    ∃ write : State → State, u.nextOut r j x x.outs.length = some (o, write) ∧ (∀ w, Part.jobs.same w (write w)) ∧
      ∀ w : State, w.keepsRuns Run.voids (write w) := by
  unfold State.nextOut
  rcases made with ⟨reads, done⟩ | ⟨stage, works, pyr⟩ | ⟨stage, core, venc⟩
  · refine ⟨fun s => s.readRetire x x.outs.length o, ?_, fun w => by simp, fun w => w.keepsRuns_readRetire (fun _ _ _ => rfl) _ _ _⟩
    rcases (readsSealed_iff _).mp reads with e | e | e | e | e <;> simp [e, done]
  · refine ⟨fun s => s.pyrRetire x.run x.snap x.outs.length o, ?_, fun w => by simp,
      fun w => w.keepsRuns_pyrRetire (fun _ _ _ => rfl) _ _ _ _⟩
    simp [stage, works, pyr]
  · have works : u.worksOnSample j x x.outs.length = true := by
      unfold State.worksOnSample
      rw [if_pos stage]
      exact Option.isSome_iff_ne_none.mpr core
    exact ⟨id, by simp [stage, works, venc], fun _ => rfl, fun _ _ => rfl⟩

/-- R262: a sample that a stage has made retires, with its void in its entry, and no other does. -/
theorem State.retireOut_retires (found : Tab.find u.jobs j = some x) (entry : Tab.find u.runs x.run = some r) {o : SampleOut}
    (cells : x.snap.streamOut = false ∨ o.reason ≠ 0 ∨ u.holds (.record j x.outs.length) = true)
    (working : ∀ l ∈ x.lanes, l.2.out = none) (next : Tab.find x.done (x.outs.length + 1) = none) {write : State → State}
    (jobs : ∀ w, Part.jobs.same w (write w)) (runs : ∀ w : State, w.keepsRuns Run.voids (write w)) :
    ∃ (y : Job) (z : Run), Tab.find (u.retireOut r j x x.outs.length o write).jobs j = some y ∧
      y.outs = Tab.put x.outs x.outs.length o ∧ y.done = Tab.del x.done x.outs.length ∧ y.next = x.next ∧ y.lanes = x.lanes ∧
      Tab.find (u.retireOut r j x x.outs.length o write).runs x.run = some z ∧
      z.voids = (r.retired (jobBase r x + x.outs.length) o).voids := by
  have asked : (if x.snap.streamOut ∧ o.reason = 0 then u.askRecord r j x x.outs.length o else (u, true)) = (u, true) := by
    split
    case isTrue h =>
      rcases cells with out | void | held
      · rw [out] at h; exact absurd h.1 Bool.false_ne_true
      · exact absurd h.2 void
      · exact State.askUse_held (by simp) held _ _ _ _
    case isFalse => rfl
  obtain ⟨y, made⟩ : ∃ y : Job, y = { x with
      done := Tab.del x.done x.outs.length, outs := Tab.put x.outs x.outs.length o, tiles := u.tileCount 5 } := ⟨_, rfl⟩
  have job := State.retire_job (v := id) found r x x.outs.length o (write := write) fun w => State.keepsJobs_of_same (jobs w)
  rw [Option.map_id, id, id, ← made] at job
  have last : Tab.find y.done y.outs.length = none := by
    rw [made]
    rcases Tab.length_put x.outs x.outs.length o with same | grown
    · exact (congrArg _ same).trans (Tab.find_del_same _ _)
    · refine (congrArg _ grown).trans ((Tab.find_del_other _ _ _ (by omega)).trans next)
  have settled : u.retireOut r j x x.outs.length o write = u.retire r j x x.outs.length o write := by
    unfold State.retireOut
    rw [asked]
    dsimp only
    rw [if_pos rfl, State.settleJob_voids job (by rw [made]; exact working)]
    exact State.retireVoids_waits job last r _
  obtain ⟨z, run, voids⟩ := Option.map_eq_some_iff.mp (State.retire_run entry r j x.outs.length o runs)
  rw [settled]
  exact ⟨y, z, job, by rw [made], by rw [made], by rw [made], by rw [made], run, voids⟩

end

/-! ### PACK goes on (R253, R258) -/

/-- As a PACK job packs, what it retired stands, and new Spawns follow the others. -/
def Job.PacksOn (x y : Job) : Prop := y.outs = x.outs ∧ y.pack.arrived = x.pack.arrived ∧ ∃ new, y.spawns = x.spawns ++ new

theorem Job.PacksOn.refl (x : Job) : x.PacksOn x := ⟨rfl, rfl, [], (List.append_nil _).symm⟩

theorem Job.PacksOn.trans {x y z : Job} (h : x.PacksOn y) (g : y.PacksOn z) : x.PacksOn z := by
  obtain ⟨outs, arrived, a, spawns⟩ := h
  obtain ⟨outs', arrived', b, spawns'⟩ := g
  exact ⟨outs'.trans outs, arrived'.trans arrived, a ++ b, by rw [spawns', spawns, List.append_assoc]⟩

/-- No job goes, and each packs on at most. -/
def State.packsOn (s w : State) : Prop := ∀ k x, Tab.find s.jobs k = some x → ∃ y, Tab.find w.jobs k = some y ∧ x.PacksOn y

theorem State.packsOn_of_same {s w : State} (h : Part.jobs.same s w) : s.packsOn w := fun k x found =>
  ⟨x, (congrArg (Tab.find · k) h).trans found, .refl x⟩

theorem State.packsOn.trans {s w v : State} (h : s.packsOn w) (g : w.packsOn v) : s.packsOn v := fun k x found => by
  obtain ⟨y, found', on⟩ := h k x found
  obtain ⟨z, found'', on'⟩ := g k y found'
  exact ⟨z, found'', on.trans on'⟩

theorem State.packsOn_modJob_of_find {s : State} {j : Nat} {x : Job} (found : Tab.find s.jobs j = some x) {f : Job → Job}
    (on : x.PacksOn (f x)) : s.packsOn (s.modJob j f) := fun k y there => by
  rw [State.modJob_of_find found]
  by_cases same : k = j
  · subst same
    cases found.symm.trans there
    exact ⟨_, Tab.find_put_same _ _ _, on⟩
  · exact ⟨y, (Tab.find_put_other _ _ _ _ same).trans there, .refl y⟩

theorem State.packsOn_modJob (s : State) (j : Nat) {f : Job → Job} (on : ∀ y : Job, y.PacksOn (f y)) :
    s.packsOn (s.modJob j f) := by
  cases found : Tab.find s.jobs j with
  | none => unfold State.modJob; rw [found]; exact State.packsOn_of_same rfl
  | some x => exact State.packsOn_modJob_of_find found (on x)

theorem State.packsOn_foldl {β : Type} {f : State → β → State} (h : ∀ (s : State) b, s.packsOn (f s b)) (l : List β) (s : State) :
    s.packsOn (l.foldl f s) :=
  List.foldlRecOn (motive := s.packsOn) l f (State.packsOn_of_same rfl) fun _ ih b _ => ih.trans (h _ b)

theorem State.packsOn_emitSpawn (s : State) (r : Run) (j : Nat) (x : Job) : s.packsOn (s.emitSpawn r j x).1 := by
  have asked (n b : Nat) (u : CellUse) : Part.jobs.same s (s.askUse x.run r n b u).1 := by simp
  have pointed (w : State) (l : List PlanRow) (dtype rpr n : Nat) : Part.jobs.same w
      ((l.foldl (fun s w => s.point x.run 6 w.g (sha256 (planRowBytes dtype rpr w))) w).noteOutput j x n) := by simp
  unfold State.emitSpawn
  dsimp only
  split
  · exact State.packsOn_of_same rfl
  · split
    · exact ((State.packsOn_of_same (asked _ _ _)).trans
        (State.packsOn_modJob _ j (f := fun y => { y with
            spawns := y.spawns ++ [(s.dueSpawn r j x).1],
            pack := { y.pack with rows := (s.dueSpawn r j x).2, finished := (s.dueSpawn r j x).1.last } })
          fun y => ⟨rfl, rfl, _, rfl⟩)).trans (State.packsOn_of_same (pointed _ _ _ _ _))
    · exact State.packsOn_of_same (asked _ _ _)

theorem State.packsOn_emitSpawns (r : Run) (j n : Nat) : ∀ s : State, s.packsOn (s.emitSpawns r j n) := by
  induction n with
  | zero => exact fun s => State.packsOn_of_same rfl
  | succ n ih =>
    intro s
    unfold State.emitSpawns
    split
    · exact State.packsOn_of_same rfl
    · dsimp only
      split
      · exact (s.packsOn_emitSpawn r j _).trans (ih _)
      · exact s.packsOn_emitSpawn r j _

theorem State.packsOn_packEmit (s : State) (r : Run) (j : Nat) : s.packsOn (s.packEmit r j) := by
  unfold State.packEmit
  split
  · exact State.packsOn_of_same rfl
  · split
    · exact State.packsOn_emitSpawns r j _ s
    · exact State.packsOn_of_same rfl

theorem State.packsOn_packOne (s : State) (r : Run) (j : Nat) (samples : List Nat) : s.packsOn (s.packOne r j samples) := by
  have left (w : State) (e i n : Nat) (u : CellUse) : Part.jobs.same w (((w.freeUse u).tadpoleRows e i n).tadpoleRelease e i) := by simp
  unfold State.packOne
  split
  case h_1 x f found prof =>
    dsimp only
    have arrived : (x.pack.packWindow (packCfg x.snap) f.slots (s.windowBase r x) (r.cls == 0) samples).arrived = x.pack.arrived := rfl
    generalize x.pack.packWindow (packCfg x.snap) f.slots (s.windowBase r x) (r.cls == 0) samples = k at arrived ⊢
    exact (State.packsOn_modJob_of_find found
      (f := fun y => { y with pack := { k with values := k.values.filter fun v => !samples.contains v.1 } })
      ⟨rfl, arrived, [], (List.append_nil _).symm⟩).trans
      (State.packsOn_foldl (fun w i => State.packsOn_of_same (left _ _ _ _ _)) _ _)
  · exact State.packsOn_of_same rfl

theorem State.packsOn_packReady (r : Run) (j n : Nat) : ∀ s : State, s.packsOn (s.packReady r j n) := by
  induction n with
  | zero => exact fun s => State.packsOn_of_same rfl
  | succ n ih =>
    intro s
    unfold State.packReady
    split
    · exact State.packsOn_of_same rfl
    · dsimp only
      split
      · exact (s.packsOn_packOne r j _).trans (ih _)
      · exact State.packsOn_of_same rfl

/-- R259: a voided sample leaves its window; what has arrived stands. -/
theorem Packing.arrived_backfillOne (k : Packing) (c : PackCfg) (i : Nat) : (k.backfillOne c i).1.arrived = k.arrived := by
  unfold Packing.backfillOne
  split
  · rfl
  · dsimp only
    split
    · rfl
    · rfl

theorem State.packsOn_backfill (s : State) (r : Run) (j i : Nat) : s.packsOn (s.backfill r j i) := by
  have counted (w : State) (e : Nat) : Part.jobs.same w (w.addNdc e) := by simp
  unfold State.backfill
  split
  · exact State.packsOn_of_same rfl
  case h_2 x found =>
    dsimp only
    split
    · have filled : s.packsOn (s.modJob j fun y => { y with pack := (x.pack.backfillOne (packCfg x.snap) i).1 }) :=
        State.packsOn_modJob_of_find found ⟨rfl, Packing.arrived_backfillOne _ _ _, [], (List.append_nil _).symm⟩
      split
      · exact filled.trans (State.packsOn_of_same (counted _ _))
      · exact filled
    · exact State.packsOn_of_same rfl

section
variable {α : Type} {v : Run → α}
  (hv : ∀ r a b c d e, v { r with scratch := a, oob := b, tadpoles := c, lastPoint := d, divs := e } = v r)
include hv

theorem State.keepsRuns_tadpoleRows (s : State) (e sample n : Nat) : s.keepsRuns v (s.tadpoleRows e sample n) := by
  unfold State.tadpoleRows
  refine s.keepsRuns_modRun e fun r => ?_
  split
  · rfl
  · exact hv r r.scratch r.oob _ r.lastPoint r.divs

theorem State.keepsRuns_emitSpawn (s : State) (r : Run) (j : Nat) (x : Job) : s.keepsRuns v (s.emitSpawn r j x).1 := by
  have asked (n b : Nat) (u : CellUse) : Part.runs.same s (s.askUse x.run r n b u).1 := by simp
  have job (w : State) (f : Job → Job) : Part.runs.same w (w.modJob j f) := by simp
  have noted (w : State) (n : Nat) : Part.runs.same w (w.noteOutput j x n) := by simp
  have pointed (w : State) (l : List PlanRow) (dtype rpr : Nat) : w.keepsRuns v
      (l.foldl (fun s w => s.point x.run 6 w.g (sha256 (planRowBytes dtype rpr w))) w) :=
    List.foldlRecOn (motive := w.keepsRuns v) l _ (State.keepsRuns_of_same rfl) fun _ ih _ _ =>
      ih.trans (State.keepsRuns_point hv _ _ _ _ _ _)
  unfold State.emitSpawn
  dsimp only
  split
  · exact State.keepsRuns_of_same rfl
  · split
    · exact (((State.keepsRuns_of_same (asked _ _ _)).trans (State.keepsRuns_of_same (job _ _))).trans (pointed _ _ _ _)).trans
        (State.keepsRuns_of_same (noted _ _))
    · exact State.keepsRuns_of_same (asked _ _ _)

theorem State.keepsRuns_emitSpawns (r : Run) (j n : Nat) : ∀ s : State, s.keepsRuns v (s.emitSpawns r j n) := by
  induction n with
  | zero => exact fun s => State.keepsRuns_of_same rfl
  | succ n ih =>
    intro s
    unfold State.emitSpawns
    split
    · exact State.keepsRuns_of_same rfl
    · dsimp only
      split
      · exact (State.keepsRuns_emitSpawn hv s r j _).trans (ih _)
      · exact State.keepsRuns_emitSpawn hv s r j _

theorem State.keepsRuns_packEmit (s : State) (r : Run) (j : Nat) : s.keepsRuns v (s.packEmit r j) := by
  unfold State.packEmit
  split
  · exact State.keepsRuns_of_same rfl
  · split
    · exact State.keepsRuns_emitSpawns hv r j _ s
    · exact State.keepsRuns_of_same rfl

theorem State.keepsRuns_packOne (s : State) (r : Run) (j : Nat) (samples : List Nat) : s.keepsRuns v (s.packOne r j samples) := by
  have job (w : State) (f : Job → Job) : Part.runs.same w (w.modJob j f) := by simp
  have freed (w : State) (u : CellUse) : Part.runs.same w (w.freeUse u) := by simp
  have left (w : State) (e i n : Nat) (u : CellUse) : w.keepsRuns v (((w.freeUse u).tadpoleRows e i n).tadpoleRelease e i) :=
    ((State.keepsRuns_of_same (freed _ _)).trans (State.keepsRuns_tadpoleRows hv _ _ _ _)).trans
      (State.keepsRuns_tadpoleRelease hv _ _ _)
  unfold State.packOne
  split
  · exact (State.keepsRuns_of_same (job _ _)).trans (List.foldlRecOn (motive := State.keepsRuns v _) _ _ (State.keepsRuns_of_same rfl)
      fun _ ih _ _ => ih.trans (left _ _ _ _ _))
  · exact State.keepsRuns_of_same rfl

theorem State.keepsRuns_packReady (r : Run) (j n : Nat) : ∀ s : State, s.keepsRuns v (s.packReady r j n) := by
  induction n with
  | zero => exact fun s => State.keepsRuns_of_same rfl
  | succ n ih =>
    intro s
    unfold State.packReady
    split
    · exact State.keepsRuns_of_same rfl
    · dsimp only
      split
      · exact (State.keepsRuns_packOne hv s r j _).trans (ih _)
      · exact State.keepsRuns_of_same rfl

end

section
variable {u : State} {j : Nat} {x : Job} {r : Run}

/-! ### A sample arrives at PACK -/

theorem State.packEmit_idle (found : Tab.find u.jobs j = some x) (waits : x.pack.due (packCfg x.snap) = false) (r : Run) :
    u.packEmit r j = u := by
  have none : u.emitSpawn r j x = (u, false) := by
    unfold State.emitSpawn
    simp only [waits, Bool.not_false, Bool.true_or, if_true]
  unfold State.packEmit
  simp only [State.job?, found]
  split
  · unfold State.emitSpawns
    simp only [State.job?, found, none, Bool.false_eq_true, if_false]
  · rfl

theorem State.packNext_arrives (found : Tab.find u.jobs j = some x) (waits : x.pack.due (packCfg x.snap) = false)
    (more : x.outs.length < x.count) (works : u.worksOnSample j x x.outs.length = true) {a : Arrival}
    (arrives : u.arrivalOf r j x x.outs.length = some a) : u.packNext r j = u.packArrive r j x x.outs.length a := by
  have goes : (x.pack.due (packCfg x.snap) || decide (x.count ≤ x.outs.length) || !u.worksOnSample j x x.outs.length) = false := by
    simp [waits, more, works]
  unfold State.packNext
  simp only [State.packEmit_idle found waits, State.job?, found, goes, Bool.false_eq_true, if_false, arrives]

/-- A PACK job's note of a sample that arrives. -/
def Job.arrive (y : Job) (idx now : Nat) (item : Item) (vs : Option (List Nat)) : Job :=
  { y with pack := { y.pack with
      items := Tab.put y.pack.items idx item, arrived := Tab.put y.pack.arrived idx now,
      values := match vs with | some v => Tab.put y.pack.values idx v | none => y.pack.values } }

theorem State.retire_arrives (found : Tab.find u.jobs j = some x) (r : Run) (k : Nat) (o : SampleOut) (idx : Nat) (item : Item)
    (vs : Option (List Nat)) :
    ∃ y, Tab.find (u.retire r j x k o fun s => s.modJob j fun y => y.arrive idx s.now item vs).jobs j = some y ∧
      y.outs = Tab.put x.outs k o ∧ Tab.find y.pack.arrived idx = some u.now := by
  obtain ⟨w, begun⟩ : ∃ w, w = u.retireBegun r j x k o := ⟨_, rfl⟩
  have there := State.retireBegun_jobs found r x k o
  have now : w.now = u.now := by
    have kept : Part.time.same u (u.retireBegun r j x k o) := by unfold State.retireBegun; simp
    exact begun ▸ congrArg Time.gcnt kept
  have found' : Tab.find w.jobs j = some { x with
      done := Tab.del x.done k, outs := Tab.put x.outs k o, tiles := u.tileCount 5 } := by
    rw [begun, there]; exact Tab.find_put_same _ _ _
  have rest := (w.modJob j fun y => y.arrive idx w.now item vs).retireRest_jobs (v := id) r j x k o (write := id) (fun _ => rfl) j
  have placed := congrArg (fun s : State => Tab.find s.jobs j) (State.modJob_of_find found' fun y => y.arrive idx w.now item vs)
  rw [Tab.find_put_same] at placed
  rw [Option.map_id, id, id, placed] at rest
  subst begun
  refine ⟨_, rest, rfl, ?_⟩
  rw [← now]
  exact Tab.find_put_same _ _ _

/-- What a PACK job retires of a sample that arrives. -/
def Arrival.out (a : Arrival) (idx : Nat) : SampleOut :=
  { index := idx, reason := a.item.reason, detail := a.item.detail, role := a.item.role, concealed := a.concealed }

theorem State.packArrive_arrives (found : Tab.find u.jobs j = some x) (unplanned : r.cls ≠ 0) (k : Nat) (a : Arrival)
    (cells : a.item.reason ≠ 0 ∨ u.holds (.waiting j k) = true) :
    ∃ y, Tab.find (u.packArrive r j x k a).jobs j = some y ∧
      y.outs = Tab.put x.outs k (a.out (jobBase r x + k)) ∧
      Tab.find y.pack.arrived (jobBase r x + k) = some u.now := by
  obtain ⟨vs, carried⟩ : ∃ vs, vs = if a.item.reason = 0 then a.values else none := ⟨_, rfl⟩
  have asked (p : Nat) : u.askUse x.run r p ((vs.map List.length).getD 0 * (dtypeSize (u.rowDtype j x)).getD 1) (.waiting j k) =
      (u, true) := by
    rcases cells with void | held
    · rw [carried, if_neg void]
      exact if_pos (Nat.zero_mul _)
    · exact State.askUse_held (by simp) held _ _ _ _
  obtain ⟨y, there, outs, arrived⟩ := State.retire_arrives found r k (a.out (jobBase r x + k)) (jobBase r x + k) a.item vs
  obtain ⟨w, retired⟩ : ∃ w, w = u.retire r j x k (a.out (jobBase r x + k)) fun s =>
    s.modJob j fun y => y.arrive (jobBase r x + k) s.now a.item vs := ⟨_, rfl⟩
  have goes : u.packArrive r j x k a =
      ((if a.item.reason ≠ 0 then w.backfill r j (jobBase r x + k) else w).packReady r j (x.pack.waiting.length + 1)).packEmit r j := by
    unfold State.packArrive
    dsimp only
    rw [if_neg unplanned]
    dsimp only
    rw [← carried, asked, retired]
    rfl
  have on : w.packsOn (u.packArrive r j x k a) := by
    rw [goes]
    refine State.packsOn.trans (State.packsOn.trans ?_ (State.packsOn_packReady r j _ _)) (State.packsOn_packEmit _ r j)
    split
    · exact w.packsOn_backfill r j _
    · exact State.packsOn_of_same rfl
  obtain ⟨z, found', outs', arrived', -⟩ := on j y (retired ▸ there)
  exact ⟨z, found', outs'.trans outs, arrived' ▸ arrived⟩

/-! ### A deadline window ends (R258) -/

theorem State.deadlineEnd_waits (found : Tab.find u.jobs j = some x)
    (waits : ∀ e, x.pack.windowEnd (packCfg x.snap) = some e → u.now < e) : u.deadlineEnd j = u := by
  unfold State.deadlineEnd
  simp only [State.job?, found]
  split
  · rfl
  split
  · rfl
  case h_2 e ends =>
    exact if_pos (by simp [waits e ends])

theorem State.addNdcs_run {s : State} {e : Nat} {r : Run} (entry : Tab.find s.runs e = some r) (n : Nat) :
    (Tab.find ((List.range n).foldl (fun s _ => s.addNdc e) s).runs e).map Run.ndc = some (r.ndc + n) := by
  induction n with
  | zero => rw [List.range_zero, List.foldl_nil, entry]; rfl
  | succ n ih =>
    rw [List.range_succ, List.foldl_append, List.foldl_cons, List.foldl_nil]
    obtain ⟨z, there, ndc⟩ := Option.map_eq_some_iff.mp ih
    rw [(State.addNdc_of_find there).1]
    exact congrArg (some ∘ Nat.succ) ndc

theorem State.deadlineEnd_moves (found : Tab.find u.jobs j = some x) (entry : Tab.find u.runs x.run = some r) (pack : x.stage = 6)
    (running : x.running = true) (may : u.mayWork r = true) (partly : x.pack.ready (packCfg x.snap) = false) {e : Nat}
    (ends : x.pack.windowEnd (packCfg x.snap) = some e) (after : e ≤ u.now) :
    ∃ (y : Job) (z : Run), Tab.find (u.deadlineEnd j).jobs j = some y ∧ (∃ new, y.spawns = x.spawns ++ new) ∧ y.outs = x.outs ∧
      Tab.find (u.deadlineEnd j).runs x.run = some z ∧ z.ndc = r.ndc + (x.pack.moveLate (packCfg x.snap)).2 := by
  obtain ⟨w, moved⟩ : ∃ w, w = (List.range (x.pack.moveLate (packCfg x.snap)).2).foldl (fun s _ => s.addNdc x.run)
    (u.modJob j fun y => { y with pack := (x.pack.moveLate (packCfg x.snap)).1 }) := ⟨_, rfl⟩
  have goes : (!x.running || x.stage != 6 || !u.mayWork r || decide (u.now < e) || x.pack.ready (packCfg x.snap)) = false := by
    simp [running, pack, may, partly, after]
  have eq : u.deadlineEnd j = ((w.packOne r j ((x.pack.front (packCfg x.snap)).filter (x.pack.inTime (packCfg x.snap)))).packReady r j
      (x.pack.waiting.length + 1)).packEmit r j := by
    unfold State.deadlineEnd
    simp only [State.job?, found, entry, ends, goes, Bool.false_eq_true, if_false, ← moved]
  have counted : ∀ (t : State) (l : List Nat), Part.jobs.same t (l.foldl (fun s _ => s.addNdc x.run) t) := by simp
  have on : u.packsOn (u.deadlineEnd j) := by
    rw [eq]
    refine State.packsOn.trans (State.packsOn.trans (State.packsOn.trans ?_ (w.packsOn_packOne r j _)) (State.packsOn_packReady r j _ _))
      (State.packsOn_packEmit _ r j)
    rw [moved]
    exact (State.packsOn_modJob_of_find found (f := fun y => { y with pack := (x.pack.moveLate (packCfg x.snap)).1 })
      ⟨rfl, rfl, [], (List.append_nil _).symm⟩).trans (State.packsOn_of_same (counted _ _))
  have runs : w.keepsRuns Run.ndc (u.deadlineEnd j) := by
    rw [eq]
    have hv : ∀ (r : Run) a b c d e, Run.ndc { r with scratch := a, oob := b, tadpoles := c, lastPoint := d, divs := e } = r.ndc :=
      fun _ _ _ _ _ _ => rfl
    exact ((State.keepsRuns_packOne hv w r j _).trans (State.keepsRuns_packReady hv r j _ _)).trans (State.keepsRuns_packEmit hv _ r j)
  have ndc := State.addNdcs_run (s := u.modJob j fun y => { y with pack := (x.pack.moveLate (packCfg x.snap)).1 })
    ((congrArg (Tab.find · x.run) (by simp : Part.runs.same u _)).trans entry) (x.pack.moveLate (packCfg x.snap)).2
  rw [← moved] at ndc
  obtain ⟨y, there, outs, -, spawns⟩ := on j x found
  obtain ⟨z, run, count⟩ := Option.map_eq_some_iff.mp ((runs x.run).trans ndc)
  exact ⟨y, z, there, spawns, outs, run, count⟩

end

end Sys2Proof.Machine

/-! ## ENCODE_SPAWN, TADPOLE_LIMIT and BACKLOG_RESUME (R284, R99, R378) -/

namespace Sys2Proof.Machine

/-! ### ENCODE_SPAWN -/

section
variable {u : State} {j n : Nat} {x p : Job} {c : Encoded}

theorem State.takeSpawn_jobs (found : Tab.find u.jobs j = some x) (there : Tab.find u.jobs n = some p) (apart : n ≠ j) :
    Tab.find (u.takeSpawn j x n p c).jobs j = some { x with encoded := x.encoded ++ [c] } ∧
      Tab.find (u.takeSpawn j x n p c).jobs n = some { p with encTaken := p.encTaken + 1 } := by
  have pointed (w : State) (k : CellUse) : Part.jobs.same w
      (((c.rows.foldl (fun s w => s.point x.run 8 w.g (sha256 (encRowBytes w))) (w.freeUse k)).unitDone 8).noteTaken j x p.encTaken) := by
    simp
  obtain ⟨p', counted⟩ : ∃ p' : Job, p' = { p with encTaken := p.encTaken + 1 } := ⟨_, rfl⟩
  obtain ⟨v, stepped⟩ : ∃ v : State, v = { u with jobs := Tab.put u.jobs n p' } := ⟨_, rfl⟩
  have taken : u.modJob n (fun y => { y with encTaken := p.encTaken + 1 }) = v := by
    rw [State.modJob_of_find there, stepped, counted]
  have still : Tab.find v.jobs j = some x := by
    rw [stepped]
    exact (Tab.find_put_other _ _ _ _ apart.symm).trans found
  have jobs : (u.takeSpawn j x n p c).jobs = Tab.put v.jobs j { x with encoded := x.encoded ++ [c] } := by
    unfold State.takeSpawn
    dsimp only
    rw [taken, State.modJob_of_find still]
    exact pointed _ _
  rw [jobs]
  refine ⟨Tab.find_put_same _ _ _, (Tab.find_put_other _ _ _ _ apart).trans ?_⟩
  rw [stepped, counted]
  exact Tab.find_put_same _ _ _

variable {r : Run} {f : Profile} {sp : Spawn}

/-- The encoded record of a Spawn, with the rounding of its job (R285). -/
def State.encodes (r : Run) (x : Job) (f : Profile) (n : Nat) (sp : Spawn) : Encoded :=
  encodeRecord f (if encRound x.snap then some (Tab.getD r.seeds (encSeed x.snap) [], encStream x.snap) else none) n sp

/-- What ENCODE_SPAWN does of a Spawn that may be taken, by where its rows go. -/
def State.encodeGoes (s : State) (r : Run) (j : Nat) (x : Job) (n : Nat) (p : Job) (f : Profile) (c : Encoded) : State :=
  match s.sealPlace r.planned (s.placeOf x.run j) with
  | none => (s.takeSpawn j x n p c).encodedEnds x.run c
  | some i =>
    match s.jobAt x.run i, s.dealRegion with
    | some (m, y), some d =>
      if !y.running || s.stallsAt (backKey 0x0B d) 0x0B (s.sealBacklog d) then s
      else
        let size := 64 + encRowsSize f c.rows
        let pool := if (Tab.getD s.pool.backlogs (backKey 0x0B d) {}).spilling then 8 else d
        let a := s.askUse x.run r pool (if c.rows.all fun w => w.rows.isEmpty then 0 else size) (.encoded s.nextSeal)
        if a.2 then
          let s := (a.1.takeSpawn j x n p c).dealRecord x.run m d y.snap size c
          s.noteLevel (backKey 0x0B d) 0x0B (s.sealBacklog d)
        else a.1
    | _, _ => s

theorem State.encodeSpawn_eq (found : Tab.find u.jobs j = some x) (entry : Tab.find u.runs x.run = some r) (stage : x.stage = 8)
    (running : x.running = true) (may : u.mayWork r = true) (open_ : u.chorusStalled r = false) (prof : u.profileOf r = some f)
    (next : u.nextSpawn r j x = some (n, p, sp)) :
    u.encodeSpawn j = u.encodeGoes r j x n p f (State.encodes r x f n sp) := by
  have goes : (x.stage != 8 || !x.running || !u.mayWork r || u.chorusStalled r) = false := by simp [stage, running, may, open_]
  unfold State.encodeSpawn
  simp only [State.job?, found, entry, prof, next, goes]
  rfl

/-- What the end of a SEAL job's manifests leaves of the jobs. -/
def Job.encodes (y : Job) : List Encoded × Nat := (y.encoded, y.encTaken)

theorem State.closeManifests_jobs (e j : Nat) (final : Bool) (n : Nat) :
    ∀ s : State, s.keepsJobs Job.encodes (s.closeManifests e j final n) := by
  have closed (s : State) (r : Run) (p : Snap) (k : Nat) (es : List (Nat × Bytes)) :
      s.keepsJobs Job.encodes (s.closeManifest e j r p k es) := by
    have dropped (w : State) : Part.jobs.same w (w.sealDrop e k) := by simp
    have noted : s.keepsJobs Job.encodes (s.modJob j fun y => { y with closed := k + 1 }) := s.keepsJobs_modJob j fun y => rfl
    unfold State.closeManifest
    dsimp only
    split
    · exact noted.trans (State.keepsJobs_of_same (dropped _))
    · exact noted.trans (State.keepsJobs_of_same rfl)
  induction n with
  | zero => exact fun s => State.keepsJobs_of_same rfl
  | succ n ih =>
    intro s
    unfold State.closeManifests
    split
    · split
      · exact State.keepsJobs_of_same rfl
      · exact (closed _ _ _ _ _).trans (ih _)
    · exact State.keepsJobs_of_same rfl

/-- The rows of an encoded record that SEAL takes, each with its place among them. -/
def placedRows (rows : List SealRow) : List SealRow :=
  (List.range rows.length).filterMap fun i => (rows[i]?).map fun w => { w with pos := i }

theorem placedRows_eq (rows : List SealRow) : placedRows rows = rows.mapIdx fun i w => { w with pos := i } := by
  induction rows using List.reverseRecOn with
  | nil => rfl
  | append_singleton rows a ih =>
    have front : (List.range rows.length).filterMap (fun i => ((rows ++ [a])[i]?).map fun w => { w with pos := i }) = placedRows rows :=
      List.filterMap_congr fun i mem => by rw [List.getElem?_append_left (List.mem_range.mp mem)]
    rw [List.mapIdx_concat, ← ih, ← front]
    simp [placedRows, List.range_succ, List.filterMap_append]

theorem placedRows_rows (rows : List SealRow) :
    (placedRows rows).map (fun w => { w with pos := 0 }) = rows.map fun w => { w with pos := 0 } := by
  rw [placedRows_eq]
  exact List.ext_getElem (by simp) fun i _ _ => by simp

theorem placedRows_pos (rows : List SealRow) : (placedRows rows).map SealRow.pos = List.range rows.length := by
  rw [placedRows_eq]
  exact List.ext_getElem (by simp) fun i _ _ => by simp

/-- The Spawn of an encoded record at the region that it is dealt to. -/
def dealtSpawn (e m d : Nat) (q : Snap) (size : Nat) (c : Encoded) : SealSpawn :=
  { run := e, job := m, region := d, last := c.last, size := size, total := (c.rows.flatMap (sealRows q)).length,
    rows := placedRows (c.rows.flatMap (sealRows q)) }

theorem State.dealRecord_deals (s : State) (e m d : Nat) (q : Snap) (size : Nat) (c : Encoded) :
    s.keepsJobs Job.encodes (s.dealRecord e m d q size c) ∧ (s.dealRecord e m d q size c).dealt = d ∧
      (c.rows.flatMap (sealRows q) ≠ [] →
        Tab.find (s.dealRecord e m d q size c).seals s.nextSeal = some (dealtSpawn e m d q size c)) := by
  obtain ⟨w, entered⟩ : ∃ w, w = c.rows.foldl (fun s w => (s.enterPlanRow e w).dropColumnless e d q w) s := ⟨_, rfl⟩
  have jobs : Part.jobs.same s w := by rw [entered]; simp
  have number : Part.nextSeal.same s w := by rw [entered]; simp
  have eq : s.dealRecord e m d q size c = if (c.rows.flatMap (sealRows q)).isEmpty then
      (((({ w with dealt := d } : State).freeUse (.encoded w.nextSeal)).lastSpawn m c.last).closeManifests e m false 4096)
    else { w with dealt := d, nextSeal := w.nextSeal + 1, seals := Tab.put w.seals w.nextSeal (dealtSpawn e m d q size c) } := by
    rw [entered]; rfl
  rw [eq]
  by_cases empty : (c.rows.flatMap (sealRows q)).isEmpty = true
  · rw [if_pos empty]
    have freed (t : State) (k : CellUse) : Part.jobs.same t (t.freeUse k) := by simp
    have last (t : State) : t.keepsJobs Job.encodes (t.lastSpawn m c.last) := by
      unfold State.lastSpawn
      split
      · exact t.keepsJobs_modJob m fun y => rfl
      · exact State.keepsJobs_of_same rfl
    have dealt (t : State) (k : CellUse) : Part.dealt.same t (((t.freeUse k).lastSpawn m c.last).closeManifests e m false 4096) := by simp
    refine ⟨?_, dealt _ _, fun some => absurd (List.isEmpty_iff.mp empty) some⟩
    exact (((State.keepsJobs_of_same (w := { w with dealt := d }) jobs).trans (State.keepsJobs_of_same (freed _ _))).trans (last _)).trans
      (State.closeManifests_jobs e m false 4096 _)
  · rw [if_neg empty]
    refine ⟨State.keepsJobs_of_same jobs, rfl, fun _ => ?_⟩
    rw [← (number : w.nextSeal = s.nextSeal)]
    exact Tab.find_put_same _ _ _

theorem State.encodeGoes_ends (found : Tab.find u.jobs j = some x) (there : Tab.find u.jobs n = some p) (apart : n ≠ j)
    (ends : u.sealPlace r.planned (u.placeOf x.run j) = none) (f : Profile) (c : Encoded) :
    ∃ y z, Tab.find (u.encodeGoes r j x n p f c).jobs j = some y ∧ y.encoded = x.encoded ++ [c] ∧
      Tab.find (u.encodeGoes r j x n p f c).jobs n = some z ∧ z.encTaken = p.encTaken + 1 ∧
      (u.encodeGoes r j x n p f c).seals = u.seals := by
  have goes : u.encodeGoes r j x n p f c = (u.takeSpawn j x n p c).encodedEnds x.run c := by unfold State.encodeGoes; rw [ends]
  have jobs : Part.jobs.same (u.takeSpawn j x n p c) ((u.takeSpawn j x n p c).encodedEnds x.run c) := by simp
  obtain ⟨mine, theirs⟩ := State.takeSpawn_jobs (c := c) found there apart
  rw [goes]
  exact ⟨_, _, (congrArg (Tab.find · j) jobs).trans mine, rfl, (congrArg (Tab.find · n) jobs).trans theirs, rfl,
    (by simp : Part.seals.same u ((u.takeSpawn j x n p c).encodedEnds x.run c))⟩

theorem State.encodeGoes_waits {i m d : Nat} {y : Job} (seat : u.sealPlace r.planned (u.placeOf x.run j) = some i)
    (at_ : u.jobAt x.run i = some (m, y)) (deal : u.dealRegion = some d)
    (waits : y.running = false ∨ u.stallsAt (backKey 0x0B d) 0x0B (u.sealBacklog d) = true) (p : Job) (f : Profile) (c : Encoded) :
    u.encodeGoes r j x n p f c = u := by
  unfold State.encodeGoes
  rw [seat]
  dsimp only
  rw [at_, deal]
  exact if_pos (by rcases waits with h | h <;> simp [h])

theorem State.encodeGoes_deals (found : Tab.find u.jobs j = some x) (there : Tab.find u.jobs n = some p) (apart : n ≠ j)
    {i m d : Nat} {y : Job} (seat : u.sealPlace r.planned (u.placeOf x.run j) = some i) (at_ : u.jobAt x.run i = some (m, y))
    (deal : u.dealRegion = some d) (running : y.running = true)
    (flows : u.stallsAt (backKey 0x0B d) 0x0B (u.sealBacklog d) = false) (f : Profile) {c : Encoded}
    (cells : (∀ w ∈ c.rows, w.rows = []) ∨ u.holds (.encoded u.nextSeal) = true) :
    ∃ y' z, Tab.find (u.encodeGoes r j x n p f c).jobs j = some y' ∧ y'.encoded = x.encoded ++ [c] ∧
      Tab.find (u.encodeGoes r j x n p f c).jobs n = some z ∧ z.encTaken = p.encTaken + 1 ∧
      (u.encodeGoes r j x n p f c).dealt = d ∧
      (c.rows.flatMap (sealRows y.snap) ≠ [] → Tab.find (u.encodeGoes r j x n p f c).seals u.nextSeal =
        some (dealtSpawn x.run m d y.snap (64 + encRowsSize f c.rows) c)) := by
  have asked (k bytes : Nat) : u.askUse x.run r k (if c.rows.all fun w => w.rows.isEmpty then 0 else bytes) (.encoded u.nextSeal) =
      (u, true) := by
    rcases cells with empty | held
    · rw [if_pos (List.all_eq_true.mpr fun w mem => List.isEmpty_iff.mpr (empty w mem))]
      exact if_pos rfl
    · exact State.askUse_held (by simp) held _ _ _ _
  obtain ⟨t, taken⟩ : ∃ t, t = u.takeSpawn j x n p c := ⟨_, rfl⟩
  obtain ⟨w, dealtTo⟩ : ∃ w, w = t.dealRecord x.run m d y.snap (64 + encRowsSize f c.rows) c := ⟨_, rfl⟩
  have goes : u.encodeGoes r j x n p f c = w.noteLevel (backKey 0x0B d) 0x0B (w.sealBacklog d) := by
    unfold State.encodeGoes
    rw [seat]
    dsimp only
    rw [at_, deal]
    dsimp only
    rw [asked, if_neg (by simp [running, flows]), dealtTo, taken]
    rfl
  obtain ⟨kept, dealt, sealed⟩ := State.dealRecord_deals t x.run m d y.snap (64 + encRowsSize f c.rows) c
  rw [← dealtTo] at kept dealt sealed
  have number : t.nextSeal = u.nextSeal := taken ▸ (by simp : Part.nextSeal.same u (u.takeSpawn j x n p c))
  obtain ⟨mine, theirs⟩ := State.takeSpawn_jobs (c := c) found there apart
  rw [← taken] at mine theirs
  obtain ⟨y', job, mineEnc⟩ := Option.map_eq_some_iff.mp ((kept j).trans (congrArg (Option.map Job.encodes) mine))
  obtain ⟨z, pack, theirsEnc⟩ := Option.map_eq_some_iff.mp ((kept n).trans (congrArg (Option.map Job.encodes) theirs))
  rw [goes]
  exact ⟨y', z, job, congrArg Prod.fst mineEnc, pack, congrArg Prod.snd theirsEnc, dealt, fun some => number ▸ sealed some⟩

end

/-! ### TADPOLE_LIMIT -/

section
variable {u : State} {e i : Nat} {r : Run} {p : Tadpole}

theorem State.dropRun_ndcGlobal (s : State) (e : Nat) : (s.dropRun e).det.ndcGlobal = s.det.ndcGlobal := by
  have points (w : State) : (w.dropPoints e).det.ndcGlobal = w.det.ndcGlobal := rfl
  have work (w : State) : Part.det.same w (w.dropWork e) := by simp
  have ends (w : State) : (w.endRun e).det.ndcGlobal = w.det.ndcGlobal := by
    unfold State.endRun
    split
    · rfl
    · dsimp only
      exact (congrArg Det.ndcGlobal (work _)).trans (points _)
  have before (f : Run → Run) : Part.det.same s
      (((((s.dropCopies e).dropEntryLoops e).modRun e f).dropSeals e).dropManifests e) := by simp
  exact (ends _).trans (congrArg Det.ndcGlobal (before _))

theorem State.tadpoleLimit_waits (entry : Tab.find u.runs e = some r) (tadpole : Tab.find r.tadpoles i = some p)
    (early : u.now < p.start + u.cus.tadpoleLimit.toNat * 10 ^ 6) : u.tadpoleLimit e i = u := by
  unfold State.tadpoleLimit
  simp only [entry, tadpole]
  exact if_pos early

theorem State.tadpoleLimit_drops (entry : Tab.find u.runs e = some r) (tadpole : Tab.find r.tadpoles i = some p)
    (late : p.start + u.cus.tadpoleLimit.toNat * 10 ^ 6 ≤ u.now) :
    Tab.find (u.tadpoleLimit e i).runs e = none ∧ bitOf (u.tadpoleLimit e i).cus.evt.bits.toNat 7 = true ∧
      (u.tadpoleLimit e i).det.ndcGlobal = satAdd 64 u.det.ndcGlobal 1 ∧
      (u.faults.halt = false → ∀ x ∈ (u.queue r.queue).taken, x.serial = e → x.compl = none →
        ∃ y ∈ ((u.tadpoleLimit e i).queue r.queue).taken, y.serial = e ∧ ∃ c, y.compl = some c ∧ c.status = 0x60) := by
  obtain ⟨w, counted⟩ : ∃ w, w = ((u.addNdc e).modCus fun c => { c with evt := c.evt.set 7 (u.addNdc e).now }).custodyRecord 0x040A 2
    (leBytes 2 r.queue ++ leBytes 2 r.label) := ⟨_, rfl⟩
  have drops : u.tadpoleLimit e i = w.dropRun e := by
    unfold State.tadpoleLimit
    simp only [entry, tadpole]
    rw [if_neg (Nat.not_lt.mpr late), counted]
  have kept : Part.cus.same ((u.addNdc e).modCus fun c => { c with evt := c.evt.set 7 (u.addNdc e).now }) (w.dropRun e) := by
    rw [counted]; simp
  have runs : Part.runs.same (u.addNdc e) w := by rw [counted]; simp
  have det : Part.det.same (u.addNdc e) w := by rw [counted]; simp
  have qg : Part.qg.same (u.addNdc e) w := by rw [counted]; simp
  have faults : Part.faults.same u w := by rw [counted]; simp
  obtain ⟨run, ndc, queue⟩ := State.addNdc_of_find entry
  obtain ⟨gone, -, -, -, completes⟩ := State.dropRun_facts (s := w) ((congrArg (Tab.find · e) runs).trans run)
  have taken : (w.queue r.queue).taken = (u.queue r.queue).taken := by
    have same : w.queue r.queue = (u.addNdc e).queue r.queue := by rw [State.queue, State.queue, (qg : w.qg = _)]
    rw [same, queue]
  rw [drops]
  refine ⟨gone, ?_, (State.dropRun_ndcGlobal w e).trans ((congrArg Det.ndcGlobal det).trans ndc), fun awake x mem => ?_⟩
  · rw [(kept : (w.dropRun e).cus = _)]
    exact W1c.bitOf_set _ (by decide) _
  · exact completes ((congrArg Faults.halt faults).trans awake) x (taken ▸ mem)

end

/-! ### BACKLOG_RESUME -/

theorem State.noteLevel_levels (u : State) (key role b : Nat) :
    u.changesOnly [.pool] (u.noteLevel key role b) ∧
      ((Tab.getD (u.noteLevel key role b).pool.backlogs key {}).stalled = true ↔
        (u.waterOf role).2.2 ≤ b ∨ ((Tab.getD u.pool.backlogs key {}).stalled = true ∧ (u.waterOf role).2.1 ≤ b)) ∧
      ((Tab.getD (u.noteLevel key role b).pool.backlogs key {}).spilling = true ↔
        (u.waterOf role).2.1 ≤ b ∨ ((Tab.getD u.pool.backlogs key {}).spilling = true ∧ (u.waterOf role).1 ≤ b)) ∧
      ∀ k, k ≠ key → Tab.getD (u.noteLevel key role b).pool.backlogs k {} = Tab.getD u.pool.backlogs k {} := by
  refine ⟨noteLevel_only u key role b, ?_, ?_, fun k other => ?_⟩
  · simp [State.noteLevel, State.modPool]
  · simp [State.noteLevel, State.modPool]
  · exact Tab.getD_put_other _ _ _ _ _ other

/-- Settles O55: a sample retires with its void in its entry; what follows it leaves the job's outcomes, its Spawns and its seals'
records as the row made them. -/
theorem sampleRetirement : Obligations.SampleRetirement := by
  unfold Obligations.SampleRetirement
  refine ⟨?_, ?_, ?_, ?_, ?_, ?_, ?_⟩
  · intro s u t j x r o h found entry running may more flows cells working next made
    have retires : exec (.sampleRetire t j) s = .next (u.sampleRetire j).stallClock.intPoll :=
      actStalls_of_acts h fun s => s.sampleRetire j
    have other : x.stage ≠ 6 := by
      rcases made with ⟨reads, -⟩ | ⟨stage, -⟩ | ⟨stage, -⟩
      · rcases (readsSealed_iff _).mp reads with e | e | e | e | e <;> simp [e]
      · simp [stage]
      · simp [stage]
    have cored : x.stage ≠ 0x11 ∨ x.core ≠ none := by
      rcases made with ⟨reads, -⟩ | ⟨stage, -⟩ | ⟨-, core, -⟩
      · rcases (readsSealed_iff _).mp reads with e | e | e | e | e <;> simp [e]
      · simp [stage]
      · exact .inr core
    obtain ⟨write, out, jobs, runs⟩ := State.nextOut_some made
    rw [State.sampleRetire_eq found entry cored, if_neg (by simp [running, may]), if_neg (fun pack : x.stage = 6 ∧ _ => other pack.1),
      if_neg (by simp [flows, more]), out] at retires
    obtain ⟨y, z, job, outs, done, next', lanes, run, voids⟩ := State.retireOut_retires found entry cells working next jobs runs
    have voided : z.voided = _ := congrArg Prod.fst voids
    have affected : z.affected = _ := congrArg Prod.snd voids
    refine ⟨_, y, z, retires, job, outs, done, next', lanes, run, fun void => ⟨?_, ?_⟩, fun whole => ?_⟩
    · rw [voided]; exact r.mem_voided_retired _ void
    · rw [affected]; exact r.mem_affected_retired _ void
    · rw [voided]; exact r.voided_retired _ whole
  · intro s u t j x r h found entry cored held
    have retires : exec (.sampleRetire t j) s = .next (u.sampleRetire j).stallClock.intPoll :=
      actStalls_of_acts h fun s => s.sampleRetire j
    rw [retires, State.sampleRetire_nothing found entry cored held]
  · intro s u t j x r a h found entry running may more pack mode cls waits works arrives cells
    have retires : exec (.sampleRetire t j) s = .next (u.sampleRetire j).stallClock.intPoll :=
      actStalls_of_acts h fun s => s.sampleRetire j
    rw [State.sampleRetire_eq found entry (.inl (by simp [pack])), if_neg (by simp [running, may]), if_pos ⟨pack, mode⟩,
      State.packNext_arrives found waits more works arrives] at retires
    obtain ⟨y, there, outs, arrived⟩ := State.packArrive_arrives found cls _ a cells
    exact ⟨_, y, retires, there, outs, arrived⟩
  · intro s u t j x r h found entry pack running may partly
    have ends : exec (.winDeadlineEnd t j) s = .next (u.deadlineEnd j).stallClock.intPoll :=
      actStalls_of_acts h fun s => s.deadlineEnd j
    refine ⟨fun e window early => ?_, fun none => ?_, fun e window after => ?_⟩
    · rw [ends, State.deadlineEnd_waits found fun e' window' => by cases window.symm.trans window'; exact early]
    · rw [ends, State.deadlineEnd_waits found fun e' window' => by cases none.symm.trans window']
    · obtain ⟨y, z, there, spawns, outs, run, count⟩ := State.deadlineEnd_moves found entry pack running may partly window after
      exact ⟨_, y, z, ends, there, spawns, outs, run, count⟩
  · intro s u t j n x p r f sp h found entry stage running may open_ prof next there apart seed c rows
    have spawns : exec (.encodeSpawn t j) s = .next (u.encodeSpawn j).stallClock.intPoll :=
      actStalls_of_acts h fun s => s.encodeSpawn j
    rw [State.encodeSpawn_eq found entry stage running may open_ prof next] at spawns
    refine ⟨fun ends => ?_, fun i m y d seat at_ deal waits => ?_, fun i m y d seat at_ deal taken flows cells => ?_⟩
    · obtain ⟨y, z, job, encoded, packed, count, seals⟩ := State.encodeGoes_ends found there apart ends f c
      exact ⟨_, y, z, spawns, job, encoded, packed, count, seals⟩
    · rw [State.encodeGoes_waits seat at_ deal waits] at spawns
      exact spawns
    · obtain ⟨y', z, job, encoded, packed, count, dealt, sealed⟩ :=
        State.encodeGoes_deals found there apart seat at_ deal taken flows f cells
      exact ⟨_, y', z, spawns, job, encoded, packed, count, dealt, fun some => ⟨_, sealed some, rfl, rfl, rfl, rfl, rfl, rfl, rfl, rfl,
        placedRows_rows _, placedRows_pos _⟩⟩
  · intro s u t e i r p h entry tadpole
    have limits : exec (.tadpoleLimit t e i) s = .next (u.tadpoleLimit e i).stallClock.intPoll :=
      actStalls_of_acts h fun s => s.tadpoleLimit e i
    refine ⟨fun early => ?_, fun late => ?_⟩
    · rw [limits, State.tadpoleLimit_waits entry tadpole early]
    · exact ⟨_, limits, State.tadpoleLimit_drops entry tadpole late⟩
  · intro s u t key h stage b w x
    exact ⟨_, actStalls_of_acts h fun s => (s.backlogResume key).resumeAll, u.noteLevel_levels key _ _⟩

end Sys2Proof.Machine

/-! ## The seal fabric (R298 to R300) -/

namespace Sys2Proof.Machine

/-! ### A region whose role is bound to a tile of another region

The statement of SEAL_PASS counts the key loads of a pass in the region that seals. The model counts them in the region of the
pass's tile, and nothing in the statement says that a tile bound in a region stands in it. -/

/-- An image whose first role map index, of region 0, bears SEAL. -/
def strayImage : Image :=
  { requireSpare := false, gradeReq := 0, stepLetter := 0, stepDigit := 0, regionMask := 0, roles := [(9, 0)], routes := [],
    micro := [], claims := [], budgets := [], maxLogN := 0, maxLimbs := 0, digest := [] }

/-- The ring of one coefficient and one limb. -/
def strayProfile : Profile :=
  { record := [], digest := [], scheme := 0, logN := 0, limbs := 1, outCoeff := false, t := 3, omega := 0, scaleExp := 0, coeffLog := 0,
    q := [5], psi := [], cdt := [], delta := [] }

/-- One row to be sealed. -/
def strayRow : SealRow := { g := 0, kind := 0, dataRow := 0, coeffs := [0], digest := [], column := 0 }

/-- The Spawn that region 0 seals. -/
def straySpawn : SealSpawn := { run := 1, job := 4, region := 0, last := true, rows := [strayRow], total := 1 }

/-- The entry that it belongs to, and its SEAL job. -/
def strayRun : Run := { queue := 1, label := 3, gen := 0, count := 1 }
def strayJob : Job :=
  { run := 1, stage := 9, tag := 0, snap := { stage := 9, tag := 0, words := [], descs := [] }, first := 0, count := 1 }

/-- The public key of its matter. -/
def strayKey : PubKey := { gen := 0, pk0 := [[1]], pk1 := [[2]], cells := [] }

/-- Region 0 seals; index 0 of its role map is bound to tile 0x90, of region 1. -/
def stray : State :=
  { regions := [(0, { test := .passed })], tiles := [(0x90, { state := .bound, role := 9 })],
    sil := { active := some strayImage, bind := [(0, 0x90)] }, cus := { labels := [(3, { state := .opened })] },
    profiles := [(0, strayProfile)], keyCache := [(3, strayKey)], seals := [(0, straySpawn)], runs := [(1, strayRun)],
    jobs := [(4, strayJob)] }

/-- The pass loads its limb pair of the public key, and region 0 counts no load. -/
theorem stray_counts_elsewhere (mark : Nat → State → State) :
    ((((stray.tickTo 0).sealPass 0 [] mark)).region 0).sealKeyload = {} := by
  rfl

/-- Refutes O56: in `stray` a pass of region 0 works on a tile of region 1, so the load of its limb pair counts in region 1. -/
theorem not_sealCommands : ¬ Obligations.SealCommands := by
  unfold Obligations.SealCommands
  rintro ⟨passes, -⟩
  have acts : stray.actsAt 0 (stray.tickTo 0) := ⟨rfl, rfl⟩
  have row := passes stray (stray.tickTo 0) 0 0 0x90 0 straySpawn strayRun strayJob strayProfile strayKey [] true acts rfl rfl rfl rfl rfl
    rfl rfl rfl (by decide)
  obtain ⟨clean, -⟩ := row (by decide) rfl rfl
  obtain ⟨w, y, runs, -, -, -, -, -, -, -, -, -, counts, -⟩ := clean (by simp)
  have steps : exec (.sealPass 0 ⟨0, [], true⟩) stray =
      .next ((stray.tickTo 0).sealPass 0 [] fun id s => s.markTile id 2 true).stallClock.intPoll :=
    actStalls_of_acts acts fun s => s.sealPass 0 [] fun id s => s.markTile id 2 true
  have ends (v : State) : v.stallClock.intPoll.regions = v.regions := v.stallClock.intPoll_regions
  have regions : w.regions = ((stray.tickTo 0).sealPass 0 [] fun id s => s.markTile id 2 true).regions := by
    rw [← ends w, ← ends (State.sealPass _ _ _ _), Host.Outcome.next.inj (runs.symm.trans steps)]
  have elsewhere := stray_counts_elsewhere fun id s => s.markTile id 2 true
  rw [State.region, ← regions] at elsewhere
  exact absurd (elsewhere.symm.trans (counts rfl)) (by decide)

end Sys2Proof.Machine

/-! ## Live channels (R230 to R234, R239) -/

namespace Sys2Proof.Machine

section
variable {u : State} {j k : Nat} {x : Job}

/-! ### Table entries read again -/

theorem Tab.find_of_mem {α : Type} {t : Tab α} (sorted : Tab.sorted t = true) {k : Nat} {v : α} (mem : (k, v) ∈ t) :
    Tab.find t k = some v := by
  induction t with
  | nil => cases mem
  | cons p t ih =>
    obtain ⟨above, rest⟩ := (Tab.sorted_cons p t).mp sorted
    rcases List.mem_cons.mp mem with rfl | mem
    · simp [Tab.find]
    · have other : p.1 ≠ k := Nat.ne_of_lt (above _ mem)
      unfold Tab.find
      rw [if_neg other, ih rest mem]

theorem Tab.nodup_of_sorted {α : Type} {t : Tab α} (sorted : Tab.sorted t = true) : (t.map Prod.fst).Nodup := by
  induction t with
  | nil => exact List.nodup_nil
  | cons p t ih =>
    obtain ⟨above, rest⟩ := (Tab.sorted_cons p t).mp sorted
    refine List.nodup_cons.mpr ⟨fun mem => ?_, ih rest⟩
    obtain ⟨q, there, same⟩ := List.mem_map.mp mem
    exact Nat.ne_of_lt (above q there) same.symm

/-- A job whose table entries are read again. -/
def Job.reread (x : Job) (mem : HostMem) : Job := { x with host := mem ++ x.host }

theorem State.reread_of_find (found : Tab.find u.jobs j = some x) (mem : HostMem) :
    u.reread j mem = { u with jobs := Tab.put u.jobs j (x.reread mem) } := State.modJob_of_find found _

theorem State.find_reread (u : State) (i : Nat) (mem : HostMem) :
    Tab.find (u.reread i mem).jobs j = (Tab.find u.jobs j).map fun x => if i = j then x.reread mem else x := by
  cases there : Tab.find u.jobs i with
  | none =>
    have nothing : u.reread i mem = u := by unfold State.reread State.modJob; rw [there]
    rw [nothing]
    by_cases same : i = j
    · rw [← same, there]; rfl
    · simp [same]
  | some y =>
    rw [State.reread_of_find there]
    by_cases same : i = j
    · subst same; simp [there]
    · simp [Tab.find_put_other _ _ _ _ (Ne.symm same), same]

theorem State.find_rereads (mem : HostMem) : ∀ (l : List Nat) (u : State), l.Nodup →
    Tab.find (l.foldl (fun s j => s.reread j mem) u).jobs j = (Tab.find u.jobs j).map fun x => if j ∈ l then x.reread mem else x
  | [], u, _ => by simp
  | i :: l, u, nodup => by
    obtain ⟨fresh, rest⟩ := List.nodup_cons.mp nodup
    rw [List.foldl_cons, State.find_rereads mem l _ rest, State.find_reread, Option.map_map]
    congr 1
    funext y
    by_cases same : i = j
    · subst same; simp [fresh]
    · simp [same, Ne.symm same]

theorem State.frameTick_between {c p : Nat} (period : u.clockPeriod c = some p) (between : p = 0 ∨ u.now % p ≠ 0) (mem : HostMem) :
    u.frameTick c mem = u := by
  unfold State.frameTick
  rw [period]
  exact if_pos between

theorem State.frameTick_rereads {c p : Nat} (period : u.clockPeriod c = some p) (claimed : p ≠ 0) (due : u.now % p = 0)
    (sorted : Tab.sorted u.jobs = true) (found : Tab.find u.jobs j = some x) (mem : HostMem) :
    Tab.find (u.frameTick c mem).jobs j = some (if x.clock = some c ∧ (u.liveRun x).isSome = true then x.reread mem else x) := by
  obtain ⟨l, live⟩ : ∃ l, l = (u.jobs.filter fun j => j.2.clock == some c && (u.liveRun j.2).isSome).map Prod.fst := ⟨_, rfl⟩
  have eq : u.frameTick c mem = l.foldl (fun s j => s.reread j mem) u := by
    unfold State.frameTick
    rw [period, live]
    exact if_neg (by simp [claimed, due])
  have nodup : l.Nodup := live ▸ (Tab.nodup_of_sorted sorted).sublist (List.filter_sublist.map _)
  have listed : j ∈ l ↔ x.clock = some c ∧ (u.liveRun x).isSome = true := by
    rw [live, List.mem_map]
    constructor
    · rintro ⟨⟨i, y⟩, mem, rfl⟩
      obtain ⟨there, lives⟩ := List.mem_filter.mp mem
      cases (Tab.find_of_mem sorted there).symm.trans found
      simpa using lives
    · exact fun lives => ⟨(j, x), List.mem_filter.mpr ⟨Tab.mem_of_find _ _ _ found, by simpa using lives⟩, rfl⟩
  rw [eq, State.find_rereads mem l u nodup, found]
  simp only [Option.map_some, listed]

/-! ### Windows (R232) -/

theorem State.liveRun_some {r : Run} (live : u.liveRun x = some r) : Tab.find u.runs x.run = some r := by
  unfold State.liveRun at live
  split at live
  · cases live
  case h_2 q entry =>
    split at live
    · exact entry.trans live
    · cases live

/-- The state in which a live picture's window has ended. -/
def State.liveClosed (u : State) (j : Nat) (x : Job) (l : Lane) (v : Live) (ends : Nat) : State :=
  let cut := liveCut (vdecCfg x.snap) x.core.isSome v l.data ends
  let s := { u with jobs := Tab.put u.jobs j { x with live := some (v.close (vdecCfg x.snap) cut x.core.isSome l.data ends) } }
  if cut.isSome then s.addNdc x.run else s

theorem State.liveWindow_eq {r : Run} {l : Lane} {v : Live} {c p : Nat} (found : Tab.find u.jobs j = some x)
    (live : u.liveRun x = some r) (lane : Tab.find x.lanes k = some l) (segment : x.live = some v) (clock : x.clock = some c)
    (period : u.clockPeriod c = some p) :
    u.liveWindow j k = if u.now < v.window0 + (v.next + 1) * p then u
      else u.liveClosed j x l v (v.window0 + (v.next + 1) * p) := by
  unfold State.liveWindow State.liveClosed
  simp only [State.job?, found, live, lane, segment, clock, Option.bind_some, period, State.modJob_of_find found]

theorem State.liveClosed_jobs (u : State) (j : Nat) (x : Job) (l : Lane) (v : Live) (ends : Nat) :
    (u.liveClosed j x l v ends).jobs = Tab.put u.jobs j { x with live := some (v.close (vdecCfg x.snap)
      (liveCut (vdecCfg x.snap) x.core.isSome v l.data ends) x.core.isSome l.data ends) } := by
  have counted (w : State) (e : Nat) : Part.jobs.same w (w.addNdc e) := by simp
  unfold State.liveClosed
  dsimp only
  split
  · exact counted _ _
  · rfl

theorem State.liveClosed_counts {r : Run} (entry : Tab.find u.runs x.run = some r) (j : Nat) (l : Lane) (v : Live) (ends : Nat) :
    (u.liveClosed j x l v ends).det.ndcGlobal = (if liveCut (vdecCfg x.snap) x.core.isSome v l.data ends = none then u.det.ndcGlobal
      else satAdd 64 u.det.ndcGlobal 1) ∧
    u.changesOnly (if liveCut (vdecCfg x.snap) x.core.isSome v l.data ends = none then [.jobs] else [.jobs, .runs, .qg, .det])
      (u.liveClosed j x l v ends) := by
  unfold State.liveClosed
  cases liveCut (vdecCfg x.snap) x.core.isSome v l.data ends with
  | none => exact ⟨rfl, only_of_same fun π apart => (same_setJobs apart _).mpr (π.same_refl u)⟩
  | some n =>
    refine ⟨?_, only_of_same fun π apart => ?_⟩
    · exact (State.addNdc_of_find (s := { u with jobs := Tab.put u.jobs j _ }) entry).2.1
    · exact (same_addNdc (by simp_all) _).mpr ((same_setJobs (by simp_all) _).mpr (π.same_refl u))

theorem foldl_max_le {l : List (Nat × Nat)} {n b : Nat} (start : n ≤ b) (below : ∀ q ∈ l, q.2 ≤ b) :
    l.foldl (fun n q => max n q.2) n ≤ b :=
  List.foldlRecOn (motive := (· ≤ b)) l _ start fun _ ih q mem => Nat.max_le.mpr ⟨ih, below q mem⟩

theorem le_foldl_max (l : List (Nat × Nat)) : ∀ n : Nat,
    n ≤ l.foldl (fun n q => max n q.2) n ∧ ∀ q ∈ l, q.2 ≤ l.foldl (fun n q => max n q.2) n := by
  induction l with
  | nil => exact fun n => ⟨Nat.le_refl n, fun q mem => absurd mem List.not_mem_nil⟩
  | cons p l ih =>
    intro n
    obtain ⟨start, rest⟩ := ih (max n p.2)
    refine ⟨Nat.le_trans (Nat.le_max_left _ _) start, fun q mem => ?_⟩
    rcases List.mem_cons.mp mem with rfl | mem
    · exact Nat.le_trans (Nat.le_max_right _ _) start
    · exact rest q mem

/-- R232: a read in the tick at which a window ends belongs to the next one. -/
theorem Live.le_readBy (v : Live) (t : Nat) : ∀ q ∈ v.reads, q.1 < t → q.2 ≤ v.readBy t := fun q mem before =>
  (le_foldl_max _ 0).2 q (List.mem_filter.mpr ⟨mem, by simpa using before⟩)

theorem Live.readBy_mem (v : Live) (t : Nat) : v.readBy t = 0 ∨ ∃ q ∈ v.reads, q.1 < t ∧ q.2 = v.readBy t := by
  refine List.foldlRecOn (motive := fun n => n = 0 ∨ ∃ q ∈ v.reads, q.1 < t ∧ q.2 = n) _ _ (.inl rfl) fun n ih q mem => ?_
  obtain ⟨there, before⟩ := List.mem_filter.mp mem
  rcases Nat.le_total n q.2 with le | ge
  · exact .inr ⟨q, there, by simpa using before, (Nat.max_eq_right le).symm⟩
  · rw [Nat.max_eq_left ge]; exact ih

theorem liveCut_cored (c : VdecCfg) (v : Live) (data : Bytes) (t : Nat)
    (decodes : v.resync = false ∨ isIrap (vidArgs c 0 v.late) v.next (data.take (v.readBy t)) = true) :
    liveCut c true v data t =
      if pictureRead (vidArgs c 0 v.late) v.next (data.take (v.readBy t)) then none else some (v.readBy t) := by
  unfold liveCut
  exact if_neg (by rcases decodes with h | h <;> simp [h])

theorem liveCut_lost (c : VdecCfg) (v : Live) (data : Bytes) (t : Nat) (lost : v.resync = true)
    (inter : isIrap (vidArgs c 0 v.late) v.next (data.take (v.readBy t)) = false) : liveCut c true v data t = some 0 := by
  unfold liveCut
  exact if_pos (by simp [lost, inter])

/-! ### Cores (R234) -/

/-- A live job that holds core `c`. -/
def Job.held (x : Job) (c : Nat) : Job :=
  { x with core := some c, wantsCore := false, lanes := Tab.mapVals (fun _ l => { l with cores := [c] }) x.lanes }

theorem State.giveCore_of_find (found : Tab.find u.jobs j = some x) (c : Nat) :
    u.giveCore j c = { u with jobs := Tab.put u.jobs j (x.held c) } := State.modJob_of_find found _

theorem State.livePreempt_waits (found : Tab.find u.jobs j = some x) (waits : u.liveRun x = none ∨ x.wantsCore = false) :
    u.livePreempt j = u := by
  unfold State.livePreempt
  simp only [State.job?, found]
  exact if_pos (by rcases waits with h | h <;> simp [h])

theorem State.livePreempt_eq (found : Tab.find u.jobs j = some x) (live : u.liveRun x ≠ none) (wants : x.wantsCore = true) :
    u.livePreempt j = match u.freeCore with
      | some c => u.giveCore j c
      | none => match u.yielding with
        | [] => u
        | p :: _ => match (u.suspend p).freeCore with
          | some c => (u.suspend p).giveCore j c
          | none => u.suspend p := by
  have goes : (!(u.liveRun x).isSome || !x.wantsCore) = false := by simp [Option.isSome_iff_ne_none.mpr live, wants]
  unfold State.livePreempt
  simp only [State.job?, found, goes, Bool.false_eq_true, if_false] <;> rfl

theorem State.suspend_of_find {p : Nat × Nat} {z : Job} {m : Lane} (found : Tab.find u.jobs p.1 = some z)
    (lane : Tab.find z.lanes p.2 = some m) :
    u.suspend p = { u with jobs := Tab.put u.jobs p.1 { z with lanes := Tab.put z.lanes p.2 { m with cores := [] } } } := by
  unfold State.suspend
  rw [State.modJob_of_find found, lane]

theorem State.frameSwitch_of {s : State} (switches : s.basking = true ∨ ∃ r < 8, (s.region r).test = .testing ∨
    (s.region r).state = .leaping ∨ (s.region r).state = .folding) : s.frameSwitch = true := by
  unfold State.frameSwitch
  rcases switches with basks | ⟨r, inside, h⟩
  · rw [basks]; rfl
  · refine Bool.or_eq_true_iff.mpr (.inr (List.any_eq_true.mpr ⟨r, List.mem_range.mpr inside, ?_⟩))
    rcases h with h | h | h <;> simp [h]

theorem State.mem_yielding {s : State} {p : Nat × Nat} (mem : p ∈ s.yielding) :
    ∃ z m, (p.1, z) ∈ s.jobs ∧ (p.2, m) ∈ z.lanes ∧ z.stage = 0x10 ∧ z.clock = none ∧ m.cores ≠ [] ∧
      (s.frameSwitch = true → atFrameEnd (vidArgs (vdecCfg z.snap) 0 []) m.data = true) := by
  obtain ⟨⟨i, z⟩, job, mem⟩ := List.mem_flatMap.mp mem
  obtain ⟨⟨n, m⟩, lane, rfl⟩ := List.mem_map.mp mem
  obtain ⟨lane, stands⟩ := List.mem_filter.mp lane
  simp only [Bool.and_eq_true, beq_iff_eq, Option.isNone_iff_eq_none, Bool.not_eq_true', List.isEmpty_eq_false_iff,
    Bool.or_eq_true] at stands
  obtain ⟨⟨⟨stage, clock⟩, cores⟩, ends⟩ := stands
  exact ⟨z, m, job, lane, stage, clock, cores, fun switches => ends.resolve_left (by simp [switches])⟩

/-! ### Slices (R233) -/

theorem State.sliceOut_eq {r : Run} {l : Lane} {v : Live} (found : Tab.find u.jobs j = some x) (live : u.liveRun x = some r)
    (lane : Tab.find x.lanes k = some l) (segment : x.live = some v) :
    u.sliceOut j k =
      if u.outputStalls r j x k = true ∨ x.core = none ∨ v.resync = true ∨
          pictureBegun (vidArgs (vdecCfg x.snap) 0 v.late) v.leaving l.data = false then u
      else if pictureRead (vidArgs (vdecCfg x.snap) 0 v.late) v.leaving l.data = true then
        { u with jobs := Tab.put u.jobs j { x with live := some { v with
            leaving := v.leaving + 1, slices := 0, frames := liveFrames (vdecCfg x.snap) v.late v.leaving l.data } } }
      else if v.slices + 1 ≤ slicesRead (vidArgs (vdecCfg x.snap) 0 v.late) v.leaving l.data then
        { u with jobs := Tab.put u.jobs j { x with live := some { v with slices := v.slices + 1 } } }
      else u := by
  unfold State.sliceOut
  simp only [State.job?, found, live, lane, segment, State.modJob_of_find found, Bool.or_eq_true, Option.isNone_iff_eq_none,
    Bool.not_eq_true', or_assoc]
  split
  · rfl
  · cases pictureRead (vidArgs (vdecCfg x.snap) 0 v.late) v.leaving l.data <;> simp

end

/-- Settles O57: each row of a live channel is one conditional on its job; which reads, windows and lanes count is stated once. -/
theorem liveCommands : Obligations.LiveCommands := by
  unfold Obligations.LiveCommands
  refine ⟨?_, ?_, ?_, ?_, ?_, ?_, ?_, ?_⟩
  · intro s u t p c mem h period
    have ticks : exec (.frameClockTick t c mem) s = .next (u.frameTick c.toNat mem).intPoll :=
      act_of_acts h fun s => s.frameTick c.toNat mem
    refine ⟨fun between => ?_, fun claimed due sorted => ⟨_, ticks, only_of_same fun π apart => ?_, fun j x found => ?_⟩⟩
    · rw [ticks, State.frameTick_between period between]
    · simp [apart]
    · exact State.frameTick_rereads period claimed due sorted found mem
  · intro s u t c mem h unclaimed
    have nothing : u.frameTick c.toNat mem = u := by unfold State.frameTick; rw [unclaimed]
    have ticks : exec (.frameClockTick t c mem) s = .next (u.frameTick c.toNat mem).intPoll :=
      act_of_acts h fun s => s.frameTick c.toNat mem
    rw [ticks, nothing]
  · intro s u t j k mem x h found
    have reads : exec (.liveTableRead t j k mem) s = .next (u.liveRead j k mem).intPoll := act_of_acts h fun s => s.liveRead j k mem
    rw [reads]
    unfold State.liveRead
    simp only [State.job?, found, State.reread_of_find found, Bool.and_eq_true]
    rfl
  · intro s u t j k c p x r l v h found live lane segment clock period
    have ends : exec (.liveWindowEnd t j k) s = .next (u.liveWindow j k).intPoll := act_of_acts h fun s => s.liveWindow j k
    rw [State.liveWindow_eq found live lane segment clock period] at ends
    refine ⟨fun early => ?_, fun late => ?_⟩
    · rw [ends, if_pos early]
    · rw [if_neg (Nat.not_lt.mpr late)] at ends
      obtain ⟨ndc, only⟩ := State.liveClosed_counts (State.liveRun_some live) j l v (v.window0 + (v.next + 1) * p)
      exact ⟨_, _, ends, u.liveClosed_jobs j x l v _, rfl, rfl, rfl, rfl, rfl, ndc, only⟩
  · exact fun c v data t => ⟨v.le_readBy t, v.readBy_mem t, rfl, liveCut_lost c v data t, liveCut_cored c v data t⟩
  · intro s u t j x h found held
    have takes : exec (.livePreempt t j) s = .next (u.livePreempt j).intPoll := act_of_acts h fun s => s.livePreempt j
    refine ⟨fun waits => ?_, fun live wants => ?_⟩
    · rw [takes, State.livePreempt_waits found waits]
    · rw [State.livePreempt_eq found live wants] at takes
      refine ⟨fun c free => ?_, fun none empty => ?_, ?_⟩
      · rw [free] at takes
        exact takes.trans (congrArg (fun w : State => Host.Outcome.next w.intPoll) (State.giveCore_of_find found c))
      · rw [none, empty] at takes
        exact takes
      · intro p ps z m c none yields other there lane v free
        have still : Tab.find v.jobs j = some x := (Tab.find_put_other _ _ _ _ other.symm).trans found
        rw [none, yields] at takes
        dsimp only at takes
        rw [State.suspend_of_find there lane, show State.freeCore _ = some c from free] at takes
        exact takes.trans (congrArg (fun w : State => Host.Outcome.next w.intPoll) (State.giveCore_of_find still c))
  · intro u p mem
    obtain ⟨z, m, job, lane, stage, clock, cores, ends⟩ := State.mem_yielding mem
    exact ⟨z, m, job, lane, stage, clock, cores, fun switches => ends (State.frameSwitch_of switches)⟩
  · intro s u t j k x r l v h found live lane segment a sent
    have leaves : exec (.liveSliceOut t j k) s = .next (u.sliceOut j k).intPoll := act_of_acts h fun s => s.sliceOut j k
    rw [leaves, State.sliceOut_eq found live lane segment]

end Sys2Proof.Machine
